-- ==== Sys2Proof/Word.lean ====
section
/-! DEFINITION. The word types, and the type of sparse tables (their operations are in `Machine/Tbl.lean`). -/

namespace Sys2Proof

abbrev Byte := BitVec 8
abbrev Word := BitVec 32
abbrev DWord := BitVec 64

/-- A sparse table: (key, value) pairs with keys strictly rising and no entry equal to what an unlisted key
reads as. Every bank of registers, every memory and every list keyed by a number in `State` has this form. -/
abbrev Tbl (α : Type) := List (Nat × α)

end Sys2Proof
end

