-- ==== Sys2Proof/Syntax.lean ====
section
/-! DEFINITION. The commands: one constructor per row of spec/opcode_table.json, and the data they carry. -/

namespace Sys2Proof

/-- The two matrix arrays of a core (R78). -/
inductive Arr where
  | warp | weft
  deriving DecidableEq, Repr

/-- The engines that hold a queue, and the sequencer (R10, R34). -/
inductive Eng where
  | seq | warp | weft | vec | copy | sync
  deriving DecidableEq, Repr

/-- What the hardware did wrong in one execution of an array command: the border reports a mismatch although the
sums are right, or block sums of cells come out changed (R93, R94). The fault-free execution is `⟨false, []⟩`. -/
structure ArrFault where
  /-- the border itself is wrong: it reports a mismatch on a correct result (BRD_FAULT, R332) -/
  borderWrong : Bool
  /-- (row i, column j, k-block b, n, p): n × 2^p is added to the exact block sum of cell (i, j) at k-block b -/
  corrupt : List (Nat × Nat × Nat × Int × Int)
  deriving DecidableEq, Repr

/-- A transport packet: the 48-byte header of R274 field by field, and its data. -/
structure Packet where
  op : Byte
  flags : Byte
  dstChip : BitVec 16
  srcChip : BitVec 16
  srcLcore : Byte
  dstLcore : Byte
  tag : BitVec 16
  jobTag : BitVec 16
  length : BitVec 16
  rsv : BitVec 16
  epoch : DWord
  address : DWord
  poison : DWord
  arg : DWord
  data : List Byte
  deriving DecidableEq, Repr

/-- A received flit: 8-byte header word, 244 payload bytes, stored CRC, whether it overlaps an uncorrectable codeword,
and what its lane's codewords that end with it brought: corrected symbols, codewords with corrected symbols, and
uncorrectable codewords (R258, R263, R265, R287). -/
structure Flit where
  header : DWord
  payload : List Byte
  crc : Word
  fecLost : Bool
  symbols : Nat
  corrected : Nat
  uncorrectable : Nat
  deriving DecidableEq, Repr

/-- The outcome of a PCIe read (R487, R497). -/
inductive PcieRead where
  | ok (bytes : List Byte)
  | poisoned (bytes : List Byte)
  | failed
  deriving DecidableEq, Repr

/-- The shared buffer in which an uncorrectable error struck (R435). -/
inductive SharedBuf where
  | router (cluster : Nat) | clusterHub (cluster : Nat) | dieHub
  deriving DecidableEq, Repr

/-- Five management cores (R18), in the order of unit 0x13's locations. -/
inductive Mc where
  | sec | pwc | fab | sch | hlt
  deriving DecidableEq, Repr

/-- A source of the service protocol (R519). -/
inductive SvcSource where
  | portA | portB | sideband
  deriving DecidableEq, Repr

/-- A service request's header and data (R518). -/
structure SvcReq where
  op : Byte
  target : Byte
  rsv : BitVec 16
  length : Word
  offset : DWord
  data : List Byte
  deriving DecidableEq, Repr

/-- What the parts of a start that no register decides did (R513): the first stage whose hardware failed, if any
(self-tests, flash interface, a management core that did not start, memory initialisation, kernels). -/
structure BootEnv where
  selftestOk : Bool
  /-- the stage at which the flash is unreadable (R537): 2 interface, 3 header, 5 sections, 7 record -/
  flashBad : Option Nat
  /-- the pairwise consistency test of the Alias key passes (R529) -/
  pairwiseOk : Bool
  /-- the LMS journal reads correctly (R523) -/
  journalOk : Bool
  pwcOk : Bool
  hltOk : Bool
  memOk : Bool
  kernelsRun : Bool
  fabOk : Bool
  schOk : Bool
  /-- physical cores, arrays (2 × core + array), channels and lid units that fail the kernels (R384) -/
  badArrays : List Nat
  badCores : List Nat
  badChannels : List Nat
  badLidUnits : List Nat
  deriving DecidableEq, Repr

/-- Parts that the known-answer kernels found failing (R384). -/
structure KakResult where
  badArrays : List Nat
  badCores : List Nat
  badChannels : List Nat
  badLidUnits : List Nat
  deriving DecidableEq, Repr

/-- A slice of a load that its source sends through a relay: its number, the relay's chip, and where in the relay's lid
scratchpad it is staged (R377). -/
structure Via where
  slice : Nat
  chip : Nat
  off : Nat
  deriving DecidableEq, Repr

/-- A slice that a relay stages: its address in the lid scratchpad, its length, and its address on the target (R377). -/
structure Staged where
  off : Nat
  len : Nat
  dst : Nat
  deriving DecidableEq, Repr

/-- What the messages of the spec do not carry to the module that takes a LOAD order (R376, R377). On the target: the
parts that failed the kernels, the creation record, the sizes of the sources' regions matched with its own persistent,
its mirror and its static regions, by rank, the bytes the sources send, the step R, and the source's TS_LS_STATE. On a
source: the target's creation record, where its own pair area does not hold it, the slices that go through relays, and
by lost relay where its slices go instead. On a relay: the slices it stages, and those it stages for a lost relay. -/
structure LoadData where
  kernels : KakResult
  creation : List Byte
  ownSizes : List Nat
  mirrorSizes : List Nat
  staticSizes : List Nat
  bytes : Nat
  stepR : Nat
  lsState : Word
  via : List Via
  spareVia : List (Nat × Via)
  staged : List Staged
  spareStaged : List (Nat × Staged)
  deriving DecidableEq, Repr

/-- A HOLD order as its module takes it: the message, and the creation record of the lost chip, from which a member that
is not its partner records dp_part (R380). -/
structure HoldOrder where
  pkt : Packet
  creation : List Byte
  deriving DecidableEq, Repr

/-- What a cluster's temperature sensors read, in 1/16 °C: its four die sensors, and the hottest of its lid slice's
(R464). -/
structure Readings where
  die0 : Int
  die1 : Int
  die2 : Int
  die3 : Int
  lid : Int
  deriving DecidableEq, Repr

/-- What the module's input meter and its board sensors read: input power in W and current in mA, the blades P1 and P2
in mV (R458, R541), coolant inlet and outlet in 0.1 °C (R540). -/
structure MeterReading where
  watts : Nat
  milliamps : Nat
  blade1 : Nat
  blade2 : Nat
  inlet : Int
  outlet : Int
  deriving DecidableEq, Repr

/-- A port reset: of which port, and whether by PERSTx_L or by a PCIe hot reset (R437). -/
structure PortResetBy where
  port : Nat
  perst : Bool
  deriving DecidableEq, Repr

/-- The component that a part of a PLDM firmware transfer belongs to, and the part's offset (R521). -/
structure FwPart where
  component : Nat
  offset : Nat
  deriving DecidableEq, Repr

/-- How an I3C address is assigned (R551). -/
inductive I3cAssign where
  | setdasa (static addr : Nat) | entdaa (addr : Nat)
  deriving DecidableEq, Repr

/-- Instructions of the test access port (R549). -/
inductive TapInstr where
  | bypass | idcode | samplePreload | extest | extestPulse | extestTrain | other
  deriving DecidableEq, Repr

/-- The commands. `core` is a physical core 0–191, `ctx` a context 0–7, `port` a host port (0 A, 1 B), `link` a link
port 0–39 (R257), `ch` an HBM channel 0–255, `cl` a cluster 0–15. -/
inductive Instr where
  -- host commands (R489), taken from SCH's queue of the context named
  | ctxCreate
  | ctxStart (ctx : Nat)
  | ctxSuspend (ctx : Nat)
  | suspendSaveDone (ctx : Nat)
  | ctxResume (ctx : Nat)
  | ctxDestroy (ctx : Nat)
  | ctxZeroingDone (ctx : Nat)
  | regionMap (ctx : Nat)
  | regionUnmap (ctx : Nat)
  | lidConfig (ctx : Nat)
  | windowReg (ctx : Nat)
  | windowDereg (ctx : Nat)
  | ckpt (ctx : Nat)
  | restore (ctx : Nat)
  | diag (ctx : Nat)
  | replan (ctx : Nat)
  | stakeAdd (ctx : Nat)
  | mapout
  | kakRun
  | resetWarm
  | mbxPost (port : Nat) (hi : Word)
  | commandFetch (port : Nat) (r : PcieRead)
  -- sequencer commands (R37): the slot is read from the core's stream
  | nop (core : Nat)
  | seqEnd (core : Nat)
  | jump (core : Nat)
  | call (core : Nat)
  | ret (core : Nat)
  | loop (core : Nat)
  | endloop (core : Nat)
  | stepDecl (core : Nat)
  | phase (core : Nat)
  | drain (core : Nat)
  | notify (core : Nat)
  | waitRelease (core : Nat) (eng : Eng)
  | slotSignal (core : Nat) (eng : Eng)
  -- arrays (R80)
  | matmul (core : Nat) (arr : Arr) (e1 e2 : ArrFault)
  | borderTiebreak (core : Nat) (arr : Arr) (e3 : ArrFault)
  | epilogue (core : Nat) (arr : Arr)
  | epilogueDrainDone (core : Nat) (arr : Arr)
  | accStore (core : Nat) (arr : Arr)
  | accLoad (core : Nat) (arr : Arr)
  | matmulPair (core : Nat) (warp1 warp2 weft1 weft2 : ArrFault)
  -- vector engine (R108)
  | elem (core : Nat)
  | reduce (core : Nat)
  | update (core : Nat)
  | tableLoad (core : Nat)
  -- copy engine (R155)
  | copy (core : Nat)
  | gather (core : Nat)
  | scatter (core : Nat)
  | scatterAdd (core : Nat)
  | segReduce (core : Nat)
  | route (core : Nat)
  | setop (core : Nat)
  | posGather (core : Nat)
  | xdelta (core : Nat)
  | xapply (core : Nat)
  | hash (core : Nat)
  | ceHazardRelease (core : Nat)
  -- synchronisation unit (R184)
  | set (core : Nat)
  | add (core : Nat)
  | sub (core : Nat)
  | watch (core : Nat)
  | suChangeApply (core : Nat)
  | fenceRelease (chip lcore cls epoch : Nat)
  -- memory events
  | hbmWriteTurn (ch : Nat)
  | scrubRead (ch : Nat)
  | repairRecordWrite
  | relocation (ch : Nat)
  | channelMapoutComplete (ch : Nat)
  | hbmAccessTimeout (ch : Nat)
  | bar2Read (port : Nat) (offset len : Nat)
  | bar2Write (port : Nat) (offset : Nat) (bytes : List Byte)
  -- links
  | portTrain (link : Nat) (lock0 lock1 : Bool)
  | negotiationFlit (link : Nat) (flit : Flit)
  | negotiationTimeout (link : Nat)
  | discoveryTimeout (link : Nat)
  | laneDown (link lane : Nat)
  | laneRetrain (link : Nat) (locks : Bool)
  | flitReceive (link : Nat) (flit : Flit)
  | maintenanceFlitSend (link : Nat)
  | replayTimeout (link : Nat)
  | packetForward (arrival : Option Nat) (pkt : Packet)
  | write (pkt : Packet)
  | readReq (pkt : Packet)
  | readResp (pkt : Packet)
  | writeAck (pkt : Packet)
  | writeAckSend (chip lcore cls epoch : Nat)
  | signal (pkt : Packet)
  | atomicReq (pkt : Packet)
  | atomicResp (pkt : Packet)
  | refuse (pkt : Packet)
  | linkState (link : Nat) (pkt : Packet)
  | tableRebuild (table index : Nat)
  -- step protocol
  | stepComplete (ctx : Nat)
  | stDigest (pkt : Packet)
  | voteSend (ctx : Nat)
  | stVote (pkt : Packet)
  | stDecideCommit (pkt : Packet)
  | stDecideReplay (pkt : Packet)
  | stDecidePause (pkt : Packet)
  | stDecideDiag (pkt : Packet)
  | stDecideDiagDone (pkt : Packet)
  | rollbackRestore (ctx : Nat)
  | stRolled (pkt : Packet)
  | stGoRerun (pkt : Packet)
  | stGoHold (pkt : Packet)
  | stGoDiagRun (pkt : Packet)
  | statsPublishDone (ctx : Nat)
  -- failure detector and recovery
  | heartbeatTick
  | kaTimeout (slot : Nat)
  | fdSuspect (pkt : Packet)
  | fdFence (pkt : Packet)
  | stepTimeout (ctx : Nat)
  | rcProbe (pkt : Packet)
  | rcProbeReply (pkt : Packet)
  | probeTimeout (ctx child : Nat)
  | rcFenceReq (pkt : Packet)
  | rcStatus (pkt : Packet)
  | rcOrderRollback (pkt : Packet)
  | rcOrderAdopt (pkt : Packet)
  | rcOrderRebuild (pkt : Packet) (creation : List Byte)
  | rcOrderLoad (pkt : Packet) (load : LoadData)
  | rcOrderResume (pkt : Packet)
  | rcOrderHold (order : HoldOrder)
  | rcOrderStakeAdd (pkt : Packet)
  | rcReady (pkt : Packet)
  -- checkpoint
  | moverPageCopy (ctx : Nat)
  | ckManifestWrite (ctx : Nat)
  | ckAck (pkt : Packet)
  | ckPoolTimeout (ctx : Nat)
  -- errors, hangs, resets
  | monitorSample (mon : Nat) (sample : Int)
  | elWdWait (core : Nat) (eng : Eng)
  | elWdExec (core : Nat) (eng : Eng)
  | elNetHang (cl : Nat)
  | linkCoreHang (link : Nat)
  | elSharedUe (buf : SharedBuf) (recent : List Nat)
  | fatalReport (code : Word)
  | mcCrash (mc : Mc) (imageUe : Bool)
  | powerLoss
  | powerOn (railsOk : Bool)
  -- RESET_L has been low for so long; whether a pulse of 1–10 ms resets; whether it has gone high again (R548)
  | resetL (lowMicros : Nat) (causes released : Bool)
  | bootStart (env : BootEnv)
  | bootBackoffExpiry
  | portReset (port : PortResetBy)
  | hostBeatTimeout (port : Nat)
  | hostLinkDown (port : Nat)
  | irqHoldoffExpiry (port vec : Nat)
  -- BAR0 writes with a row of their own
  | hxVersionWrite (port : Nat) (v : Word)
  | hxCplConsWrite (port : Nat) (v : Word)
  | hxHostBeatWrite (port : Nat) (v : Word)
  | msLatSelWrite (port : Nat) (v : Word)
  | msHbmCfgWrite (port : Nat) (v : Word)
  | elMonCfgWrite (port mon : Nat) (v : Word)
  | elLogClear (port : Nat)
  | tpOvrWrite (port g : Nat) (v : Word)
  | lkPortDisable (port link : Nat) (bit : Bool)
  | lane0Release (port link : Nat)
  | lane1Release (port link : Nat)
  | pwCapWrite (port : Nat) (v : Word)
  | standbyEnter (port : Nat)
  | standbyExit (port : Nat)
  -- BAR0 reads that latch
  | suTimeLoRead (port : Nat)
  | msGranLoRead (port : Nat)
  | tpTblLoRead (port : Nat)
  | elLogData0Read (port : Nat)
  | elClassCntLoRead (port : Nat)
  | pwCtxEnergyLoRead (port ctx : Nat)
  | pwIdleEnergyLoRead (port : Nat)
  | registerWrite (port offset : Nat) (v : Word)
  -- power and thermal
  | phaseReceived (core : Nat) (phaseId : Byte)
  | controlPeriod
  | operatingPointChange (cl : Nat)
  | meterSample (r : MeterReading)
  | excursionGateExpiry
  | droopDetect (cl : Nat)
  | droopEnd (cl : Nat)
  | throttleTick (cl : Nat) (temp : Readings)
  | pwThermTrip (cl : Nat)
  | pwHbmHot (stack : Nat) (temp : Int)
  -- service protocol, updates
  | svcStatus (src : SvcSource) (req : SvcReq)
  | svcWrite (src : SvcSource) (req : SvcReq)
  | svcCommit (src : SvcSource) (req : SvcReq)
  | svcAbort (src : SvcSource) (req : SvcReq)
  | svcProvision (src : SvcSource) (req : SvcReq)
  | svcLifecycle (src : SvcSource) (req : SvcReq)
  | stagingOwnerTimeout
  | flashWriteDone
  | activateFirmware
  -- SPDM (R524), on the DOE mailbox of a port
  | getVersion (port : Nat)
  | getCapabilities (port : Nat)
  | negotiateAlgorithms (port : Nat)
  | getDigests (port : Nat)
  | getCertificate (port slot offset len : Nat)
  | challenge (port slot : Nat) (nonce : List Byte)
  | getMeasurements (port index : Nat) (signed : Bool) (nonce : List Byte)
  -- sideband
  | setEndpointId (eid : Byte)
  | i3cAddressAssign (a : I3cAssign)
  | setEventReceiver (eid : Byte)
  | pldmCapEffecter (watts : Nat)
  | pldmStandbyEffecter (v : Nat)
  | pldmResetEffecter (v : Nat)
  | tapInstruction (i : TapInstr)
  -- module hardware
  | mhLeak
  | mhCoolantHot
  | mhFlowLow
  | mhInputLow (blade : Nat)
  | mhInputHigh (blade : Nat)
  | mhCableRemoved (conn : Nat)
  | mhRefclkLost (port : Nat)
  | mhOscFault
  | pwRegFault (loc : Nat)
  | pcieReadCompletion (core : Nat) (r : PcieRead)
  | pldmFirmwareUpdate (part : FwPart) (data : List Byte)
  | perstDeassert (port : Nat)
  | leakSensorDry
  | keptCodeCopy
  | undoDeltaConvert (ctx : Nat)
  | warmResetDone
  | mcRestartDone (mc : Mc)
  | knownAnswerKernelsDone (r : KakResult)
  deriving DecidableEq, Repr

end Sys2Proof
end

