-- ==== Sys2Proof/Machine/Bits.lean ====
section
/-! DEFINITION. Bit fields, little-endian byte order (R4) and saturating counters. -/

namespace Sys2Proof

/-- Bits [lo + n − 1 : lo] of a natural number. -/
def bits (x lo n : Nat) : Nat := x / 2 ^ lo % 2 ^ n

/-- Bit `i`. -/
def bitAt (x i : Nat) : Bool := x / 2 ^ i % 2 = 1

/-- Field of a 32-bit word. -/
def fld (w : Word) (lo n : Nat) : Nat := bits w.toNat lo n

/-- Flag of a 32-bit word. -/
def flag (w : Word) (i : Nat) : Bool := bitAt w.toNat i

/-- The word with field [lo + n − 1 : lo] replaced. -/
def setFld (w : Word) (lo n v : Nat) : Word :=
  BitVec.ofNat 32 (w.toNat - bits w.toNat lo n * 2 ^ lo + v % 2 ^ n * 2 ^ lo)

/-- A field placed in a word. -/
def at32 (lo v : Nat) : Word := BitVec.ofNat 32 (v * 2 ^ lo)

/-- 1 for true. -/
def b2n (b : Bool) : Nat := if b then 1 else 0

/-- The bytes of `x`, least significant first (R4). -/
def leBytes : Nat → Nat → List Byte
  | 0, _ => []
  | n + 1, x => BitVec.ofNat 8 x :: leBytes n (x / 256)

/-- The number the bytes spell, least significant first (R4). -/
def ofLe : List Byte → Nat
  | [] => 0
  | b :: r => b.toNat + 256 * ofLe r

/-- The number the bytes spell, most significant first. -/
def ofBe (l : List Byte) : Nat := ofLe l.reverse

/-- Bytes of `x`, most significant first. -/
def beBytes (n x : Nat) : List Byte := (leBytes n x).reverse

/-- `n` bytes at an offset, zero past the end. -/
def slice (l : List Byte) (off n : Nat) : List Byte :=
  let r := (l.drop off).take n
  r ++ List.replicate (n - r.length) 0

/-- The little-endian field of `n` bytes at an offset of a byte string. -/
def fieldAt (l : List Byte) (off n : Nat) : Nat := ofLe (slice l off n)

/-- `l` with `bs` written at offset `off`. -/
def patch (l : List Byte) (off : Nat) (bs : List Byte) : List Byte :=
  slice l 0 off ++ bs ++ l.drop (off + bs.length)

def zeros (n : Nat) : List Byte := List.replicate n 0

/-- All bytes zero. -/
def allZero (l : List Byte) : Bool := l.all (· == 0)

/-- ⌈a / b⌉. -/
def ceilDiv (a b : Nat) : Nat := (a + b - 1) / b

/-- a rounded up to a multiple of b. -/
def roundUp (a b : Nat) : Nat := ceilDiv a b * b

/-- Addition that stops at the largest value of `n` bits. -/
def satAdd (n a b : Nat) : Nat := min (a + b) (2 ^ n - 1)

/-- A 32-bit counter increased, saturating. -/
def satInc (w : Word) (n : Nat := 1) : Word := BitVec.ofNat 32 (satAdd 32 w.toNat n)

/-- The signed value of the low `n` bits. -/
def signed (n x : Nat) : Int :=
  let y := x % 2 ^ n
  if 2 * y ≥ 2 ^ n then (y : Int) - 2 ^ n else y

/-- Two's complement of `n` bits. -/
def unsigned (n : Nat) (x : Int) : Nat := (x % (2 ^ n : Int)).toNat

/-- Population count of the low `n` bits. -/
def popcount (n x : Nat) : Nat := ((List.range n).filter fun i => bitAt x i).length

/-- The set bits among the low `n`, ascending. -/
def bitList (n x : Nat) : List Nat := (List.range n).filter fun i => bitAt x i

/-- The mask with the listed bits set. -/
def maskOf (l : List Nat) : Nat := l.foldl (fun a i => if bitAt a i then a else a + 2 ^ i) 0

/-- XOR of byte strings of equal length. -/
def xorBytes (a b : List Byte) : List Byte := List.zipWith (fun x y => x ^^^ y) a b

/-- Intervals [a, a + n) and [b, b + m) meet. -/
def overlaps (a n b m : Nat) : Bool := decide (0 < n) && decide (0 < m) && decide (a < b + m) && decide (b < a + n)

/-- `base` is a multiple of `n`. -/
def aligned (base n : Nat) : Bool := base % n == 0

end Sys2Proof
end

