-- ==== Sys2Proof/Machine/Num.lean ====
section
/-! DEFINITION. Number formats and conversion (R48–R76): exact values, encodings, rounding, scales, and the generator
of stochastic rounding. -/

namespace Sys2Proof

/-- An exact value: NaN, ±∞, or (−1)^neg × m × 2^e (a zero keeps its sign). -/
inductive Num where
  | nan
  | inf (neg : Bool)
  | fin (neg : Bool) (m : Nat) (e : Int)
  deriving DecidableEq, Repr

namespace Num

def zero : Num := .fin false 0 0

/-- The integer m × 2^e scaled to the exponent `e0 ≤ e`. -/
def scaled (neg : Bool) (m : Nat) (e e0 : Int) : Int :=
  let v : Int := (m * 2 ^ (e - e0).toNat : Nat)
  if neg then -v else v

def ofInt (v : Int) (e : Int) : Num := .fin (decide (v < 0)) v.natAbs e

def neg : Num → Num
  | .nan => .nan
  | .inf s => .inf (!s)
  | .fin s m e => .fin (!s) m e

def isNan : Num → Bool
  | .nan => true
  | _ => false

def isFinite : Num → Bool
  | .fin _ _ _ => true
  | _ => false

def isZero : Num → Bool
  | .fin _ 0 _ => true
  | _ => false

/-- Exact sum under IEEE 754 rules: a zero sum is +0 unless both terms are −0 (R86). -/
def add : Num → Num → Num
  | .nan, _ => .nan
  | _, .nan => .nan
  | .inf a, .inf b => if a = b then .inf a else .nan
  | .inf a, .fin _ _ _ => .inf a
  | .fin _ _ _, .inf b => .inf b
  | .fin s m e, .fin s' m' e' =>
    let e0 := min e e'
    let v := scaled s m e e0 + scaled s' m' e' e0
    if v = 0 then .fin (s && s') 0 0 else ofInt v e0

def sub (a b : Num) : Num := add a b.neg

/-- Exact product (R85): ∞ × 0 is NaN. -/
def mul : Num → Num → Num
  | .nan, _ => .nan
  | _, .nan => .nan
  | .inf a, .inf b => .inf (a != b)
  | .inf a, .fin s m _ => if m = 0 then .nan else .inf (a != s)
  | .fin s m _, .inf b => if m = 0 then .nan else .inf (s != b)
  | .fin s m e, .fin s' m' e' => .fin (s != s') (m * m') (e + e')

/-- Quotient carried to 64 bits beyond the divisor with a sticky bit, enough for one correct rounding. -/
def div : Num → Num → Num
  | .nan, _ => .nan
  | _, .nan => .nan
  | .inf _, .inf _ => .nan
  | .inf a, .fin s _ _ => .inf (a != s)
  | .fin s _ _, .inf b => .fin (s != b) 0 0
  | .fin s m e, .fin s' m' e' =>
    if m' = 0 then (if m = 0 then .nan else .inf (s != s'))
    else
      let k := 64 + m'.log2
      let q := m * 2 ^ k / m'
      let r := m * 2 ^ k % m'
      .fin (s != s') (2 * q + b2n (r != 0)) (e - e' - k - 1)

/-- ⌊√n⌋ for n < 4^(b+1). -/
def isqrtAux (n : Nat) : Nat → Nat → Nat
  | 0, r => if (r + 1) * (r + 1) ≤ n then r + 1 else r
  | b + 1, r =>
    let t := r + 2 ^ (b + 1)
    isqrtAux n b (if t * t ≤ n then t else r)

def isqrt (n : Nat) : Nat := isqrtAux n (n.log2 / 2 + 1) 0

/-- √a with a sticky bit; −0 gives −0, a < 0 gives NaN (R112). -/
def sqrt : Num → Num
  | .nan => .nan
  | .inf s => if s then .nan else .inf false
  | .fin s m e =>
    if m = 0 then .fin s 0 0
    else if s then .nan
    else
      let k : Nat := 128 + (e % 2).toNat
      let n := m * 2 ^ k
      let r := isqrt n
      .fin false (2 * r + b2n (r * r != n)) ((e - k) / 2 - 1)

/-- 1 / √a with a sticky bit (R112). -/
def rsqrt : Num → Num
  | .nan => .nan
  | .inf s => if s then .nan else .fin false 0 0
  | .fin s m e =>
    if m = 0 then .inf s
    else if s then .nan
    else
      let k : Nat := 2 * (m.log2 + 64) + (e % 2).toNat
      let n := 2 ^ k / m
      let r := isqrt n
      .fin false (2 * r + b2n (r * r * m != 2 ^ k)) (-(e + k) / 2 - 1)

/-- a < b for values that are not NaN, with −0 equal to +0. -/
def lt : Num → Num → Bool
  | .nan, _ => false
  | _, .nan => false
  | .inf a, .inf b => a && !b
  | .inf a, .fin _ _ _ => a
  | .fin _ _ _, .inf b => !b
  | .fin s m e, .fin s' m' e' =>
    let e0 := min e e'
    decide (scaled s m e e0 < scaled s' m' e' e0)

/-- Sign of a value, for the order of zeros. -/
def isNeg : Num → Bool
  | .nan => false
  | .inf s => s
  | .fin s _ _ => s

/-- a < b with −0 below +0 (R112, R134). -/
def ltz (a b : Num) : Bool := lt a b || (a.isZero && b.isZero && a.isNeg && !b.isNeg)

/-- IEEE 754-2019 minimum and maximum (R112). -/
def minimum (a b : Num) : Num := if a.isNan || b.isNan then .nan else if ltz b a then b else a
def maximum (a b : Num) : Num := if a.isNan || b.isNan then .nan else if ltz a b then b else a

def abs : Num → Num
  | .nan => .nan
  | .inf _ => .inf false
  | .fin _ m e => .fin false m e

/-- ⌊a⌋ of a finite value. -/
def floor : Num → Int
  | .fin s m e =>
    let v : Int := if s then -(m : Int) else m
    if 0 ≤ e then v * 2 ^ e.toNat else v / 2 ^ (-e).toNat
  | _ => 0

def ofNat (n : Nat) : Num := .fin false n 0

end Num

/-! ### Formats (R48, R81) -/

/-- How a format uses its largest exponent. -/
inductive Special where
  | ieee | f8p | none
  deriving DecidableEq, Repr

structure Fmt where
  eBits : Nat
  mBits : Nat
  bias : Nat
  special : Special
  deriving DecidableEq, Repr

def Fmt.f32 : Fmt := ⟨8, 23, 127, .ieee⟩
def Fmt.f16 : Fmt := ⟨5, 10, 15, .ieee⟩
def Fmt.bf16 : Fmt := ⟨8, 7, 127, .ieee⟩
def Fmt.f8p : Fmt := ⟨4, 3, 7, .f8p⟩
def Fmt.f8r : Fmt := ⟨5, 2, 15, .ieee⟩
def Fmt.f6 : Fmt := ⟨3, 2, 3, .none⟩
def Fmt.f4 : Fmt := ⟨2, 1, 1, .none⟩
def Fmt.a48 : Fmt := ⟨11, 36, 1023, .ieee⟩

/-- The format of a code of R81: t2 (7) is handled apart. -/
def Fmt.ofCode : Nat → Fmt
  | 0 => .f32 | 1 => .f16 | 2 => .bf16 | 3 => .f8p | 4 => .f8r | 5 => .f6 | 6 => .f4 | _ => .a48

/-- Long formats round to nearest even and overflow to ∞ (R63). -/
def isLong (c : Nat) : Bool := c = 0 || c = 1 || c = 2 || c = 8
def isBlockFmt (c : Nat) : Bool := c = 5 || c = 6 || c = 7

/-- Bytes of one stored element of a dense tensor; a48 is held in 8-byte containers (R50, R51). -/
def elemBytes (c : Nat) : Nat :=
  match c with
  | 0 => 4 | 1 => 2 | 2 => 2 | 3 => 1 | 4 => 1 | 8 => 8 | 9 => 4 | _ => 1

/-- Smallest exponent of a normal number. -/
def Fmt.emin (f : Fmt) : Int := 1 - f.bias

/-- The largest finite magnitude as m × 2^e (R48). -/
def Fmt.maxFin (f : Fmt) : Nat × Int :=
  match f.special with
  | .ieee => (2 ^ (f.mBits + 1) - 1, (2 ^ f.eBits - 2 : Int) - f.bias - f.mBits)
  | .f8p => (2 ^ (f.mBits + 1) - 2, (2 ^ f.eBits - 1 : Int) - f.bias - f.mBits)
  | .none => (2 ^ (f.mBits + 1) - 1, (2 ^ f.eBits - 1 : Int) - f.bias - f.mBits)

/-- The value of a code (R48); every NaN encoding reads as NaN (R49). -/
def Fmt.decode (f : Fmt) (code : Nat) : Num :=
  let m := bits code 0 f.mBits
  let e := bits code f.mBits f.eBits
  let s := bitAt code (f.mBits + f.eBits)
  let top := 2 ^ f.eBits - 1
  if f.special = .ieee ∧ e = top then (if m = 0 then .inf s else .nan)
  else if f.special = .f8p ∧ e = top ∧ m = 2 ^ f.mBits - 1 then .nan
  else if e = 0 then .fin s m (f.emin - f.mBits)
  else .fin s (2 ^ f.mBits + m) ((e : Int) - f.bias - f.mBits)

/-- The canonical NaN (R49). -/
def Fmt.nanCode (f : Fmt) : Nat :=
  match f.special with
  | .ieee => if f = Fmt.f8r then 0x7F else (2 ^ f.eBits - 1) * 2 ^ f.mBits + 2 ^ (f.mBits - 1)
  | .f8p => 0x7F
  | .none => 0

/-- The code of the finite value q × 2^qe that lies on the format's grid. -/
def Fmt.pack (f : Fmt) (neg : Bool) (q : Nat) (qe : Int) : Nat :=
  let s := b2n neg * 2 ^ (f.mBits + f.eBits)
  if q = 0 then s
  else
    let L := q.log2
    let e := (L : Int) + qe
    if e < f.emin then s + (if qe ≥ f.emin - f.mBits then q * 2 ^ (qe - (f.emin - f.mBits)).toNat
                            else q / 2 ^ ((f.emin - f.mBits) - qe).toNat)
    else
      let frac := if L ≤ f.mBits then q * 2 ^ (f.mBits - L) else q / 2 ^ (L - f.mBits)
      s + (e + f.bias).toNat * 2 ^ f.mBits + (frac - 2 ^ f.mBits)

def Fmt.infCode (f : Fmt) (neg : Bool) : Nat := b2n neg * 2 ^ (f.mBits + f.eBits) + (2 ^ f.eBits - 1) * 2 ^ f.mBits

def Fmt.maxCode (f : Fmt) (neg : Bool) : Nat := f.pack neg f.maxFin.1 f.maxFin.2

/-- How a conversion rounds: nearest even, or stochastically with a 16-bit random value (R64, R66). -/
inductive Round where
  | rne
  | stoch (z : Nat)
  deriving DecidableEq, Repr

/-- m × 2^e rounded to a multiple of 2^qe. -/
def roundTo (m : Nat) (e qe : Int) (r : Round) : Nat :=
  if qe ≤ e then m * 2 ^ (e - qe).toNat
  else
    let s := (qe - e).toNat
    let q := m / 2 ^ s
    let rem := m % 2 ^ s
    match r with
    | .rne => if 2 * rem > 2 ^ s ∨ (2 * rem = 2 ^ s ∧ q % 2 = 1) then q + 1 else q
    | .stoch z => if z < rem * 2 ^ 16 / 2 ^ s then q + 1 else q

/-- The exponent of the last place of the format at magnitude m × 2^e, m ≠ 0. -/
def Fmt.ulpExp (f : Fmt) (m : Nat) (e : Int) : Int := max ((m.log2 : Int) + e) f.emin - f.mBits

/-- A converted element and what the conversion did (R63). -/
structure Conv where
  code : Nat
  /-- a NaN was written -/
  invalid : Bool
  /-- a finite value became ±∞ -/
  overflow : Bool
  /-- written as ± largest finite from ∞ or from beyond range -/
  saturated : Bool
  /-- the value before rounding was NaN or ±∞ (R133 rule 3) -/
  nonfinite : Bool
  deriving DecidableEq, Repr

/-- |m × 2^e| exceeds the largest finite value. -/
def Fmt.beyond (f : Fmt) (m : Nat) (e : Int) : Bool := Num.lt (.fin false f.maxFin.1 f.maxFin.2) (.fin false m e)

/-- Conversion into a format of codes 0–6 or 8 (R63); `r` is not used for a long format. -/
def convertFmt (f : Fmt) (long : Bool) (r : Round) : Num → Conv
  | .nan => if f.special = .none then ⟨0, false, false, false, true⟩ else ⟨f.nanCode, true, false, false, true⟩
  | .inf s =>
    if long || f = Fmt.f8r then ⟨f.infCode s, false, false, false, true⟩
    else ⟨f.maxCode s, false, false, true, true⟩
  | .fin s m e =>
    if m = 0 then ⟨f.pack s 0 0, false, false, false, false⟩
    else
      let qe := f.ulpExp m e
      if long then
        let q := roundTo m e qe .rne
        if f.beyond q qe then ⟨f.infCode s, false, true, false, false⟩
        else ⟨f.pack s q qe, false, false, false, false⟩
      else if f.beyond m e then ⟨f.maxCode s, false, false, true, false⟩
      else ⟨f.pack s (roundTo m e qe r) qe, false, false, false, false⟩

/-- Conversion into t2 (R48, R52, R64, R66): a tie at 0.5 goes to 0, zero of either sign is 0b00. -/
def convertT2 (r : Round) : Num → Conv
  | .nan => ⟨0, false, false, false, true⟩
  | .inf s => ⟨if s then 3 else 1, false, false, true, true⟩
  | .fin s m e =>
    let one := if s then 3 else 1
    if Num.lt (.fin false 1 0) (.fin false m e) then ⟨one, false, false, true, false⟩
    else
      let q := roundTo m e 0 r
      ⟨if q = 0 then 0 else one, false, false, false, false⟩

/-- Conversion into the format of a code of R81. -/
def convert (c : Nat) (r : Round) (x : Num) : Conv :=
  if c = 7 then convertT2 r x else convertFmt (Fmt.ofCode c) (isLong c) r x

/-- The value of a t2 code; 0b10 reads as 0 (R52). -/
def decodeT2 (code : Nat) : Num :=
  match code % 4 with
  | 1 => .fin false 1 0
  | 3 => .fin true 1 0
  | _ => .zero

/-- The value of a stored code of the format of a code of R81 (R50: a container with upper bits set is NaN). -/
def decodeCode (c code : Nat) : Num :=
  if c = 7 then decodeT2 code
  else if c = 8 then (if code / 2 ^ 48 = 0 then Fmt.a48.decode code else .nan)
  else (Fmt.ofCode c).decode code

/-- The code is subnormal in its own format (R69); t2 has no subnormal. -/
def isSubnormal (c code : Nat) : Bool :=
  if c = 7 then false
  else
    let f := Fmt.ofCode c
    bits code f.mBits f.eBits == 0 && bits code 0 f.mBits != 0

/-- The zero that a flushed code becomes (R69). -/
def flushCode (c code : Nat) : Nat :=
  let f := Fmt.ofCode c
  b2n (bitAt code (f.mBits + f.eBits)) * 2 ^ (f.mBits + f.eBits)

/-- One rounding to a48 (R86), with whether a finite value overflowed. -/
def roundA48 (x : Num) : Conv := convertFmt Fmt.a48 true .rne x

/-- One rounding to f32 by nearest even. -/
def round32 (x : Num) : Conv := convertFmt Fmt.f32 true .rne x

def f32 (w : Nat) : Num := Fmt.f32.decode w
def a48 (c : Nat) : Num := Fmt.a48.decode c

/-- A positive normal binary32 value (R55). -/
def isScale (w : Nat) : Bool := decide (0x00800000 ≤ w) && decide (w ≤ 0x7F7FFFFF)

/-! ### Block scales (R53–R56) -/

def scaleF : Nat → Nat
  | 0 => 0x3F800000 | 1 => 0x3F9837F0 | 2 => 0x3FB504F3 | _ => 0x3FD744FD
def scaleG : Nat → Nat
  | 0 => 0x3F800000 | 1 => 0x3F5744FD | 2 => 0x3F3504F3 | _ => 0x3F1837F0

/-- x × 2^k. -/
def Num.shift (x : Num) (k : Int) : Num :=
  match x with
  | .fin s m e => .fin s m (e + k)
  | y => y

/-- S(q) (R53). -/
def blockScale (q : Nat) : Num := (f32 (scaleF (q % 4))).shift (((q / 4 : Nat) : Int) - 32)

/-- E(q) (R53). -/
def blockEnc (q : Nat) : Num := (f32 (scaleG (q % 4))).shift (32 - ((q / 4 : Nat) : Int))

/-- fmax of a block format (R48, R56): 6, 28 or 1. -/
def fmaxOf (c : Nat) : Num := if c = 5 then .fin false 28 0 else if c = 6 then .fin false 6 0 else .fin false 1 0

/-- The largest magnitude among the finite elements. -/
def maxFinite (xs : List Num) : Num :=
  xs.foldl (fun a x => if x.isFinite && Num.lt a x.abs then x.abs else a) .zero

/-- The smallest q from `q` on with m × E(q) ≤ fmax, within `fuel` tries; 255 when none. -/
def autoQFrom (c : Nat) (m : Num) : Nat → Nat → Nat
  | 0, _ => 255
  | fuel + 1, q => if Num.lt (fmaxOf c) (m.mul (blockEnc q)) then autoQFrom c m fuel (q + 1) else q

/-- q of a block in AUTO mode (R56). -/
def autoQ (c : Nat) (xs : List Num) : Nat :=
  let m := maxFinite xs
  if m.isZero then 128 else autoQFrom c m 256 0

/-! ### Stochastic rounding (R66–R68, R76) -/

/-- One round of Philox-4×32-10 with the key of that round (R67). -/
def philoxRound (c : Nat × Nat × Nat × Nat) (k0 k1 : Nat) : Nat × Nat × Nat × Nat :=
  let p0 := 0xD2511F53 * c.1
  let p1 := 0xCD9E8D57 * c.2.2.1
  (((p1 / 2 ^ 32) ^^^ c.2.1) ^^^ k0, p1 % 2 ^ 32, ((p0 / 2 ^ 32) ^^^ c.2.2.2) ^^^ k1, p0 % 2 ^ 32)

/-- `n` rounds from counter `c`, the key raised before every round but the first (R67). -/
def philoxRounds : Nat → Nat × Nat × Nat × Nat → Nat → Nat → Nat × Nat × Nat × Nat
  | 0, c, _, _ => c
  | n + 1, c, k0, k1 =>
    philoxRounds n (philoxRound c k0 k1) ((k0 + 0x9E3779B9) % 2 ^ 32) ((k1 + 0xBB67AE85) % 2 ^ 32)

def philox (c : Nat × Nat × Nat × Nat) (k0 k1 : Nat) : Nat × Nat × Nat × Nat := philoxRounds 10 c k0 k1

/-- Output word 0–3. -/
def philoxWord (o : Nat × Nat × Nat × Nat) : Nat → Nat
  | 0 => o.1 | 1 => o.2.1 | 2 => o.2.2.1 | _ => o.2.2.2

/-- The counter of a group g at step t with a tensor tag (R68). -/
def srCounter (g t tag : Nat) : Nat × Nat × Nat × Nat :=
  (g % 2 ^ 32, bits t 32 16 * 2 ^ 16 + bits g 32 16, t % 2 ^ 32, tag % 2 ^ 32)

/-- The 16-bit random value of an element (R68); in V20-exact mode one word serves one element (R76). -/
def srValue (v20 : Bool) (seed : DWord) (t tag i : Nat) : Nat :=
  let k0 := seed.toNat % 2 ^ 32
  let k1 := seed.toNat / 2 ^ 32
  if v20 then philoxWord (philox (srCounter (i / 4) t tag) k0 k1) (i % 4) / 2 ^ 16
  else
    let o := philoxWord (philox (srCounter (i / 8) t tag) k0 k1) (i % 8 / 2)
    bits o (16 * (i % 2)) 16

end Sys2Proof
end

