-- ==== Sys2Proof/Config.lean ====
section
/-! DEFINITION. What the spec leaves open: constants without a body, so that no proof can see a value of them. -/

namespace Sys2Proof

/-- A fresh value each time, applied to the state's draw counter. -/
opaque Config.free : Nat → Nat

/-- Latency in ns of the n-th read a channel completes (R248; R3 gives no latency). -/
opaque Config.readLatency : Nat → Nat

/-- Chip of a job's child, by job tag and number, of which the module has heard nothing (R334 gives the plan's tree, and
ST_CTX_TREE only the number of children). -/
opaque Config.childChip : Nat → Nat → BitVec 14

/-- Order of the bytes of a SHA-384 chaining state in memory (R175 gives its size only). -/
opaque Config.shaOrder : Equiv.Perm (Fin 208)

/-- Order of the bytes of the sequencer part of a save or step record (R41: a device-internal layout). -/
opaque Config.seqOrder : Equiv.Perm (Fin 512)

/-- Order of the bytes of the engine-queue part of a save record (R41). -/
opaque Config.queueOrder : Equiv.Perm (Fin 2560)

/-- The 4 KiB of epilogue state in a save record (R41 names its contents only). -/
opaque Config.epilogueByte : Nat → Byte

/-- Contents of a core's store, banks and counters after retention standby (R247 keeps none): by draw and place. -/
opaque Config.lostByte : Nat → Nat → Byte
opaque Config.lostMark : Nat → Nat → Bool
opaque Config.lostWord : Nat → Nat → Nat

/-! ### The module as manufactured -/

/-- Flash bytes at shipment (R507: the image, the identity certificates and the LMS tree). -/
opaque Config.factoryByte : Nat → Byte

/-- Hashes of the manufacturer's ECDSA and LMS keys in vendor slots 0 and 1 (R512). -/
opaque Config.vendorHash : Nat → List Byte × List Byte

/-- The fused lifecycle at shipment (R512). -/
opaque Config.factoryLifecycle : BitVec 2

/-- SHA-384 of the boot ROM (R525). -/
opaque Config.romDigest : List Byte

/-- The unique device secret (R512), and the fixed value that replaces it in lifecycle RMA (R522). -/
opaque Config.uds : BitVec 384
opaque Config.rmaUds : BitVec 384

/-- SHA-384 of the DeviceID public key that the secret gives (R522). -/
opaque Config.identity : BitVec 384 → List Byte

/-! ### Cryptography: the standards named by R509, R522 and R524 are not in the spec -/

/-- ECDSA P-384 verification: key, digest, signature. -/
opaque Config.ecdsaOk : List Byte → List Byte → List Byte → Bool

/-- LMS verification: key, message, signature. -/
opaque Config.lmsOk : List Byte → List Byte → List Byte → Bool

/-- The Alias certificate, by secret, image measurement, svn and lifecycle; and a signature of the Alias key. -/
opaque Config.aliasCert : BitVec 384 → List Byte → Nat → Nat → List Byte
opaque Config.aliasSign : BitVec 384 → List Byte → List Byte → List Byte

/-- The 1,140-byte LMS signature of the attestation key, by secret, index q and message. -/
opaque Config.lmsSign : BitVec 384 → Nat → List Byte → List Byte

/-- Whether the sign-then-verify test after the signature with index q passes (R529). -/
opaque Config.lmsTestOk : Nat → Bool

/-- The certificates of the identity area (R522): intermediate, then DeviceID. -/
opaque Config.chainOf : List Byte → List Byte

/-- A LIFECYCLE token's module_id and new value: R519 gives no layout. -/
opaque Config.tokenModule : List Byte → List Byte
opaque Config.tokenValue : List Byte → Nat

/-- IDCODE bits [11:0], which the BSDL file gives (R549). -/
opaque Config.bsdlId : BitVec 12

/-- Shard ids, own and mirror, that a recovery leader takes for a lost chip whose status it never had, where the statuses
of the others leave several assignments open (log 90). -/
opaque Config.shardsOf : Nat → BitVec 32 × BitVec 32

/-! ### Power prediction (R459): profiles and coefficients are learnt or fused per part -/

/-- Predicted input power in mW: draw, nominal tables (R467), gate, and the step of each context. -/
opaque Config.predictedPower : Nat → Bool → Nat → List Nat → Nat

/-- A context's predicted share: draw, context, steps. -/
opaque Config.predictedShare : Nat → Nat → List Nat → Nat

/-! ### The fused trim (R454) and the terms of the energy charges (R468), in µJ of one control period -/

/-- The fused trim of a step, in mV. -/
opaque Config.stepTrim : Nat → Int

/-- A core's activity times its fused coefficients, at 0.80 V: draw, physical core. -/
opaque Config.coreActivity : Nat → Nat → Nat

/-- A core's leakage: physical core, rail voltage in mV. -/
opaque Config.coreLeakage : Nat → Nat → Nat

/-- HBM and lid bytes and link flits of a context times their coefficients: draw, context. -/
opaque Config.trafficEnergy : Nat → Nat → Nat

/-- Regulator loss on an amount of charges: draw, charges. -/
opaque Config.regulatorLoss : Nat → Nat → Nat

/-- All other energy: draw. -/
opaque Config.otherEnergy : Nat → Nat

end Sys2Proof
end

