-- ==== Sys2Proof/Machine/Codes.lean ====
section
/-! DEFINITION. Error codes at location 0 (R7), from the cause tables of the chapters. -/

namespace Sys2Proof

/-- The code at a location (R7). -/
def codeAt (code loc : Nat) : Word := BitVec.ofNat 32 (code + loc % 256 * 4096)

/-- Severity, unit and location of a code (R7). -/
def severityOf (c : Word) : Nat := fld c 28 4
def unitOf (c : Word) : Nat := fld c 20 8
def locOf (c : Word) : Nat := fld c 12 8

/-! R47 -/

def Code.ctxHoldOvf : Nat := 0x30100001
def Code.seqBadOpcode : Nat := 0x30200001
def Code.seqBadField : Nat := 0x30200002
def Code.seqFetchBound : Nat := 0x30200003
def Code.seqFetchPoison : Nat := 0x30200004
def Code.seqNestDepth : Nat := 0x30200005
def Code.seqStreamWrite : Nat := 0x30200006
def Code.seqStepOrder : Nat := 0x30200007
def Code.wldAccess : Nat := 0x30300001

/-! R101 -/

def Code.arBadDesc : Nat := 0x30400001
def Code.arBadPair : Nat := 0x30400002
def Code.arBound : Nat := 0x30400003
def Code.arParity : Nat := 0x30400004
/-- Add 1 for the weft array. -/
def Code.brdMismatch : Nat := 0x10400010

/-! R130 -/

def Code.veBadDesc : Nat := 0x30500001
def Code.veBound : Nat := 0x30500002
def Code.veOrder : Nat := 0x30500003
def Code.veTable : Nat := 0x30500004
def Code.veParity : Nat := 0x30500005

/-! R154 -/

def Code.tsAreaWrite : Nat := 0x30600001
def Code.tsLsMismatch : Nat := 0x20600002
def Code.tsLsFloor : Nat := 0x20600003
def Code.tsNfPause : Nat := 0x20600004
def Code.tsParity : Nat := 0x30600005

/-! R181 -/

def Code.ceBadDesc : Nat := 0x30700001
def Code.ceBound : Nat := 0x30700002
def Code.ceIndex : Nat := 0x30700003
def Code.ceOrder : Nat := 0x30700004
def Code.ceWindow : Nat := 0x30700005
def Code.ceRemote : Nat := 0x30700006
def Code.cePoisonIndex : Nat := 0x30700007
def Code.ceParity : Nat := 0x30700008

/-! R206 -/

def Code.suBadDesc : Nat := 0x30800001
def Code.suUnderflow : Nat := 0x30800002
def Code.suOverflow : Nat := 0x30800003
def Code.suWorld : Nat := 0x30800004
def Code.suWatchFull : Nat := 0x30800005
def Code.suFenceFull : Nat := 0x30800006
def Code.suParity : Nat := 0x30800007

/-! R233 -/

def Code.hbmCe : Nat := 0x10900001
def Code.hbmResend : Nat := 0x10900002
def Code.hbmUe : Nat := 0x20900003
def Code.hbmXferFail : Nat := 0x20900004
def Code.hbmChannelFault : Nat := 0x20900005
def Code.lidCe : Nat := 0x10A00001
def Code.lidUe : Nat := 0x20A00002
def Code.lidTagUe : Nat := 0x30A00003
def Code.csCe : Nat := 0x10B00001
def Code.csUe : Nat := 0x20B00002
def Code.memPoisonStep : Nat := 0x30C00001
def Code.memPoisonCtrl : Nat := 0x30C00002
def Code.memPoisonHost : Nat := 0x30C00003
def Code.memPoisonEnd : Nat := 0x30C00004

/-! R256 -/

def Code.hbmRowRemap : Nat := 0x10900006
def Code.hbmSpareBad : Nat := 0x10900007
def Code.hbmPageRetire : Nat := 0x20900008
def Code.hbmRetireHeld : Nat := 0x20900009
def Code.hbmMapout : Nat := 0x2090000A
def Code.hbmMapoutRefused : Nat := 0x3090000B

/-! R291 -/

def Code.lkCrc : Nat := 0x10D00001
def Code.lkReplayTimer : Nat := 0x10D00002
def Code.lkLaneDown : Nat := 0x20D00003
def Code.lkLaneQuar : Nat := 0x20D00004
def Code.lkPortDown : Nat := 0x20D00005
def Code.lkVersion : Nat := 0x20D00006
def Code.lkProtocol : Nat := 0x20D00007
def Code.lkRemoteRefused : Nat := 0x20D00008
def Code.lkBufUe : Nat := 0x20D00009

/-! R318 -/

def Code.tpNeighborExtra : Nat := 0x10E00001
def Code.tpNeighborMissing : Nat := 0x20E00002
def Code.tpNeighborWrong : Nat := 0x20E00003
def Code.tpTransitDrop : Nat := 0x20E00004
def Code.tpAdoptRefused : Nat := 0x20E00005
def Code.tpParity : Nat := 0x20E00006

/-! R358 -/

def Code.stSkeinWrite : Nat := 0x30F00001
def Code.stSlotPartial : Nat := 0x30F00002
def Code.stRollbackFail : Nat := 0x30F00003
def Code.stCtxGone : Nat := 0x30F00004
def Code.stDigestMismatch : Nat := 0x20F00005
def Code.stReplayLimit : Nat := 0x20F00006
def Code.stDiagDiverge : Nat := 0x20F00007
def Code.stReplay : Nat := 0x10F00008
def Code.stWindowDrop : Nat := 0x10F00009
def Code.stDiagRefused : Nat := 0x20F0000A
def Code.arCoreQuarantine : Nat := 0x30400024
/-- Add 1 for the weft array. -/
def Code.brdFault : Nat := 0x10400020
def Code.arQuarantine : Nat := 0x20400022

/-! R397 -/

def Code.rcFenced : Nat := 0x31000001
def Code.rcStepTimeout : Nat := 0x21000002
def Code.rcNoProgress : Nat := 0x31000003
def Code.rcChildLost : Nat := 0x31000004
def Code.rcSelfFenced : Nat := 0x31000005
def Code.rcFenceIssued : Nat := 0x21000006
def Code.rcNoStake : Nat := 0x21000007
def Code.rcShrink : Nat := 0x21000008
def Code.rcCkptRequired : Nat := 0x21000009
def Code.rcKakFail : Nat := 0x2100000A
def Code.rcLoadFail : Nat := 0x2100000B
def Code.rcAdmitted : Nat := 0x1100000C

/-! R423 -/

def Code.ckPoison : Nat := 0x21100001
def Code.ckPoolRefused : Nat := 0x21100002
def Code.ckPoolTimeout : Nat := 0x21100003
def Code.ckPoolFull : Nat := 0x21100004
def Code.ckPromoted : Nat := 0x11100005
def Code.ckDigestBad : Nat := 0x21100006
def Code.ckRestoreMismatch : Nat := 0x21100007
def Code.ckRestoreGap : Nat := 0x21100008
def Code.ckDone : Nat := 0x11100009
def Code.ckAborted : Nat := 0x2110000A

/-! R452 -/

def Code.elLogOvf : Nat := 0x11200001
def Code.elWdWait : Nat := 0x21200002
def Code.elWdExec : Nat := 0x31200003
def Code.elMonHigh : Nat := 0x11200004
def Code.elMonLow : Nat := 0x11200005
def Code.elSharedUe : Nat := 0x21200006
def Code.elSuspect : Nat := 0x21200007
def Code.elSuspectFault : Nat := 0x31200008
def Code.elNetHang : Nat := 0x41200009
def Code.elResetWarm : Nat := 0x1120000A
def Code.elResetCold : Nat := 0x1120000B

/-! R453 -/

def Code.mcCrash : Nat := 0x11300001
def Code.mcRestartLimit : Nat := 0x41300002
def Code.mcImageUe : Nat := 0x41300003
def Code.mcMailboxDrop : Nat := 0x21300004

/-! R479 -/

def Code.pwCapUnmet : Nat := 0x11400001
def Code.pwThrottle : Nat := 0x11400002
def Code.pwThermTrip : Nat := 0x41400003
def Code.pwExcursion : Nat := 0x11400004
def Code.pwHbmHot : Nat := 0x11400005
def Code.pwStandbyRefused : Nat := 0x11400006
def Code.pwRegFault : Nat := 0x41400007

/-! R506 -/

def Code.hxErrVersion : Nat := 0x11500001
def Code.hxMbxFull : Nat := 0x21500002
def Code.hxHostLost : Nat := 0x21500003
def Code.hxHandover : Nat := 0x11500004
def Code.hxCplFull : Nat := 0x21500005
def Code.hxCmdReadFail : Nat := 0x21500006

/-! R537 -/

def Code.btSelftest : Nat := 0x41600001
def Code.btFlashRead : Nat := 0x41600002
def Code.btImgHeader : Nat := 0x41600003
def Code.btImgKey : Nat := 0x41600004
def Code.btImgEcdsa : Nat := 0x41600005
def Code.btImgLms : Nat := 0x41600006
def Code.btImgRollback : Nat := 0x41600007
def Code.btImgSection : Nat := 0x41600008
def Code.btCfgSig : Nat := 0x41600009
def Code.btCfgField : Nat := 0x4160000A
def Code.btMcStart : Nat := 0x4160000B
def Code.btMemInit : Nat := 0x4160000C
def Code.btUpdRefused : Nat := 0x2160000D
def Code.btUpdDone : Nat := 0x1160000E
def Code.btSvnAdvanced : Nat := 0x1160000F
def Code.btLmsJournal : Nat := 0x11600010
def Code.btLmsLow : Nat := 0x11600011
def Code.btLmsExhausted : Nat := 0x21600012

/-! R557 -/

def Code.mhInputLow : Nat := 0x21700001
def Code.mhInputHigh : Nat := 0x21700002
def Code.mhCoolantHot : Nat := 0x21700003
def Code.mhFlowLow : Nat := 0x21700004
def Code.mhLeak : Nat := 0x41700005
def Code.mhCableRemoved : Nat := 0x11700006
def Code.mhRefclkLost : Nat := 0x21700007
def Code.mhOscFault : Nat := 0x41700008

/-- The severity-4 codes of the cause tables; no other code is fatal (R424–R426). -/
def fatalCodes : List Nat :=
  [Code.elNetHang, Code.mcRestartLimit, Code.mcImageUe, Code.pwThermTrip, Code.pwRegFault, Code.btSelftest, Code.btFlashRead,
   Code.btImgHeader, Code.btImgKey, Code.btImgEcdsa, Code.btImgLms, Code.btImgRollback, Code.btImgSection, Code.btCfgSig,
   Code.btCfgField, Code.btMcStart, Code.btMemInit, Code.mhLeak, Code.mhOscFault]

/-- The word is a fatal code of a cause table, at some location. -/
def isFatal (c : Word) : Bool := fatalCodes.any fun k => codeAt k (locOf c) == c

end Sys2Proof
end

