-- ==== Sys2Proof/Machine/State.lean ====
section
/-! DEFINITION. Everything the spec gives the machine, as plain data, and its value at reset. A table lists only the
entries that differ from the default named in its docstring (`….reset`, or zero). -/

namespace Sys2Proof.Machine

/-- What stops the machine. -/
inductive Fault where
  /-- a command names a core, context, port, link, channel or other unit that the spec does not give the module
  (R8, R10); raised by every meaning's range check; safe: no such command can reach the hardware -/
  | noSuchUnit
  deriving DecidableEq, Repr

/-- A command without a meaning. -/
inductive Refusal where
  /-- raised by an arm of `exec` whose meaning is not written; safe -/
  | notModelled (mnemonic : String)
  deriving DecidableEq, Repr

/-! ### Commands in flight -/

/-- A host command accepted by SCH and waiting its turn (R29, R488). -/
structure HostCmd where
  port : Nat
  opcode : Nat
  ctxId : Nat
  irq : Bool
  tag : DWord
  payload : List Byte
  deriving DecidableEq, Repr

/-- What the warp's and the weft's first and second execution of an array command do wrong (R93, R94). -/
structure Faults where
  warp1 : ArrFault
  warp2 : ArrFault
  weft1 : ArrFault
  weft2 : ArrFault
  deriving DecidableEq, Repr

/-- A dispatched command slot: its 32 bytes, its address, its number on its core and its epoch (R34, R320); and, the
model's own, what its executions will do wrong. -/
structure QCmd where
  slot : List Byte
  addr : Nat
  seqno : Nat
  epoch : Option Nat
  faults : Faults
  deriving DecidableEq, Repr

/-- What a started copy command still waits for (R159, R276, R281). -/
inductive CeWait where
  /-- bytes sent to (chip, order class, epoch key) must be acknowledged up to this count -/
  | acks (chip cls epoch count : Nat)
  /-- read data of a remote chip: requests (tag, local address, length) and answers (tag, bytes, poison) -/
  | remoteRead (chip : Nat) (reqs : List (Nat × Nat × Nat)) (got : List (Nat × List Byte × List Bool))
  /-- read completions from a host window: requests (window offset, length) and completions, in order -/
  | windowRead (reqs : List (Nat × Nat)) (got : List (List Byte × List Bool))
  deriving DecidableEq, Repr

/-- A started copy-engine command (R159, R160): its descriptor, and the byte ranges it reads and writes in spaces 0–2
as (memory, first, length), memory 0 local and p + 1 the store of core p. -/
structure CeCmd where
  cmd : QCmd
  desc : List Byte
  reads : List (Nat × Nat × Nat)
  writes : List (Nat × Nat × Nat)
  wait : CeWait
  deriving DecidableEq, Repr

/-- A change or registration on its way to a synchronisation unit (R189, R191). -/
inductive SuMsg where
  | set (ctr : Nat) (v : Word)
  | add (ctr : Nat) (v : Word)
  | sub (ctr : Nat) (v : Word)
  | watch (kind ctr : Nat) (value : Word) (notifyCore notifyCtr notifyInc : Nat)
  deriving DecidableEq, Repr

/-- A message in a sync hub: target core, sending context, its world, and the change. -/
structure HubMsg where
  target : Nat
  ctx : Nat
  secure : Bool
  /-- core whose queue command completes when this is applied (R184); none for a notify or an rsig -/
  origin : Option Nat
  msg : SuMsg
  /-- the sending context no longer exists (R30, R191) -/
  gone : Bool := false
  /-- the step it belongs to: a rollback drops it with its epoch (R320, R341) -/
  epoch : Option Nat
  deriving DecidableEq, Repr

/-! ### Cores -/

/-- A registered watch (R187, R192): kind 1 WAIT_GE, 2 WAIT_EQ, 3 CLAIM. -/
structure Watch where
  kind : Nat
  ctr : Nat
  value : Word
  notifyLcore : Nat
  notifyCtr : Nat
  notifyInc : Nat
  deriving DecidableEq, Repr

/-- The sequencer (R33, R37, R38, R39). -/
structure Seq where
  /-- a stream is running on this core -/
  running : Bool
  /-- the stream has executed END, or has length 0 -/
  ended : Bool
  base : Nat
  length : Nat
  /-- the stream lies in the core's own store (R33); else its addresses are local -/
  inStore : Bool
  /-- address of the next slot to dispatch -/
  pos : Nat
  calls : List Nat
  loops : List (Nat × Nat)
  lastStep : Option Nat
  lastStepSlot : Nat
  phase : Nat
  /-- commands dispatched so far (R347) -/
  seqno : Nat
  deriving DecidableEq, Repr

def Seq.reset : Seq := ⟨false, false, 0, 0, false, 0, [], [], none, 0, 255, 0⟩

/-- An unresolved border disagreement (R94, R332): the command, the entry copy and the first two results, with
poison marks of the result. -/
structure Recheck where
  cmd : QCmd
  /-- the descriptor as checked at the head of the queue (R82) -/
  desc : List Byte
  entry : Tbl (BitVec 48)
  e1 : Tbl (BitVec 48)
  e2 : Tbl (BitVec 48)
  poison : List Nat
  deriving DecidableEq, Repr

/-- One matrix array (R78, R87, R99, R332, R333). Bank entries are keyed 128 × i + j; an unlisted one is +0. -/
structure Array where
  bank0 : Tbl (BitVec 48)
  bank1 : Tbl (BitVec 48)
  /-- keys of the poisoned elements of each bank (R98) -/
  poison0 : List Nat
  poison1 : List Nat
  /-- bank of the current or last command -/
  bank : Bool
  /-- drains through the epilogue, oldest first: the bank and the command, which completes when its drain ends -/
  drains : List (Bool × QCmd)
  quarantined : Bool
  /-- SU_TIME of the BRD_FAULTs of the last 3,600 s (R333) -/
  faultTimes : List Nat
  mismatches : BitVec 16
  recheck : Option Recheck
  deriving DecidableEq, Repr

def Array.reset : Array := ⟨[], [], [], [], false, [], false, [], 0, none⟩

/-- A started MATMUL_PAIR that is not complete (R36, R103, R105, R383): the command, and the weft descriptor while its
half has not run yet. -/
structure Pair where
  cmd : QCmd
  weft : Option (List Byte)
  deriving DecidableEq, Repr

/-- One function table slot (R115, R126): 2,064 image bytes and whether it is loaded. -/
structure VTable where
  image : Tbl Byte
  loaded : Bool
  deriving DecidableEq, Repr

def VTable.reset : VTable := ⟨[], false⟩

/-- A physical core (R10). -/
structure Core where
  seq : Seq
  warp : Array
  weft : Array
  /-- table slots 0–7; an unlisted one is `VTable.reset` -/
  tables : Tbl VTable
  qWarp : List QCmd
  qWeft : List QCmd
  qVec : List QCmd
  qCopy : List QCmd
  qSync : List QCmd
  /-- completed commands whose signal is not applied yet, oldest first (R35) -/
  toSignal : List (Eng × QCmd)
  /-- pairs whose halves are not both complete, oldest first (R36, R104, R105) -/
  pairs : List Pair
  /-- a core quarantine follows once this command has drained and signalled (R332) -/
  quarDue : Option QCmd
  ce : List CeCmd
  hazardHold : Bool
  /-- synchronisation commands sent and not yet applied or acknowledged (R184) -/
  suWait : Option QCmd
  counters : Tbl Word
  watches : List Watch
  /-- payload bytes handed to the links, by (destination chip, order class, epoch key) (R195); the key is the step
  plus 1, or 0 before the first STEP -/
  sentBytes : List (Nat × Nat × Nat × Nat)
  /-- counts acknowledged, by the same key (R281) -/
  ackedBytes : List (Nat × Nat × Nat × Nat)
  /-- tags of remote signals of COPY commands whose receipt is awaited (R37, R320) -/
  rsigOut : List Nat
  /-- phase ids on their way to PWC, oldest first (R39) -/
  phaseSent : List Nat
  quarantined : Bool
  /-- left by EL_WD_EXEC: reset and kernels run before it is placed again (R433) -/
  needsKernels : Bool
  /-- MS_CS_ERR (R228) -/
  msCsErr : Word
  /-- draw of the free contents that retention standby left in the store (R247); none: bytes never written read 0 -/
  lost : Option Nat
  deriving DecidableEq, Repr

def Core.reset : Core :=
  ⟨Seq.reset, Array.reset, Array.reset, [], [], [], [], [], [], [], [], none, [], false, none, [], [], [], [], [],
    [], false, false, 0, none⟩

/-! ### Contexts -/

/-- R28. -/
inductive CtxState where
  | free | created | running | paused | suspended | finished | faulted
  deriving DecidableEq, Repr

/-- The context descriptor (R32). -/
structure CtxDesc where
  secure : Bool
  lossPolicy : Nat
  coreCount : Nat
  placement : Nat
  lidUnits : Nat
  flags : Word
  profile : Word
  jobSeed : DWord
  hbmBytes : Nat
  hbmBase : Nat
  coreMask : Nat
  /-- the 64 descriptor bytes as posted (R361) -/
  raw : List Byte
  deriving DecidableEq, Repr

def CtxDesc.reset : CtxDesc := ⟨false, 0, 0, 0, 0, 0, 0, 0, 0, 0, 0, []⟩

/-- A mapped HBM region (R491). -/
structure Region where
  base : Nat
  bytes : Nat
  mode : Nat
  set : Nat
  deriving DecidableEq, Repr

/-- A host window (R497). -/
structure Window where
  hostAddr : Nat
  size : Nat
  canWrite : Bool
  canRead : Bool
  revoked : Bool
  deriving DecidableEq, Repr

/-- One set of a statistics entry (R133, R134, R138). The sums are the exact accumulators: `sum` in units of
2^−149, `sumsq` in units of 2^−298. -/
structure StatSet where
  count : Nat
  zeros : Nat
  nonfinite : Nat
  saturated : Nat
  flushed : Nat
  poisoned : Nat
  escalated : Nat
  escOvf : Nat
  min : Word
  max : Word
  sum : Int
  sumsq : Nat
  sumSat : Bool
  sumsqSat : Bool
  countSat : Bool
  deriving DecidableEq, Repr

def StatSet.reset : StatSet := ⟨0, 0, 0, 0, 0, 0, 0, 0, 0x7F800000, 0xFF800000, 0, 0, false, false, false⟩

/-- The live part of a statistics bank (R139, R140); sets keyed 3 × entry + set. -/
structure StatBank where
  step : Nat
  lsExp : Int
  /-- 0 empty, 1 live, 2 published -/
  state : Nat
  nonfiniteAll : Nat
  nonfiniteWatched : Nat
  sets : Tbl StatSet
  deriving DecidableEq, Repr

def StatBank.reset : StatBank := ⟨0, 0, 0, 0, 0, []⟩

/-- Loss scaling (R144, R145): the captured registers, the exponent of the latest attempt of each step, the clean
count and the raise flags. -/
structure LossScale where
  en : Bool
  nfAction : Bool
  growth : Nat
  init : Int
  max : Int
  min : Int
  /-- first step after CTX_START, once executed -/
  first : Option Nat
  exps : List (Nat × Int)
  clean : Nat
  raises : List (Nat × Bool)
  /-- TS_LS_STATE (R153) -/
  state : Word
  deriving DecidableEq, Repr

def LossScale.reset : LossScale := ⟨false, false, 0, 0, 0, 0, none, [], 0, [], 0⟩

/-- A vote (R336). -/
structure Vote where
  covered : Nat
  allOk : Bool
  faultedAny : Bool
  overflow : Bool
  digestBad : Bool
  quarantineAny : Bool
  xMin : Int
  xMax : Int
  nonfiniteAll : Nat
  nonfiniteWatched : Nat
  failChip : Nat
  failCode : Word
  deriving DecidableEq, Repr

/-- An undo record's place (R328): epoch, page, ring slot and kind. -/
structure Undo where
  epoch : Nat
  page : Nat
  ring : Nat
  kind : Nat
  deriving DecidableEq, Repr

/-- A decision in hand (R339): 1 COMMIT, 2 REPLAY, 3 PAUSE, 4 DIAG, 5 DIAG_DONE. -/
structure Decision where
  step : Nat
  attempt : Nat
  kind : Nat
  reason : Nat
  failChip : Nat
  failCode : Word
  deriving DecidableEq, Repr

/-- The step protocol of one context (R319–R347). -/
structure StepSt where
  /-- first step number carried by the first STEP of the context (R38) -/
  first : Option Nat
  /-- latest declared step -/
  declared : Option Nat
  committed : Option Nat
  /-- attempts of the oldest uncommitted step before the current one (R325) -/
  attempt : Nat
  /-- the step whose completion, digests and vote are under way is complete (R321) -/
  complete : Bool
  digestOwn : BitVec 128
  digestMir : BitVec 128
  digestsIn : Nat
  /-- messages of later attempts: step, attempt, shard, digest (R331) -/
  digestsHeld : List (Nat × Nat × Word × BitVec 128)
  digestBad : Bool
  quarantineAny : Bool
  failCode : Word
  /-- children whose chips are known from their messages -/
  children : List Nat
  /-- children that voted in this attempt -/
  voters : List Nat
  merged : Option Vote
  voted : Bool
  failReplays : Nat
  decision : Option Decision
  rolledSelf : Bool
  rolledFrom : List Nat
  rolledCovered : Nat
  lostAny : Bool
  diagRefusedAny : Bool
  /-- arrivals of epochs at or above this are discarded (R198) -/
  discardFrom : Option Nat
  /-- this attempt is a rerun: input writes are skipped (R326) -/
  rerun : Bool
  /-- pages captured, oldest first, with their undo records -/
  undo : List Undo
  ringHead : Nat
  ringTail : Nat
  /-- committed steps held in the diagnosis window, oldest first (R344) -/
  window : List Nat
  /-- diagnosis replay: step D, and the state before it -/
  diagStep : Option Nat
  diagRunning : Bool
  diagCmd : Option HostCmd
  /-- a local pause is pending (R343), with its event code -/
  pausePending : Option Word
  pausedByMemory : Bool
  gateClosed : Bool
  /-- gate held by suspect resolution (R435) -/
  gateHeld : Bool
  /-- PAUSED after a rollback: CTX_RESUME or RESUME reruns the current step (R146, R379) -/
  rerunDue : Bool
  /-- pair image copies not yet acknowledged (R362) -/
  pairPending : Bool
  /-- when the gates of the latest steps opened: step, SU_TIME (R386, R392) -/
  gateTimes : List (Nat × Nat)
  /-- when a logical core completed a step: step, core, SU_TIME (R386) -/
  coreTimes : List (Nat × Nat × Nat)
  /-- the step after the voted one takes fail_code EL_SUSPECT (R435) -/
  suspectNext : Bool
  /-- sequencer and counters of the logical cores that have no record of step L + 1, kept over a diagnosis replay -/
  diagKept : List (Nat × Seq × Tbl Word)
  deriving DecidableEq, Repr

def StepSt.reset : StepSt :=
  { first := none, declared := none, committed := none, attempt := 0, complete := false,
    digestOwn := 0, digestMir := 0, digestsIn := 0, digestsHeld := [], digestBad := false, quarantineAny := false,
    failCode := 0, children := [], voters := [], merged := none, voted := false, failReplays := 0,
    decision := none, rolledSelf := false, rolledFrom := [], rolledCovered := 0, lostAny := false,
    diagRefusedAny := false, discardFrom := none, rerun := false, undo := [], ringHead := 0, ringTail := 0,
    window := [], diagStep := none, diagRunning := false, diagCmd := none, pausePending := none,
    pausedByMemory := false, gateClosed := false, gateHeld := false, rerunDue := false, pairPending := false,
    gateTimes := [], coreTimes := [], suspectNext := false, diagKept := [] }

/-- A member's status as the leader holds it (R371). -/
structure Member where
  chip : Nat
  lastCommitted : Nat
  rstate : Nat
  rebuildOk : Bool
  code : Word
  shardOwn : Word
  shardMir : Word
  attempt : Nat
  deriving DecidableEq, Repr

/-- A slice sent through a relay: its number, the relay, its address here and on the target, its length, and the target
(R377). -/
structure Relayed where
  slice : Nat
  relay : Nat
  src : Nat
  dst : Nat
  len : Nat
  target : Nat
  deriving DecidableEq, Repr

/-- Recovery of one context's job (R372–R382). -/
structure Recov where
  /-- 0 idle; 1 stopped; 2 rolled back; 3 loading; 4 relaying; 5 awaiting RESUME; 6 held (R391) -/
  rstate : Nat
  leader : Nat
  shrinkPart : Nat
  stepR : Option Nat
  statuses : List Member
  /-- targets whose RC_READY the leader awaits -/
  awaiting : List Nat
  ready : List Nat
  lost : List Nat
  /-- answers to RC_PROBE awaited, by child chip -/
  probed : List Nat
  /-- children substituted for after a timeout: child, step and attempt (R369) -/
  timeouts : List (Nat × Nat × Nat)
  /-- every status received in this recovery, those of chips lost since included (R382) -/
  known : List Member
  /-- stakes ordered so far, and the sources named for each target (R375, R382) -/
  used : List Nat
  sources : List (Nat × Nat × Nat)
  /-- targets whose load starts again (R382) -/
  reload : List Nat
  /-- on a target: what the load brings, and the ranges landed so far -/
  load : Option LoadData
  landed : List (Nat × Nat)
  /-- on a relay: the slices still to be staged and written on, and the target (R377) -/
  staged : List Staged
  target : Nat
  /-- on a relay: by lost relay, the slices of it to be staged here (R382) -/
  spareStaged : List (Nat × Staged)
  /-- on a source: slices sent through relays -/
  relayed : List Relayed
  /-- on a source: by lost relay, where its slices go instead (R382) -/
  spareVia : List (Nat × Via)
  /-- this module is a target whose load is complete: its first attempt at R reads its input (R378) -/
  loaded : Bool
  deriving DecidableEq, Repr

def Recov.reset : Recov :=
  { rstate := 0, leader := 0, shrinkPart := 0, stepR := none, statuses := [], awaiting := [], ready := [], lost := []
    probed := [], timeouts := [], known := [], used := [], sources := [], reload := [], load := none, landed := []
    staged := [], target := 0, spareStaged := [], relayed := [], spareVia := [], loaded := false }

/-- A checkpoint or restore of one context (R398–R417). -/
structure Ckpt where
  /-- MS_CKPT_STATUS.state: 0 idle; 1 awaiting snapshot; 2 copying; 3 awaiting CK_ACK; 4 restoring -/
  state : Nat
  kind : Nat
  cmd : Option HostCmd
  seq : DWord
  poolChip : Nat
  poolBase : Nat
  poolSize : Nat
  tensors : List Byte
  stepC : DWord
  /-- pages of D not yet read, in copying order: region number and page -/
  left : List (Nat × Nat)
  frozen : List (Nat × Nat)
  /-- pages saved in snapshot slots: (region, page, slot) -/
  saved : List (Nat × Nat × Nat)
  /-- pages read by the movers: (region, page, image or page record) -/
  pages : List (Nat × Nat × List Byte)
  /-- STATE: shards taken whole at the snapshot, as (contents, bytes) -/
  extra : List (Nat × List Byte)
  /-- the shards as written: (contents, region, offset in the pool area, bytes, region bytes) -/
  shards : List (Nat × Nat × Nat × List Byte × Nat)
  /-- every page is read and every shard has been sent -/
  shardsSent : Bool
  /-- bytes sent to each pool chip since the context was created; the count to be acknowledged for this checkpoint, and
  the latest one acknowledged (R281, R410) -/
  poolSent : Tbl Nat
  sent : Nat
  acked : Nat
  manifestSent : Bool
  /-- dirty pages of the checkpoint set, those of a frozen D among them -/
  dirty : List (Nat × Nat)
  /-- pages written while a D is frozen (R402) -/
  live : List (Nat × Nat)
  allDirty : Bool
  lastSeq : Option DWord
  fullSeq : DWord
  baseValid : Bool
  deltas : Nat
  promoted : Bool
  snapWait : Bool
  /-- restore: descriptor mode, sources (chip, base), target tensor table -/
  rMode : Nat
  rSources : List (Nat × Nat)
  rTensors : List Byte
  /-- restore: manifests and shards read so far, as one byte string per source -/
  rData : List (List Byte)
  rGot : List Byte
  deriving DecidableEq, Repr

def Ckpt.reset : Ckpt :=
  { state := 0, kind := 0, cmd := none, seq := 0, poolChip := 0, poolBase := 0, poolSize := 0, tensors := [],
    stepC := 0, left := [], frozen := [], saved := [], pages := [], extra := [], shards := [], shardsSent := false,
    poolSent := [], sent := 0, acked := 0, manifestSent := false, dirty := [], live := [], allDirty := false, lastSeq := none, fullSeq := 0, baseValid := false,
    deltas := 0, promoted := false, snapWait := false, rMode := 0, rSources := [], rTensors := [], rData := [],
    rGot := [] }

/-- The registers of a context that hold what was last written (R71, R148–R152, R180, R230, R290, R349–R357,
R388–R393, R419). -/
structure CtxRegs where
  tsFlags : BitVec 6
  tsEscOvfCnt : Word
  tsT2InvCnt : Word
  tsArea : Nat
  tsPubStep : DWord
  tsPubValid : Bool
  /-- committed steps still to be published, oldest first (R140) -/
  tsPublishing : List Nat
  tsAccSat : Bool
  tsLsFloor : Bool
  tsNfPaused : Bool
  tsLsMismatch : Bool
  tsLsConfig : Word
  tsLsRange : Word
  /-- ST_CTX_STATUS's window_drop and digest_bad (R355) -/
  stWindowDrop : Bool
  stDigestBad : Bool
  ceWinDrop : Word
  msPoison : Word
  lkJob : Word
  stCfg : Word
  stSkein : Word
  stPersist : Word
  stTree : Word
  stShardOwn : Word
  stShardMir : Word
  stPeer0 : Word
  stPeer1 : Word
  stPeer2 : Word
  stPeer3 : Word
  stTrace : Word
  stReplays : Word
  stPair : Word
  stRegmap : Word
  stRecov : Word
  stTiming : Word
  stHistCfg : Word
  /-- ST_CTX_HIST_BIN0–15 -/
  stHistBins : Tbl Word
  msCkptCfg : Word
  pwEnergy : DWord
  /-- PW_CTX_ENERGY_HI as the last read of LO latched it (R476) -/
  pwEnergyHi : Word
  deriving DecidableEq, Repr

def CtxRegs.reset : CtxRegs :=
  { tsFlags := 0, tsEscOvfCnt := 0, tsT2InvCnt := 0, tsArea := 0, tsPubStep := 0, tsPubValid := false,
    tsPublishing := [], tsAccSat := false, tsLsFloor := false, tsNfPaused := false, tsLsMismatch := false,
    tsLsConfig := 0, tsLsRange := 0x00102000, stWindowDrop := false, stDigestBad := false, ceWinDrop := 0, msPoison := 0, lkJob := 0, stCfg := 0x3000,
    stSkein := 0, stPersist := 0, stTree := 0, stShardOwn := 0, stShardMir := 0, stPeer0 := 0, stPeer1 := 0,
    stPeer2 := 0, stPeer3 := 0, stTrace := 0, stReplays := 0, stPair := 0, stRegmap := 0, stRecov := 0x000BB800,
    stTiming := 0, stHistCfg := 0xA, stHistBins := [], msCkptCfg := 0, pwEnergy := 0,
    pwEnergyHi := 0 }

/-- A remote signal held for a suspended context (R42): target core and counter, increment, sending chip and core, and
the request itself, none for one that a checkpoint brought. -/
structure HeldSignal where
  lcore : Nat
  ctr : Nat
  inc : Nat
  chip : Nat
  sender : Nat
  req : Option Packet
  /-- the port the request came by -/
  port : Option Nat
  deriving DecidableEq, Repr

/-- Bytes sent and acknowledged by a logical core, by (chip, class, epoch key) (R195, R281). -/
structure SavedCounts where
  lcore : Nat
  sent : List (Nat × Nat × Nat × Nat)
  acked : List (Nat × Nat × Nat × Nat)
  deriving DecidableEq, Repr

/-- A context slot. -/
structure Ctx where
  st : CtxState
  desc : CtxDesc
  owner : Nat
  handedOver : Bool
  /-- physical core of each logical core, in ascending logical number (R27) -/
  cores : List Nat
  /-- physical lid units in ascending order, each with its mode: true for cache (R215) -/
  lid : List (Nat × Bool)
  regions : Tbl (Option Region)
  /-- local address of the save area, when suspend_en (R32) -/
  saveArea : Nat
  streamTable : Nat
  /-- registers and stream table of the last CTX_START, for the creation record (R361) -/
  startRegs : CtxRegs
  startTable : Nat
  windows : Tbl (Option Window)
  /-- state before suspension (R28) -/
  resumeTo : CtxState
  /-- command in progress for the context (R29) -/
  busy : Option HostCmd
  /-- ownership moves to B once the command in progress completes (R501) -/
  handoverDue : Bool
  /-- being zeroed (R30) -/
  zeroing : Bool
  /-- remote signals held while suspended, in arrival order (R42) -/
  heldSignals : List HeldSignal
  /-- remote signals of COPY commands whose receipt is acknowledged, with their logical cores: one that is held there can
  still be refused (R280) -/
  rsigAcked : List (Nat × Nat)
  /-- bytes sent and acknowledged by each logical core, kept while it has no physical core (R195) -/
  savedCounts : List SavedCounts
  banks : Tbl StatBank
  ls : LossScale
  step : StepSt
  recov : Recov
  ck : Ckpt
  /-- units marked poisoned by engines, per epoch (R225) -/
  poisonCounts : Tbl Nat
  regs : CtxRegs
  /-- code that moved the context to FAULTED -/
  faultCode : Word
  deriving DecidableEq, Repr

def Ctx.reset : Ctx :=
  { st := .free, desc := CtxDesc.reset, owner := 0, handedOver := false, cores := [], lid := [], regions := [],
    saveArea := 0, streamTable := 0,
    startRegs := CtxRegs.reset, startTable := 0, windows := [], resumeTo := .free, busy := none, handoverDue := false, zeroing := false,
    heldSignals := [], rsigAcked := [], savedCounts := [], banks := [], ls := LossScale.reset, step := StepSt.reset, recov := Recov.reset,
    ck := Ckpt.reset, poisonCounts := [], regs := CtxRegs.reset, faultCode := 0 }

/-! ### Memory -/

/-- One memory: bytes (an unlisted byte reads 0), poisoned 64-byte units (R223) and latent errors of units
(R219, R222): true uncorrectable, false correctable. Unit numbers are address div 64. The latent errors of HBM stand in
its channels (`Chan.errs`). -/
structure Memory where
  bytes : Tbl Byte
  poison : List Nat
  errs : Tbl (Option Bool)
  deriving DecidableEq, Repr

def Memory.reset : Memory := ⟨[], [], []⟩

/-- A block in a write buffer: the mask of its units held there, and the bytes the base die still has (R220, R235). -/
structure Buffered where
  units : Nat
  old : List Byte
  deriving DecidableEq, Repr

def Buffered.none : Buffered := ⟨0, []⟩

/-- An HBM channel (R220, R235, R237–R249). -/
structure Chan where
  /-- MS_CH_ERR -/
  err : Word
  /-- retired pages, in order -/
  retired : List Nat
  remaps : Nat
  sparesBad : Nat
  pending : Bool
  mappedOut : Bool
  faulted : Bool
  /-- remapped rows: (bank, row, spare), and bad spares (bank, spare) -/
  remapped : List (Nat × Nat × Nat)
  badSpares : List (Nat × Nat)
  /-- corrected units a row delivered since it was last mapped, keyed bank × 2^15 + row -/
  corrected : Tbl Nat
  scrubPos : Nat
  /-- blocks waiting in the write buffer, by local address div 256 (R235) -/
  buffered : Tbl Buffered
  /-- for each coming transfer block, how many of its sends fail: 0–2 re-sends, 3–5 the block fails (a write then
  has 0–2 re-sends of its poison-mark command), 6 the poison-mark command fails too (R220) -/
  xferFails : List Nat
  /-- latent errors of stored units, keyed by channel offset div 64: true uncorrectable, false correctable (R221) -/
  errs : Tbl (Option Bool)
  /-- units outside every granule that hold the poison code, by channel offset div 64 (R221, R237) -/
  marks : List Nat
  /-- granules whose part over a retired page stays in use (R241) -/
  held : List Nat
  /-- contexts whose parts the map-out under way has moved: their resume waits for its end (R246) -/
  movers : List Nat
  deriving DecidableEq, Repr

def Chan.reset : Chan := ⟨0, [], 0, 0, false, false, false, [], [], [], 0, [], [], [], [], [], []⟩

/-- A set of a lid cache unit (R217): ways 0–15, each a line (local address div 256) and whether it is dirty; the
tree bits of its pseudo-LRU; and the way whose tag holds an error, if one does, true when it is uncorrectable (R222). -/
structure CacheSet where
  ways : Tbl (Option (Nat × Bool))
  plru : Nat
  tagErr : Option (Nat × Bool)
  deriving DecidableEq, Repr

def CacheSet.reset : CacheSet := ⟨[], 0, none⟩

/-- A record SEC still has to write to the repair area (R242): channel and what. -/
inductive Repair where
  | remap (ch bank row spare : Nat) | badSpare (ch bank spare : Nat) | retired (ch page : Nat) | mapOut (ch : Nat)
  deriving DecidableEq, Repr

/-- A lid unit (R229, R384). -/
structure LidUnit where
  owner : Option Nat
  secure : Bool
  cache : Bool
  logical : Nat
  withheld : Bool
  deriving DecidableEq, Repr

def LidUnit.reset : LidUnit := ⟨none, false, false, 0, false⟩

/-! ### Host ports -/

/-- What one host port holds (R483). -/
structure Port where
  /-- HX_VERSION.selected, host_max, host_min -/
  selected : Nat
  hostMax : Nat
  hostMin : Nat
  postLo : Word
  postHi : Word
  queue : List DWord
  discarded : Bool
  cplProd : Word
  cplCons : Word
  cplDrop : Word
  /-- completion buffer: record i mod 65,536 -/
  records : Tbl (List Byte)
  /-- events waiting for buffer space -/
  waiting : List (List Byte × Nat × Bool)
  beat : Word
  hostCfg : Word
  hostLost : Bool
  irqCfg : Word
  irqStatus : Word
  /-- records pending for each coalesced vector (R498) -/
  irqPending : Tbl Nat
  bar2Cfg : Word
  suCtrSel : Word
  granSel : Word
  granHi : Word
  retireSel : Word
  latSel : Word
  latBins : Tbl Word
  tblSel : Word
  tblHi : Word
  logSel : Word
  /-- words 0–7 latched by the last read of EL_LOG_DATA0 -/
  logData : Tbl Word
  classCntHi : Word
  pwCap : Word
  /-- value returned by the last read command -/
  lastRead : Word
  /-- MSI-X table and pending bits, as software writes them (R481) -/
  msix : Tbl Word
  /-- the port's PCIe link may train or is up (R554) -/
  linkUp : Bool
  deriving DecidableEq, Repr

def Port.reset : Port :=
  { selected := 0, hostMax := 0, hostMin := 0, postLo := 0, postHi := 0, queue := [], discarded := false,
    cplProd := 0, cplCons := 0, cplDrop := 0, records := [], waiting := [], beat := 0, hostCfg := 0x64,
    hostLost := false, irqCfg := 3, irqStatus := 0, irqPending := [], bar2Cfg := 0, suCtrSel := 0, granSel := 0,
    granHi := 0, retireSel := 0, latSel := 0x500, latBins := [], tblSel := 0, tblHi := 0, logSel := 0,
    logData := [], classCntHi := 0, pwCap := 0,
    lastRead := 0, msix := [], linkUp := false }

/-! ### Links -/

/-- A buffered data flit: sequence number, header fields and payload (R266). -/
structure TxFlit where
  seq : Nat
  vc : Nat
  gh : Nat
  sop : Bool
  eop : Bool
  payload : List Byte
  deriving DecidableEq, Repr

/-- A Nuoresh port (R257–R291). -/
structure Link where
  /-- 0 DOWN; 1 TRAINING; 2 ACTIVE; 3 DEGRADED; 4 HELD -/
  state : Nat
  rtt : Nat
  version : Nat
  rate : Bool
  quar0 : Bool
  quar1 : Bool
  up0 : Bool
  up1 : Bool
  disable : Bool
  errCnt : Word
  fec0 : Word
  fec1 : Word
  /-- SU_TIME of lane-down events -/
  downs0 : List Nat
  downs1 : List Nat
  /-- next sequence number to give, last accepted, last ack received -/
  txSeq : Nat
  rxSeq : Nat
  replay : List TxFlit
  nakPending : Bool
  nakSent : Bool
  /-- credits held, by pool; partner's pool sizes; last report per pool -/
  credits : Tbl Nat
  poolSizes : Tbl Nat
  lastReport : Tbl Nat
  /-- flits freed since step 6, by pool, and flits now in each receive pool -/
  freed : Tbl Nat
  occupied : Tbl Nat
  reportPool : Nat
  slots : Nat
  /-- flits of the packet being received, by VC -/
  rxParts : Tbl (List Byte)
  /-- data flits ready to be sent -/
  txQueue : List TxFlit
  /-- negotiation: the partner's last flit and whether the last two were identical with agree -/
  partner : List Byte
  agreed : Bool
  /-- discovery (R313) -/
  outcome : Nat
  foundDevice : Nat
  foundPort : Nat
  foundChip : Nat
  /-- keepalive word last received, and this port sends fenced_you -/
  kaWord : Word
  fencedYou : Bool
  /-- held down after a failed version agreement (R262) -/
  heldDown : Bool
  /-- packets received whole and not yet forwarded or delivered -/
  assembled : List Packet
  /-- round-trip probe to echo, as last received -/
  probe : DWord
  /-- flits received since training, which fixes the lane of each (R258) -/
  rxFlits : Nat
  /-- flits sent since training -/
  txFlits : Nat
  /-- after this side has agreed, a flit of another kind came: the partner has agreed too (R261) -/
  partnerDone : Bool
  /-- the port that a transit packet being received goes on by, by VC (R283) -/
  cut : Tbl (Option Nat)
  /-- flits that wait for the end of a transit packet on their VC -/
  txHeld : List TxFlit
  /-- corrected symbols of each lane (R265) -/
  sym0 : Nat
  sym1 : Nat
  /-- SU_TIME of uncorrectable codewords of each lane within the last 1 ms (R259) -/
  ue0 : List Nat
  ue1 : List Nat
  /-- TP_NEIGHBOR_MISSING has been raised since the port was enabled or lost, or the module started (R306) -/
  missed : Bool
  /-- requests and responses delivered to this module that came by this port, their own rows not run yet -/
  delivered : List Packet
  deriving DecidableEq, Repr

def Link.reset : Link :=
  { state := 0, rtt := 0, version := 0, rate := false, quar0 := false, quar1 := false, up0 := false, up1 := false,
    disable := false, errCnt := 0, fec0 := 0, fec1 := 0, downs0 := [], downs1 := [], txSeq := 0, rxSeq := 4095,
    replay := [], nakPending := false, nakSent := false, credits := [], poolSizes := [], lastReport := [],
    freed := [], occupied := [], reportPool := 0, slots := 0, rxParts := [], txQueue := [], partner := [],
    agreed := false, outcome := 0, foundDevice := 0, foundPort := 0, foundChip := 0, kaWord := 0,
    fencedYou := false, heldDown := false, assembled := [], probe := 0, rxFlits := 0, txFlits := 0,
    partnerDone := false, cut := [], txHeld := [], sym0 := 0, sym1 := 0, ue0 := [],
    ue1 := [], missed := false, delivered := [] }

/-- A fence entry (R196): key, bytes landed, bytes that arrived and were dropped (R198), bytes acknowledged, the
requests' tag; and its held signals in send order. -/
structure Fence where
  chip : Nat
  lcore : Nat
  cls : Nat
  epoch : Nat
  ctx : Nat
  landed : Nat
  dropped : Nat
  acked : Nat
  tag : Nat
  /-- held signals with the port each came by -/
  held : List (Packet × Option Nat)
  deriving DecidableEq, Repr

/-- The record of one global link (R309). -/
structure LinkRec where
  fromGroup : Nat
  slot : Nat
  port : Nat
  farGroup : Nat
  up : Bool
  seq : Nat
  deriving DecidableEq, Repr

/-- The path of a sender's class-3 packets to a chip in an epoch, the data bytes sent on it, and the tags of the reads
and signals sent on it (R277). -/
structure Class3 where
  job : Nat
  lcore : Nat
  chip : Nat
  epoch : Nat
  link : Nat
  bytes : Nat
  tags : List Nat
  deriving DecidableEq, Repr

/-- FAB: detector, floods, tables' sources (R301–R317, R363–R371). -/
structure Fab where
  heartbeat : BitVec 16
  /-- slots this module suspects (R396) -/
  mySuspects : List Nat
  /-- (slot, suspecting slot) pairs and slots with a requested suspicion -/
  suspicions : List (Nat × Nat)
  requested : List (Nat × Nat)
  /-- reasons of fence requests, by slot (R371) -/
  causes : Tbl Word
  selfFenced : Bool
  /-- floods already acted on: (type, sender, seq) -/
  seen : List (Nat × Nat × Nat)
  /-- messages sent of each type -/
  sentSeq : Tbl Nat
  linkSeq : Nat
  chipTable : Tbl Word
  exitTable : Tbl DWord
  routeTable : Tbl DWord
  linkRecs : List LinkRec
  /-- class-3 paths chosen (R277) -/
  class3 : List Class3
  /-- ports admitted (true) or lost while FAB restarts, in order (R441) -/
  announceDue : List (Nat × Bool)
  tpOvr : Tbl Word
  /-- the overrides in force: a written valid = 0 takes effect at the port's next training (R308) -/
  ovrUsed : Tbl Word
  ovrRefused : Bool
  topo : Nat
  dropCnt : Word
  fdCfg : Word
  lkCfg : Word
  deriving DecidableEq, Repr

def Fab.reset : Fab :=
  { heartbeat := 0, mySuspects := [], suspicions := [], requested := [], causes := [], selfFenced := false, seen := [],
    sentSeq := [], linkSeq := 0, chipTable := [], exitTable := [], routeTable := [], linkRecs := [], class3 := [],
    announceDue := [], tpOvr := [], ovrUsed := [], ovrRefused := false, topo := 0, dropCnt := 0, fdCfg := 0x0A, lkCfg := 0x08 }

/-! ### Errors, power, boot -/

/-- A log entry (R427). -/
structure LogEntry where
  code : Word
  ctx : Nat
  flags : Byte
  time : Nat
  step : DWord
  info : DWord
  deriving DecidableEq, Repr

/-- One class of the error log (R428). -/
structure ErrClass where
  count : Nat
  first : List LogEntry
  last : List LogEntry
  overflow : Bool
  deriving DecidableEq, Repr

def ErrClass.reset : ErrClass := ⟨0, [], [], false⟩

/-- A monitor (R451). -/
structure Monitor where
  cfg : Word
  base : Word
  thrHi : Word
  thrLo : Word
  min : Word
  max : Word
  count : Word
  bins : Tbl Word
  /-- the last sample was above thr_hi / below thr_lo -/
  wasHigh : Bool
  wasLow : Bool
  /-- clock stretches since the last sample, of the cluster that source 0x09 names (R463) -/
  stretches : Nat
  deriving DecidableEq, Repr

def Monitor.reset : Monitor := ⟨0, 0, 0x7FFFFFFF, 0x80000000, 0x7FFFFFFF, 0x80000000, 0, [], false, false, 0⟩

/-- A resolution of suspects (R435): the buffer, suspects still to rerun with the step they rerun, all members, and
further reports queued. -/
structure Suspects where
  buf : SharedBuf
  todo : List (Nat × Nat)
  members : List Nat
  queued : List (SharedBuf × List Nat)
  deriving DecidableEq, Repr

/-- The error units: EL_ registers, watchdogs, kept code, restarts (R427–R453). -/
structure Errors where
  classes : Tbl ErrClass
  /-- EL_STATUS bits 3–0: fatal, contained, deferred, corrected seen -/
  seen : BitVec 4
  fatalHold : Bool
  fatalAction : Nat
  resetCause : Word
  causeWritten : Bool
  fromFlash : Bool
  resetKind : Nat
  wdCfg : Word
  monitors : Tbl Monitor
  suspects : Option Suspects
  warmReset : Bool
  /-- code of the first fatal report since reset, awaiting the reset it orders -/
  fatalCode : Option Word
  /-- management cores restarting, and crash times (core, SU_TIME) -/
  restarting : List Mc
  crashes : List (Mc × Nat)
  /-- received CONTROL messages held while FAB restarts, at most 256 (R441) -/
  heldControl : List Instr
  /-- BAR0 writes and posts held in arrival order while SCH restarts (R441) -/
  heldWrites : List Instr
  /-- orders that wait for SEC or HLT (R441) -/
  heldOrders : List Instr
  /-- waits already reported by the wait watchdog: (core, engine, slot's number) (R433) -/
  wdWaited : List (Nat × Eng × Nat)
  deriving DecidableEq, Repr

def Errors.reset : Errors :=
  { classes := [], seen := 0, fatalHold := false, fatalAction := 1, resetCause := 0, causeWritten := false,
    fromFlash := false, resetKind := 0, wdCfg := 0x025803E8, monitors := [], suspects := none, warmReset := false,
    fatalCode := none, restarting := [], crashes := [], heldControl := [], heldWrites := [], heldOrders := [],
    wdWaited := [] }

/-- A cluster's clock, voltage and sensors (R454–R465, R474, R475) and its slice's MS_LID_ERR. -/
structure Cluster where
  /-- junction temperature (R464) and the lid slice's, in 1/16 °C -/
  temp : Int
  lidTemp : Int
  step : Nat
  /-- the rail's voltage in mV, and the voltage it ramps to -/
  volt : Nat
  rampTo : Option Nat
  /-- the change to `pending` has begun: its frequency switch waits for the ramp or for the end of a stretch -/
  due : Bool
  limit : Nat
  gate : Nat
  stretched : Bool
  throttled : Bool
  pending : Option Nat
  droops : Word
  lidErr : Word
  deriving DecidableEq, Repr

def Cluster.reset : Cluster :=
  { temp := 0, lidTemp := 0, step := 0, volt := 0, rampTo := none, due := false, limit := 15, gate := 16,
    stretched := false, throttled := false, pending := none, droops := 0, lidErr := 0 }

/-- Power and thermal (R457–R478). Gates are sixteenths, 1–16. -/
structure Power where
  clusters : Tbl Cluster
  boardCap : Nat
  uniform : Bool
  uniformActive : Bool
  gate : Nat
  excursion : Bool
  clamp : Bool
  capUnmet : Bool
  /-- samples of the last 20 ms, latest first -/
  samples : List Nat
  idleEnergy : DWord
  /-- PW_IDLE_ENERGY_HI as the last read of LO latched it (R476) -/
  idleEnergyHi : Word
  /-- PW_STANDBY.state: 0 ACTIVE; 1 entering; 2 STANDBY; 3 leaving -/
  standby : Nat
  hotStacks : List Nat
  /-- temperature of each HBM stack, in 1/16 °C -/
  stackTemps : Tbl Int
  tripped : Bool
  /-- clusters supplied -/
  clustersOn : Bool
  /-- phase ids PWC has received, by physical core (R39) -/
  phases : Tbl Nat
  /-- consecutive samples of mean at or below the cap (R461) -/
  okSamples : Nat
  /-- the cap that PWC acts on: the effective cap at its last control period (R457) -/
  cap : Option Nat
  /-- the steps of the contexts 0–7 that PWC chose last, and its prediction with them, in mW (R459) -/
  chosen : List Nat
  predicted : Nat
  /-- measured minus predicted power at the samples of the last 20 ms, latest first, in mW (R459) -/
  diffs : List Int
  /-- PW_STANDBY.enter and exit: a request that waits until standby is left, or entered (R477) -/
  enterReq : Bool
  exitReq : Bool
  deriving DecidableEq, Repr

def Power.reset : Power :=
  { clusters := [], boardCap := 0, uniform := false, uniformActive := false, gate := 16, excursion := false,
    clamp := false, capUnmet := false, samples := [], idleEnergy := 0, idleEnergyHi := 0, standby := 0, hotStacks := [], stackTemps := [],
    tripped := false, clustersOn := false, phases := [], okSamples := 0, cap := none, chosen := [], predicted := 0,
    diffs := [], enterReq := false, exitReq := false }

/-- The fuses of R512, with the trims of R454. -/
structure Fuses where
  vendor0 : Option (List Byte × List Byte)
  vendor1 : Option (List Byte × List Byte)
  owner0 : Option (List Byte × List Byte)
  owner1 : Option (List Byte × List Byte)
  revoke : BitVec 4
  svn : Nat
  lmsCkpt : Nat
  lifecycle : BitVec 2
  stepping : Byte
  uds : BitVec 384
  /-- the part's trim of each step, in mV (R454) -/
  trim : List Int
  deriving DecidableEq, Repr

/-- As shipped: the vendor slots hold the manufacturer's hashes and the owner slots are blank. -/
def Fuses.reset : Fuses :=
  ⟨some (Config.vendorHash 0), some (Config.vendorHash 1), none, none, 0, 0, 0, Config.factoryLifecycle, 0xA1, Config.uds,
   (List.range 16).map Config.stepTrim⟩

/-- Boot, updates and attestation (R507–R536). -/
structure Boot where
  stage : Nat
  attempt : Nat
  err : Word
  backoff : Nat
  /-- this start is due (reset released, backoff over, or a verified transfer written) -/
  startDue : Bool
  /-- the next start follows a recovery write (BT_STATUS.recovered) -/
  recovering : Bool
  recovered : Bool
  /-- running image: header bytes 0x000–0x2FF, section digests, vendor slot -/
  imageMsg : List Byte
  sectionDigests : List (List Byte)
  imgSlot : Nat
  /-- the configuration record in force, first 0x1600 bytes -/
  record : List Byte
  identity : List Byte
  selfTests : Bool
  /-- the key ladder's secret is locked (R512, R513) -/
  udsLocked : Bool
  /-- HLT has started in this start, so that the aggregator is live (R513, R537) -/
  hltUp : Bool
  lmsNext : Nat
  journal : Nat
  /-- BT_LMS_JOURNAL is due once the aggregator is live (R523) -/
  journalBad : Bool
  lmsLow : Bool
  lmsExhausted : Bool
  updPending : Bool
  staging : Tbl Byte
  staged : Nat
  stagingOwner : Option SvcSource
  stagingKind : Nat
  updState : Nat
  updSource : Nat
  /-- source whose transfer is being written -/
  commitSource : Nat
  /-- the backoff ended while a transfer was staged (R515) -/
  waitOver : Bool
  updCode : Word
  /-- lifecycle value to take effect at the next cold reset -/
  nextLifecycle : Option (BitVec 2)
  /-- flash bytes written since manufacture; an unlisted byte is as manufactured (R507) -/
  flash : Tbl (Option Byte)
  /-- flash areas erased since manufacture: an unlisted byte of one reads as erased (R507, R520) -/
  erased : List Nat
  keptCode : Option Word
  repairs : List Repair
  repairsDue : List Repair
  deriving DecidableEq, Repr

def Boot.reset : Boot :=
  { stage := 0, attempt := 0, err := 0, backoff := 1, startDue := true, recovering := false, recovered := false,
    imageMsg := [], sectionDigests := [], imgSlot := 0, record := [], identity := [], selfTests := false, udsLocked := false,
    hltUp := false, lmsNext := 0, journal := 0, journalBad := false, lmsLow := false, lmsExhausted := false, updPending := false, staging := [],
    staged := 0, stagingOwner := none, stagingKind := 0, updState := 0, updSource := 0, commitSource := 0, waitOver := false, updCode := 0,
    nextLifecycle := none, flash := [], erased := [], keptCode := none, repairs := [], repairsDue := [] }

/-- The module's pins and the sideband (R540–R554). -/
structure Board where
  powered : Bool
  resetLow : Bool
  leakWet : Bool
  alert : Bool
  i3cAddr : Option Nat
  eid : Byte
  eventReceiver : Option Byte
  tap : TapInstr
  /-- ports whose PERSTx_L is deasserted (R554) -/
  perstHigh : List Nat
  /-- every rail of step 4 of R554 came up -/
  railsGood : Bool
  /-- a rail failed to come up, not reported yet (R554) -/
  railFault : Bool
  /-- last readings: blades P1 and P2 in mV, input current in mA, coolant inlet and outlet in 0.1 °C (R540, R541, R552)
  -/
  blade1 : Nat
  blade2 : Nat
  milliamps : Nat
  inlet : Int
  outlet : Int
  /-- blades whose present excursion below 47.0 V, or above 55.0 V, has been reported (R541) -/
  lowTold : List Nat
  highTold : List Nat
  deriving DecidableEq, Repr

def Board.reset : Board :=
  { powered := true, resetLow := false, leakWet := false, alert := false, i3cAddr := none, eid := 0, eventReceiver := none,
    tap := .idcode, perstHigh := [], railsGood := true, railFault := false, blade1 := 48000, blade2 := 48000,
    milliamps := 0, inlet := 0, outlet := 0, lowTold := [], highTold := [] }

/-- The class code each port presents: processing accelerator (R480). -/
def pcieClassCode : BitVec 24 := 0x120000

/-- What leaves the module. -/
inductive Out where
  /-- a transport packet handed to the links -/
  | packet (p : Packet)
  /-- a flit put on a lane of a link: header word, payload and the CRC at 0xFC (R258, R263) -/
  | flit (link lane : Nat) (header : DWord) (payload : List Byte) (crc : Word)
  /-- bytes written into host memory through a window, with the EP bit (R226, R497) -/
  | hostWrite (port addr : Nat) (bytes : List Byte) (ep : Bool)
  /-- a read request to host memory -/
  | hostRead (port addr len : Nat)
  /-- an MSI-X vector fires (R498) -/
  | msix (port vec : Nat)
  /-- AER Uncorrectable Internal Error (R498) -/
  | aer (port : Nat)
  /-- a BAR2 read completion: bytes, EP (R226) -/
  | bar2 (port : Nat) (bytes : List Byte) (ep : Bool)
  /-- an unsupported-request completion -/
  | unsupported (port : Nat)
  /-- a service-protocol response of 16 bytes (R518) -/
  | svc (src : SvcSource) (bytes : List Byte)
  /-- an SPDM response (R524) -/
  | spdm (port : Nat) (bytes : List Byte)
  /-- a PLDM completion code -/
  | pldm (code : Nat)
  /-- a PLDM platform event: sensor and value (R552) -/
  | event (eid : Byte) (sensor : Nat) (value : Int)
  /-- a byte string on TDO (R549) -/
  | tdo (v : Word)
  deriving DecidableEq, Repr

/-- A place whose next use finds a parity or uncorrectable error (R95, R101, R130, R154, R181, R206, R291). -/
inductive ParitySite where
  /-- a bank, the entry copy or the epilogue of an array of a core -/
  | array (core : Nat) (arr : Arr)
  /-- a lane, the a48 adder or a table slot -/
  | vector (core : Nat)
  /-- the copy engine's buffers or adders -/
  | copy (core : Nat)
  /-- a core's counters or watch slots -/
  | sync (core : Nat)
  /-- the fence table -/
  | fences
  /-- a context's statistics accumulators or their bank state -/
  | stats (ctx : Nat)
  /-- a port's link buffer -/
  | linkBuffer (port : Nat)
  deriving DecidableEq, Repr

/-- The whole module. -/
structure State where
  /-- commands waiting, first in, first out -/
  pending : List Instr
  /-- SU_TIME (R200) -/
  suTime : Nat
  /-- SU_TIME_HI as the last read of SU_TIME_LO latched it (R205) -/
  suTimeHi : Word
  /-- physical cores 0–191; an unlisted one is `Core.reset` -/
  cores : Tbl Core
  /-- contexts 0–7; an unlisted one is `Ctx.reset` -/
  ctxs : Tbl Ctx
  /-- SCH: accepted host commands in arrival order -/
  sch : List HostCmd
  /-- HBM bytes by local address -/
  hbm : Memory
  /-- lid bytes by physical unit × 32 MiB + offset -/
  lid : Memory
  /-- core-store bytes by physical core × 4 MiB + address -/
  store : Memory
  /-- granule table; an unlisted entry is 0 -/
  granules : Tbl DWord
  /-- granule owner; an unlisted one is none -/
  granOwner : Tbl (Option Nat)
  lidUnits : Tbl LidUnit
  /-- sets of the lid cache units, keyed unit × 8,192 + set -/
  cache : Tbl CacheSet
  /-- bytes, marks and latent errors of the lines that the lid caches hold, by local address (R216, R217, R222) -/
  lines : Memory
  chans : Tbl Chan
  /-- map-outs queued behind the running one, and the commands that wait for them -/
  mapouts : List Nat
  mapoutCmds : List (Nat × HostCmd)
  /-- CTX_RESUME commands that wait for a channel's map-out: channel, context, command (R246) -/
  resumeWaits : List (Nat × Nat × HostCmd)
  hbmCfg : Word
  /-- KAK_RUN or cores waiting for kernels -/
  kakCmd : Option HostCmd
  ports : Tbl Port
  links : Tbl Link
  fences : List Fence
  /-- writes from outside that wait for a snapshot slot, and accesses that must not pass them, in order (R403) -/
  snapWaiting : List Instr
  /-- the model's own: latent errors of the places named (log 21) -/
  parity : List ParitySite
  fenceFull : Bool
  hub : List HubMsg
  fab : Fab
  err : Errors
  pw : Power
  fuses : Fuses
  boot : Boot
  board : Board
  /-- request tags given to remote reads -/
  nextTag : Nat
  /-- the model's own: how many free values have been drawn (no register of the spec) -/
  freeCount : Nat
  /-- what the module has sent, latest last -/
  out : List Out
  deriving DecidableEq, Repr

/-- The module right after power-on reset is released: nothing started, every register at its reset value. -/
def State.reset : State :=
  { pending := [], suTime := 0, suTimeHi := 0, cores := [], ctxs := [], sch := [], hbm := Memory.reset, lid := Memory.reset,
    store := Memory.reset, granules := [], granOwner := [], lidUnits := [], cache := [], lines := Memory.reset, chans := [],
    mapouts := [], mapoutCmds := [], resumeWaits := [], hbmCfg := 0x2001, kakCmd := none, ports := [], links := [], fences := [], snapWaiting := [],
    parity := [],
    fenceFull := false, hub := [], fab := Fab.reset, err := Errors.reset, pw := Power.reset, fuses := Fuses.reset,
    boot := Boot.reset, board := Board.reset, nextTag := 0, freeCount := 0, out := [] }

end Sys2Proof.Machine
end

