-- ==== Sys2Proof/Machine/Tbl.lean ====
section
/-! DEFINITION. Sparse tables: reading, writing in canonical form, and runs of consecutive keys. -/

namespace Sys2Proof

/-- What the table holds at key `k`; `d` is what an unlisted key reads as. -/
def Tbl.get {α : Type} (d : α) (t : Tbl α) (k : Nat) : α :=
  match t with
  | [] => d
  | (k', v) :: r => if k' = k then v else if k < k' then d else Tbl.get d r k

/-- The table with `v` at key `k`, in canonical form. -/
def Tbl.set {α : Type} [DecidableEq α] (d : α) (t : Tbl α) (k : Nat) (v : α) : Tbl α :=
  match t with
  | [] => if v = d then [] else [(k, v)]
  | (k', v') :: r =>
    if k < k' then (if v = d then (k', v') :: r else (k, v) :: (k', v') :: r)
    else if k = k' then (if v = d then r else (k, v) :: r)
    else (k', v') :: Tbl.set d r k v

/-- Keys at or above `lo`, strictly rising, no entry equal to the default. -/
def Tbl.okFrom {α : Type} [DecidableEq α] (d : α) (lo : Nat) : Tbl α → Bool
  | [] => true
  | (k, v) :: r => decide (lo ≤ k) && decide (v ≠ d) && Tbl.okFrom d (k + 1) r

/-- The canonical form. -/
def Tbl.wf {α : Type} [DecidableEq α] (d : α) (t : Tbl α) : Bool := Tbl.okFrom d 0 t

/-- The `n` values at consecutive keys from `k`. -/
def Tbl.getRun {α : Type} (d : α) (t : Tbl α) (k n : Nat) : List α :=
  (List.range n).map fun i => Tbl.get d t (k + i)

/-- The table with the values `vs` at consecutive keys from `k`. -/
def Tbl.setRun {α : Type} [DecidableEq α] (d : α) (t : Tbl α) (k : Nat) (vs : List α) : Tbl α :=
  match vs with
  | [] => t
  | v :: r => Tbl.setRun d (Tbl.set d t k v) (k + 1) r

/-- The table with every key from `k` to `k + n − 1` reading the default. -/
def Tbl.clearRun {α : Type} (t : Tbl α) (k n : Nat) : Tbl α :=
  t.filter fun e => !(decide (k ≤ e.1) && decide (e.1 < k + n))

/-- A list of keys used as a set, rising without repeats: with `k` in it. -/
def keyInsert (k : Nat) : List Nat → List Nat
  | [] => [k]
  | a :: r => if k < a then k :: a :: r else if k = a then a :: r else a :: keyInsert k r

/-- Strictly rising from `lo`. -/
def keysOkFrom (lo : Nat) : List Nat → Bool
  | [] => true
  | a :: r => decide (lo ≤ a) && keysOkFrom (a + 1) r

/-- Without the keys from `k` to `k + n − 1`. -/
def keyRemoveRun (k n : Nat) (l : List Nat) : List Nat :=
  l.filter fun a => !(decide (k ≤ a) && decide (a < k + n))

end Sys2Proof
end

