-- ==== Sys2Proof/Machine/Ops.lean ====
section
/-! DEFINITION. Named operations over the state: its tables, the error log (R427, R428), completion records and
interrupts (R494–R498), and the move to FAULTED (R31). -/

namespace Sys2Proof.Machine

/-! ### Tables -/

def State.core (s : State) (p : Nat) : Core := Tbl.get Core.reset s.cores p
def State.setCore (s : State) (p : Nat) (c : Core) : State := { s with cores := Tbl.set Core.reset s.cores p c }
def State.modCore (s : State) (p : Nat) (f : Core → Core) : State := s.setCore p (f (s.core p))

def State.ctx (s : State) (c : Nat) : Ctx := Tbl.get Ctx.reset s.ctxs c
def State.setCtx (s : State) (c : Nat) (x : Ctx) : State := { s with ctxs := Tbl.set Ctx.reset s.ctxs c x }
def State.modCtx (s : State) (c : Nat) (f : Ctx → Ctx) : State := s.setCtx c (f (s.ctx c))

def State.port (s : State) (p : Nat) : Port := Tbl.get Port.reset s.ports p
def State.setPort (s : State) (p : Nat) (x : Port) : State := { s with ports := Tbl.set Port.reset s.ports p x }
def State.modPort (s : State) (p : Nat) (f : Port → Port) : State := s.setPort p (f (s.port p))

def State.link (s : State) (l : Nat) : Link := Tbl.get Link.reset s.links l
def State.setLink (s : State) (l : Nat) (x : Link) : State := { s with links := Tbl.set Link.reset s.links l x }
def State.modLink (s : State) (l : Nat) (f : Link → Link) : State := s.setLink l (f (s.link l))

def State.chan (s : State) (c : Nat) : Chan := Tbl.get Chan.reset s.chans c
def State.setChan (s : State) (c : Nat) (x : Chan) : State := { s with chans := Tbl.set Chan.reset s.chans c x }
def State.modChan (s : State) (c : Nat) (f : Chan → Chan) : State := s.setChan c (f (s.chan c))

def State.lidUnit (s : State) (u : Nat) : LidUnit := Tbl.get LidUnit.reset s.lidUnits u
def State.setLidUnit (s : State) (u : Nat) (x : LidUnit) : State :=
  { s with lidUnits := Tbl.set LidUnit.reset s.lidUnits u x }

def State.cluster (s : State) (c : Nat) : Cluster := Tbl.get Cluster.reset s.pw.clusters c
def State.setCluster (s : State) (c : Nat) (x : Cluster) : State :=
  { s with pw := { s.pw with clusters := Tbl.set Cluster.reset s.pw.clusters c x } }

/-- A free value is drawn. -/
def State.draw (s : State) : Nat × State := (Config.free s.freeCount, { s with freeCount := s.freeCount + 1 })

/-- The latent error of a place has been found. -/
def State.clearParity (s : State) (x : ParitySite) : State := { s with parity := s.parity.filter fun y => y != x }

/-- The state after sending something out of the module. -/
def State.emit (s : State) (o : Out) : State := { s with out := s.out ++ [o] }

def State.modStep (s : State) (c : Nat) (f : StepSt → StepSt) : State :=
  s.modCtx c fun x => { x with step := f x.step }

def State.modRegs (s : State) (c : Nat) (f : CtxRegs → CtxRegs) : State :=
  s.modCtx c fun x => { x with regs := f x.regs }

/-- Fold an update over a list of numbers. -/
def State.each (s : State) (l : List Nat) (f : State → Nat → State) : State := l.foldl f s

/-- The context numbers. -/
def ctxNums : List Nat := List.range 8

/-- Index of a value in a list. -/
def indexOf? (l : List Nat) (x : Nat) : Option Nat :=
  match l with
  | [] => none
  | y :: r => if y = x then some 0 else (indexOf? r x).map (· + 1)

/-- The context that holds a physical core, and its logical number there (R25, R26). -/
def State.coreOwner (s : State) (p : Nat) : Option (Nat × Nat) :=
  ctxNums.findSome? fun c => (indexOf? (s.ctx c).cores p).map fun i => (c, i)

/-- The physical core of a logical core. -/
def State.physCore (s : State) (ctx lcore : Nat) : Option Nat := (s.ctx ctx).cores[lcore]?

/-- A command that acts on a unit which the module does not have. -/
def inRange (ok : Bool) (s : State) : Host.Outcome State Fault Refusal :=
  if ok then .next s else .fault .noSuchUnit

/-! ### Completion records and interrupts -/

/-- An MSI-X vector is raised; vectors 1–9 are coalesced by HX_IRQ_CFG (R498). -/
def State.raiseVector (s : State) (port vec : Nat) : State :=
  let p := s.port port
  let count := fld p.irqCfg 24 8
  if vec = 0 ∨ count = 0 then s.emit (.msix port vec)
  else
    let n := Tbl.get 0 p.irqPending vec + 1
    if count ≤ n then (s.setPort port { p with irqPending := Tbl.set 0 p.irqPending vec 0 }).emit (.msix port vec)
    else s.setPort port { p with irqPending := Tbl.set 0 p.irqPending vec n }

/-- The 48 bytes of a record, its index aside (R495). -/
def recordBytes (tag kind ctx status opLo code aux : Nat) (result : List Byte) : List Byte :=
  leBytes 8 tag ++ zeros 4 ++ leBytes 1 kind ++ leBytes 1 ctx ++ leBytes 1 status ++ leBytes 1 opLo ++
    leBytes 4 code ++ leBytes 4 aux ++ slice result 0 24

/-- 65,536 records are unconsumed (R494). -/
def Port.full (p : Port) : Bool := p.cplProd - p.cplCons == 65536

/-- The vector of a record by its context byte (R498). -/
def vecOf (ctx : Nat) : Nat := if ctx < 8 then 2 + ctx else 1

/-- Write one record into the buffer of a port that has space (R494, R495, R498). -/
def State.storeRecord (s : State) (port : Nat) (r : List Byte) (irq : Bool) : State :=
  let p := s.port port
  let ctx := fieldAt r 0x0D 1
  let p' := { p with
    records := Tbl.set [] p.records (p.cplProd.toNat % 65536) (patch r 8 (leBytes 4 p.cplProd.toNat))
    cplProd := p.cplProd + 1
    irqStatus := p.irqStatus ||| (if ctx < 8 then at32 (8 + ctx) 1 else at32 2 1) }
  let s' := s.setPort port p'
  if irq then s'.raiseVector port (vecOf ctx) else s'

/-- Write a record, or keep it in order until space frees (R496). -/
def State.postRecord (s : State) (port : Nat) (r : List Byte) (irq : Bool) : State :=
  let p := s.port port
  if p.full || !p.waiting.isEmpty then
    s.setPort port { p with waiting := p.waiting ++ [(r, vecOf (fieldAt r 0x0D 1), irq)] }
  else s.storeRecord port r irq

/-- Records that waited enter the buffer while it has space (R496). -/
def State.drainWaiting (s : State) (port : Nat) : List (List Byte × Nat × Bool) → State
  | [] => s.modPort port fun p => { p with waiting := [] }
  | (r, v, irq) :: rest =>
    if (s.port port).full then s.modPort port fun p => { p with waiting := (r, v, irq) :: rest }
    else State.drainWaiting (s.storeRecord port r irq) port rest

/-- An event record of a context: 1 FAULTED, 2 PAUSED, 3 FINISHED, 4 HANDED_OVER (R493, R495). -/
def State.event (s : State) (c op : Nat) (code : Word) : State :=
  s.postRecord (s.ctx c).owner (recordBytes 0 2 c 0 op code.toNat 0 []) true

/-- The completion record of a host command (R490, R493, R495). -/
def State.complete (s : State) (h : HostCmd) (status : Nat) (code : Word) (ctx aux : Nat) (result : List Byte) :
    State :=
  s.postRecord h.port (recordBytes h.tag.toNat 0 ctx status h.opcode code.toNat aux result) h.irq

/-- A command ends with a status and no more. -/
def State.finish (s : State) (h : HostCmd) (status : Nat) (code : Word := 0) : State :=
  s.complete h status code h.ctxId 0 []

/-! ### The error log -/

/-- An entry joins its class; true when the overflow flag rose (R428). -/
def ErrClass.enter (e : ErrClass) (l : LogEntry) : ErrClass × Bool :=
  let n := (e.count + 1) % 2 ^ 64
  if e.first.length < 8 then ({ e with count := n, first := e.first ++ [l] }, false)
  else if e.last.length < 8 then ({ e with count := n, last := e.last ++ [l] }, false)
  else ({ e with count := n, last := e.last.drop 1 ++ [l], overflow := true }, !e.overflow)

/-- An entry joins the log; a rising overflow enters EL_LOG_OVF, at most twice more (R428). The severities of all
entries made are returned. -/
def Errors.logFrom : Nat → Errors → LogEntry → Errors × List Nat
  | fuel, er, l =>
    let u := unitOf l.code
    let (c, rose) := (Tbl.get ErrClass.reset er.classes u).enter l
    let er' := { er with classes := Tbl.set ErrClass.reset er.classes u c,
                         seen := er.seen ||| BitVec.ofNat 4 (2 ^ (severityOf l.code - 1)) }
    match rose, fuel with
    | true, fuel + 1 =>
      let o : LogEntry := ⟨codeAt Code.elLogOvf u, 0xFF, 0, l.time, 0, 0⟩
      let r := Errors.logFrom fuel er' o
      (r.1, severityOf l.code :: r.2)
    | _, _ => (er', [severityOf l.code])

/-- A port's part of a report (R436, R498). -/
def State.signalPort (s : State) (sevs : List Nat) (port : Nat) : State :=
  let p := s.port port
  let lim := fld p.irqCfg 0 3
  let el := decide (lim ≠ 0) && sevs.any (fun v => decide (lim ≤ v))
  let fatal := sevs.contains 4
  let s1 := s.setPort port { p with
    irqStatus := p.irqStatus ||| at32 1 (b2n el) ||| at32 0 (b2n fatal) }
  let s2 := if el || fatal then s1.raiseVector port 0 else s1
  if fatal then s2.emit (.aer port) else s2

/-- What a report carries beside its code (R427). -/
structure Where where
  ctx : Option Nat := none
  step : Option Nat := none
  info : Nat := 0
  slotLocal : Bool := false
  deriving DecidableEq, Repr

/-- Units whose entries carry info: cores, memories and links (R427). -/
def infoUnit (u : Nat) : Bool := decide (2 ≤ u) && decide (u ≤ 0x0B) || u == 0x0D

/-- One report reaches the aggregator (R427, R428, R498); a severity-4 one asserts ALERT_L (R546). -/
def State.report (s : State) (code : Word) (w : Where := {}) : State :=
  let secure := match w.ctx with
    | some c => (s.ctx c).desc.secure
    | none => false
  let l : LogEntry :=
    { code := code, ctx := w.ctx.getD 0xFF,
      flags := BitVec.ofNat 8 (b2n w.step.isSome + 2 * b2n secure + 4 * b2n w.slotLocal),
      time := s.suTime, step := BitVec.ofNat 64 (w.step.getD 0),
      info := if infoUnit (unitOf code) then BitVec.ofNat 64 w.info else 0 }
  let (er, sevs) := Errors.logFrom 2 s.err l
  let s1 := { s with err := er, board := { s.board with alert := s.board.alert || severityOf code == 4 } }
  (s1.signalPort sevs 0).signalPort sevs 1

/-! ### FAULTED -/

/-- The states a context can be faulted from (R28). -/
def CtxState.faultable : CtxState → Bool
  | .created | .running | .paused | .suspended | .finished => true
  | .free | .faulted => false

/-- A core's sequencer stops and its engines abandon their commands (R31). -/
def Core.stop (c : Core) : Core :=
  { c with seq := { c.seq with running := false }, qWarp := [], qWeft := [], qVec := [], qCopy := [], qSync := [],
           toSignal := [], pairs := [], quarDue := none, ce := [], hazardHold := false, suWait := none, rsigOut := [],
           warp := { c.warp with drains := [], recheck := none }, weft := { c.weft with drains := [], recheck := none } }

/-- A set of pages with one more. -/
def pageInsert (k : Nat × Nat) (l : List (Nat × Nat)) : List (Nat × Nat) := if l.contains k then l else l ++ [k]

/-- The checkpoint is over: nothing is in progress and the snapshot slots are free. -/
def Ckpt.idle (k : Ckpt) : Ckpt :=
  { k with state := 0, kind := 0, cmd := none, seq := 0, poolChip := 0, poolBase := 0, poolSize := 0, tensors := [],
           left := [], frozen := [], saved := [], pages := [], extra := [], shards := [], shardsSent := false,
           sent := 0, acked := 0, manifestSent := false, live := [], snapWait := false, rMode := 0, rSources := [],
           rTensors := [], rData := [], rGot := [] }

/-- A checkpoint or restore ends without success (R412, R413, R415): every dirty bit stays, the base is not valid. -/
def State.ckFail (s : State) (c code : Nat) : State :=
  let k := (s.ctx c).ck
  let s1 := s.modCtx c fun x => { x with ck := { k.idle with
    dirty := k.live.foldl (fun l e => pageInsert e l) k.dirty, baseValid := false } }
  let s2 := s1.report (codeAt code c) { ctx := some c }
  match k.cmd with
  | some h => s2.complete h 9 (codeAt code c) c 0 []
  | none => s2

/-- A context moves to FAULTED (R28, R31): its sequencers and engines stop, its memory stays owned, and its event
record is written (R495). A checkpoint that awaits its snapshot is aborted (R398). -/
def State.faultCtx (s : State) (c : Nat) (code : Word) : State :=
  let x := s.ctx c
  if x.st.faultable && !x.zeroing then
    let s1 := s.setCtx c { x with st := .faulted, faultCode := code }
    let s2 := (s1.each x.cores fun t p => t.modCore p Core.stop).event c 1 code
    if x.ck.state = 1 then s2.ckFail c Code.ckAborted else s2
  else s

/-- A report whose severity 3 faults the context it concerns (R424). -/
def State.raise (s : State) (code : Word) (w : Where) : State :=
  let s1 := s.report code w
  match w.ctx with
  | some c => if severityOf code = 3 then s1.faultCtx c code else s1
  | none => s1

/-- Address and place of a core's command slot for the log: a stream outside the core store is local (R427). -/
def Core.whereOf (c : Core) (ctx : Option Nat) (addr : Nat) : Where :=
  { ctx := ctx, step := c.seq.lastStep, info := addr, slotLocal := !c.seq.inStore }

/-- An error of an engine or the sequencer of physical core `p` in the command at slot `addr` (R47, R427). -/
def State.raiseCore (s : State) (code p addr : Nat) : State :=
  s.raise (codeAt code p) ((s.core p).whereOf ((s.coreOwner p).map (·.1)) addr)

end Sys2Proof.Machine
end

