-- ==== Sys2Proof/Machine/Mem.lean ====
section
/-! DEFINITION. The memories: the address map and granule table (R207–R211), channel transfers and write buffers (R220,
R235), stored errors and poison (R219–R223), lid caches (R213–R217), row repair, page retirement and the trigger of a
map-out (R238–R246), and a read and a write of any of them. -/

namespace Sys2Proof.Machine

/-! ### Granules (R209, R210) -/

/-- A granule table entry, field by field. -/
structure Gran where
  valid : Bool
  mode : Nat
  set : Nat
  subEn : Bool
  subFrom : Nat
  subTo : Nat
  subChunk : Nat
  chunk : Nat
  deriving DecidableEq, Repr

def Gran.ofWord (w : DWord) : Gran :=
  let x := w.toNat
  ⟨bitAt x 63, bits x 61 2, bits x 57 4, bitAt x 56, bits x 48 8, bits x 40 8, bits x 26 14, bits x 12 14⟩

def Gran.toWord (g : Gran) : DWord :=
  BitVec.ofNat 64 (b2n g.valid * 2 ^ 63 + g.mode % 4 * 2 ^ 61 + g.set % 16 * 2 ^ 57 + b2n g.subEn * 2 ^ 56 +
    g.subFrom % 256 * 2 ^ 48 + g.subTo % 256 * 2 ^ 40 + g.subChunk % 2 ^ 14 * 2 ^ 26 + g.chunk % 2 ^ 14 * 2 ^ 12)

/-- log2 of the channels of a set (R210). -/
def modeBits : Nat → Nat
  | 0 => 4 | 1 => 5 | _ => 8

/-- First channel of a set (R14, R210). -/
def setBase (mode set : Nat) : Nat :=
  match mode with
  | 0 => 16 * set
  | 1 => 32 * set
  | _ => 0

/-- Size of a part in chunks of 256 KiB (R209). -/
def partChunks : Nat → Nat
  | 0 => 16 | 1 => 8 | _ => 1

/-- The home cluster of a channel (R14). -/
def clusterOfChan (ch : Nat) : Nat := ch / 16

def State.gran (s : State) (g : Nat) : Gran := Gran.ofWord (Tbl.get 0 s.granules g)
def State.setGran (s : State) (g : Nat) (w : DWord) : State := { s with granules := Tbl.set 0 s.granules g w }
def State.granOwnerOf (s : State) (g : Nat) : Option Nat := Tbl.get none s.granOwner g
def State.setGranOwner (s : State) (g : Nat) (o : Option Nat) : State :=
  { s with granOwner := Tbl.set none s.granOwner g o }

/-- Channel and channel offset of an HBM local address (R210). -/
def State.hbmPlace (s : State) (a : Nat) : Option (Nat × Nat) :=
  let e := s.gran (a / 2 ^ 26)
  if e.valid then
    let o := a % 2 ^ 26
    let n := 2 ^ modeBits e.mode
    let b := o / 256
    let p := b / n
    let j := (b % n) ^^^ (p % n)
    let ch := setBase e.mode e.set + j
    let (ch', off) := if e.subEn && ch == e.subFrom then (e.subTo, e.subChunk) else (ch, e.chunk)
    some (ch', off * 2 ^ 18 + p * 256 + o % 256)
  else none

/-- A part of a granule in a channel: its first chunk, the channel index in the set that it serves, and whether it is
the substitute (R209, R210). -/
structure Part where
  chunk : Nat
  j : Nat
  sub : Bool
  deriving DecidableEq, Repr

/-- The parts that an entry places in a channel: its own one, and the substitute for another channel (R209, R243). -/
def Gran.parts (e : Gran) (ch : Nat) : List Part :=
  let base := setBase e.mode e.set
  let own := decide (base ≤ ch) && decide (ch < base + 2 ^ modeBits e.mode) && !(e.subEn && e.subFrom == ch)
  (if e.valid && own then [⟨e.chunk, ch - base, false⟩] else []) ++
    (if e.valid && e.subEn && e.subTo == ch then [⟨e.subChunk, e.subFrom - base, true⟩] else [])

def Gran.hasPart (e : Gran) (ch : Nat) : Bool := !(e.parts ch).isEmpty

/-- The part covers a channel offset. -/
def Gran.covers (e : Gran) (q : Part) (x : Nat) : Bool :=
  decide (q.chunk * 2 ^ 18 ≤ x) && decide (x < (q.chunk + partChunks e.mode) * 2 ^ 18)

/-- Local address, within granule `g`, of block `k` of a part (the inverse of R210). -/
def Gran.blockAt (e : Gran) (g : Nat) (q : Part) (k : Nat) : Nat :=
  let n := 2 ^ modeBits e.mode
  g * 2 ^ 26 + (k * n + (q.j ^^^ (k % n))) * 256

/-- The local address stored at offset `x` of channel `ch`, if a granule covers it. -/
def State.localOf (s : State) (ch x : Nat) : Option Nat :=
  s.granules.findSome? fun (g, w) =>
    let e := Gran.ofWord w
    ((e.parts ch).find? fun q => e.covers q x).map fun q => e.blockAt g q ((x - q.chunk * 2 ^ 18) / 256) + x % 256

/-- Row, bank and 2 KiB row base of a channel offset (R211). -/
def rowOf (x : Nat) : Nat := x / 2 ^ 17
def bankOf (x : Nat) : Nat := bits x 11 6 ^^^ (rowOf x % 64)

/-- Granules a context owns that keep a part in the channel, ascending (R243). -/
def State.granulesIn (s : State) (ch : Nat) : List (Nat × Nat) :=
  s.granOwner.filterMap fun (g, o) => match o with
    | some c => if (s.gran g).hasPart ch then some (g, c) else none
    | none => none

/-- How many channels are mapped out. -/
def State.mappedOut (s : State) : Nat := (s.chans.filter fun e => e.2.mappedOut).length

/-- Granule numbers in the free pool, ascending: the 36 highest unowned numbers of each map-out are taken out of use
(R245). -/
def State.freeGranules (s : State) : List Nat :=
  let un := (List.range 9216).filter fun g => (s.granOwnerOf g).isNone
  un.take (un.length - 36 * s.mappedOut)

/-! ### Counters of MS_CH_ERR, MS_LID_ERR and MS_CS_ERR (R227, R228) -/

def satFld (w : Word) (lo n : Nat) : Word := setFld w lo n (satAdd n (fld w lo n) 1)

/-- A channel's unit is read with an error: its local address if a granule covers it, else the channel offset (R221,
R424). -/
def State.noteHbm (s : State) (ch x : Nat) (a : Option Nat) (ue : Bool) : State :=
  (s.modChan ch fun k => { k with err := if ue then satFld k.err 0 8 else satFld k.err 16 16 }).report
    (codeAt (if ue then Code.hbmUe else Code.hbmCe) ch)
    { ctx := a.bind fun b => s.granOwnerOf (b / 2 ^ 26), info := a.getD (x / 64 * 64) }

/-- A lid unit of a slice is read with an error (R222, R228). -/
def State.noteLid (s : State) (sl : Nat) (c : Option Nat) (addr : Nat) (ue : Bool) : State :=
  let x := s.cluster sl
  (s.setCluster sl { x with lidErr := if ue then satFld x.lidErr 0 16 else satFld x.lidErr 16 16 }).report
    (codeAt (if ue then Code.lidUe else Code.lidCe) sl) { ctx := c, info := addr }

/-- A read's outcome on a stored unit of the lid scratchpad (1), of a core store (2) or of a lid cache line (3) (R222).
-/
def State.noteError (s : State) (sp key addr : Nat) (ue : Bool) : State :=
  match sp with
  | 1 => s.noteLid (key / 2 ^ 25 / 8) (s.lidUnit (key / 2 ^ 25)).owner addr ue
  | 3 => match s.hbmPlace key with
    | some (ch, _) => s.noteLid (clusterOfChan ch) (s.granOwnerOf (key / 2 ^ 26)) addr ue
    | none => s
  | _ =>
    let p := key / 2 ^ 22
    (s.modCore p fun x => { x with msCsErr := if ue then satFld x.msCsErr 0 16 else satFld x.msCsErr 16 16 }).report
      (codeAt (if ue then Code.csUe else Code.csCe) p) { ctx := (s.coreOwner p).map (·.1), info := addr }

/-! ### Map-out and relocation triggers -/

/-- A RUNNING context that has executed a STEP is paused at its next step boundary (R244). -/
def State.memoryPause (s : State) (c : Nat) : State :=
  let x := s.ctx c
  if x.st = .running ∧ x.step.declared.isSome ∧ x.step.pausePending.isNone then
    s.setCtx c { x with step := { x.step with pausePending := some 0, pausedByMemory := true } }
  else s

/-- HBM_MAPOUT_REFUSED: each context that owns a granule left there moves to FAULTED (R246). -/
def State.refuseMapout (s : State) (ch : Nat) (owners : List Nat) : State :=
  let code := codeAt Code.hbmMapoutRefused ch
  owners.foldl (fun t c => t.raise code { ctx := some c }) (if owners.isEmpty then s.report code else s)

/-- Channels whose map-out is triggered and not complete. -/
def State.pendingChans (s : State) : List Nat := (s.chans.filter fun e => e.2.pending && !e.2.mappedOut).map (·.1)

/-- A map-out is triggered: queued for relocation, or refused when granule numbers are short (R243, R245, R246). -/
def State.triggerMapout (s : State) (ch : Nat) : State :=
  let x := s.chan ch
  if x.pending || x.mappedOut then s
  else
    let short := decide (s.freeGranules.length < 36 * (s.pendingChans.length + 1))
    let s1 := s.setChan ch { x with pending := true }
    let owners := ((s.granulesIn ch).map (·.2)).filter fun c => !(s.ctx c).zeroing
    if short then s1.refuseMapout ch owners.dedup
    else ({ s1 with mapouts := s.mapouts ++ [ch] } : State).each owners.dedup State.memoryPause

/-- A retired page lies in the part. -/
def Chan.retiredIn (k : Chan) (e : Gran) (q : Part) : Bool := k.retired.any fun pg => e.covers q (pg * 2 ^ 16)

/-- A part has to leave its place: its channel's map-out is queued, or a retired page lies in it and it is not one that
stays (R241, R243, R246). -/
def State.mustMove (s : State) (ch g : Nat) (q : Part) : Bool :=
  let k := s.chan ch
  let e := s.gran g
  if k.pending then s.mapouts.contains ch
  else k.retiredIn e q && !(e.subEn && !q.sub) && !k.held.contains g

/-- Granules with their owners that have a part to move out of its place in the channel; those of a destroyed context are
abandoned (R246). -/
def State.toMove (s : State) (ch : Nat) : List (Nat × Nat) :=
  s.granOwner.filterMap fun (g, o) => match o with
    | some c => if ((s.gran g).parts ch).any (s.mustMove ch g) && !(s.ctx c).zeroing then some (g, c) else none
    | none => none

/-- A part of the context's granules is to be relocated (R244). -/
def State.moveDue (s : State) (c : Nat) : Bool := s.chans.any fun e => (s.toMove e.1).any fun x => x.2 == c

/-- A channel's parts can be copied now: no owner runs, and its map-out, if it has one, is first (R244, R246, R249). -/
def State.moving (s : State) (ch : Nat) : Bool :=
  let todo := s.toMove ch
  !todo.isEmpty && !(s.chan ch).mappedOut && !((s.chan ch).pending && s.mapouts.head? != some ch) &&
    !todo.any fun e => (s.ctx e.2).st == .running

/-- A page needs retirement (R240, R241). -/
def State.retirePage (s : State) (ch x : Nat) : State :=
  let c := s.chan ch
  let page := x / 2 ^ 16
  if c.retired.contains page || decide (64 ≤ c.retired.length) then s
  else
    let s1 := (s.setChan ch { c with retired := c.retired ++ [page] }).report (codeAt Code.hbmPageRetire ch)
      { info := x }
    let s2 := { s1 with boot := { s1.boot with repairsDue := s1.boot.repairsDue ++ [.retired ch page] } }
    let s3 := match s2.localOf ch x with
      | none => s2
      | some a =>
        let g := a / 2 ^ 26
        let e := s2.gran g
        match s2.granOwnerOf g with
        | none => s2
        | some o =>
          if e.subEn && (e.parts ch).any (fun q => e.covers q x && !q.sub) then
            s2.report (codeAt Code.hbmRetireHeld ch) { info := x }
          else s2.memoryPause o
    if c.retired.length + 1 = 64 then s3.triggerMapout ch else s3

/-- A good spare of a bank (R238, R239). -/
def Chan.goodSpare (c : Chan) (bank : Nat) : Option Nat :=
  (List.range 8).find? fun k => !(c.badSpares.contains (bank, k)) &&
    !(c.remapped.any fun r => r.1 == bank && r.2.2 == k)

/-- The unit at a channel offset holds the poison code: a mark of the granule's unit, or of the channel's (R221). -/
def State.poisonCode (s : State) (ch x : Nat) : State :=
  match s.localOf ch x with
  | some a => { s with hbm := { s.hbm with poison := keyInsert (a / 64) s.hbm.poison } }
  | none => s.modChan ch fun k => { k with marks := keyInsert (x / 64) k.marks }

/-- A unit is read at its channel offset: its stored error is cleared, and an uncorrectable unit takes the poison
code. -/
def State.clearError (s : State) (ch x : Nat) : State :=
  match Tbl.get none (s.chan ch).errs (x / 64) with
  | none => s
  | some ue =>
    let s1 := s.modChan ch fun k => { k with errs := Tbl.set none k.errs (x / 64) none }
    if ue then s1.poisonCode ch x else s1

/-- A row is remapped: its uncorrectable units take the poison code, its corrected ones are written corrected
(R238). -/
def State.copyRow (s : State) (ch x : Nat) : State :=
  (List.range 32).foldl (fun t i => t.clearError ch (x / 2 ^ 11 * 2 ^ 11 + 64 * i)) s

/-- The row of offset `x` meets the condition of R238: it is remapped, or its page is retired. -/
def State.repairRow (s : State) (ch x : Nat) : State :=
  let c := s.chan ch
  let bank := bankOf x
  let row := rowOf x
  let key := bank * 2 ^ 15 + row
  match c.goodSpare bank with
  | none => s.retirePage ch x
  | some k =>
    let old := c.remapped.find? fun r => r.1 == bank && r.2.1 == row
    let c1 := { c with
      remapped := (c.remapped.filter fun r => !(r.1 == bank && r.2.1 == row)) ++ [(bank, row, k)]
      corrected := Tbl.set 0 c.corrected key 0
      remaps := satAdd 8 c.remaps 1 }
    let s1 := ((s.setChan ch c1).copyRow ch x).report (codeAt Code.hbmRowRemap ch) { info := x }
    let due := [Repair.remap ch bank row k]
    match old with
    | none => { s1 with boot := { s1.boot with repairsDue := s1.boot.repairsDue ++ due } }
    | some r =>
      let s2 := (s1.modChan ch fun y => { y with badSpares := y.badSpares ++ [(bank, r.2.2)],
                                                 sparesBad := satAdd 8 y.sparesBad 1 }).report
        (codeAt Code.hbmSpareBad ch) { info := x }
      { s2 with boot := { s2.boot with repairsDue := s2.boot.repairsDue ++ due ++ [.badSpare ch bank r.2.2] } }

/-- A row has delivered a corrected or uncorrectable unit (R238). -/
def State.rowEvent (s : State) (ch x : Nat) (ue : Bool) : State :=
  let key := bankOf x * 2 ^ 15 + rowOf x
  let n := Tbl.get 0 (s.chan ch).corrected key + 1
  if ue || decide (4 ≤ n) then s.repairRow ch x
  else s.modChan ch fun y => { y with corrected := Tbl.set 0 y.corrected key n }

/-- The base die reads the unit at a channel offset: a stored error is found (R221, R237, R238). -/
def State.readUnit (s : State) (ch x : Nat) : State :=
  match Tbl.get none (s.chan ch).errs (x / 64) with
  | none => s
  | some ue => ((s.clearError ch x).noteHbm ch x ((s.localOf ch x).map fun a => a / 64 * 64) ue).rowEvent ch x ue

/-! ### Channel transfers (R220, R235, R248) -/

/-- Every port that observes the channel counts a completed read, its latency free (R248). -/
def State.countRead (s : State) (ch : Nat) : State :=
  [0, 1].foldl (fun t p =>
    let x := t.port p
    if fld x.latSel 0 8 = ch then
      let b := min 15 (Config.readLatency t.freeCount / 2 ^ fld x.latSel 8 4)
      { t.setPort p { x with latBins := Tbl.set 0 x.latBins b (satInc (Tbl.get 0 x.latBins b)) } with
        freeCount := t.freeCount + 1 }
    else t) s

/-- `n` re-sends of a block (R220). -/
def State.resends (s : State) (ch a : Nat) : Nat → State
  | 0 => s
  | n + 1 => (((s.modChan ch fun x => { x with err := satFld x.err 8 8 }).report (codeAt Code.hbmResend ch)
      { info := a }).resends ch a n)

/-- How many sends of the next block fail. -/
def State.popXfer (s : State) (ch : Nat) : Nat × State :=
  match (s.chan ch).xferFails with
  | [] => (0, s)
  | n :: r => (n, s.modChan ch fun x => { x with xferFails := r })

/-- HBM_XFER_FAIL (R220, R227). -/
def State.xferFail (s : State) (ch a : Nat) : State :=
  (s.modChan ch fun x => { x with err := satFld x.err 0 8 }).report (codeAt Code.hbmXferFail ch) { info := a }

/-- HBM_CHANNEL_FAULT, which triggers a map-out (R220, R243). -/
def State.channelFault (s : State) (ch : Nat) : State :=
  if (s.chan ch).faulted then s
  else ((s.modChan ch fun x => { x with faulted := true }).report (codeAt Code.hbmChannelFault ch)).triggerMapout ch

/-- Units as a mask. -/
def unitMask (l : List Nat) : Nat := l.foldl (fun m i => m ||| 2 ^ i) 0

/-- Units of the 256-byte block at `a` are read from their channel, at channel offset `x`; those that are delivered
poisoned (R220). Units that the write buffer holds are served from there (R235); else the units `found` are read by the
base die (R221). -/
def State.chanRead (s : State) (ch a x : Nat) (named found : List Nat) : List Nat × State :=
  if (s.chan ch).faulted then (named, s)
  else
    let s1 := s.countRead ch
    let sent := named.filter fun i => !bitAt (Tbl.get Buffered.none (s1.chan ch).buffered (a / 256)).units i
    if sent.isEmpty then ([], s1)
    else
      let (n, s2) := s1.popXfer ch
      if n ≤ 2 then ([], found.foldl (fun t i => t.readUnit ch (x / 256 * 256 + 64 * i)) (s2.resends ch a n))
      else (sent, (s2.resends ch a 2).xferFail ch a)

/-- The four units of a block are marked poisoned. -/
def State.markBlock (s : State) (b : Nat) : State :=
  { s with hbm := { s.hbm with poison := [0, 1, 2, 3].foldl (fun l i => keyInsert (4 * b + i) l) s.hbm.poison } }

/-- The bytes of a block. -/
def State.blockBytes (s : State) (b : Nat) : List Byte := Tbl.getRun 0 s.hbm.bytes (b * 256) 256

/-- The base die has written nothing of a buffered block, which keeps the bytes it had (R220). -/
def State.discardBlock (s : State) (b : Nat) (e : Buffered) : State :=
  { s with hbm := { s.hbm with bytes := Tbl.setRun 0 s.hbm.bytes (b * 256) e.old } }

/-- A buffered block is sent to its base die: after three failures nothing of it is written and its units are marked
poisoned by command, after three more the channel is faulted (R220). -/
def State.sendBlock (s : State) (ch b : Nat) (e : Buffered) : State :=
  if (s.chan ch).faulted then s.discardBlock b e
  else
    let (n, s1) := s.popXfer ch
    let s2 := s1.resends ch (b * 256) (min n 2)
    if n ≤ 2 then s2
    else
      let s3 := (s2.discardBlock b e).xferFail ch (b * 256)
      if n ≤ 5 then (s3.markBlock b).resends ch (b * 256) (n - 3) else (s3.resends ch (b * 256) 2).channelFault ch

/-- The bus turns to write: every buffered block is sent (R235). -/
def State.turnBus (s : State) (ch : Nat) : State :=
  (s.chan ch).buffered.foldl (fun t e => t.sendBlock ch e.1 e.2) (s.modChan ch fun k => { k with buffered := [] })

/-- Blocks of the write burst that turn the bus (R235, R252). -/
def State.wrBurst (s : State) : Nat := fld s.hbmCfg 8 8

/-- A block of the write buffer takes further units; the base die's bytes are those of before its first. -/
def Buffered.add (e : Buffered) (old : List Byte) (units : List Nat) : Buffered :=
  ⟨e.units ||| unitMask units, if e.units = 0 then old else e.old⟩

/-- Units of a block that had the bytes `old` have been written: they enter the write buffer, and whole ones replace
stored errors (R219, R235). -/
def State.chanWrite (s : State) (ch a x : Nat) (old : List Byte) (units whole : List Nat) : State :=
  let s1 := s.modChan ch fun k => { k with
    errs := whole.foldl (fun t i => Tbl.set none t (x / 256 * 4 + i) none) k.errs
    buffered := Tbl.set Buffered.none k.buffered (a / 256)
      ((Tbl.get Buffered.none k.buffered (a / 256)).add old units) }
  if s.wrBurst ≤ (s1.chan ch).buffered.length then s1.turnBus ch else s1

/-! ### Lid caches (R216, R217) -/

def withBit (x i : Nat) (b : Bool) : Nat := x - b2n (bitAt x i) * 2 ^ i + b2n b * 2 ^ i

/-- Tree bits after an access to a way: every node on its path points away from it. -/
def plruTouch (t w : Nat) : Nat :=
  ([3, 2, 1, 0].foldl (fun (a : Nat × Nat) l => (withBit a.1 a.2 (!bitAt w l), 2 * a.2 + 1 + b2n (bitAt w l))) (t, 0)).1

/-- The way the tree points to. -/
def plruVictim (t : Nat) : Nat :=
  ([3, 2, 1, 0].foldl (fun (a : Nat × Nat) _ => (2 * a.1 + b2n (bitAt t a.2), 2 * a.2 + 1 + b2n (bitAt t a.2)))
    (0, 0)).1

/-- The cache units of a context in a slice, ascending (R217). -/
def State.cacheUnits (s : State) (c sl : Nat) : List Nat :=
  ((s.ctx c).lid.filter fun u => u.2 && u.1 / 8 == sl).map (·.1)

/-- The set of line `L` of the context in a slice: its key in the table. -/
def State.cacheKey (s : State) (c sl L : Nat) : Option Nat :=
  let us := s.cacheUnits c sl
  us[L % us.length]?.map fun u => u * 8192 + L / us.length % 8192

def CacheSet.find (k : CacheSet) (L : Nat) : Option Nat :=
  k.ways.findSome? fun (w, v) => match v with
    | some (l, _) => if l = L then some w else none
    | none => none

/-- The set and the way that hold the line of an address, if one does (R216). -/
def State.lineAt (s : State) (a : Nat) : Option (Nat × Nat) :=
  match s.granOwnerOf (a / 2 ^ 26), s.hbmPlace a with
  | some c, some (ch, _) =>
    match s.cacheKey c (clusterOfChan ch) (a / 256) with
    | some key => ((Tbl.get CacheSet.reset s.cache key).find (a / 256)).map fun w => (key, w)
    | none => none
  | _, _ => none

/-! ### Addresses and units -/

/-- What an engine addresses: a core store, or the local address space seen by a context (R156, R207). -/
inductive Target where
  | store (core : Nat)
  | mem (ctx : Nat)
  deriving DecidableEq, Repr

/-- Base and size of the lid scratchpad space (R207, R215). -/
def lidBase : Nat := 0x010000000000

/-- A context's scratchpad units, ascending (R215). -/
def Ctx.scratch (x : Ctx) : List Nat := (x.lid.filter fun u => !u.2).map (·.1)

/-- Memory (0 HBM, 1 lid, 2 core store, 3 lid cache line) and key of a byte, if the target may address it (R45, R207,
R215, R216). -/
def State.keyOf (s : State) (t : Target) (a : Nat) : Option (Nat × Nat) :=
  match t with
  | .store p => if a < 2 ^ 22 then some (2, p * 2 ^ 22 + a) else none
  | .mem c =>
    if a < 9216 * 2 ^ 26 then
      (if s.granOwnerOf (a / 2 ^ 26) = some c then some (if (s.lineAt a).isSome then 3 else 0, a) else none)
    else if lidBase ≤ a then
      let o := a - lidBase
      (s.ctx c).scratch[o / 2 ^ 25]?.map fun u => (1, u * 2 ^ 25 + o % 2 ^ 25)
    else none

/-- A byte range cut at multiples of `z`: (address, length). -/
def cutsFrom (z : Nat) : Nat → Nat → Nat → List (Nat × Nat)
  | 0, _, _ => []
  | fuel + 1, a, n =>
    if n = 0 then []
    else
      let k := min n (z - a % z)
      (a, k) :: cutsFrom z fuel (a + k) (n - k)

def cuts (z a n : Nat) : List (Nat × Nat) := cutsFrom z ((n + (z - 1) + a % z) / z) a n

/-- The 64-byte pieces of a byte range. -/
def pieces (a n : Nat) : List (Nat × Nat) := cuts 64 a n

/-- Every byte of the range may be addressed. -/
def State.reachable (s : State) (t : Target) (a n : Nat) : Bool :=
  match t with
  | .store _ => decide (a + n ≤ 2 ^ 22)
  | .mem _ => (pieces a n).all fun x => (s.keyOf t x.1).isSome

def State.mem (s : State) : Nat → Memory
  | 0 => s.hbm
  | 1 => s.lid
  | 3 => s.lines
  | _ => s.store

def State.setMem (s : State) (sp : Nat) (m : Memory) : State :=
  match sp with
  | 0 => { s with hbm := m }
  | 1 => { s with lid := m }
  | 3 => { s with lines := m }
  | _ => { s with store := m }

/-- The bytes that unlisted keys of a memory stand for: zero, but in a core store that retention standby has left with
free contents (R247). The table of that memory holds differences from these. -/
def State.baseBytes (s : State) (sp key : Nat) (l : List Byte) : List Byte :=
  match (if sp = 2 then (s.core (key / 2 ^ 22)).lost else none) with
  | none => l
  | some d => xorBytes l ((List.range l.length).map fun i => Config.lostByte d (key + i))

/-- The mark that an unlisted unit stands for. -/
def State.baseMark (s : State) (sp u : Nat) : Bool :=
  match (if sp = 2 then (s.core (u / 2 ^ 16)).lost else none) with
  | none => false
  | some d => Config.lostMark d u

def State.unitPoisoned (s : State) (sp u : Nat) : Bool := (s.mem sp).poison.contains u != s.baseMark sp u

/-- The list of marks in which unit `u`, whose unlisted mark is `bm`, is marked as `po`. -/
def markUnit (l : List Nat) (u : Nat) (bm po : Bool) : List Nat :=
  if po != bm then keyInsert u l else keyRemoveRun u 1 l

/-- A read of the lid, of a core store or of a cache line finds a unit's stored error (R222). -/
def State.discover (s : State) (sp key addr : Nat) : State :=
  let m := s.mem sp
  let u := key / 64
  match Tbl.get none m.errs u with
  | none => s
  | some ue =>
    (s.setMem sp { m with errs := Tbl.set none m.errs u none,
                          poison := if ue then markUnit m.poison u (s.baseMark sp u) true else m.poison }).noteError
      sp key (addr / 64 * 64) ue

/-- Zero a range of keys of a memory, marks and stored errors too (R30). -/
def Memory.clear (m : Memory) (key n : Nat) : Memory :=
  { bytes := Tbl.clearRun m.bytes key n
    poison := keyRemoveRun (key / 64) (n / 64) m.poison
    errs := Tbl.clearRun m.errs (key / 64) (n / 64) }

/-! ### Lines of the lid caches (R216, R217, R219) -/

/-- The units of a block that a byte range meets, and those it meets in part. -/
def unitsMet (a n : Nat) : List Nat := (pieces a n).map fun p => p.1 / 64 % 4
def unitsPart (a n : Nat) : List Nat := ((pieces a n).filter fun p => p.2 != 64).map fun p => p.1 / 64 % 4

/-- A dirty line is read from the lid and written to its channel (R217, R220, R222). -/
def State.writeBack (s : State) (b : Nat) : State :=
  let s1 := [0, 1, 2, 3].foldl (fun t i => t.discover 3 (b * 256 + 64 * i) (b * 256 + 64 * i)) s
  match s1.hbmPlace (b * 256) with
  | none => s1
  | some (ch, x) =>
    if (s1.chan ch).faulted then s1
    else
      let m : Memory := { s1.hbm with
        bytes := Tbl.setRun 0 s1.hbm.bytes (b * 256) (Tbl.getRun 0 s1.lines.bytes (b * 256) 256)
        poison := [0, 1, 2, 3].foldl (fun l i => markUnit l (4 * b + i) false (s1.lines.poison.contains (4 * b + i)))
          s1.hbm.poison }
      ({ s1 with hbm := m } : State).chanWrite ch (b * 256) x (s1.blockBytes b) [0, 1, 2, 3] [0, 1, 2, 3]

/-- A way of a set gives up its line, without a write-back. -/
def State.dropWay (s : State) (key w b : Nat) : State :=
  let k := Tbl.get CacheSet.reset s.cache key
  { s with cache := Tbl.set CacheSet.reset s.cache key { k with ways := Tbl.set none k.ways w none }
           lines := s.lines.clear (b * 256) 256 }

/-- The tags of a set are read: an error is corrected, or, where it cannot be, its line's address is lost and the owner
of the unit is faulted (R222). -/
def State.checkTags (s : State) (key a : Nat) : State :=
  let k := Tbl.get CacheSet.reset s.cache key
  let sl := key / 8192 / 8
  let c := (s.lidUnit (key / 8192)).owner
  let s1 := { s with cache := Tbl.set CacheSet.reset s.cache key { k with tagErr := none } }
  match k.tagErr with
  | none => s
  | some (_, false) => s1.noteLid sl c a false
  | some (w, true) =>
    let s2 := match Tbl.get none k.ways w with
      | some (b, _) => s1.dropWay key w b
      | none => s1
    let x := s2.cluster sl
    (s2.setCluster sl { x with lidErr := satFld x.lidErr 0 16 }).raise (codeAt Code.lidTagUe sl) { ctx := c, info := a }

/-- A way of a set gives up its line, written back if dirty (R217, R222). -/
def State.evictWay (s : State) (key w a : Nat) : State :=
  let t := s.checkTags key a
  match Tbl.get none (Tbl.get CacheSet.reset t.cache key).ways w with
  | none => t
  | some (b, d) => (if d then t.writeBack b else t).dropWay key w b

/-- The line of an address leaves the cache that holds it (R244). -/
def State.evict (s : State) (a : Nat) : State :=
  match s.lineAt a with
  | some (key, w) => s.evictWay key w a
  | none => s

/-- A way is used: its line, dirty or not, and the set's tree bits. -/
def State.useWay (s : State) (key w b : Nat) (dirty : Bool) : State :=
  let k := Tbl.get CacheSet.reset s.cache key
  let d := match Tbl.get none k.ways w with
    | some (_, d) => d
    | none => false
  let k' := { k with ways := Tbl.set none k.ways w (some (b, d || dirty)), plru := plruTouch k.plru w }
  { s with cache := Tbl.set CacheSet.reset s.cache key k' }

/-- A line is filled from its channel with what the channel delivers (R217, R220, R221). -/
def State.fillLine (s : State) (ch b x : Nat) : State :=
  let (bad, s1) := s.chanRead ch (b * 256) x [0, 1, 2, 3] [0, 1, 2, 3]
  { s1 with lines := { s1.lines with
      bytes := Tbl.setRun 0 s1.lines.bytes (b * 256) (Tbl.getRun 0 s1.hbm.bytes (b * 256) 256)
      poison := [0, 1, 2, 3].foldl (fun l i => markUnit l (4 * b + i) false (bad.contains i ||
        s1.hbm.poison.contains (4 * b + i))) s1.lines.poison } }

/-- A line is allocated in a set: the victim leaves, and the line is filled unless it is about to be written whole
(R217). -/
def State.allocate (s : State) (key ch b x : Nat) (fill dirty : Bool) : State :=
  let k := Tbl.get CacheSet.reset s.cache key
  let w := ((List.range 16).find? fun i => (Tbl.get none k.ways i).isNone).getD (plruVictim k.plru)
  let s1 := s.evictWay key w (b * 256)
  (if fill then s1.fillLine ch b x else s1).useWay key w b dirty

/-- Block `b` of HBM is looked up in the context's caches; on a hit, or a miss that allocates, its line is ready: true
(R216, R217). -/
def State.lookUp (s : State) (c ch b x : Nat) (hint fill dirty : Bool) : Bool × State :=
  match s.cacheKey c (clusterOfChan ch) b with
  | none => (false, s)
  | some key =>
    let s1 := s.checkTags key (b * 256)
    match (Tbl.get CacheSet.reset s1.cache key).find b with
    | some w => (true, s1.useWay key w b dirty)
    | none => if hint then (true, s1.allocate key ch b x fill dirty) else (false, s1)

/-! ### Reads and writes (R219–R224) -/

/-- What a read delivers: its bytes, and for each byte whether its unit is poisoned. -/
structure Data where
  bytes : List Byte
  pois : List Bool
  deriving DecidableEq, Repr

/-- The context, channel and channel offset of an address in an HBM granule that the target may address. -/
def State.hbmOf (s : State) (t : Target) (a : Nat) : Option (Nat × Nat × Nat) :=
  match t with
  | .store _ => none
  | .mem c => if s.granOwnerOf (a / 2 ^ 26) = some c then (s.hbmPlace a).map fun q => (c, q) else none

/-- What a read of one 256-byte block needs of HBM: its line, or a transfer from its channel; the units that the transfer
delivers poisoned (R216, R220). -/
def State.fetchBlock (s : State) (t : Target) (a n : Nat) (hint : Bool) : List Nat × State :=
  match s.hbmOf t a with
  | none => ([], s)
  | some (c, ch, x) =>
    let (line, s1) := s.lookUp c ch (a / 256) x hint true false
    if line then ([], s1) else s1.chanRead ch (a / 256 * 256) x (unitsMet a n) [0, 1, 2, 3]

/-- Bytes of one piece join a read. -/
def State.readPiece (s : State) (t : Target) (bad : List Nat) (d : Data) (a n : Nat) : Data × State :=
  match s.keyOf t a with
  | none => (⟨d.bytes ++ zeros n, d.pois ++ List.replicate n false⟩, s)
  | some (sp, key) =>
    let s1 := if sp = 0 then s else s.discover sp key a
    let po := bad.contains (a / 64 % 4) || s1.unitPoisoned sp (key / 64)
    (⟨d.bytes ++ s1.baseBytes sp key (Tbl.getRun 0 (s1.mem sp).bytes key n), d.pois ++ List.replicate n po⟩, s1)

/-- A read of a reachable range (R219–R224). -/
def State.read (s : State) (t : Target) (a n : Nat) (hint : Bool := false) : Data × State :=
  (cuts 256 a n).foldl (fun (r : Data × State) b =>
    let (bad, s1) := r.2.fetchBlock t b.1 b.2 hint
    (pieces b.1 b.2).foldl (fun (q : Data × State) p => q.2.readPiece t bad q.1 p.1 p.2) (r.1, s1)) (⟨[], []⟩, s)

/-- Write bytes of one piece into a memory: a whole clean unit clears its mark and its stored error (R219, R223). -/
def Memory.put (m : Memory) (key : Nat) (bs : List Byte) (bm po : Bool) : Memory :=
  let u := key / 64
  let whole := decide (bs.length = 64)
  { bytes := Tbl.setRun 0 m.bytes key bs
    poison := if po || whole then markUnit m.poison u bm po else m.poison
    errs := if whole then Tbl.set none m.errs u none else m.errs }

/-- Bytes of one piece are written; a part of a unit is merged into it, which reads it (R219). -/
def State.writePiece (s : State) (t : Target) (a : Nat) (bs : List Byte) (po : Bool) : State :=
  match s.keyOf t a with
  | none => s
  | some (sp, key) =>
    let s1 := if bs.length < 64 ∧ sp ≠ 0 then s.discover sp key a else s
    s1.setMem sp ((s1.mem sp).put key (s1.baseBytes sp key bs) (s1.baseMark sp (key / 64)) po)

/-- The pieces of one block are written; `bad` are the units to merge that were delivered poisoned. -/
def State.writePieces (s : State) (t : Target) (a : Nat) (bs : List Byte) (pois : List Bool) (bad : List Nat) : State :=
  (pieces a bs.length).foldl (fun st p => st.writePiece t p.1 (slice bs (p.1 - a) p.2)
    ((bad.contains (p.1 / 64 % 4) && p.2 != 64) || (pois.drop (p.1 - a) |>.take p.2).any id)) s

/-- One block is written: to its line, or through its channel's write buffer (R216, R217, R219, R220, R235). -/
def State.writeBlock (s : State) (t : Target) (a : Nat) (bs : List Byte) (pois : List Bool) (hint : Bool) : State :=
  match s.hbmOf t a with
  | none => s.writePieces t a bs pois []
  | some (c, ch, x) =>
    let n := bs.length
    let (line, s1) := s.lookUp c ch (a / 256) x hint (n != 256) true
    if line then s1.writePieces t a bs pois []
    else if (s1.chan ch).faulted then s1
    else
      let part := unitsPart a n
      let (bad, s2) := if part.isEmpty then ([], s1) else s1.chanRead ch (a / 256 * 256) x part part
      (s2.writePieces t a bs pois bad).chanWrite ch (a / 256 * 256) x (s2.blockBytes (a / 256)) (unitsMet a n)
        ((unitsMet a n).filter fun i => !part.contains i)

/-- A write of a reachable range; `pois` marks the poisoned bytes (R219, R220, R223). -/
def State.write (s : State) (t : Target) (a : Nat) (bs : List Byte) (pois : List Bool) (hint : Bool := false) :
    State :=
  (cuts 256 a bs.length).foldl (fun st b =>
    st.writeBlock t b.1 (slice bs (b.1 - a) b.2) (pois.drop (b.1 - a) |>.take b.2) hint) s

/-- What the device finds when it reads its own records: stored errors are found as by any read (R221, R222). -/
def State.touch (s : State) (t : Target) (a n : Nat) : State := (s.read t a n).2

/-- The bytes that a read delivers, without its events. -/
def State.peek (s : State) (t : Target) (a n : Nat) : List Byte :=
  (pieces a n).flatMap fun p =>
    match s.keyOf t p.1 with
    | none => zeros p.2
    | some (sp, key) => s.baseBytes sp key (Tbl.getRun 0 (s.mem sp).bytes key p.2)

/-- The canonical form of a memory: keys strictly rising, nothing listed that reads as its default. -/
def Memory.wf (m : Memory) : Bool := Tbl.wf 0 m.bytes && keysOkFrom 0 m.poison && Tbl.wf none m.errs

/-- A core is assigned to a context: its queues, counters, banks and tables are empty (R30, R126). -/
def Core.fresh (k : Core) : Core :=
  { Core.reset with
    quarantined := k.quarantined, needsKernels := k.needsKernels, msCsErr := k.msCsErr, lost := k.lost
    warp := { Array.reset with quarantined := k.warp.quarantined, faultTimes := k.warp.faultTimes, mismatches := k.warp.mismatches }
    weft := { Array.reset with quarantined := k.weft.quarantined, faultTimes := k.weft.faultTimes, mismatches := k.weft.mismatches } }

/-- A core returns to the pool: stopped, its store zeroed, and in phase 255 until its next PHASE (R30, R39). -/
def State.releaseCore (s : State) (p : Nat) : State :=
  { s.modCore p fun k => { k.fresh with lost := none } with
    store := s.store.clear (p * 2 ^ 22) (2 ^ 22), pw := { s.pw with phases := Tbl.set 255 s.pw.phases p 255 } }

/-- The poisoned 64-byte units an engine's write newly delivers: the unit numbers of its poisoned bytes (R225). -/
def poisonUnits (a : Nat) (pois : List Bool) : Nat :=
  ((pieces a pois.length).filter fun p => ((pois.drop (p.1 - a)).take p.2).any (· == true)).length

/-- Count units marked poisoned by an engine of core `p`, for the epoch of its last STEP (R225, R230). -/
def State.countPoison (s : State) (p n : Nat) : State :=
  if n = 0 then s
  else match s.coreOwner p with
    | none => s
    | some (c, _) =>
      let e := (s.core p).seq.lastStep.getD 0
      s.modCtx c fun x => { x with
        poisonCounts := Tbl.set 0 x.poisonCounts e (Tbl.get 0 x.poisonCounts e + n)
        regs := { x.regs with msPoison := satInc x.regs.msPoison n } }

end Sys2Proof.Machine
end

