-- ==== Sys2Proof/Machine/Delta.lean ====
section
/-! DEFINITION. Compressed XOR differences: the form of R173, and the page records of R406. -/

namespace Sys2Proof.Machine

/-- The 64-byte units of a byte string. -/
def unitsOf (l : List Byte) : List (List Byte) := (List.range (l.length / 64)).map fun u => slice l (64 * u) 64

/-- A poison mark for each unit, from one for each byte. -/
def unitPois (pois : List Bool) : List Bool :=
  (List.range (ceilDiv pois.length 64)).map fun u => ((pois.drop (64 * u)).take 64).any (· == true)

/-- Bytes of a bitmap over `n` items, padded to a multiple of 64. -/
def bitmapBytes (n : Nat) (keep : Nat → Bool) : List Byte :=
  let b := (List.range (ceilDiv n 8)).map fun i =>
    BitVec.ofNat 8 (maskOf ((List.range 8).filter fun j => decide (8 * i + j < n) && keep (8 * i + j)))
  slice b 0 (roundUp b.length 64)

/-- The delta a xor b in the form of R173, with a poison mark for each byte: a poisoned unit keeps its mark and its
bitmap bit (R177). -/
def xdelta (a b : Data) : List Byte × List Bool :=
  let U := a.bytes.length / 64
  let ds := unitsOf (xorBytes a.bytes b.bytes)
  let ps := (unitPois a.pois).zip (unitPois b.pois) |>.map fun p => p.1 || p.2
  let keep (u : Nat) : Bool := !allZero ((ds[u]?).getD []) || (ps[u]?).getD false
  let us := (List.range U).filter keep
  let head := leBytes 8 U ++ leBytes 8 us.length ++ zeros 48 ++ bitmapBytes U keep
  (head ++ us.flatMap fun u => (ds[u]?).getD [],
    List.replicate head.length false ++ us.flatMap fun u => List.replicate 64 ((ps[u]?).getD false))

/-- Size of the header and bitmap of a delta of `U` units. -/
def deltaHead (U : Nat) : Nat := 64 + ceilDiv U 512 * 64

/-- Units marked in a delta's bitmap, ascending. -/
def deltaUnits (U : Nat) (d : List Byte) : List Nat :=
  (List.range U).filter fun u => bitAt (fieldAt d (64 + u / 8) 1) (u % 8)

/-- Base xor delta, with poison (R173, R177); none when the delta's U or N disagrees. -/
def xapply (base : Data) (d : Data) : Option Data :=
  let U := base.bytes.length / 64
  let us := deltaUnits U d.bytes
  if fieldAt d.bytes 0 8 ≠ U ∨ fieldAt d.bytes 8 8 ≠ us.length then none
  else
    let h := deltaHead U
    let unit (u : Nat) : List Byte × List Bool :=
      let b := slice base.bytes (64 * u) 64
      let bp := ((base.pois.drop (64 * u)).take 64).any (· == true)
      match indexOf? us u with
      | none => (b, List.replicate 64 bp)
      | some i => (xorBytes b (slice d.bytes (h + 64 * i) 64),
          List.replicate 64 (bp || ((d.pois.drop (h + 64 * i)).take 64).any (· == true)))
    let r := (List.range U).map unit
    some ⟨r.flatMap (·.1), r.flatMap (·.2)⟩

/-! ### Page records of a checkpoint (R406) -/

/-- One non-zero unit: an 8-byte mask and its non-zero bytes. -/
def encodeUnit (u : List Byte) : List Byte :=
  leBytes 8 (maskOf ((List.range 64).filter fun i => (u[i]?).getD 0 != 0)) ++ u.filter (· != 0)

/-- The encoded body of a page's delta, before padding. -/
def encodePage (delta : List Byte) : List Byte :=
  let us := unitsOf delta
  bitmapBytes us.length (fun u => !allZero ((us[u]?).getD [])) ++ (us.filter fun u => !allZero u).flatMap encodeUnit

/-- A page record: its byte count, its kind and its body. -/
def pageRecord (delta : List Byte) : List Byte :=
  let e := encodePage delta
  let raw := decide (65536 < roundUp e.length 64)
  let body := if raw then delta else slice e 0 (roundUp e.length 64)
  leBytes 4 (64 + body.length) ++ leBytes 4 (if raw then 2 else 1) ++ zeros 56 ++ body

/-- Decode the units of an encoded body: the unit numbers still to come, and the bytes left. -/
def decodeUnits : List Nat → List Byte → List (Nat × List Byte)
  | [], _ => []
  | u :: r, l =>
    let m := bitList 64 (fieldAt l 0 8)
    let bs := l.drop 8
    let unit := (List.range 64).map fun i => match indexOf? m i with
      | some k => (bs[k]?).getD 0
      | none => 0
    (u, unit) :: decodeUnits r (bs.drop m.length)

/-- The 65,536-byte delta of a page record. -/
def recordDelta (rec' : List Byte) : List Byte :=
  let body := rec'.drop 64
  if fieldAt rec' 4 4 = 2 then slice body 0 65536
  else
    let us := decodeUnits ((List.range 1024).filter fun u => bitAt (fieldAt body (u / 8) 1) (u % 8)) (body.drop 128)
    (List.range 1024).flatMap fun u => (us.lookup u).getD (zeros 64)

end Sys2Proof.Machine
end

