-- ==== Sys2Proof/Machine/Fabric.lean ====
section
/-! DEFINITION. The module's place in the machine: configuration record, chip table (R292, R296, R298, R301), and the
building of transport packets (R274–R276, R335). -/

namespace Sys2Proof

/-! ### Fields of a packet's header (R274) -/

def Packet.cls (p : Packet) : Nat := bits p.flags.toNat 0 2
def Packet.gh (p : Packet) : Nat := bits p.flags.toNat 2 2
def Packet.secure (p : Packet) : Bool := bitAt p.flags.toNat 4
def Packet.epochOf (p : Packet) : Option Nat := if bitAt p.flags.toNat 5 then some p.epoch.toNat else none
def Packet.dst (p : Packet) : Nat := p.dstChip.toNat
def Packet.src (p : Packet) : Nat := p.srcChip.toNat

end Sys2Proof

namespace Sys2Proof.Machine

/-! ### The configuration record in force (R516) -/

def State.recField (s : State) (off n : Nat) : Nat := fieldAt s.boot.record off n

/-- Physical position, group and slot of this module (R292). -/
def State.position (s : State) : Nat := s.recField 0x018 2
def State.ownGroup (s : State) : Nat := s.position / 32
def State.ownSlot (s : State) : Nat := s.position % 32
/-- Groups of the machine (R295). -/
def State.groups (s : State) : Nat := s.recField 0x01A 2
/-- Port permissions: admin and secure_ok of each host port. -/
def State.portAdmin (s : State) (port : Nat) : Bool := bitAt (s.recField 0x024 1) (2 * port)
def State.portSecure (s : State) (port : Nat) : Bool := bitAt (s.recField 0x024 1) (2 * port + 1)

/-! ### The chip table (R301) -/

def State.chipEntry (s : State) (c : Nat) : Word := Tbl.get 0 s.fab.chipTable c
def chipKind (w : Word) : Nat := fld w 29 3
def chipGroup (w : Word) : Nat := fld w 20 9
def chipSlot (w : Word) : Nat := fld w 15 5
def chipPort (w : Word) : Nat := fld w 9 6
def chipWord (kind group slot port : Nat) : Word :=
  BitVec.ofNat 32 (kind % 8 * 2 ^ 29 + group % 512 * 2 ^ 20 + slot % 32 * 2 ^ 15 + port % 64 * 2 ^ 9)

/-- The chip number that stands at a position: a compute, stake or fenced entry (R296, R310). -/
def State.chipAt (s : State) (pos : Nat) : Option Nat :=
  s.fab.chipTable.findSome? fun (c, w) =>
    if (chipKind w == 1 || chipKind w == 2 || chipKind w == 3) && chipGroup w * 32 + chipSlot w == pos then some c else none

/-- This module's logical chip number (R186, R296). -/
def State.ownChip (s : State) : Nat := (s.chipAt s.position).getD s.position

/-- The chip's entry has a route (R298, R299). -/
def State.routed (s : State) (c : Nat) : Bool :=
  let w := s.chipEntry c
  match chipKind w with
  | 1 | 2 | 3 => true
  | 4 | 5 => chipGroup w == s.ownGroup
  | _ => false

/-! ### Packets -/

/-- Key of an epoch: the step plus 1, or 0 for none. -/
def epKey : Option Nat → Nat
  | none => 0
  | some n => n + 1

/-- The flags byte (R274). -/
def pktFlags (cls : Nat) (secure : Bool) (epoch : Option Nat) : Byte :=
  BitVec.ofNat 8 (cls % 4 + 16 * b2n secure + 32 * b2n epoch.isSome)


/-- A packet of this module. -/
def State.packet (s : State) (op dst lcore dstLcore tag job : Nat) (flags : Byte) (epoch : Option Nat)
    (addr poison arg : Nat) (data : List Byte) : Packet :=
  { op := BitVec.ofNat 8 op, flags := flags, dstChip := BitVec.ofNat 16 dst, srcChip := BitVec.ofNat 16 s.ownChip,
    srcLcore := BitVec.ofNat 8 lcore, dstLcore := BitVec.ofNat 8 dstLcore, tag := BitVec.ofNat 16 tag,
    jobTag := BitVec.ofNat 16 job, length := BitVec.ofNat 16 data.length, rsv := 0,
    epoch := BitVec.ofNat 64 (epoch.getD 0), address := BitVec.ofNat 64 addr, poison := BitVec.ofNat 64 poison,
    arg := BitVec.ofNat 64 arg, data := data }

/-- A CONTROL message of a context's job to a chip (R275, R335, R410). -/
def State.sendCtl (s : State) (c dst type : Nat) (epoch : Option Nat) (data : List Byte) : State :=
  let x := s.ctx c
  s.emit (.packet (s.packet 9 dst 0xFF 0 0 (fld x.regs.lkJob 0 16) (pktFlags 0 x.desc.secure epoch) epoch 0 0 type data))

/-- A CONTROL message with job tag 0 (R274, R279). -/
def State.sendMgmt (s : State) (dst type : Nat) (data : List Byte) : State :=
  s.emit (.packet (s.packet 9 dst 0xFF 0 0 0 0 none 0 0 type data))

/-- Pieces of a byte range that end at multiples of `g` and hold at most `g` bytes. -/
def cutFrom : Nat → Nat → Nat → Nat → List (Nat × Nat)
  | 0, _, _, _ => []
  | fuel + 1, g, a, n =>
    if n = 0 then []
    else
      let k := min n (g - a % g)
      (a, k) :: cutFrom fuel g (a + k) (n - k)

/-- Packets of at most 4,096 bytes that cross no 4 KiB boundary (R276). -/
def cut4k (a n : Nat) : List (Nat × Nat) := cutFrom (n / 4096 + 2) 4096 a n

/-- The poison field: one bit for each 64 bytes of the data (R274). -/
def poisonBits (pois : List Bool) : Nat :=
  maskOf ((List.range (ceilDiv pois.length 64)).filter fun u => ((pois.drop (64 * u)).take 64).any (· == true))

/-- The poison marks of the data bytes. -/
def unpoison (bits n : Nat) : List Bool := (List.range n).map fun i => bitAt bits (i / 64)

/-- The context that admits a job tag: one with fabric_en that is not FREE (R279). -/
def State.jobCtx (s : State) (tag : Nat) : Option Nat :=
  if tag = 0 then none
  else ctxNums.find? fun c =>
    let x := s.ctx c
    decide (x.st ≠ .free) && bitAt x.desc.flags.toNat 0 && fld x.regs.lkJob 0 16 == tag

/-! ### Regions (R156) -/

/-- A range lies in one HBM region of the context, or in the run of its scratchpad (R156, R207). -/
def State.inRegion (s : State) (c a n : Nat) : Bool :=
  let x := s.ctx c
  (x.regions.any fun (_, r) => match r with
    | some r => decide (r.base ≤ a) && decide (a + n ≤ r.base + r.bytes)
    | none => false) ||
  (decide (lidBase ≤ a) && decide (a + n ≤ lidBase + x.scratch.length * 2 ^ 25))

/-- The mapped region that holds an address, with its number. -/
def Ctx.regionAt (x : Ctx) (a : Nat) : Option (Nat × Region) :=
  x.regions.findSome? fun (n, r) => match r with
    | some r => if r.base ≤ a ∧ a < r.base + r.bytes then some (n, r) else none
    | none => none

def Ctx.region (x : Ctx) (n : Nat) : Option Region := Tbl.get none x.regions n

end Sys2Proof.Machine
end

