-- ==== Sys2Proof/Machine/Protect.lean ====
section
/-! DEFINITION. What guards a write into a context's memory: running streams (R33), the statistics area (R136), the
skein (R323, R326), capture of persistent pages (R327, R328, R344), and dirty bits and copy-before-write of a
checkpoint (R399, R402–R404). -/

namespace Sys2Proof.Machine

/-! ### Areas of a context -/

/-- A page of 64 KiB. -/
def pageBytes : Nat := 65536

/-- Pages touched by a range. -/
def pagesOf (a n : Nat) : List Nat :=
  if n = 0 then [] else (List.range ((a + n - 1) / pageBytes - a / pageBytes + 1)).map (· + a / pageBytes)

/-- The range meets a slot of a running stream of the context (R33). -/
def State.streamHit (s : State) (c : Nat) (t : Target) (a n : Nat) : Bool :=
  (s.ctx c).cores.any fun p =>
    let q := (s.core p).seq
    ((s.ctx c).st == .running || (s.ctx c).st == .paused) && overlaps a n q.base (32 * q.length) && (match t with
      | .store k => q.inStore && k == p
      | .mem _ => !q.inStore)

/-- Size of the statistics area (R136). -/
def tsAreaBytes : Nat := 0xA00000

def State.statsHit (s : State) (c : Nat) (t : Target) (a n : Nat) : Bool :=
  match t with
  | .store _ => false
  | .mem _ => decide ((s.ctx c).st ≠ .free) && overlaps a n (s.ctx c).regs.tsArea tsAreaBytes

/-- The skein of a context with st_en (R323). -/
structure Skein where
  base : Nat
  size : Nat
  slots : Nat
  inBytes : Nat
  deriving DecidableEq, Repr

def Ctx.stEn (x : Ctx) : Bool := flag x.regs.stCfg 0
/-- W, read as 0 without diag_window_en (R349); without st_en nothing is retained (R319). -/
def Ctx.windowW (x : Ctx) : Nat := if bitAt x.desc.flags.toNat 3 && x.stEn then fld x.regs.stCfg 5 5 else 0
def Ctx.persist (x : Ctx) : Nat := fld x.regs.stPersist 0 16

def Ctx.skein (x : Ctx) : Option Skein :=
  if x.stEn then
    (x.region (fld x.regs.stSkein 0 4)).map fun r =>
      ⟨r.base, r.bytes, 2 + x.windowW, fld x.regs.stSkein 8 16 * 2 ^ 21⟩
  else none

def Skein.slotBytes (k : Skein) : Nat := 2 ^ 21 + k.inBytes
def Skein.slotBase (k : Skein) (step : Nat) : Nat := 2 ^ 20 + k.base + step % k.slots * k.slotBytes
def Skein.recBase (k : Skein) (step lcore : Nat) : Nat := 0x1000 + k.slotBase step + 0x2000 * lcore
def Skein.inBase (k : Skein) (step : Nat) : Nat := 2 ^ 21 + k.slotBase step
def Skein.undoBase (k : Skein) : Nat := 2 ^ 20 + k.base + k.slots * k.slotBytes
def Skein.undoSize (k : Skein) : Nat := k.base + k.size - k.undoBase
/-- Stride of the undo records (R328). -/
def undoStride : Nat := 65600
def Skein.undoSlots (k : Skein) : Nat := k.undoSize / undoStride

/-- A range lies in [b, b + m). -/
def within (a n b m : Nat) : Bool := decide (b ≤ a) && decide (a + n ≤ b + m)

/-- An engine of a core whose last STEP is `step` may write the range of the skein (R326). -/
def Skein.mayWrite (k : Skein) (step : Option Nat) (a n : Nat) : Bool :=
  match step with
  | none => false
  | some e => within a n (k.inBase e) k.inBytes ||
      (List.range 192).any fun c => within a n (k.recBase e c + 0x1200) 32

/-- The code of an engine write that the context's areas forbid, with its location (R33, R136, R326). -/
def State.guardCode (s : State) (p c : Nat) (step : Option Nat) (t : Target) (a n : Nat) : Option Word :=
  if n = 0 then none
  else if s.streamHit c t a n then some (codeAt Code.seqStreamWrite p)
  else if s.statsHit c t a n then some (codeAt Code.tsAreaWrite c)
  else match t, (s.ctx c).skein with
    | .mem _, some k =>
      if overlaps a n k.base k.size && !k.mayWrite step a n then some (codeAt Code.stSkeinWrite c) else none
    | _, _ => none

/-- A BAR2 write that is dropped (R33, R136, R326). -/
def State.hostGuard (s : State) (c a n : Nat) : Bool :=
  s.streamHit c (.mem c) a n || s.statsHit c (.mem c) a n || (match (s.ctx c).skein with
    | some k => overlaps a n k.base k.size
    | none => false)

/-! ### The checkpoint set and its movers (R398–R404) -/

def Ctx.mirrorMask (x : Ctx) : Nat := fld x.regs.stRegmap 16 16
def Ctx.staticMask (x : Ctx) : Nat := fld x.regs.stRegmap 0 16

/-- Regions of the checkpoint set, ascending (R398). -/
def Ctx.ckSet (x : Ctx) : List Nat :=
  (List.range 16).filter fun r => (x.region r).isSome &&
    ((bitAt x.persist r && !bitAt x.mirrorMask r) || bitAt x.staticMask r)

def Ctx.regionBytes (x : Ctx) (r : Nat) : Nat := match x.region r with
  | some g => g.bytes
  | none => 0
def Ctx.regionBase (x : Ctx) (r : Nat) : Nat := match x.region r with
  | some g => g.base
  | none => 0

/-- Every page of a list of regions, ascending. -/
def Ctx.pagesIn (x : Ctx) (rs : List Nat) : List (Nat × Nat) :=
  rs.flatMap fun r => (List.range (x.regionBytes r / pageBytes)).map fun k => (r, k)

def Ctx.pageAddr (x : Ctx) (k : Nat × Nat) : Nat := x.regionBase k.1 + pageBytes * k.2

/-- Offset in the base of a region's image (R400). -/
def Ctx.baseOffset (x : Ctx) (r : Nat) : Nat :=
  ((x.ckSet.filter fun q => decide (q < r)).map fun q => roundUp (x.regionBytes q) (2 ^ 26)).sum

def Ctx.baseEn (x : Ctx) : Bool := flag x.regs.msCkptCfg 31
/-- Address of a page's image in the base. -/
def Ctx.baseAddr (x : Ctx) (k : Nat × Nat) : Nat :=
  x.regionBase (fld x.regs.msCkptCfg 0 4) + x.baseOffset k.1 + pageBytes * k.2
/-- Address of a snapshot slot. -/
def Ctx.snapAddr (x : Ctx) (i : Nat) : Nat := x.regionBase (fld x.regs.msCkptCfg 8 4) + pageBytes * i
/-- A free snapshot slot. Of a STATE checkpoint the snapshot region's own pages belong to D, and one that no mover has
read yet is no slot (R402, R404). -/
def Ctx.freeSnap (x : Ctx) : Option Nat :=
  let r := fld x.regs.msCkptCfg 8 4
  (List.range (x.regionBytes r / pageBytes)).find? fun i =>
    !(x.ck.saved.any fun e => e.2.2 == i) && !x.ck.left.contains (r, i)

/-- A mover reads one page of D, from its snapshot slot or in place (R404). -/
def State.moverTake (s : State) (c : Nat) (k : Nat × Nat) : State :=
  let x := s.ctx c
  let slot := (x.ck.saved.find? fun e => e.1 == k.1 && e.2.1 == k.2).map (·.2.2)
  let from' := match slot with
    | some i => x.snapAddr i
    | none => x.pageAddr k
  let (d, s1) := s.read (.mem c) from' pageBytes
  let useBase := x.baseEn && x.ck.kind != 3
  if d.pois.any (· == true) then s1.ckFail c Code.ckPoison
  else
    let (b, s2) := if x.ck.kind = 2 then s1.read (.mem c) (x.baseAddr k) pageBytes else (⟨[], []⟩, s1)
    if b.pois.any (· == true) then s2.ckFail c Code.ckPoison
    else
      let s3 := if useBase then s2.write (.mem c) (x.baseAddr k) d.bytes [] else s2
      let body := if x.ck.kind = 2 then pageRecord (xorBytes d.bytes b.bytes) else d.bytes
      s3.modCtx c fun y => { y with ck := { y.ck with
        left := y.ck.left.filter (· != k)
        saved := y.ck.saved.filter fun e => !(e.1 == k.1 && e.2.1 == k.2)
        pages := y.ck.pages ++ [(k.1, k.2, body)]
        snapWait := false } }

/-- Copy a page of D into a free snapshot slot (R403). -/
def State.savePage (s : State) (c : Nat) (k : Nat × Nat) (i : Nat) : State :=
  let x := s.ctx c
  let (d, s1) := s.read (.mem c) (x.pageAddr k) pageBytes
  (s1.write (.mem c) (x.snapAddr i) d.bytes d.pois).modCtx c fun y =>
    { y with ck := { y.ck with saved := y.ck.saved ++ [(k.1, k.2, i)] } }

/-- The page of D has neither been read by a mover nor saved. -/
def Ckpt.pageHeld (ck : Ckpt) (k : Nat × Nat) : Bool :=
  decide (ck.state = 2) && ck.left.contains k && !ck.saved.any fun e => e.1 == k.1 && e.2.1 == k.2

/-- The first write to a held page: it is saved first; where no slot is free, the device's own write lets a mover read a
saved page, or this page, first (R403). -/
def State.holdPage (s : State) (c : Nat) (k : Nat × Nat) : State :=
  match (s.ctx c).freeSnap with
  | some i => s.savePage c k i
  | none =>
    match (s.ctx c).ck.saved with
    | [] => s.moverTake c k
    | e :: _ =>
      let s1 := s.moverTake c (e.1, e.2.1)
      match (s1.ctx c).freeSnap with
      | some i => if (s1.ctx c).ck.pageHeld k then s1.savePage c k i else s1
      | none => s1

/-- The page's dirty bit is set (R399, R402). -/
def Ctx.markDirty (x : Ctx) (k : Nat × Nat) : Ctx :=
  if x.ckSet.contains k.1 then
    if x.ck.state = 2 ∨ x.ck.state = 3 then { x with ck := { x.ck with live := pageInsert k x.ck.live } }
    else if x.ck.allDirty then x
    else { x with ck := { x.ck with dirty := pageInsert k x.ck.dirty } }
  else x

/-- What every write into a context's regions does first for the checkpoint (R399, R403). -/
def State.noteWrite (s : State) (c a n : Nat) : State :=
  (pagesOf a n).foldl (fun t pg => match (t.ctx c).regionAt (pg * pageBytes) with
    | none => t
    | some (r, g) =>
      let k := (r, pg - g.base / pageBytes)
      let t1 := if (t.ctx c).ck.pageHeld k then t.holdPage c k else t
      t1.modCtx c fun x => x.markDirty k) s

/-- A write by the device itself, or one whose capture is done. -/
def State.devWrite (s : State) (c a : Nat) (bs : List Byte) (pois : List Bool) (hint : Bool := false) : State :=
  (s.noteWrite c a bs.length).write (.mem c) a bs pois hint

/-- A write must wait for a snapshot slot (R403). -/
def State.snapBlocked (s : State) (c a n : Nat) : Bool :=
  (s.ctx c).freeSnap.isNone && (pagesOf a n).any fun pg =>
    match (s.ctx c).regionAt (pg * pageBytes) with
    | none => false
    | some (r, g) => (s.ctx c).ck.pageHeld (r, pg - g.base / pageBytes)

/-- An access waits behind a snapshot; snap_wait shows it (R403, R419). -/
def State.waitForSnap (s : State) (c : Nat) (i : Instr) : State :=
  ({ s with snapWaiting := s.snapWaiting ++ [i] } : State).modCtx c fun x => { x with ck := { x.ck with snapWait := true } }

/-! ### Undo records (R327, R328, R344) -/

/-- Address of an undo record. -/
def Skein.undoAddr (k : Skein) (i : Nat) : Nat := k.undoBase + undoStride * i

/-- Header of an undo record. -/
def undoHeader (step page kind bytes : Nat) : List Byte :=
  leBytes 8 step ++ leBytes 8 page ++ leBytes 4 kind ++ leBytes 4 bytes ++ zeros 40

/-- The ring head and tail in the skein's header (R323). -/
def State.writeRing (s : State) (c : Nat) : State :=
  match (s.ctx c).skein with
  | none => s
  | some k =>
    let st := (s.ctx c).step
    s.devWrite c (k.base + 0x20) (leBytes 8 (undoStride * st.ringHead) ++ leBytes 8 (undoStride * st.ringTail)) []

/-- Where a step's undo records begin in the ring, and how many there are (R325). -/
def StepSt.undoFields (st : StepSt) (n : Nat) : List Byte :=
  let us := st.undo.filter fun u => u.epoch == n
  leBytes 8 (match us with
    | u :: _ => undoStride * u.ring
    | [] => 0) ++ leBytes 8 us.length

/-- The undo fields of a step's slot header, kept as the records are made (R325). -/
def State.writeUndoFields (s : State) (c n : Nat) : State :=
  match (s.ctx c).skein with
  | none => s
  | some k => s.devWrite c (k.slotBase n + 0x40) ((s.ctx c).step.undoFields n) []

/-- A delta record between two images of a page: its kind, body and the body's marks (R173, R328). -/
def deltaRecord (pre post : Data) : Nat × List Byte × List Bool :=
  let r := xdelta pre post
  if 65536 < r.1.length then (3, xorBytes pre.bytes post.bytes, List.zipWith (fun x y => x || y) pre.pois post.pois)
  else (2, r.1, r.2)

/-- One raw record becomes a delta in place; the post-image is the page as it stands (R328, R344). -/
def State.convertAt (s : State) (c : Nat) (k : Skein) (u : Undo) : State :=
  let at_ := k.undoAddr u.ring
  let pre := s.read (.mem c) (at_ + 64) pageBytes
  let post := pre.2.read (.mem c) u.page pageBytes
  let r := deltaRecord pre.1 post.1
  (post.2.devWrite c at_ (undoHeader u.epoch u.page r.1 r.2.1.length ++ slice r.2.1 0 pageBytes)
    (List.replicate 64 false ++ r.2.2)).modStep c fun st =>
      { st with undo := st.undo.map fun v => if v.ring = u.ring then { v with kind := r.1 } else v }

/-- Convert one raw record of the context's skein (R344). -/
def State.convertUndo (s : State) (c : Nat) (u : Undo) : State :=
  match (s.ctx c).skein with
  | none => s
  | some k => s.convertAt c k u

/-- Mark a slot's state byte only (R325). -/
def State.markSlot (s : State) (c n state : Nat) : State :=
  match (s.ctx c).skein with
  | none => s
  | some k => s.devWrite c (k.slotBase n + 0x0A) (leBytes 1 state) []

/-- The oldest window step is dropped, and its slot is free (R325, R344). -/
def State.dropWindow (s : State) (c : Nat) : State :=
  match (s.ctx c).step.window with
  | [] => s
  | w :: r =>
    let s1 := s.modStep c fun st =>
      let left := st.undo.filter fun u => u.epoch != w
      { st with window := r, undo := left,
                ringTail := match left with
                  | u :: _ => u.ring
                  | [] => st.ringHead }
    (((s1.modRegs c fun q => { q with stWindowDrop := true }).markSlot c w 0).writeRing c).report (codeAt Code.stWindowDrop c) { ctx := some c, step := some w }

/-- Window steps dropped until the ring has room. -/
def State.ringRoom (s : State) (c : Nat) (slots : Nat) : Nat → State
  | 0 => s
  | fuel + 1 =>
    if slots ≤ (s.ctx c).step.undo.length ∧ !(s.ctx c).step.window.isEmpty
    then (s.dropWindow c).ringRoom c slots fuel else s

/-- Capture a persistent page before its first write of an epoch (R327, R328, R344). -/
def State.capturePage (s : State) (c e page : Nat) : State :=
  match (s.ctx c).skein with
  | none => s
  | some k =>
    let st := (s.ctx c).step
    if st.undo.any fun u => u.epoch == e && u.page == page && (!st.diagRunning || u.kind == 1) then s
    else
      let s1 := match st.undo.find? fun u => u.page == page && u.kind == 1 && st.window.contains u.epoch with
        | some u => s.convertUndo c u
        | none => s
      let s2 := s1.ringRoom c k.undoSlots 17
      let st2 := (s2.ctx c).step
      let i := st2.ringHead
      let (d, s3) := s2.read (.mem c) page pageBytes
      let s4 := s3.devWrite c (k.undoAddr i) (undoHeader e page 1 pageBytes ++ d.bytes)
        (List.replicate 64 false ++ d.pois)
      ((s4.modStep c fun t => { t with
        undo := t.undo ++ [⟨e, page, i, 1⟩]
        ringTail := if t.undo.isEmpty then i else t.ringTail
        ringHead := (i + 1) % k.undoSlots }).writeRing c).writeUndoFields c e

/-- Capture every persistent page of a range for a write of an epoch; epoch 0 is never captured (R327). -/
def State.capture (s : State) (c : Nat) (epoch : Option Nat) (a n : Nat) : State :=
  match epoch with
  | none | some 0 => s
  | some e => (pagesOf a n).foldl (fun t pg => match (t.ctx c).regionAt (pg * pageBytes) with
      | some (r, _) => if bitAt (t.ctx c).persist r then t.capturePage c e (pg * pageBytes) else t
      | none => t) s

/-- A write of an epoch into a context's memory: capture, copy-before-write, dirty bits, then the bytes
(R327, R399, R403). -/
def State.epochWrite (s : State) (c : Nat) (epoch : Option Nat) (a : Nat) (bs : List Byte) (pois : List Bool)
    (hint : Bool := false) : State :=
  (s.capture c epoch a bs.length).devWrite c a bs pois hint

/-- A write to a target by an engine of the context. -/
def State.engineWrite (s : State) (c : Nat) (epoch : Option Nat) (t : Target) (a : Nat) (bs : List Byte)
    (pois : List Bool) (hint : Bool) : State :=
  match t with
  | .store _ => s.write t a bs pois
  | .mem _ => s.epochWrite c epoch a bs pois hint

end Sys2Proof.Machine
end

