-- ==== Sys2Proof/Machine/Flags.lean ====
section
/-! DEFINITION. Numeric flags of a context (R69–R72) and tensor statistics (R131–R142), with the trace records of a
diagnosis replay (R347). -/

namespace Sys2Proof.Machine

/-! ### Numeric flags -/

/-- Flag events of one command (R70, R71). -/
structure Evt where
  invalid : Bool := false
  overflow : Bool := false
  saturated : Bool := false
  flushed : Bool := false
  escOvf : Nat := 0
  t2Inv : Nat := 0
  deriving DecidableEq, Repr

def Evt.or (a b : Evt) : Evt :=
  ⟨a.invalid || b.invalid, a.overflow || b.overflow, a.saturated || b.saturated, a.flushed || b.flushed,
    a.escOvf + b.escOvf, a.t2Inv + b.t2Inv⟩

def Evt.all (l : List Evt) : Evt := l.foldl Evt.or {}

/-- The flags of a conversion (R63). -/
def convEvt (c : Conv) : Evt := { invalid := c.invalid, overflow := c.overflow, saturated := c.saturated }

/-- The context's registers take the events (R70, R71). -/
def State.flagEvt (s : State) (c : Nat) (e : Evt) : State :=
  s.modRegs c fun r => { r with
    tsFlags := r.tsFlags ||| BitVec.ofNat 6 (b2n e.invalid + 2 * b2n e.overflow + 4 * b2n e.saturated +
      8 * b2n e.flushed + 16 * b2n (decide (e.escOvf ≠ 0)) + 32 * b2n (decide (e.t2Inv ≠ 0)))
    tsEscOvfCnt := satInc r.tsEscOvfCnt e.escOvf
    tsT2InvCnt := satInc r.tsT2InvCnt e.t2Inv }

/-- What a context's profile, flags and seed say to an engine, with the step number of R68 (R32, R73). -/
structure NumCtx where
  v20 : Bool
  ieee : Bool
  srDef : Bool
  ftz : Bool
  escThr : Nat
  seed : DWord
  t : Nat
  deriving DecidableEq, Repr

def State.numCtx (s : State) (p : Nat) : NumCtx :=
  let c := ((s.coreOwner p).map (·.1)).getD 0
  let d := (s.ctx c).desc
  let pr := d.profile.toNat
  ⟨bits pr 1 2 == 1, bitAt pr 3, bitAt pr 4, bitAt d.flags.toNat 1, bits pr 5 6, d.jobSeed,
    ((s.core p).seq.lastStep).getD 0⟩

/-- The rounding of an element into a short format: mode 0 nearest even, 1 stochastic, 2 the profile's default
(R64, R66, R81). -/
def NumCtx.round (n : NumCtx) (mode tag i : Nat) : Round :=
  if mode = 1 ∨ (mode = 2 ∧ n.srDef) then .stoch (srValue n.v20 n.seed n.t tag i) else .rne

/-! ### Statistics -/

/-- One tapped element (R132, R133). -/
structure Tap where
  pois : Bool
  nonfinite : Bool
  saturated : Bool
  flushed : Bool
  /-- the statistics value before its rounding to binary32 -/
  value : Num
  deriving DecidableEq, Repr

def sumMax : Int := 2 ^ 383 - 1
def sumMin : Int := -(2 ^ 383)
def sumsqMax : Nat := 2 ^ 640 - 1
/-- Kept within an accumulator's range. -/
def clampSum (x : Int) : Int := if x < sumMin then sumMin else if sumMax < x then sumMax else x
def clampSq (x : Nat) : Nat := if sumsqMax < x then sumsqMax else x
def countMax : Nat := 2 ^ 64 - 1

/-- A count increased (R134). -/
def bumpCount (n k : Nat) : Nat := min (n + k) countMax

/-- A value in units of 2^−149, and its square in units of 2^−298. -/
def statInt : Num → Int
  | .fin s m e => Num.scaled s m e (-149)
  | _ => 0

/-- One element joins a set (R133, R134). -/
def StatSet.tap (t : StatSet) (x : Tap) : StatSet :=
  let t1 := { t with count := bumpCount t.count 1, countSat := t.countSat || decide (t.count = countMax) }
  if x.pois then { t1 with poisoned := bumpCount t.poisoned 1 }
  else if x.nonfinite || !x.value.isFinite then { t1 with nonfinite := bumpCount t.nonfinite 1 }
  else
    let c := round32 x.value
    let big := c.overflow
    let code := if big then (if x.value.isNeg then 0xFF7FFFFF else 0x7F7FFFFF) else c.code
    let v := f32 code
    let t2 := if x.saturated || big then { t1 with saturated := bumpCount t.saturated 1 } else t1
    let t3 := if v.isZero then { t2 with zeros := bumpCount t.zeros 1,
                                         flushed := bumpCount t.flushed (b2n x.flushed) } else t2
    let n := statInt v
    { t3 with
      min := if v.ltz (f32 t.min.toNat) then BitVec.ofNat 32 code else t.min
      max := if (f32 t.max.toNat).ltz v then BitVec.ofNat 32 code else t.max
      sum := if t.sumSat then t.sum else clampSum (t.sum + n)
      sumSat := t.sumSat || decide (sumMax < t.sum + n) || decide (t.sum + n ≤ sumMin)
      sumsq := clampSq (t.sumsq + n.natAbs * n.natAbs)
      sumsqSat := t.sumsqSat || decide (sumsqMax < t.sumsq + n.natAbs * n.natAbs) }

/-- Two sets combined (R134). -/
def StatSet.merge (a b : StatSet) : StatSet :=
  { count := bumpCount a.count b.count
    zeros := bumpCount a.zeros b.zeros
    nonfinite := bumpCount a.nonfinite b.nonfinite
    saturated := bumpCount a.saturated b.saturated
    flushed := bumpCount a.flushed b.flushed
    poisoned := bumpCount a.poisoned b.poisoned
    escalated := bumpCount a.escalated b.escalated
    escOvf := bumpCount a.escOvf b.escOvf
    min := if (f32 b.min.toNat).ltz (f32 a.min.toNat) then b.min else a.min
    max := if (f32 a.max.toNat).ltz (f32 b.max.toNat) then b.max else a.max
    sum := if a.sumSat then a.sum else clampSum (a.sum + b.sum)
    sumsq := clampSq (a.sumsq + b.sumsq)
    sumSat := a.sumSat || b.sumSat || decide (sumMax < a.sum + b.sum) || decide (a.sum + b.sum ≤ sumMin)
    sumsqSat := a.sumsqSat || b.sumsqSat || decide (sumsqMax < a.sumsq + b.sumsq)
    countSat := a.countSat || b.countSat || decide (countMax < a.count + b.count) }

/-- The 128-byte readout record (R138). -/
def StatSet.record (t : StatSet) : List Byte :=
  leBytes 8 t.count ++ leBytes 8 t.zeros ++ leBytes 8 t.nonfinite ++ leBytes 8 t.saturated ++ leBytes 8 t.flushed ++
    leBytes 8 t.poisoned ++ leBytes 8 t.escalated ++ leBytes 8 t.escOvf ++ leBytes 4 t.min.toNat ++
    leBytes 4 t.max.toNat ++ leBytes 8 (roundA48 (.ofInt t.sum (-149))).code ++
    leBytes 8 (roundA48 (.fin false t.sumsq (-298))).code ++
    leBytes 4 (b2n (decide (t.count ≠ 0)) + 2 * b2n t.sumSat + 4 * b2n t.sumsqSat + 8 * b2n t.countSat) ++ List.replicate 36 0

/-- The accumulators at 0x80–0xFF (R138). -/
def StatSet.accumulators (t : StatSet) : List Byte := leBytes 48 (unsigned 384 t.sum) ++ leBytes 80 t.sumsq

/-- A bank emptied for a step with a loss-scale exponent (R140 step 1). -/
def StatBank.fresh (step : Nat) (x : Int) : StatBank := ⟨step, x, 1, 0, 0, []⟩

/-- 2^e as binary32, −126 ≤ e ≤ 126 (R139). -/
def pow2F32 (e : Int) : Nat := (e + 127).toNat * 2 ^ 23

/-- A bank's header (R139). -/
def StatBank.header (b : StatBank) : List Byte :=
  leBytes 8 b.step ++ leBytes 4 (unsigned 32 b.lsExp) ++ leBytes 4 (pow2F32 b.lsExp) ++ leBytes 4 (pow2F32 (-b.lsExp)) ++
    leBytes 4 b.state ++ leBytes 4 (min b.nonfiniteAll 0xFFFFFFFF) ++ leBytes 4 (min b.nonfiniteWatched 0xFFFFFFFF) ++
    zeros 224

/-- Write a bank's header into the statistics area (R137, R140). -/
def State.writeHeader (s : State) (c bank : Nat) : State :=
  let x := s.ctx c
  s.devWrite c (x.regs.tsArea + 0x100 * bank) (Tbl.get StatBank.reset x.banks bank).header []

/-- Empty the bank of step N with its exponent and write its header (R140 step 1). -/
def State.emptyBank (s : State) (c step : Nat) (e : Int) : State :=
  (s.modCtx c fun x => { x with banks := Tbl.set StatBank.reset x.banks (step % 3) (StatBank.fresh step e) }).writeHeader
    c (step % 3)

/-! ### The trace of a diagnosis replay -/

/-- Which command writes a trace record. -/
structure CmdId where
  core : Nat
  eng : Nat
  tag : Nat
  slotAddr : Nat
  seqno : Nat
  deriving DecidableEq, Repr

/-- The region of the trace area, when tracing is enabled (R354). -/
def Ctx.traceRegion (x : Ctx) : Option Region :=
  if flag x.regs.stTrace 31 then Tbl.get none x.regions (fld x.regs.stTrace 0 4) else none

/-- Append a trace record; one that does not fit sets overflow, and tracing stops (R347). -/
def State.traceRecord (s : State) (c : Nat) (id : CmdId) (kind : Nat) (body : List Byte) : State :=
  match (s.ctx c).traceRegion with
  | none => s
  | some r =>
    let at_ := ofLe (s.peek (.mem c) (r.base + 0x40) 8)
    let ovf := ofLe (s.peek (.mem c) (r.base + 0x48) 4) % 2
    let off := if at_ < 0x1000 then 0x1000 else at_
    let lcore := ((s.coreOwner id.core).map (·.2)).getD 0
    let rec' := leBytes 1 lcore ++ leBytes 1 id.eng ++ leBytes 1 kind ++ zeros 1 ++ leBytes 4 id.tag ++
      leBytes 8 id.slotAddr ++ leBytes 8 id.seqno ++ leBytes 8 body.length ++ zeros 32 ++
      slice body 0 (roundUp body.length 64)
    let s := s.touch (.mem c) r.base 0x50
    if ovf = 1 then s
    else if off + rec'.length ≤ r.bytes then
      (s.devWrite c (r.base + off) rec' []).devWrite c (r.base + 0x40) (leBytes 8 (off + rec'.length)) []
    else s.devWrite c (r.base + 0x48) (leBytes 4 1) []

/-- The command's output tag matches a capture tag (R347). -/
def State.captured (s : State) (c tag : Nat) : Bool :=
  match (s.ctx c).traceRegion with
  | none => false
  | some r =>
    let b := s.peek (.mem c) r.base 64
    (List.range 16).any fun i =>
      let t := fieldAt b (4 * i) 4 % 4096
      decide (t ≠ 0) && decide (t = tag % 4096)

/-! ### Merging the taps of a command -/

/-- What a command tapped: its three sets; `out` is its stored output row by row (R131, R347). -/
structure Taps where
  on : Bool := false
  set0 : StatSet := StatSet.reset
  set1 : StatSet := StatSet.reset
  set2 : StatSet := StatSet.reset
  out : List Byte := []
  deriving DecidableEq, Repr

/-- A set of an entry in a bank. -/
def StatBank.mergeSet (b : StatBank) (entry i : Nat) (t : StatSet) (watch : Bool) : StatBank :=
  let k := 3 * entry + i
  { b with
    sets := Tbl.set StatSet.reset b.sets k ((Tbl.get StatSet.reset b.sets k).merge t)
    nonfiniteAll := min 0xFFFFFFFF (b.nonfiniteAll + t.nonfinite)
    nonfiniteWatched := if watch then min 0xFFFFFFFF (b.nonfiniteWatched + t.nonfinite) else b.nonfiniteWatched }

/-- The taps of a completed command join the bank of the core's step, or the trace of a diagnosis replay
(R131, R135, R140, R142, R347); a latent parity error of the unit is found in their place (R154). -/
def State.mergeTaps (s : State) (id : CmdId) (t : Taps) : State :=
  match s.coreOwner id.core with
  | none => s
  | some (c, _) =>
    let entry := id.tag % 4096
    if (s.ctx c).step.diagRunning then
      let s1 := if t.on && decide (entry ≠ 0)
        then s.traceRecord c id 1 (t.set0.record ++ t.set1.record ++ t.set2.record) else s
      if s1.captured c id.tag then s1.traceRecord c id 2 t.out else s1
    else
      match (s.core id.core).seq.lastStep with
      | none => s
      | some n =>
        if t.on && decide (entry ≠ 0) then
          if s.parity.contains (.stats c) then
            (s.clearParity (.stats c)).raise (codeAt Code.tsParity c) { ctx := some c, step := some n }
          else s.modCtx c fun x =>
            let b := Tbl.get StatBank.reset x.banks (n % 3)
            let w := bitAt id.tag 12
            let b' := ((b.mergeSet entry 0 t.set0 w).mergeSet entry 1 t.set1 w).mergeSet entry 2 t.set2 w
            { x with banks := Tbl.set StatBank.reset x.banks (n % 3) b' }
        else s

end Sys2Proof.Machine
end

