-- ==== Sys2Proof/Machine/Operands.lean ====
section
/-! DEFINITION. Operand forms: the command slot and its checks (R34), and the elements and block-scaled tensors that
engines read and write (R49–R65, R69). -/

namespace Sys2Proof.Machine

/-! ### Command slots (R34) -/

def slotOp (b : List Byte) : Nat := fieldAt b 0 1
def slotEng (b : List Byte) : Nat := bits (fieldAt b 1 1) 0 4
def slotWaitEn (b : List Byte) : Bool := bitAt (fieldAt b 1 1) 4
def slotSigEn (b : List Byte) : Bool := bitAt (fieldAt b 1 1) 5
def slotWaitCtr (b : List Byte) : Nat := bits (fieldAt b 2 2) 0 10
def slotWaitVal (b : List Byte) : Nat := fieldAt b 4 4
def slotSigCtr (b : List Byte) : Nat := bits (fieldAt b 8 2) 0 10
def slotSigInc (b : List Byte) : Nat := fieldAt b 0x0A 2
/-- The 4-byte operand at 0x0C. -/
def slotAddr (b : List Byte) : Nat := fieldAt b 0x0C 4
/-- The 4-byte or 1-byte operand at 0x10. -/
def slotAddr2 (b : List Byte) : Nat := fieldAt b 0x10 4
def slotByte2 (b : List Byte) : Nat := fieldAt b 0x10 1
/-- The 8-byte operand at 0x0C. -/
def slotLong (b : List Byte) : Nat := fieldAt b 0x0C 8

/-- For each engine and opcode: the operand bytes used, and whether the values in them are valid; none for an invalid
opcode (R37, R80, R108, R155, R184). -/
def slotForm (b : List Byte) : Option (Nat × Bool) :=
  let a := slotAddr b
  match slotEng b, slotOp b with
  | 0, 0 | 0, 1 | 0, 4 | 0, 6 | 0, 9 => some (0, true)
  | 0, 2 | 0, 3 => some (8, aligned (slotLong b) 32)
  | 0, 5 => some (4, a != 0xFFFFFFFF)
  | 0, 7 => some (8, slotLong b != 2 ^ 64 - 1)
  | 0, 8 => some (1, fieldAt b 0x0C 1 != 255)
  | 0, 10 => some (8, true)
  | 1, 1 | 1, 2 | 2, 1 | 2, 2 => some (4, aligned a 128)
  | 1, 3 | 1, 4 | 2, 3 | 2, 4 => some (5, aligned a 256 && decide (slotByte2 b ≤ 1))
  | 3, 1 => some (8, aligned a 128 && aligned (slotAddr2 b) 128)
  | 4, 1 | 4, 2 | 4, 3 => some (4, aligned a 16)
  | 4, 4 => some (5, aligned a 16 && decide (slotByte2 b ≤ 7))
  | 5, op => if 1 ≤ op ∧ op ≤ 11 then some (4, aligned a 32) else none
  | 6, op => if 1 ≤ op ∧ op ≤ 4 then some (4, aligned a 32) else none
  | _, _ => none

/-- The reserved bits and the wait and signal fields of a slot are valid (R34). -/
def slotHeaderOk (b : List Byte) : Bool :=
  decide (fieldAt b 1 1 / 64 = 0) && decide (fieldAt b 2 2 / 1024 = 0) && decide (fieldAt b 8 2 / 1024 = 0) &&
    (slotWaitEn b || (decide (fieldAt b 2 2 = 0) && decide (slotWaitVal b = 0))) &&
    (if slotSigEn b then decide (slotSigInc b ≠ 0) else decide (fieldAt b 8 2 = 0) && decide (slotSigInc b = 0))

/-- The code with which the sequencer refuses a slot, if any (R34). -/
def slotCheck (b : List Byte) : Option Nat :=
  match slotForm b with
  | none => some Code.seqBadOpcode
  | some (n, ok) =>
    if slotHeaderOk b && ok && allZero ((b.drop (0x0C + n)).take (20 - n)) then none else some Code.seqBadField

/-! ### Data read for a command -/

/-- A range that was read. -/
structure Area where
  base : Nat
  data : Data
  deriving DecidableEq, Repr

/-- Bytes at an address within the areas read, and whether any of them is poisoned. -/
def areaGet (as : List Area) (a n : Nat) : List Byte × Bool :=
  match as.find? fun x => decide (x.base ≤ a) && decide (a + n ≤ x.base + x.data.bytes.length) with
  | none => (zeros n, false)
  | some x => (slice x.data.bytes (a - x.base) n, ((x.data.pois.drop (a - x.base)).take n).any (· == true))

/-- An element as read: its value, its poison, and the events of the read. -/
structure Elem where
  val : Num
  pois : Bool
  evt : Evt
  deriving DecidableEq, Repr

def Elem.zero : Elem := ⟨.zero, false, {}⟩

/-- Decode a stored code of a format other than t2 and a48, flushing a subnormal where the class does (R69). -/
def readCode (c code : Nat) (pois ftz : Bool) : Elem :=
  if c = 8 then
    if code / 2 ^ 48 ≠ 0 then ⟨.nan, pois, { invalid := true }⟩ else ⟨Fmt.a48.decode code, pois, {}⟩
  else if c = 7 then ⟨decodeT2 code, pois, { t2Inv := b2n (code % 4 == 2) }⟩
  else if ftz && isSubnormal c code then ⟨decodeCode c (flushCode c code), pois, { flushed := true }⟩
  else ⟨decodeCode c code, pois, {}⟩

/-- An element of a dense tensor at an address (R50, R51). -/
def readDense (as : List Area) (c a : Nat) (ftz : Bool) : Elem :=
  let (bs, po) := areaGet as a (elemBytes c)
  readCode c (ofLe bs) po ftz

/-! ### Block-scaled tensors (R57–R62) -/

/-- Payload and slot bytes of a block. -/
def payBytes (c : Nat) : Nat := if c = 6 then 16 else if c = 5 then 24 else 8
def sideBytes (c : Nat) : Nat := if c = 7 then 24 else 16
/-- Bits of an element. -/
def elemBits (c : Nat) : Nat := if c = 6 then 4 else if c = 5 then 6 else 2

/-- Where a block-scaled tensor lies, and its blocks per row. -/
structure BlkAt where
  fmt : Nat
  pay : Nat
  hdr : Nat
  side : Nat
  B : Nat
  deriving DecidableEq, Repr

def BlkAt.payAddr (t : BlkAt) (r b : Nat) : Nat := t.pay + (r * t.B + b) * payBytes t.fmt
def BlkAt.hdrAddr (t : BlkAt) (r b : Nat) : Nat := t.hdr + 2 * (r * t.B + b)
def BlkAt.slotAddr (t : BlkAt) (r b k : Nat) : Nat := t.side + (4 * (r / 64 * t.B + b) + k) * sideBytes t.fmt

/-- The ranges (address, length) from first to last byte of rows [r0, r0 + nr) and block columns [b0, b0 + nb). -/
def BlkAt.spans (t : BlkAt) (r0 nr b0 nb : Nat) : List (Nat × Nat) :=
  if nr = 0 ∨ nb = 0 then []
  else
    let r1 := r0 + nr - 1
    let b1 := b0 + nb - 1
    let p := t.payAddr r0 b0
    let h := t.hdrAddr r0 b0
    let s := t.slotAddr r0 b0 0
    [(p, t.payAddr r1 b1 + payBytes t.fmt - p), (h, t.hdrAddr r1 b1 + 2 - h),
      (s, t.slotAddr r1 b1 3 + sideBytes t.fmt - s)]

/-- A block as read: its scale byte, whether it is escalated, and its 32 unscaled elements (R54, R61, R224). -/
structure Block where
  q : Nat
  esc : Bool
  elems : List Elem
  deriving DecidableEq, Repr

def readBlock (as : List Area) (t : BlkAt) (r b : Nat) (ftz : Bool) : Block :=
  let (h, hp) := areaGet as (t.hdrAddr r b) 2
  let (p, _) := areaGet as (t.payAddr r b) (payBytes t.fmt)
  let q := fieldAt h 0 1
  let esc := bitAt (fieldAt h 1 1) 0
  let slot := bits (fieldAt h 1 1) 1 2
  let P := payBytes t.fmt
  let w := elemBits t.fmt
  let elem (n : Nat) : Elem :=
    if esc then
      let a := if n < P then t.payAddr r b + n else t.slotAddr r b slot + (n - P)
      let (bs, po) := areaGet as a 1
      readCode 4 (ofLe bs) (po || hp) ftz
    else
      let (_, po) := areaGet as (t.payAddr r b + w * n / 8) ((w * n + w - 1) / 8 - w * n / 8 + 1)
      readCode t.fmt (bits (ofLe p) (w * n) w) (po || hp) ftz
  ⟨q, esc, (List.range 32).map elem⟩

/-- The decoded elements c × S(q) of a block (R54). -/
def Block.values (b : Block) : List Elem := b.elems.map fun e => { e with val := e.val.mul (blockScale b.q) }

/-- The traffic class of a writer, for subnormal results (R69). -/
inductive Cls where
  | matrix | vector (ftz : Bool)
  deriving DecidableEq, Repr

/-- A rounded code after the flush of its class: the code, whether it was flushed, whether FLUSHED is set. -/
def flushResult (k : Cls) (c code : Nat) : Nat × Bool × Bool :=
  if c = 7 ∨ c = 8 then (code, false, false)
  else if isSubnormal c code then
    match k with
    | .matrix => if isLong c then (flushCode c code, true, false) else (code, false, false)
    | .vector true => (flushCode c code, true, true)
    | .vector false => (code, false, false)
  else (code, false, false)

/-- A value to be written: its value, poison and index in the tensor (R68); an element of padding is not tapped. -/
structure Src where
  val : Num
  pois : Bool
  index : Nat
  pad : Bool
  deriving DecidableEq, Repr

/-- What writing an element did. -/
structure Wrote where
  code : Nat
  evt : Evt
  tap : Tap
  deriving DecidableEq, Repr

/-- Convert, flush and describe one element; `scale` turns the stored code into its decoded value (R54, R63, R69). -/
def writeElem (k : Cls) (c : Nat) (r : Round) (x : Num) (pois : Bool) (scale : Num) : Wrote :=
  let cv := convert c r x
  let (code, fl, ff) := flushResult k c cv.code
  { code := code
    evt := Evt.or (convEvt cv) { flushed := ff }
    tap := { pois := pois, nonfinite := cv.nonfinite, saturated := cv.saturated && x.isFinite, flushed := fl,
             value := (decodeCode c code).mul scale } }

/-- How a block-scaled tensor is written (R56, R60, R64). -/
structure BlkMode where
  auto : Bool
  q : Nat
  thr : Nat
  round : Nat → Round
  cls : Cls

/-- A block as written. -/
structure BlkOut where
  pay : List Byte
  hdr : List Byte
  slot : Option (Nat × List Byte)
  evt : Evt
  taps : List Tap
  esc : Bool
  ovf : Bool
  pois : List Bool
  deriving DecidableEq, Repr

/-- Pack codes of `w` bits (R51). -/
def packCodes (w : Nat) (codes : List Nat) : Nat := codes.foldr (fun c a => c % 2 ^ w + 2 ^ w * a) 0

/-- Write one block of a group with `used` slots taken (R60–R62). -/
def encodeBlock (c : Nat) (m : BlkMode) (xs : List Src) (used : Nat) : BlkOut :=
  let q := if m.auto then autoQ c (xs.map (·.val)) else m.q
  let ys := xs.map fun x => x.val.mul (blockEnc q)
  let sat := (ys.filter fun y => y.isFinite && Num.lt (fmaxOf c) y.abs).length
  let want := (xs.any fun x => !x.val.isFinite) || decide (m.thr < sat)
  let esc := want && decide (used < 4)
  let fmt := if esc then 4 else c
  let ws := (List.zip xs ys).map fun (x, y) => writeElem m.cls fmt (m.round x.index) y x.pois (blockScale q)
  let codes := ws.map (·.code)
  let P := payBytes c
  let pay := if esc then (codes.take P).map (BitVec.ofNat 8) else leBytes P (packCodes (elemBits c) codes)
  let slot := if esc then some (used, slice ((codes.drop P).map (BitVec.ofNat 8)) 0 (sideBytes c)) else none
  { pay := pay
    hdr := leBytes 1 q ++ leBytes 1 (b2n esc + 2 * (if esc then used else 0))
    slot := slot
    evt := Evt.or (Evt.all (ws.map (·.evt))) { escOvf := b2n (want && !esc) }
    taps := ((List.zip xs ws).filter fun p => !p.1.pad).map fun p => p.2.tap
    esc := esc
    ovf := want && !esc
    pois := xs.map (·.pois) }

/-- Blocks of one group in ascending row order, with the slots they take (R59, R60). -/
def encodeGroup (c : Nat) (m : BlkMode) : List (List Src) → Nat → List BlkOut
  | [], _ => []
  | xs :: r, used =>
    let o := encodeBlock c m xs used
    o :: encodeGroup c m r (used + b2n o.esc)

/-- Bytes to be written, with a poison mark for each byte. -/
structure Put where
  addr : Nat
  bytes : List Byte
  pois : List Bool
  deriving DecidableEq, Repr

/-- What a tensor write came to. -/
structure Written where
  puts : List Put
  evt : Evt
  taps : List Tap
  esc : Nat
  ovf : Nat
  /-- stored bytes of a block-scaled result by row (R347) -/
  rows : List (Nat × List Byte) := []
  deriving DecidableEq, Repr

def Written.empty : Written := ⟨[], {}, [], 0, 0, []⟩

def Written.append (a b : Written) : Written :=
  ⟨a.puts ++ b.puts, Evt.or a.evt b.evt, a.taps ++ b.taps, a.esc + b.esc, a.ovf + b.ovf, a.rows ++ b.rows⟩

/-- The stored output row by row; a dense result is written in that order, and a block's bytes stand together (R347). -/
def Written.body (w : Written) : List Byte :=
  if w.rows.isEmpty then w.puts.flatMap (·.bytes)
  else (w.rows.mergeSort fun a b => decide (a.1 ≤ b.1)).flatMap (·.2)

/-- Poison of each payload byte of a block: its elements' (R224). -/
def payPois (c : Nat) (o : BlkOut) : List Bool :=
  (List.range (payBytes c)).map fun i =>
    if o.esc then (o.pois[i]?).getD false
    else
      let w := elemBits c
      (List.range 32).any fun n => decide (w * n < 8 * i + 8) && decide (8 * i < w * n + w) && (o.pois[n]?).getD false

/-- The writes of one block at (r, b). Any poisoned element poisons the header unit, and one in a slot the slot's unit
(R224). -/
def blockPuts (t : BlkAt) (r b : Nat) (o : BlkOut) : List Put :=
  let any := o.pois.any (· == true)
  let P := payBytes t.fmt
  [⟨t.payAddr r b, o.pay, payPois t.fmt o⟩, ⟨t.hdrAddr r b, o.hdr, List.replicate 2 any⟩] ++
    (match o.slot with
     | none => []
     | some (k, bs) =>
       [⟨t.slotAddr r b k, bs, (List.range bs.length).map fun i => (o.pois[P + i]?).getD false⟩])

/-- Write a rectangle of a block-scaled tensor: `val r c` are the sources; rows [r0, r0 + nr), columns [c0, c0 + nc) of
`ncols`, whole groups (R57, R59, R60). -/
def writeBlocks (t : BlkAt) (m : BlkMode) (r0 nr c0 nc : Nat) (ncols : Nat) (val : Nat → Nat → Num × Bool) : Written :=
  let b0 := c0 / 32
  let nb := ceilDiv nc 32
  let g0 := r0 / 64
  let ng := if nr = 0 then 0 else ceilDiv (r0 % 64 + nr) 64
  (List.range ng).foldl (fun acc g =>
    (List.range nb).foldl (fun acc' bi =>
      let b := b0 + bi
      let rows := (List.range 64).filterMap fun i =>
        let r := (g0 + g) * 64 + i
        if r0 ≤ r ∧ r < r0 + nr then some r else none
      let srcs := rows.map fun r => (List.range 32).map fun n =>
        let c := 32 * b + n
        if c < c0 + nc ∧ c < ncols then
          let (v, p) := val r c
          (⟨v, p, r * ncols + c, false⟩ : Src)
        else ⟨.zero, false, 0, true⟩
      let os := encodeGroup t.fmt m srcs 0
      let w : Written :=
        { puts := (List.zip rows os).flatMap fun p => blockPuts t p.1 b p.2
          evt := Evt.all (os.map (·.evt))
          taps := os.flatMap (·.taps)
          esc := (os.filter (·.esc)).length
          ovf := (os.filter (·.ovf)).length
          rows := (List.zip rows os).map fun p => (p.1, (blockPuts t p.1 b p.2).flatMap (·.bytes)) }
      acc'.append w) acc) Written.empty

/-- Write one dense element (R51, R63, R69). -/
def writeDense (k : Cls) (c : Nat) (r : Round) (x : Num) (pois : Bool) (a : Nat) : Written :=
  let w := writeElem k c r x pois (.fin false 1 0)
  let n := elemBytes c
  { puts := [⟨a, leBytes n w.code, List.replicate n pois⟩], evt := w.evt, taps := [w.tap], esc := 0, ovf := 0, rows := [] }

/-- A set of a command's taps from its elements, with the escalation counts of set 1 (R133). -/
def tapSet (taps : List Tap) (esc ovf : Nat) : StatSet :=
  { taps.foldl StatSet.tap StatSet.reset with escalated := esc, escOvf := ovf }

/-! ### Writes of an engine -/

/-- Adjoining writes joined, so that whole units are written as one (R219, R223). -/
def joinPuts : List Put → List Put
  | [] => []
  | p :: r =>
    match joinPuts r with
    | [] => [p]
    | q :: t => if p.addr + p.bytes.length = q.addr then ⟨p.addr, p.bytes ++ q.bytes, p.pois ++ q.pois⟩ :: t
                else p :: q :: t

/-- Writes in ascending address order, joined. -/
def sortPuts (ps : List Put) : List Put := joinPuts (ps.insertionSort fun a b => a.addr ≤ b.addr)

/-- A 64-byte unit whose any written element is poisoned is marked wholly (R223): the marks are per byte here and
`State.write` marks the unit. Apply the writes to a target. -/
def State.putAll (s : State) (t : Target) (ps : List Put) : State :=
  ps.foldl (fun u p => u.write t p.addr p.bytes p.pois) s

/-- Units newly marked by an engine's writes, each counted once (R225). -/
def putUnits (ps : List Put) : Nat :=
  ((ps.flatMap fun p => ((pieces p.addr p.bytes.length).filter fun q =>
    ((p.pois.drop (q.1 - p.addr)).take q.2).any (· == true)).map fun q => q.1 / 64).dedup).length

/-- A write of the list meets a slot of a running stream in the store of core `p` (R33). -/
def State.putsHitStream (s : State) (p : Nat) (ps : List Put) : Bool :=
  match s.coreOwner p with
  | none => false
  | some (c, _) => ps.any fun x => s.streamHit c (.store p) x.addr x.bytes.length

/-- An engine of core `p` writes into its own store and the poisoned units are counted (R225). -/
def State.storePuts (s : State) (p : Nat) (ps : List Put) : State :=
  (s.putAll (.store p) (sortPuts ps)).countPoison p (putUnits (sortPuts ps))

/-- Read areas of the core's own store. -/
def State.readStore (s : State) (p : Nat) (spans : List (Nat × Nat)) : List Area × State :=
  spans.foldl (fun (r : List Area × State) sp =>
    let (d, s1) := r.2.read (.store p) sp.1 sp.2
    (r.1 ++ [⟨sp.1, d⟩], s1)) ([], s)

/-- Every span lies within the core store. -/
def inStore (spans : List (Nat × Nat)) : Bool := spans.all fun x => decide (x.1 + x.2 ≤ 2 ^ 22)

/-- No span of one list meets a span of the other. -/
def disjoint (xs ys : List (Nat × Nat)) : Bool := xs.all fun x => ys.all fun y => !overlaps x.1 x.2 y.1 y.2

/-- The areas of one block-scaled tensor do not meet (R57). -/
def selfDisjoint (f : Nat) (sp : List (Nat × Nat)) : Bool :=
  match isBlockFmt f, sp with
  | true, [p, h, s] => disjoint [p] [h, s] && disjoint [h] [s]
  | _, _ => true

/-! ### What goes wrong in the arrays -/

def noFault : ArrFault := ⟨false, []⟩
def Faults.none : Faults := ⟨noFault, noFault, noFault, noFault⟩

end Sys2Proof.Machine
end

