-- ==== Sys2Proof/Machine/Counters.lean ====
section
/-! DEFINITION. Counters and watches (R182–R192), the engine queues and signals (R35, R36), and fetching a command
slot (R33, R34, R37). -/

namespace Sys2Proof.Machine

/-! ### Counters and watches -/

/-- What one evaluation pass leaves (R188): the counter, the watches that stay, the watches that fire, and whether
younger claims are blocked. -/
structure Pass where
  val : Nat
  stay : List Watch
  fired : List Watch
  blocked : Bool
  deriving DecidableEq, Repr

/-- One watch in the pass on counter `c` (R188). -/
def Pass.visit (c : Nat) (p : Pass) (w : Watch) : Pass :=
  let keep := { p with stay := p.stay ++ [w] }
  let fire := { p with fired := p.fired ++ [w] }
  if w.ctr ≠ c then keep
  else if w.kind = 1 then (if w.value.toNat ≤ p.val then fire else keep)
  else if w.kind = 2 then (if p.val = w.value.toNat then fire else keep)
  else if !p.blocked && decide (w.value.toNat ≤ p.val) then { fire with val := p.val - w.value.toNat }
  else { keep with blocked := true }

/-- The pass over all slots in registration order (R188). -/
def passOn (c val : Nat) (ws : List Watch) : Pass := ws.foldl (Pass.visit c) ⟨val, [], [], false⟩

/-- Value of a counter of a core. -/
def Core.ctr (k : Core) (c : Nat) : Nat := (Tbl.get 0 k.counters c).toNat

/-- A notify of a fired watch, on its way through a hub (R188). -/
def notifyMsg (s : State) (p : Nat) (w : Watch) : List HubMsg :=
  match s.coreOwner p with
  | none => []
  | some (c, _) =>
    match s.physCore c w.notifyLcore with
    | none => []
    | some q => [⟨q, c, (s.ctx c).desc.secure, none, .add w.notifyCtr (BitVec.ofNat 32 w.notifyInc), false,
        (s.core p).seq.lastStep⟩]

/-- An evaluation pass on counter `c` of core `p` (R188). -/
def State.evaluate (s : State) (p c : Nat) : State :=
  let k := s.core p
  let r := passOn c (k.ctr c) k.watches
  let s1 := s.setCore p { k with counters := Tbl.set 0 k.counters c (BitVec.ofNat 32 r.val), watches := r.stay }
  { s1 with hub := s1.hub ++ r.fired.flatMap (notifyMsg s p) }

/-- A counter takes a value, and its watches are evaluated (R183, R188). -/
def State.putCtr (s : State) (p c v : Nat) : State :=
  (s.modCore p fun k => { k with counters := Tbl.set 0 k.counters c (BitVec.ofNat 32 v) }).evaluate p c

/-- The context that owns a core is faulted by its unit (R183, R206). -/
def State.suError (s : State) (p code : Nat) : State :=
  let c := (s.coreOwner p).map (·.1)
  s.raise (codeAt code p) { ctx := c, step := (s.core p).seq.lastStep }

/-- A change `t` of a core's counters or slots; a latent parity error of the unit is found in its place (R206). -/
def State.suSound (s : State) (p : Nat) (t : State) : State :=
  if s.parity.contains (.sync p) then (s.clearParity (.sync p)).suError p Code.suParity else t

/-- Add to a counter; a change past 2^32 − 1 is not applied (R183). -/
def State.addCtr (s : State) (p c n : Nat) : State :=
  let v := (s.core p).ctr c + n
  s.suSound p (if v < 2 ^ 32 then s.putCtr p c v else s.suError p Code.suOverflow)

/-- Subtract from a counter; a change below zero is not applied (R183). -/
def State.subCtr (s : State) (p c n : Nat) : State :=
  let v := (s.core p).ctr c
  s.suSound p (if n ≤ v then s.putCtr p c (v - n) else s.suError p Code.suUnderflow)

/-- Place a watch in a slot and evaluate its counter (R187, R188). -/
def State.placeWatch (s : State) (p : Nat) (w : Watch) : State :=
  s.suSound p <| if 64 ≤ (s.core p).watches.length then s.suError p Code.suWatchFull
  else (s.modCore p fun k => { k with watches := k.watches ++ [w] }).evaluate p w.ctr

/-- A change or registration applied at a core's unit (R183, R187, R188). -/
def State.applySu (s : State) (p : Nat) : SuMsg → State
  | .set c v => s.suSound p (s.putCtr p c v.toNat)
  | .add c v => s.addCtr p c v.toNat
  | .sub c v => s.subCtr p c v.toNat
  | .watch kind c v nl nc ni => s.placeWatch p ⟨kind, c, v, nl, nc, ni⟩

/-! ### Engine queues -/

def Core.queue (k : Core) : Eng → List QCmd
  | .seq => []
  | .warp => k.qWarp
  | .weft => k.qWeft
  | .vec => k.qVec
  | .copy => k.qCopy
  | .sync => k.qSync

def Core.setQueue (k : Core) (e : Eng) (q : List QCmd) : Core :=
  match e with
  | .seq => k
  | .warp => { k with qWarp := q }
  | .weft => { k with qWeft := q }
  | .vec => { k with qVec := q }
  | .copy => { k with qCopy := q }
  | .sync => { k with qSync := q }

/-- The engines a slot names (R34, R36). -/
def enginesOf (slot : List Byte) : List Eng :=
  match slotEng slot with
  | 1 => [.warp]
  | 2 => [.weft]
  | 3 => [.warp, .weft]
  | 4 => [.vec]
  | 5 => [.copy]
  | 6 => [.sync]
  | _ => []

/-- A wait is met: nothing to wait for, or the counter has reached the value (R34, R35). -/
def Core.waitMet (k : Core) (slot : List Byte) : Bool :=
  !slotWaitEn slot || decide (slotWaitVal slot ≤ k.ctr (slotWaitCtr slot))

/-- Commands started and not complete. -/
def Core.started (k : Core) : List QCmd :=
  k.warp.drains.map (·.2) ++ k.weft.drains.map (·.2) ++ (k.warp.recheck.map (·.cmd)).toList ++
    (k.weft.recheck.map (·.cmd)).toList ++ k.pairs.map (·.cmd) ++ k.ce.map (·.cmd) ++ k.suWait.toList

/-- Every issued command of the core has completed and every queue is empty (R37): what DRAIN awaits. -/
def Core.quiet (k : Core) : Bool :=
  k.qWarp.isEmpty && k.qWeft.isEmpty && k.qVec.isEmpty && k.qCopy.isEmpty && k.qSync.isEmpty && k.started.isEmpty &&
    k.toSignal.isEmpty

/-- What END and STEP await: also the receipt of every remote signal (R37, R320). -/
def Core.done (k : Core) : Bool := k.quiet && k.rsigOut.isEmpty

/-- A command is complete: it retires, or waits for its signal to be applied (R35). A core that has been stopped
abandons it (R31). -/
def State.retire (s : State) (p : Nat) (q : QCmd) : State :=
  if !(s.core p).seq.running then s
  else match enginesOf q.slot with
  | e :: _ => if slotSigEn q.slot then s.modCore p fun k => { k with toSignal := k.toSignal ++ [(e, q)] } else s
  | [] => s

/-- Apply the signal of a slot at its own core (R34, R35, R183). -/
def State.signalSlot (s : State) (p : Nat) (slot : List Byte) : State :=
  if slotSigEn slot then s.addCtr p (slotSigCtr slot) (slotSigInc slot) else s

/-- The oldest completed command of an engine whose signal is due: no older command of its engines is unfinished
(R35). -/
def Core.dueSignal (k : Core) (e : Eng) : Option (Eng × QCmd) :=
  k.toSignal.find? fun x => (x.1 == e || (enginesOf x.2.slot).contains e) &&
    !((k.started ++ k.toSignal.map (·.2)).any fun y => decide (y.seqno < x.2.seqno) &&
      (enginesOf y.slot).any fun z => (enginesOf x.2.slot).contains z)

/-! ### Fetching -/

/-- Where the slots of a core's stream lie (R33). -/
def State.streamTarget (s : State) (p : Nat) : Target :=
  if (s.core p).seq.inStore then .store p else .mem ((s.coreOwner p).map (·.1) |>.getD 0)

/-- The address lies within the core's stream (R37). -/
def Seq.inStream (q : Seq) (a : Nat) : Bool := decide (q.base ≤ a) && decide (a < q.base + 32 * q.length)

/-- The context's streams execute: it is RUNNING, or a diagnosis replay runs while it is PAUSED (R28, R345). -/
def Ctx.executing (x : Ctx) : Bool := x.st == .running || (x.st == .paused && x.step.diagRunning)

/-- The core may dispatch: its context executes and is not being suspended, and its stream has not ended
(R28, R37, R41). -/
def State.dispatching (s : State) (p : Nat) : Bool :=
  match s.coreOwner p with
  | none => false
  | some (c, _) =>
    let x := s.ctx c
    x.executing && !(x.busy.any fun h => h.opcode == 3 || h.opcode == 5) && (s.core p).seq.running &&
      !(s.core p).seq.ended

/-- The outcome of a fetch: the slot, or a state in which nothing more is dispatched. -/
inductive Fetch where
  | stop (s : State)
  | slot (b : List Byte) (s : State)

/-- Fetch the slot at the core's position for a row of the table: a poisoned or refused slot raises its error, a slot
of another row leaves the state unchanged (R34, R37, R224). -/
def State.fetchFor (s : State) (p eng op : Nat) : Fetch :=
  if !s.dispatching p then .stop s
  else
    let q := (s.core p).seq
    if !q.inStream q.pos then .stop (s.raiseCore Code.seqFetchBound p q.pos)
    else
      let (d, s1) := s.read (s.streamTarget p) q.pos 32
      if d.pois.any (· == true) then .stop (s1.raiseCore Code.seqFetchPoison p q.pos)
      else
        match slotCheck d.bytes with
        | some code => .stop (s1.raiseCore code p q.pos)
        | none => if slotEng d.bytes = eng ∧ slotOp d.bytes = op then .slot d.bytes s1 else .stop s

/-- Dispatch continues at an address; one outside the stream raises SEQ_FETCH_BOUND and dispatches nothing further
(R37). -/
def State.goTo (s : State) (p a : Nat) : State :=
  let q := (s.core p).seq
  if q.inStream a then s.modCore p fun k => { k with seq := { k.seq with pos := a } }
  else s.raiseCore Code.seqFetchBound p q.pos

/-- A slot has been dispatched: it is counted. -/
def State.countDispatch (s : State) (p : Nat) : State :=
  s.modCore p fun k => { k with seq := { k.seq with seqno := k.seq.seqno + 1 } }

end Sys2Proof.Machine
end

