-- ==== Sys2Proof/Machine/Array.lean ====
section
/-! DEFINITION. The matrix arrays (R78–R107) with the border's verdict (R93, R94, R332, R333, R383): descriptors,
products, the epilogue, and saving and restoring banks. -/

namespace Sys2Proof.Machine

/-! ### The matrix descriptor (R81) -/

/-- One operand's area fields. -/
structure MatArea where
  base : Nat
  stride : Nat
  hdr : Nat
  side : Nat
  deriving DecidableEq, Repr

structure Mat where
  aF : Nat
  bF : Nat
  cF : Nat
  layout : Nat
  m : Nat
  n : Nat
  k : Nat
  control : Nat
  biasMode : Nat
  act : Nat
  actShift : Nat
  a : MatArea
  b : MatArea
  c : MatArea
  aScale : Nat
  bScale : Nat
  cEnc : Nat
  clampC : Nat
  biasBase : Nat
  cScaleMode : Nat
  cQ : Nat
  escThr : Nat
  rsv57 : Nat
  tag : Nat
  cCol0 : Nat
  cRow0 : Nat
  cNrows : Nat
  cNcols : Nat
  rsv74 : Nat
  deriving DecidableEq, Repr

def matArea (d : List Byte) (o : Nat) : MatArea := ⟨fieldAt d o 4, fieldAt d (o + 4) 4, fieldAt d (o + 8) 4,
  fieldAt d (o + 12) 4⟩

def Mat.parse (d : List Byte) : Mat :=
  { aF := fieldAt d 0 1, bF := fieldAt d 1 1, cF := fieldAt d 2 1, layout := fieldAt d 3 1, m := fieldAt d 4 2,
    n := fieldAt d 6 2, k := fieldAt d 8 4, control := fieldAt d 0x0C 1, biasMode := fieldAt d 0x0D 1,
    act := fieldAt d 0x0E 1, actShift := fieldAt d 0x0F 1, a := matArea d 0x10, b := matArea d 0x20,
    c := matArea d 0x30, aScale := fieldAt d 0x40 4, bScale := fieldAt d 0x44 4, cEnc := fieldAt d 0x48 4,
    clampC := fieldAt d 0x4C 4, biasBase := fieldAt d 0x50 4, cScaleMode := fieldAt d 0x54 1, cQ := fieldAt d 0x55 1,
    escThr := fieldAt d 0x56 1, rsv57 := fieldAt d 0x57 1, tag := fieldAt d 0x58 4, cCol0 := fieldAt d 0x5C 4,
    cRow0 := fieldAt d 0x60 8, cNrows := fieldAt d 0x68 8, cNcols := fieldAt d 0x70 4, rsv74 := fieldAt d 0x74 12 }

def Mat.aKmajor (d : Mat) : Bool := bitAt d.layout 0
def Mat.bKmajor (d : Mat) : Bool := bitAt d.layout 1
def Mat.cTrans (d : Mat) : Bool := bitAt d.layout 2
def Mat.accumulate (d : Mat) : Bool := bitAt d.control 0
def Mat.epilogueEn (d : Mat) : Bool := bitAt d.control 1
def Mat.bank (d : Mat) : Bool := bitAt d.control 2
def Mat.roundMode (d : Mat) : Nat := bits d.control 3 2
def Mat.statsPre (d : Mat) : Bool := bitAt d.control 5
def Mat.statsPost (d : Mat) : Bool := bitAt d.control 6

/-- Rows and columns written (R90 stage 8). -/
def Mat.outRows (d : Mat) : Nat := if d.cTrans then d.n else d.m
def Mat.outCols (d : Mat) : Nat := if d.cTrans then d.m else d.n

/-- A no-op when it has passed its checks (R82). -/
def Mat.noop (d : Mat) (product : Bool) : Bool := d.m == 0 || d.n == 0 || (product && d.k == 0)

/-- Format class of an operand for the pair rule: 0 16-bit, 1 8-bit, 2 f6 or f4, 3 t2. -/
def opClass : Nat → Option Nat
  | 1 | 2 => some 0
  | 3 | 4 => some 1
  | 5 | 6 => some 2
  | 7 => some 3
  | _ => none

/-- The operand pair is valid (R79). -/
def pairOk (a b : Nat) : Bool :=
  match opClass a, opClass b with
  | some 0, some 0 => true
  | some 1, some y => y != 0
  | some x, some 1 => x != 0
  | some 2, some 2 => true
  | some 3, some 2 => true
  | some 2, some 3 => true
  | _, _ => false

/-- The area fields of an operand on their own (R81): core-store addresses, zero header and side unless block-scaled,
alignment. -/
def areaOk (f : Nat) (x : MatArea) : Bool :=
  decide (x.base < 2 ^ 22) && decide (x.hdr < 2 ^ 22) && decide (x.side < 2 ^ 22) &&
  if isBlockFmt f then aligned x.base 256 && aligned x.hdr 256 && aligned x.side 256 && decide (x.stride = 0)
  else decide (x.hdr = 0) && decide (x.side = 0) && decide (x.stride ≠ 0xFFFFFFFF)

/-- Step 1 of R82: each field on its own; in V20-exact mode an output is bf16, f16, f8p or f8r, or a partial, which is
binary32 (R76, R118). -/
def Mat.fieldsOk (d : Mat) (product v20 : Bool) : Bool :=
  let out := !product || d.epilogueEn
  decide (d.m ≤ 128) && decide (d.n ≤ 128) && decide (d.layout < 8) && decide (d.control < 128) &&
    decide (d.roundMode ≠ 3) && isScale d.aScale && isScale d.bScale && decide (d.rsv74 = 0) &&
    (!product || (decide (d.aF ≤ 8) && decide (d.bF ≤ 8) && decide (d.k ≤ 1048576) && areaOk d.aF d.a &&
      areaOk d.bF d.b)) &&
    (!out || (decide (d.cF ≤ 8) && areaOk d.cF d.c && isScale d.cEnc && decide (d.biasMode ≤ 2) && decide (d.act ≤ 4) &&
      (if d.act = 2 then decide (1 ≤ d.actShift) && decide (d.actShift ≤ 15) else decide (d.actShift = 0)) &&
      (if d.act = 3 then isScale d.clampC else decide (d.clampC = 0)) &&
      (if d.biasMode = 0 then decide (d.biasBase = 0) else aligned d.biasBase 4 && decide (d.biasBase < 2 ^ 22)) &&
      (if isBlockFmt d.cF then decide (d.cScaleMode ≤ 1) else decide (d.cScaleMode = 0)) && decide (d.escThr ≤ 32) &&
      decide (d.rsv57 = 0) && decide (1 ≤ d.cNrows) && decide (d.cNrows ≤ 2 ^ 51) && decide (1 ≤ d.cNcols) &&
      decide (d.cNcols ≤ 0xFFFFFFFE) && !(v20 && (4 < d.cF || d.escThr != 0))))

/-- A dense area's stride holds a row (R83). -/
def strideOk (f stride cols : Nat) : Bool :=
  isBlockFmt f || (stride % 32 == 0 && decide (cols * elemBytes f ≤ stride))

/-- Step 3 of R82: rules that join fields. -/
def Mat.joinsOk (d : Mat) (product : Bool) : Bool :=
  let out := !product || d.epilogueEn
  (!product || ((!isBlockFmt d.aF || d.aKmajor) && (!isBlockFmt d.bF || d.bKmajor) &&
      strideOk d.aF d.a.stride (if d.aKmajor then d.k else d.m) &&
      strideOk d.bF d.b.stride (if d.bKmajor then d.k else d.n))) &&
    (!out || (strideOk d.cF d.c.stride d.outCols && decide (d.cRow0 + d.outRows ≤ d.cNrows) &&
      decide (d.cCol0 + d.outCols ≤ d.cNcols) && decide (d.cNrows * d.cNcols ≤ 2 ^ 51) &&
      (!isBlockFmt d.cF || (d.cRow0 % 64 == 0 && d.cCol0 % 32 == 0 &&
        (d.outRows % 64 == 0 || d.cRow0 + d.outRows == d.cNrows) &&
        (d.outCols % 32 == 0 || d.cCol0 + d.outCols == d.cNcols)))))

/-- Where a block-scaled operand or output lies (R57, R83). -/
def MatArea.blk (x : MatArea) (f cols : Nat) : BlkAt := ⟨f, x.base, x.hdr, x.side, ceilDiv cols 32⟩

/-- Spans of an operand of `rows` rows (or columns of the product) and `k` (R83). A dense one is one range from its first
byte to its last (R82; DEDUCED, log 99). -/
def opSpans (f : Nat) (x : MatArea) (kmajor : Bool) (rows k : Nat) : List (Nat × Nat) :=
  if rows = 0 ∨ k = 0 then []
  else if isBlockFmt f then (x.blk f k).spans 0 rows 0 (ceilDiv k 32)
  else
    let r := if kmajor then rows else k
    let c := if kmajor then k else rows
    [(x.base, (r - 1) * x.stride + c * elemBytes f)]

def Mat.aSpans (d : Mat) : List (Nat × Nat) := opSpans d.aF d.a d.aKmajor d.m d.k
def Mat.bSpans (d : Mat) : List (Nat × Nat) := opSpans d.bF d.b d.bKmajor d.n d.k

def Mat.outSpans (d : Mat) : List (Nat × Nat) :=
  if d.m = 0 ∨ d.n = 0 then []
  else if isBlockFmt d.cF then
    (d.c.blk d.cF d.cNcols).spans d.cRow0 d.outRows (d.cCol0 / 32) (ceilDiv d.outCols 32)
  else [(d.c.base, (d.outRows - 1) * d.c.stride + d.outCols * elemBytes d.cF)]

def Mat.biasSpans (d : Mat) : List (Nat × Nat) :=
  match d.biasMode with
  | 1 => [(d.biasBase, 4 * d.n)]
  | 2 => [(d.biasBase, 4 * d.m)]
  | _ => []

/-- All checks of R82 in their order: the code raised, if any. `product` is false for EPILOGUE. -/
def Mat.check (d : Mat) (product v20 : Bool) : Option Nat :=
  let out := !product || d.epilogueEn
  let ins := if product then d.aSpans ++ d.bSpans else []
  let outs := if out then d.outSpans else []
  let bias := if out then d.biasSpans else []
  if !d.fieldsOk product v20 then some Code.arBadDesc
  else if product && (!pairOk d.aF d.bF || (v20 && (isBlockFmt d.aF || isBlockFmt d.bF))) then some Code.arBadPair
  else if !d.joinsOk product then some Code.arBadDesc
  else if !inStore (ins ++ outs ++ bias) then some Code.arBound
  else if !(disjoint outs (ins ++ bias) && (!product || (selfDisjoint d.aF d.aSpans && selfDisjoint d.bF d.bSpans)) &&
      (!out || selfDisjoint d.cF d.outSpans)) then some Code.arBadDesc
  else none

/-! ### Products (R84–R86) -/

/-- One k-block of a row of an operand: its block scale and its 32 elements (R83, R84). -/
structure KRow where
  scale : Num
  elems : List Elem
  deriving DecidableEq, Repr

def kRow (as : List Area) (f : Nat) (x : MatArea) (kmajor : Bool) (k row b : Nat) : KRow :=
  if isBlockFmt f then
    let bl := readBlock as (x.blk f k) row b false
    ⟨blockScale bl.q, bl.elems⟩
  else
    ⟨.fin false 1 0, (List.range 32).map fun t =>
      let kk := 32 * b + t
      if kk < k then
        readDense as f (if kmajor then x.base + row * x.stride + kk * elemBytes f
                        else x.base + kk * x.stride + row * elemBytes f) false
      else Elem.zero⟩

/-- Sum of products, NaN and infinities by R85 and R86; an exact zero is +0. -/
def dot (xs ys : List Elem) : Num := (List.zip xs ys).foldl (fun a p => a.add (p.1.val.mul p.2.val)) Num.zero

/-- ρ of R93: the residue modulo 2^16 − 1 of a dyadic rational. -/
def residue : Num → Nat
  | .fin s m e =>
    let v : Int := if s then -(m : Int) else m
    ((v % 65535) * (2 ^ (e % 16).toNat : Nat) % 65535).toNat
  | _ => 0

/-- Both sides of the border's congruence for one k-block (R93); `sums` are the exact unscaled block sums. -/
def borderOk (aRows bRows : List KRow) (sums : List Num) : Bool :=
  let left := (sums.map residue).foldl (· + ·) 0 % 65535
  let right := (List.range 32).foldl (fun acc t =>
    let col (rs : List KRow) : Nat := (rs.map fun r => residue ((r.elems[t]?).getD Elem.zero).val).foldl (· + ·) 0
    acc + col aRows * col bRows) 0 % 65535
  left == right

/-- A k-block is checked when it holds no non-finite and no poisoned operand (R93, R98). -/
def blockChecked (aRows bRows : List KRow) : Bool :=
  (aRows ++ bRows).all fun r => r.elems.all fun e => e.val.isFinite && !e.pois

/-- The result of one execution: the bank and its events (R86, R93). -/
structure Exec where
  bank : Tbl (BitVec 48)
  evt : Evt
  /-- k-blocks at which the border reported a mismatch -/
  mismatches : Nat
  deriving DecidableEq, Repr

/-- Accumulate one k-block sum into a cell, natively (R86): one rounding to a48. -/
def accNative (acc : Num) (s scale : Num) : Conv := roundA48 (acc.add (s.mul scale))

/-- V20-exact accumulation of a k-block (R76): runs of 8 products, each rounded to binary32 and added at binary32, with
subnormal accumulators flushed. `err` is added to the first run. -/
def accV20 (acc : Num) (xs ys : List Elem) (err : Num) : Num × Bool :=
  (List.range 4).foldl (fun (r : Num × Bool) g =>
    let part := (dot ((xs.drop (8 * g)).take 8) ((ys.drop (8 * g)).take 8)).add (if g = 0 then err else .zero)
    let p := round32 part
    let a := round32 (r.1.add (f32 p.code))
    let code := if isSubnormal 0 a.code then flushCode 0 a.code else a.code
    (f32 code, r.2 || p.overflow || a.overflow)) (acc, false)

/-- The operands of a MATMUL as read. -/
structure Ops2 where
  aRows : Nat → Nat → KRow
  bRows : Nat → Nat → KRow

/-- What is added to the block sum of cell (i, j) at k-block b by faulty hardware. -/
def faultAt (f : ArrFault) (i j b : Nat) : Num :=
  (f.corrupt.filter fun x => x.1 == i && x.2.1 == j && x.2.2.1 == b).foldl
    (fun a x => a.add (Num.ofInt x.2.2.2.1 x.2.2.2.2)) Num.zero

/-- One execution of a MATMUL from an entry copy (R86, R93). -/
def execProduct (d : Mat) (v20 : Bool) (o : Ops2) (entry : Tbl (BitVec 48)) (f : ArrFault) : Exec :=
  let kb := ceilDiv d.k 32
  let aR := (List.range d.m).map fun i => (List.range kb).map (o.aRows i)
  let bR := (List.range d.n).map fun j => (List.range kb).map (o.bRows j)
  let blockSum (ra rb : KRow) (i j b : Nat) : Num :=
    let s := dot ra.elems rb.elems
    if s.isFinite then s.add (faultAt f i j b) else s
  let cell (i j : Nat) (ra rb : List KRow) : Num × Bool :=
    let start := if d.accumulate then a48 (Tbl.get 0 entry (128 * i + j)).toNat else Num.zero
    ((List.range kb).zip (ra.zip rb)).foldl (fun (r : Num × Bool) x =>
      let b := x.1
      if v20 then
        let q := accV20 r.1 x.2.1.elems x.2.2.elems (faultAt f i j b)
        (q.1, r.2 || q.2)
      else
        let c := accNative r.1 (blockSum x.2.1 x.2.2 i j b) (x.2.1.scale.mul x.2.2.scale)
        (a48 c.code, r.2 || c.overflow)) (start, false)
  let cells := (List.range d.m).zip aR |>.flatMap fun (i, ra) =>
    ((List.range d.n).zip bR).map fun (j, rb) => (128 * i + j, cell i j ra rb)
  let bad := (List.range kb).filter fun b =>
    let ra := aR.map fun r => (r[b]?).getD ⟨.zero, []⟩
    let rb := bR.map fun r => (r[b]?).getD ⟨.zero, []⟩
    blockChecked ra rb &&
      (f.borderWrong || !borderOk ra rb (((List.range d.m).zip ra).flatMap fun (i, x) =>
        ((List.range d.n).zip rb).map fun (j, y) => blockSum x y i j b))
  { bank := cells.foldl (fun t c => Tbl.set 0 t c.1 (BitVec.ofNat 48 (roundA48 c.2.1).code)) entry
    evt := { overflow := cells.any fun c => c.2.2 }
    mismatches := bad.length }

/-! ### Arrays of a core -/

def Core.arr (k : Core) : Arr → Array
  | .warp => k.warp
  | .weft => k.weft

def Core.setArr (k : Core) (a : Arr) (x : Array) : Core :=
  match a with
  | .warp => { k with warp := x }
  | .weft => { k with weft := x }

def otherArr : Arr → Arr
  | .warp => .weft
  | .weft => .warp

def arrIdx : Arr → Nat
  | .warp => 0
  | .weft => 1

def State.modArr (s : State) (p : Nat) (a : Arr) (f : Array → Array) : State :=
  s.modCore p fun k => k.setArr a (f (k.arr a))

def Array.bankOf (x : Array) (b : Bool) : Tbl (BitVec 48) := if b then x.bank1 else x.bank0
def Array.poisonOf (x : Array) (b : Bool) : List Nat := if b then x.poison1 else x.poison0
def Array.setBank (x : Array) (b : Bool) (t : Tbl (BitVec 48)) (po : List Nat) : Array :=
  if b then { x with bank1 := t, poison1 := po } else { x with bank0 := t, poison0 := po }

/-- The array that executes commands for `a`: the other one when `a` is quarantined (R383). -/
def Core.runner (k : Core) (a : Arr) : Arr := if (k.arr a).quarantined then otherArr a else a

/-- The array that runs the third execution of a command of `a`: the one that did not run the first two, unless it is
quarantined (R94, R332). -/
def Core.third (k : Core) (a : Arr) : Arr :=
  let z := k.runner a
  if (k.arr (otherArr z)).quarantined then z else otherArr z

/-- An array executes a command: one whose executions or drain it runs, or one whose third execution has been moved to
it (R94, R99, R383). -/
def Core.arrBusy (k : Core) (z : Arr) : Bool :=
  [Arr.warp, Arr.weft].any fun a =>
    let x := k.arr a
    (k.runner a == z && (!x.drains.isEmpty || x.recheck.isSome)) || (k.third a == z && x.recheck.isSome)

/-- A bank of an array is draining (R87). -/
def Array.draining (x : Array) (b : Bool) : Bool := x.drains.any fun e => e.1 == b

/-- An error of an array command (R82, R101). -/
def State.arrError (s : State) (p code : Nat) (q : QCmd) : State := s.raiseCore code p q.addr

/-- A poisoned descriptor or other control entry: MEM_POISON_CTRL against the core's context (R224). -/
def State.poisonCtrl (s : State) (p : Nat) (q : QCmd) : State :=
  match s.coreOwner p with
  | none => s
  | some (c, _) => s.raise (codeAt Code.memPoisonCtrl c) { (s.core p).whereOf (some c) q.addr with info := 0 }

/-- Read a descriptor of `n` bytes from the core store; none when it lies outside it (then `code` is raised) or is
poisoned (R224). -/
def State.readDesc (s : State) (p : Nat) (q : QCmd) (addr n code : Nat) : Option (List Byte) × State :=
  if addr + n ≤ 2 ^ 22 then
    let (d, s1) := s.read (.store p) addr n
    if d.pois.any (· == true) then (none, s1.poisonCtrl p q) else (some d.bytes, s1)
  else (none, s.raiseCore code p q.addr)

def QCmd.cmdId (q : QCmd) (p tag : Nat) : CmdId := ⟨p, slotEng q.slot, tag, q.addr, q.seqno⟩

/-! ### The epilogue (R90, R91) -/

/-- Activation in a48, with whether it overflowed (R91). -/
def activate (act shift clampC : Nat) (v : Num) : Num × Bool :=
  if v.isNan then (.nan, false)
  else
    let pos := Num.lt .zero v
    match act with
    | 0 => (v, false)
    | 1 => (if pos then v else .zero, false)
    | 2 => (if pos then v else a48 (roundA48 (v.mul (.fin false 1 (-(shift : Int))))).code, false)
    | 3 =>
      let c := f32 clampC
      (if pos then (if Num.lt c v then c else v) else (if Num.lt v c.neg then c.neg else v), false)
    | _ =>
      if pos then
        let r := roundA48 (v.mul v)
        (a48 r.code, r.overflow)
      else (.zero, false)

/-- The values of stages 1–3 of one element: v, and the events (R90). -/
def Mat.stages (d : Mat) (acc : Num) (bias : Option Num) : Num × Evt :=
  let r1 := roundA48 ((acc.mul (f32 d.aScale)).mul (f32 d.bScale))
  let v1 := a48 r1.code
  let r2 : Conv := match bias with
    | none => ⟨r1.code, false, false, false, false⟩
    | some b => roundA48 (v1.add b)
  let (v3, o3) := activate d.act d.actShift d.clampC (a48 r2.code)
  (v3, { overflow := r1.overflow || r2.overflow || o3 })

/-- What the epilogue of a bank writes and taps (R90). -/
def Mat.drain (d : Mat) (nc : NumCtx) (bank : Tbl (BitVec 48)) (poison : List Nat) (bias : Nat → Num) :
    Written × Taps :=
  let src (sr sc : Nat) : Nat × Nat := if d.cTrans then (sc, sr) else (sr, sc)
  let accOf (i j : Nat) : BitVec 48 := Tbl.get 0 bank (128 * i + j)
  let poOf (i j : Nat) : Bool := poison.contains (128 * i + j)
  if d.cF = 8 then
    let w : Written := { Written.empty with
        puts := (List.range d.outRows).flatMap fun sr => (List.range d.outCols).map fun sc =>
          let (i, j) := src sr sc
          (⟨d.c.base + sr * d.c.stride + 8 * sc, leBytes 8 (accOf i j).toNat, List.replicate 8 (poOf i j)⟩ : Put)
        evt := { invalid := (List.range d.outRows).any fun sr => (List.range d.outCols).any fun sc =>
          (a48 (accOf (src sr sc).1 (src sr sc).2).toNat).isNan } }
    (w, { out := w.body })
  else
    let vals (sr sc : Nat) : Num × Evt :=
      let (i, j) := src sr sc
      d.stages (a48 (accOf i j).toNat)
        (match d.biasMode with | 1 => some (bias j) | 2 => some (bias i) | _ => none)
    let po (sr sc : Nat) : Bool := let (i, j) := src sr sc; poOf i j
    let thr := if d.escThr = 0 then nc.escThr else d.escThr
    let w : Written :=
      if isBlockFmt d.cF then
        writeBlocks (d.c.blk d.cF d.cNcols) ⟨d.cScaleMode == 1, d.cQ, thr, nc.round d.roundMode d.tag, .matrix⟩
          d.cRow0 d.outRows d.cCol0 d.outCols d.cNcols
          fun r c => ((vals (r - d.cRow0) (c - d.cCol0)).1.mul (f32 d.cEnc), po (r - d.cRow0) (c - d.cCol0))
      else
        (List.range d.outRows).foldl (fun acc sr => (List.range d.outCols).foldl (fun acc' sc =>
          acc'.append (writeDense .matrix d.cF (nc.round d.roundMode d.tag
              ((d.cRow0 + sr) * d.cNcols + d.cCol0 + sc)) ((vals sr sc).1.mul (f32 d.cEnc)) (po sr sc)
              (d.c.base + sr * d.c.stride + elemBytes d.cF * sc))) acc) Written.empty
    let pre : List (Num × Bool × Evt) := (List.range d.outRows).flatMap fun sr => (List.range d.outCols).map fun sc =>
      ((vals sr sc).1, po sr sc, (vals sr sc).2)
    let t0 := if d.statsPre then
        tapSet (pre.map fun x => { pois := x.2.1, nonfinite := !x.1.isFinite, saturated := false, flushed := false,
                                   value := x.1 }) 0 0
      else StatSet.reset
    let t1 := if d.statsPost then tapSet w.taps w.esc w.ovf else StatSet.reset
    ({ w with evt := Evt.or w.evt (Evt.all (pre.map fun x => x.2.2)) },
      { on := d.statsPre || d.statsPost, set0 := t0, set1 := t1, out := w.body })

/-! ### Completion -/

/-- Both halves of a started pair have run, and no execution or drain of it is left (R36, R105). -/
def Core.pairDone (k : Core) (q : QCmd) : Bool :=
  let left (x : Array) : Bool := x.drains.any (·.2 == q) || x.recheck.any (·.cmd == q)
  k.pairs.contains ⟨q, none⟩ && !left k.warp && !left k.weft

/-- The vote of the context's attempt carries quarantine_any (R332). -/
def State.noteQuarantine (s : State) (p : Nat) : State :=
  match s.coreOwner p with
  | none => s
  | some (c, _) => s.modStep c fun x => { x with quarantineAny := true }

/-- A core quarantine (R332, R383). -/
def State.coreQuarantine (s : State) (p : Nat) (q : QCmd) : State :=
  ((s.noteQuarantine p).modCore p fun k => { k with quarantined := true, quarDue := none }).raiseCore Code.arCoreQuarantine p q.addr

/-- The signals of an engine that are due are applied at once. -/
def State.flushSignals (s : State) (p : Nat) (e : Eng) : Nat → State
  | 0 => s
  | fuel + 1 =>
    match (s.core p).dueSignal e with
    | none => s
    | some x =>
      ((s.modCore p fun k => { k with toSignal := k.toSignal.erase x }).signalSlot p x.2.slot).flushSignals p e fuel

/-- The core quarantine that awaits a command follows once the command has drained and signalled (R332). -/
def State.quarantineDue (s : State) (p : Nat) : State :=
  match (s.core p).quarDue with
  | none => s
  | some q =>
    if (s.core p).started.contains q then s
    else
      let s1 := (s.flushSignals p .warp 64).flushSignals p .weft 64
      if (s1.core p).toSignal.any (·.2 == q) then s1 else s1.coreQuarantine p q

/-- An execution of `q` on one array is finished: the command, or the pair, may be complete. -/
def State.arrDone (s : State) (p : Nat) (q : QCmd) : State :=
  let k := s.core p
  let s1 :=
    if slotEng q.slot = 3 then
      if k.pairDone q then (s.modCore p fun x => { x with pairs := x.pairs.filter fun y => y.cmd != q }).retire p q
      else s
    else s.retire p q
  s1.quarantineDue p

/-- Bias values, their poison, and the state after reading them (R90). -/
def State.readBias (s : State) (p : Nat) (d : Mat) : List Area × Bool × State :=
  let (as, s1) := s.readStore p d.biasSpans
  (as, as.any fun a => a.data.pois.any (· == true), s1)

/-- Drain a bank of array `a` through the epilogue: the bytes land, and the bank stays draining until its drain ends
(R90, R92). -/
def State.drainBank (s : State) (p : Nat) (a : Arr) (q : QCmd) (d : Mat) (bias : List Area) : State :=
  let x := (s.core p).arr a
  let (w, t) := d.drain (s.numCtx p) (x.bankOf d.bank) (x.poisonOf d.bank)
    fun i => f32 (ofLe (areaGet bias (d.biasBase + 4 * i) 4).1)
  let c := ((s.coreOwner p).map (·.1)).getD 0
  if s.putsHitStream p w.puts then s.arrError p Code.seqStreamWrite q
  else
    let s1 := ((s.storePuts p w.puts).flagEvt c w.evt).mergeTaps (q.cmdId p d.tag) t
    s1.modArr p a fun y => { y with drains := y.drains ++ [(d.bank, q)] }

/-- The oldest drain of an array ends (R87, R92): its command completes. -/
def State.drainDone (s : State) (p : Nat) (a : Arr) : State :=
  match ((s.core p).arr a).drains with
  | [] => s
  | (_, q) :: rest => (s.modArr p a fun x => { x with drains := rest }).arrDone p q

/-- The agreed result of a product enters its bank, and the command drains or completes (R86, R94, R98). -/
def State.settle (s : State) (p : Nat) (a : Arr) (q : QCmd) (d : Mat) (e : Exec) (poison : List Nat)
    (bias : List Area) : State :=
  let c := ((s.coreOwner p).map (·.1)).getD 0
  let s1 := (s.modArr p a fun x => { x.setBank d.bank e.bank poison with bank := d.bank, recheck := none }).flagEvt c
    e.evt
  if d.epilogueEn then s1.drainBank p a q d bias else s1.arrDone p q

/-- Poison marks of a bank after a MATMUL (R98). -/
def poisonAfter (d : Mat) (old : List Nat) (operand : Bool) : List Nat :=
  let inside (key : Nat) : Bool := decide (key / 128 < d.m) && decide (key % 128 < d.n)
  if operand then
    (List.range d.m).foldl (fun l i => (List.range d.n).foldl (fun l' j => keyInsert (128 * i + j) l') l) old
  else if d.accumulate then old
  else old.filter fun key => !inside key

/-! ### Border verdicts (R94, R332, R333) -/

def mark16 (x : BitVec 16) : BitVec 16 := BitVec.ofNat 16 (satAdd 16 x.toNat 1)

/-- A border reports a mismatch at each of `n` k-blocks (R94, R100). -/
def State.mismatch (s : State) (p : Nat) (a : Arr) (q : QCmd) : Nat → State
  | 0 => s
  | n + 1 =>
    ((s.modArr p a fun x => { x with mismatches := mark16 x.mismatches }).report (codeAt (Code.brdMismatch + arrIdx a) p)
      ((s.core p).whereOf ((s.coreOwner p).map (·.1)) q.addr)).mismatch p a q n

/-- An array is quarantined; with the other array already quarantined, the core is (R332). -/
def State.quarantineArr (s : State) (p : Nat) (a : Arr) (q : QCmd) : State :=
  if ((s.core p).arr (otherArr a)).quarantined then s.coreQuarantine p q
  else
    ((s.noteQuarantine p).modArr p a fun x => { x with quarantined := true }).report
      (codeAt (Code.arQuarantine + arrIdx a) p) ((s.core p).whereOf ((s.coreOwner p).map (·.1)) q.addr)

/-- 3,600 s in cycles of SU_TIME (R200). -/
def hour : Nat := 3600 * 10 ^ 9

/-- A border fault on array `z`, whose command ran for array `a`, is recorded; the fourth within 3,600 s quarantines the
array. Where that leaves the core no array, the core quarantine waits until the command has drained and signalled
(R332, R333). -/
def State.brdFault (s : State) (p : Nat) (z : Arr) (q : QCmd) : State :=
  let times := (((s.core p).arr z).faultTimes.filter fun t => decide (s.suTime < t + hour)) ++ [s.suTime]
  let s1 := (s.modArr p z fun x => { x with faultTimes := times }).report (codeAt (Code.brdFault + arrIdx z) p)
    ((s.core p).whereOf ((s.coreOwner p).map (·.1)) q.addr)
  if times.length < 4 then s1
  else if ((s1.core p).arr (otherArr z)).quarantined then
    (s1.modCore p fun k => { k with quarDue := some q }).quarantineDue p
  else s1.quarantineArr p z q

/-! ### Commands -/

/-- Operand reader of a MATMUL. -/
def Mat.ops (d : Mat) (as : List Area) : Ops2 :=
  ⟨kRow as d.aF d.a d.aKmajor d.k, kRow as d.bF d.b d.bKmajor d.k⟩

/-- Some operand element read carries poison (R98). -/
def Mat.operandPoison (d : Mat) (o : Ops2) : Bool :=
  let kb := ceilDiv d.k 32
  ((List.range d.m).any fun i => (List.range kb).any fun b => (o.aRows i b).elems.any (·.pois)) ||
    ((List.range d.n).any fun j => (List.range kb).any fun b => (o.bRows j b).elems.any (·.pois))

/-- Events of reading the operands: invalid t2 codes (R52). -/
def Mat.readEvt (d : Mat) (o : Ops2) : Evt :=
  let kb := ceilDiv d.k 32
  Evt.or (Evt.all ((List.range d.m).flatMap fun i => (List.range kb).flatMap fun b => (o.aRows i b).elems.map (·.evt)))
    (Evt.all ((List.range d.n).flatMap fun j => (List.range kb).flatMap fun b => (o.bRows j b).elems.map (·.evt)))

/-- The bias that the epilogue of a product reads, and whether it is poisoned; a no-op reads none (R82, R90, R224). -/
def State.biasOf (s : State) (p : Nat) (d : Mat) : List Area × Bool × State :=
  if d.epilogueEn && d.cF != 8 && !d.noop true then s.readBias p d else ([], false, s)

/-- A MATMUL, or a half of a pair, whose descriptor `b` has passed its checks (R86, R94, R98, R332). -/
def State.runMatmul (s : State) (p : Nat) (a : Arr) (q : QCmd) (b : List Byte) (e1 e2 : ArrFault) : State :=
  let d := Mat.parse b
  if d.noop true then (s.modArr p a fun x => { x with bank := d.bank }).arrDone p q
  else
    let (bias, bp, s1) := s.biasOf p d
    if bp then s1.poisonCtrl p q
    else
      let (as, s2) := s1.readStore p (d.aSpans ++ d.bSpans)
      let o := d.ops as
      let c := ((s2.coreOwner p).map (·.1)).getD 0
      let s3 := s2.flagEvt c (d.readEvt o)
      let v20 := (s3.numCtx p).v20
      let x := (s3.core p).arr a
      let entry := x.bankOf d.bank
      let po := poisonAfter d (x.poisonOf d.bank) (d.operandPoison o)
      let r1 := execProduct d v20 o entry e1
      let z := (s3.core p).runner a
      if r1.mismatches = 0 then s3.settle p a q d r1 po bias
      else
        let r2 := execProduct d v20 o entry e2
        let s4 := (s3.mismatch p z q r1.mismatches).mismatch p z q r2.mismatches
        if r2.mismatches = 0 ∧ r2.bank = r1.bank then (s4.settle p a q d r1 po bias).brdFault p z q
        else s4.modArr p a fun y => { y with bank := d.bank, recheck := some ⟨q, b, entry, r1.bank, r2.bank, po⟩ }

/-- The weft half of a pair runs, once: after the warp half, and where one array runs both (R383) after the warp half's
verdict, unless the core has stopped (R36, R103, R105). -/
def State.runWeft (s : State) (p : Nat) (q : QCmd) : State :=
  let k := s.core p
  match k.pairs.find? fun x => x.cmd == q with
  | some ⟨_, some b⟩ =>
    if k.runner .warp == k.runner .weft && k.warp.recheck.isSome then s
    else
      ((s.modCore p fun y => { y with pairs := y.pairs.map fun x => if x.cmd == q then ⟨q, none⟩ else x }).runMatmul p
        .weft q b q.faults.weft1 q.faults.weft2).arrDone p q
  | _ => s

/-- The third execution and the verdict (R94, R332). -/
def State.tieBreak (s : State) (p : Nat) (a : Arr) (e3 : ArrFault) : State :=
  match ((s.core p).arr a).recheck with
  | none => s
  | some rc =>
    let q := rc.cmd
    let d := Mat.parse rc.desc
    let (as, s1) := s.readStore p (d.aSpans ++ d.bSpans)
    let (bias, _, s2) := s1.biasOf p d
    let z := (s2.core p).runner a
    let y := (s2.core p).third a
    let r3 := execProduct d (s2.numCtx p).v20 (d.ops as) rc.entry e3
    let s3 := s2.mismatch p y q r3.mismatches
    let e12 := rc.e1 == rc.e2
    let e13 := rc.e1 == r3.bank
    let e23 := rc.e2 == r3.bank
    let drop (t : State) : State := t.modArr p a fun x => { x with recheck := none }
    if e12 && e13 then ((s3.settle p a q d r3 rc.poison bias).brdFault p z q).runWeft p q
    else if e13 || e23 then
      if y == z then (drop s3).coreQuarantine p q
      else ((s3.settle p a q d r3 rc.poison bias).quarantineArr p z q).runWeft p q
    else (drop s3).coreQuarantine p q

/-- An EPILOGUE whose descriptor has passed its checks (R90). -/
def State.runEpilogue (s : State) (p : Nat) (a : Arr) (q : QCmd) (d : Mat) : State :=
  let s0 := s.modArr p a fun x => { x with bank := d.bank }
  if d.noop false then s0.arrDone p q
  else
    let (bias, bp, s1) := if d.cF != 8 then s0.readBias p d else ([], false, s0)
    if bp then s1.poisonCtrl p q else s1.drainBank p a q d bias

/-- The descriptor at `addr`, read and checked: none when it lies outside the store, is poisoned, or fails a check of
R82, whose error is then raised (R82, R224). -/
def State.matDesc (s : State) (p : Nat) (q : QCmd) (addr : Nat) (product : Bool) : Option (List Byte) × State :=
  match s.readDesc p q addr 128 Code.arBound with
  | (none, s1) => (none, s1)
  | (some b, s1) =>
    match (Mat.parse b).check product (s1.numCtx p).v20 with
    | some code => (none, s1.arrError p code q)
    | none => (some b, s1)

/-- A MATMUL or EPILOGUE at the head of its queue: the checks, then the command (R82). -/
def State.startMat (s : State) (p : Nat) (a : Arr) (q : QCmd) (product : Bool) (e1 e2 : ArrFault) : State :=
  match s.matDesc p q (slotAddr q.slot) product with
  | (none, s1) => s1
  | (some b, s1) => if product then s1.runMatmul p a q b e1 e2 else s1.runEpilogue p a q (Mat.parse b)

/-- The output areas of a pair are apart from each other and from the other half's inputs (R103). -/
def pairApart (w f : Mat) : Bool :=
  let wo := if w.epilogueEn then w.outSpans else []
  let fo := if f.epilogueEn then f.outSpans else []
  let wi := w.aSpans ++ w.bSpans ++ (if w.epilogueEn then w.biasSpans else [])
  let fi := f.aSpans ++ f.bSpans ++ (if f.epilogueEn then f.biasSpans else [])
  disjoint wo fo && disjoint wo fi && disjoint fo wi

/-- Both halves of a pair run, the weft's unless the warp's stopped the core (R36, R103, R383). -/
def State.pairRun (s : State) (p : Nat) (q : QCmd) (bw bf : List Byte) : State :=
  ((s.modCore p fun k => { k with pairs := k.pairs ++ [⟨q, some bf⟩] }).runMatmul p .warp q bw q.faults.warp1
    q.faults.warp2).runWeft p q

/-- A MATMUL_PAIR at the head of both queues: both descriptors are checked, and each failing one raises its own error
(R36, R103, R105). -/
def State.startPair (s : State) (p : Nat) (q : QCmd) : State :=
  let (w, s1) := s.matDesc p q (slotAddr q.slot) true
  let (f, s2) := s1.matDesc p q (slotAddr2 q.slot) true
  match w, f with
  | some bw, some bf =>
    let dw := Mat.parse bw
    let df := Mat.parse bf
    if !pairApart dw df then s2.arrError p Code.arBadDesc q
    else
      let (_, pw, s3) := s2.biasOf p dw
      let (_, pf, s4) := s3.biasOf p df
      if pw || pf then s4.poisonCtrl p q else s4.pairRun p q bw bf
  | _, _ => s2

/-- ACC_STORE at the head of its queue (R96). -/
def State.startAccStore (s : State) (p : Nat) (a : Arr) (q : QCmd) : State :=
  let base := slotAddr q.slot
  if 2 ^ 22 < base + 131072 then s.arrError p Code.arBound q
  else
    let b := slotByte2 q.slot == 1
    let x := (s.core p).arr a
    let puts := (List.range 16384).map fun k =>
      (⟨base + 8 * k, leBytes 8 (Tbl.get 0 (x.bankOf b) k).toNat, List.replicate 8 ((x.poisonOf b).contains k)⟩ : Put)
    let c := ((s.coreOwner p).map (·.1)).getD 0
    if s.putsHitStream p puts then s.arrError p Code.seqStreamWrite q
    else (((s.modArr p a fun y => { y with bank := b }).storePuts p puts).flagEvt c
      { invalid := (x.bankOf b).any fun e => (a48 e.2.toNat).isNan }).arrDone p q

/-- ACC_LOAD at the head of its queue (R50, R96). -/
def State.startAccLoad (s : State) (p : Nat) (a : Arr) (q : QCmd) : State :=
  let base := slotAddr q.slot
  if 2 ^ 22 < base + 131072 then s.arrError p Code.arBound q
  else
    let b := slotByte2 q.slot == 1
    let (as, s1) := s.readStore p [(base, 131072)]
    let es := (List.range 16384).map fun k => readDense as 8 (base + 8 * k) false
    let bank := ((List.range 16384).zip es).filterMap fun (k, e) =>
      let code := BitVec.ofNat 48 (if e.val.isNan then Fmt.a48.nanCode else ofLe (areaGet as (base + 8 * k) 8).1)
      if code = 0 then none else some (k, code)
    let po := ((List.range 16384).zip es).filterMap fun (k, e) => if e.pois then some k else none
    let c := ((s1.coreOwner p).map (·.1)).getD 0
    ((s1.modArr p a fun y => { y.setBank b bank po with bank := b }).flagEvt c
      { invalid := es.any fun e => e.evt.invalid }).arrDone p q

/-! ### Readiness (R87, R94, R96) -/

/-- The descriptor a queued array command names, without reading it as a command does. -/
def State.peekMat (s : State) (p addr : Nat) : Mat := Mat.parse (s.peek (.store p) addr 128)

/-- The descriptor at an address fails a check that R82 makes at the head of the queue. -/
def State.matFails (s : State) (p addr : Nat) (product : Bool) : Bool :=
  decide (2 ^ 22 < addr + 128) || ((s.peekMat p addr).check product (s.numCtx p).v20).isSome

/-- The command at the head of its queue fails its checks, and raises their errors without waiting for a drain or a
verdict (R82, R96, R103). -/
def State.arrFails (s : State) (p : Nat) (q : QCmd) : Bool :=
  match slotOp q.slot with
  | 1 => s.matFails p (slotAddr q.slot) true || (slotEng q.slot == 3 && (s.matFails p (slotAddr2 q.slot) true ||
      !pairApart (s.peekMat p (slotAddr q.slot)) (s.peekMat p (slotAddr2 q.slot))))
  | 2 => s.matFails p (slotAddr q.slot) false
  | _ => decide (2 ^ 22 < slotAddr q.slot + 131072)

/-- An array holds the command at the head of its queue: a disagreement of either array awaits its third execution,
which runs ahead of the queues (R94, R105); a core quarantine is due (R332); or the bank that a MATMUL, ACC_LOAD or
ACC_STORE uses is draining (R87, R96). -/
def State.arrHeld (s : State) (p : Nat) (a : Arr) (q : QCmd) : Bool :=
  let k := s.core p
  k.warp.recheck.isSome || k.weft.recheck.isSome || k.quarDue.isSome ||
    (match slotOp q.slot with
     | 1 => (k.arr a).draining
         (s.peekMat p (if slotEng q.slot = 3 ∧ a = .weft then slotAddr2 q.slot else slotAddr q.slot)).bank
     | 2 => false
     | _ => (k.arr a).draining (slotByte2 q.slot == 1))

/-- The arrays that a command uses may start it (R36, R82, R87, R94, R96). -/
def State.arrReady (s : State) (p : Nat) (q : QCmd) : Bool :=
  s.arrFails p q || !((enginesOf q.slot).any fun e => s.arrHeld p (if e = .weft then .weft else .warp) q)

end Sys2Proof.Machine
end

