-- ==== Sys2Proof/Machine/CopyBase.lean ====
section
/-! DEFINITION. What the commands of the copy engine share: address spaces and regions (R156), the order of checks
(R158), hazards (R160), the step gate and reruns (R322, R326), and writing with poison (R177). -/

namespace Sys2Proof.Machine

/-- Where an address of a descriptor lies (R156). -/
inductive Loc where
  | near (t : Target)
  | remote (chip : Nat)
  | window (w : Nat)
  deriving DecidableEq, Repr

/-- Place and address of an address field (R156); the module's own chip number means space 2. -/
def State.resolve (s : State) (p c space lcore a : Nat) : Loc × Nat :=
  match space with
  | 0 => (.near (.store p), a)
  | 1 => (.near (.store ((s.physCore c lcore).getD p)), a)
  | 2 => (.near (.mem c), a)
  | 3 => if bits a 48 14 = s.ownChip then (.near (.mem c), a % 2 ^ 48) else (.remote (bits a 48 14), a % 2 ^ 48)
  | _ => (.window (bits a 48 8), a % 2 ^ 48)

/-- An area that a command reads or writes: spans (address, length) from first to last byte. -/
structure CeArea where
  loc : Loc
  spans : List (Nat × Nat)
  deriving DecidableEq, Repr

/-- A registered window (R497). -/
def State.windowOf (s : State) (c w : Nat) : Option Window := Tbl.get none (s.ctx c).windows w

/-- The span lies in one region, and its window allows the access (R156, R158, R497). -/
def State.spanOk (s : State) (c : Nat) (write : Bool) (loc : Loc) (sp : Nat × Nat) : Bool :=
  sp.2 == 0 || match loc with
    | .near (.store _) => decide (sp.1 + sp.2 ≤ 2 ^ 22)
    | .near (.mem _) | .remote _ => s.inRegion c sp.1 sp.2
    | .window w => match s.windowOf c w with
      | none => false
      | some x => decide (sp.1 + sp.2 ≤ x.size) && (if write then x.canWrite else x.canRead)

/-- What the descriptor of a command asks for. -/
structure CePlan where
  /-- every field and every rule that joins fields holds (R158, steps 1–3) -/
  ok : Bool
  noop : Bool
  reads : List CeArea
  writes : List CeArea
  /-- no forbidden overlap (step 5) -/
  apart : Bool
  /-- areas that are known only from lists and tables: compared by R160, bounded by their own rules -/
  also : List CeArea := []
  deriving DecidableEq, Repr

/-- Two areas share a byte in spaces 0–2. -/
def CeArea.meets (x y : CeArea) : Bool :=
  match x.loc, y.loc with
  | .near a, .near b => decide (a = b) && !disjoint x.spans y.spans
  | _, _ => false

/-- No area of one list meets one of the other. -/
def areasApart (xs ys : List CeArea) : Bool := xs.all fun x => ys.all fun y => !x.meets y

/-- No two areas of a list meet. -/
def areasAllApart : List CeArea → Bool
  | [] => true
  | x :: r => (r.all fun y => !x.meets y) && areasAllApart r

/-- The one code of a descriptor that fails its checks (R158). -/
def State.planCode (s : State) (c : Nat) (pl : CePlan) : Option Nat :=
  let bound (w : Bool) (xs : List CeArea) : Bool := xs.all fun x => x.spans.all fun sp => s.spanOk c w x.loc sp
  if !pl.ok then some Code.ceBadDesc
  else if !(bound false pl.reads && bound true pl.writes) then some Code.ceBound
  else if !pl.apart then some Code.ceBadDesc
  else none

/-- A length, count, size or row field of 4 or 8 bytes is not all ones (R158). -/
def len4 (x : Nat) : Bool := x != 0xFFFFFFFF
def len8 (x : Nat) : Bool := x != 2 ^ 64 - 1

/-- The lcore field of a space (R161). -/
def State.lcoreOk (s : State) (c space lcore : Nat) : Bool :=
  if space = 1 then decide (lcore < (s.ctx c).cores.length) else lcore == 0

/-- Span of rows with a stride. -/
def rowSpan (a stride rows len : Nat) : List (Nat × Nat) :=
  if rows = 0 ∨ len = 0 then [] else [(a, (rows - 1) * stride + len)]

/-! ### Hazards (R160) -/

def targetKey : Target → Nat
  | .mem _ => 0
  | .store p => p + 1

def CeArea.triples (x : CeArea) : List (Nat × Nat × Nat) :=
  match x.loc with
  | .near t => x.spans.map fun sp => (targetKey t, sp.1, sp.2)
  | _ => []

/-- Two ranges share a 64-byte unit. -/
def unitsMeet (x y : Nat × Nat × Nat) : Bool :=
  x.1 == y.1 && decide (0 < x.2.2) && decide (0 < y.2.2) &&
    decide (x.2.1 / 64 ≤ (y.2.1 + y.2.2 - 1) / 64) && decide (y.2.1 / 64 ≤ (x.2.1 + x.2.2 - 1) / 64)

def anyMeet (xs ys : List (Nat × Nat × Nat)) : Bool := xs.any fun x => ys.any fun y => unitsMeet x y

/-- The command must be held for an earlier started command (R160). -/
def Core.hazard (k : Core) (pl : CePlan) : Bool :=
  let rd := (pl.reads ++ pl.also).flatMap CeArea.triples
  let wr := pl.writes.flatMap CeArea.triples
  k.ce.any fun e => anyMeet wr e.reads || anyMeet wr e.writes || anyMeet rd e.writes

/-! ### Gate and reruns -/

/-- The gate is closed for a command of this epoch (R322). -/
def State.gateShut (s : State) (c : Nat) (epoch : Option Nat) : Bool :=
  let st := (s.ctx c).step
  st.gateClosed && epoch.isSome && epoch == st.declared

/-- Every byte the command writes lands in core stores or in the input slot of its step (R322). -/
def State.retentionOnly (s : State) (c : Nat) (epoch : Option Nat) (writes : List CeArea) : Bool :=
  writes.all fun x => match x.loc with
    | .near (.store _) => true
    | .near (.mem _) => match (s.ctx c).skein, epoch with
      | some k, some e => x.spans.all fun sp => within sp.1 sp.2 (k.slotBase e) k.slotBytes
      | _, _ => x.spans.isEmpty
    | _ => x.spans.isEmpty

/-- The oldest uncommitted step. -/
def StepSt.current (st : StepSt) : Nat :=
  match st.committed with
  | some n => n + 1
  | none => st.first.getD 0

/-- What a rerun does with a command: `some true` skips it, `some false` refuses it (R326). -/
def State.slotSkip (s : State) (c : Nat) (epoch : Option Nat) (writes : List CeArea) : Option Bool :=
  let st := (s.ctx c).step
  match (s.ctx c).skein, epoch with
  | some k, some e =>
    if st.diagRunning || (st.rerun && e == st.current) then
      let spans := writes.flatMap fun x => x.spans.map fun sp => (x.loc, sp)
      let inIn (l : Loc × Nat × Nat) : Bool := l.1 == .near (.mem c) && within l.2.1 l.2.2 (k.inBase e) k.inBytes
      let part (l : Loc × Nat × Nat) : Bool := l.1 == .near (.mem c) && overlaps l.2.1 l.2.2 (k.inBase e) k.inBytes
      if spans.any part then some (spans.all inIn) else none
    else none
  | _, _ => none

/-! ### Reading and writing -/

/-- An error of the command (R181). -/
def State.ceError (s : State) (p : Nat) (q : QCmd) (code : Nat) : State := s.raiseCore code p q.addr

/-- Read a list of ranges of a target. -/
def State.readAreas (s : State) (t : Target) (want : List (Nat × Nat)) (hint : Bool) : List Area × State :=
  want.foldl (fun (r : List Area × State) x =>
    let (d, s1) := r.2.read t x.1 x.2 hint
    (r.1 ++ [⟨x.1, d⟩], s1)) ([], s)

/-- The context that owns a core, as its engines see it. -/
def State.ctxOf (s : State) (p : Nat) : Nat := ((s.coreOwner p).map (·.1)).getD 0

/-- Apply a command's writes to a target, unless a protected area forbids one; false when it was refused
(R33, R136, R223, R225, R326). -/
def State.ceApply (s : State) (p : Nat) (q : QCmd) (t : Target) (ps : List Put) (hint : Bool) : Bool × State :=
  let c := s.ctxOf p
  let ws := sortPuts ps
  match ws.findSome? fun x => s.guardCode p c q.epoch t x.addr x.bytes.length with
  | some code => (false, s.raise code ((s.core p).whereOf (some c) q.addr))
  | none =>
    (true, (ws.foldl (fun u x => u.engineWrite c q.epoch t x.addr x.bytes x.pois hint) s).countPoison p (putUnits ws))

/-- Poison of a 64-byte unit of the read data spreads over the bytes it marks: the marks are per byte. -/
def Area.put (a : Area) (addr : Nat) : Put := ⟨addr, a.data.bytes, a.data.pois⟩

/-- A poisoned byte among areas. -/
def poisoned (as : List Area) : Bool := as.any fun a => a.data.pois.any (· == true)

/-- The u32 entries of an area. -/
def words (a : Area) : List Nat := (List.range (a.data.bytes.length / 4)).map fun i => fieldAt a.data.bytes (4 * i) 4

/-- Whether entry `i` of 4 bytes is poisoned. -/
def Area.entryPois (a : Area) (i : Nat) : Bool := ((a.data.pois.drop (4 * i)).take 4).any (· == true)

/-- A command at the head of the queue, its wait met: its descriptor is read and checked, then `run` acts on it (R158,
R326). -/
def State.startCe (s : State) (p : Nat) (q : QCmd) (size : Nat) (plan : State → List Byte → CePlan)
    (run : State → List Byte → State) : State :=
  let c := s.ctxOf p
  let at_ := slotAddr q.slot
  if 2 ^ 22 < at_ + size then s.ceError p q Code.ceBound
  else
    let (d, s1) := s.read (.store p) at_ size
    if d.pois.any (· == true) then s1.ceError p q Code.cePoisonIndex
    else
      let pl := plan s1 d.bytes
      match s1.planCode c pl with
      | some code => s1.ceError p q code
      | none =>
        if pl.noop then s1.retire p q
        else match s1.slotSkip c q.epoch pl.writes with
          | some true => s1.retire p q
          | some false => s1.raise (codeAt Code.stSlotPartial c) ((s1.core p).whereOf (some c) q.addr)
          | none => run s1 d.bytes

/-- A started copy command awaits acknowledgements, or a remote read (R299). -/
def CeCmd.awaitsRemote (x : CeCmd) : Bool :=
  match x.wait with
  | .acks _ _ _ n => decide (0 < n)
  | .remoteRead .. => true
  | _ => false

end Sys2Proof.Machine
end

