-- ==== Sys2Proof/Machine/Copy.lean ====
section
/-! DEFINITION. COPY (R161–R165): strided copies, conversions, remote reads and writes, host windows. -/

namespace Sys2Proof.Machine

/-! ### Descriptor (R161) -/

structure CopyD where
  srcSpace : Nat
  dstSpace : Nat
  sF : Nat
  dF : Nat
  control : Nat
  srcLcore : Nat
  dstLcore : Nat
  escThr : Nat
  src : Nat
  dst : Nat
  rowLen : Nat
  rows : Nat
  srcStride : Nat
  dstStride : Nat
  enc : Nat
  tag : Nat
  index0 : Nat
  indexRow : Nat
  rsigCtr : Nat
  rsigLcore : Nat
  scaleMode : Nat
  rsigInc : Nat
  q : Nat
  rsv : Nat
  srcHdr : Nat
  srcSide : Nat
  dstHdr : Nat
  dstSide : Nat
  row0 : Nat
  nrows : Nat
  deriving DecidableEq, Repr

def CopyD.parse (d : List Byte) : CopyD :=
  let b (o : Nat) : Nat := fieldAt d o 1
  let w (o : Nat) : Nat := fieldAt d o 4
  let l (o : Nat) : Nat := fieldAt d o 8
  { srcSpace := b 0, dstSpace := b 1, sF := b 2, dF := b 3, control := b 4, srcLcore := b 5, dstLcore := b 6,
    escThr := b 7, src := l 8, dst := l 0x10, rowLen := w 0x18, rows := w 0x1C, srcStride := l 0x20,
    dstStride := l 0x28, enc := w 0x30, tag := w 0x34, index0 := l 0x38, indexRow := l 0x40,
    rsigCtr := fieldAt d 0x48 2, rsigLcore := b 0x4A, scaleMode := b 0x4B, rsigInc := fieldAt d 0x4C 2, q := b 0x4E,
    rsv := b 0x4F, srcHdr := l 0x50, srcSide := l 0x58, dstHdr := l 0x60, dstSide := l 0x68, row0 := l 0x70,
    nrows := l 0x78 }

def CopyD.roundMode (d : CopyD) : Nat := bits d.control 0 2
def CopyD.cls (d : CopyD) : Nat := bits d.control 2 2
def CopyD.rsigEn (d : CopyD) : Bool := bitAt d.control 4
def CopyD.hint (d : CopyD) : Bool := bitAt d.control 5
def CopyD.raw (d : CopyD) : Bool := d.sF == 0xFF
def CopyD.srcBlk (d : CopyD) : Bool := isBlockFmt d.sF
def CopyD.dstBlk (d : CopyD) : Bool := isBlockFmt d.dF
/-- Bytes of a dense row on each side. -/
def CopyD.srcRow (d : CopyD) : Nat := if d.raw then d.rowLen else d.rowLen * elemBytes d.sF
def CopyD.dstRow (d : CopyD) : Nat := if d.raw then d.rowLen else d.rowLen * elemBytes d.dF
def CopyD.noop (d : CopyD) : Bool := d.rowLen == 0 || d.rows == 0

/-- Stochastic rounding of a short destination (R64, R66). -/
def CopyD.stoch (d : CopyD) (nc : NumCtx) : Bool :=
  (d.roundMode == 1 || (d.roundMode == 2 && nc.srDef)) && decide (3 ≤ d.dF) && decide (d.dF ≤ 7)

/-- An address of a space has no bits above its fields (R9, R156). -/
def addrOk (space a : Nat) : Bool :=
  if space = 3 then decide (a < 2 ^ 62) else if space = 4 then decide (a < 2 ^ 56) && decide (bits a 48 8 ≤ 63) else true

/-- Header and side of a block-scaled side carry the chip or window of its payload (R161). -/
def blkAgree (space a h s : Nat) : Bool :=
  addrOk space a && addrOk space h && addrOk space s &&
    (decide (space ≤ 2) || (a / 2 ^ 48 == h / 2 ^ 48 && a / 2 ^ 48 == s / 2 ^ 48))

/-- Steps 1 to 3 of R158 for a COPY. -/
def CopyD.fieldsOk (d : CopyD) (s : State) (c : Nat) (nc : NumCtx) : Bool :=
  let fmtOk (f : Nat) : Bool := decide (f ≤ 8) || f == 0xFF
  let blk := d.srcBlk || d.dstBlk
  let far (x : Nat) : Bool := x == 3 || x == 4
  let own := bits d.dst 48 14 == s.ownChip
  let chipOk (space a : Nat) : Bool := space != 3 || bits a 48 14 == s.ownChip || s.routed (bits a 48 14)
  decide (d.srcSpace ≤ 4) && decide (d.dstSpace ≤ 4) && fmtOk d.sF && fmtOk d.dF && decide (d.control < 64) &&
    decide (d.roundMode ≠ 3) && decide (d.escThr ≤ 32) && len4 d.rowLen && len4 d.rows && d.rsv == 0 &&
    ((d.sF == 0xFF) == (d.dF == 0xFF)) && !(far d.srcSpace && far d.dstSpace) &&
    s.lcoreOk c d.srcSpace d.srcLcore && s.lcoreOk c d.dstSpace d.dstLcore &&
    addrOk d.srcSpace d.src && addrOk d.dstSpace d.dst &&
    (d.raw || isScale d.enc) && (!d.raw || d.enc == 0) &&
    (d.dstBlk || (d.escThr == 0 && d.scaleMode == 0 && d.dstHdr == 0 && d.dstSide == 0)) && decide (d.scaleMode ≤ 1) &&
    (d.srcBlk || (d.srcHdr == 0 && d.srcSide == 0)) && (!d.srcBlk || d.srcStride == 0) &&
    (if d.dstBlk then d.dstStride == 0 else decide (d.rows ≤ 1) || (decide (d.dstStride ≠ 0) && decide (d.dstRow ≤ d.dstStride))) &&
    (if blk then decide (d.row0 % 64 = 0) && decide (1 ≤ d.nrows) && decide (d.nrows ≤ 2 ^ 51) &&
        decide (d.row0 + d.rows ≤ d.nrows)
      else d.row0 == 0 && d.nrows == 0) &&
    (!blk || decide (d.rows % 64 = 0) || decide (d.row0 + d.rows = d.nrows)) &&
    (d.raw || ((if d.srcBlk then aligned d.src 256 && aligned d.srcHdr 256 && aligned d.srcSide 256
        else aligned d.src (elemBytes d.sF)) &&
      (if d.dstBlk then aligned d.dst 256 && aligned d.dstHdr 256 && aligned d.dstSide 256
        else aligned d.dst (elemBytes d.dF)))) &&
    (!d.srcBlk || blkAgree d.srcSpace d.src d.srcHdr d.srcSide) &&
    (!d.dstBlk || blkAgree d.dstSpace d.dst d.dstHdr d.dstSide) &&
    (!nc.v20 || !(blk)) &&
    (!d.rsigEn || d.dstSpace == 3) &&
    (if d.rsigEn then decide (d.rsigCtr < 1024) && decide (1 ≤ d.rsigInc) &&
        (!own || decide (d.rsigLcore < (s.ctx c).cores.length))
      else d.rsigCtr == 0 && d.rsigLcore == 0 && d.rsigInc == 0) &&
    (!d.stoch nc || decide (d.index0 + (d.rows - 1) * d.indexRow + d.rowLen - 1 ≤ 2 ^ 51 - 1)) &&
    chipOk d.srcSpace d.src && chipOk d.dstSpace d.dst

/-- Bits of a far address that name its chip or window. -/
def localPart (space a : Nat) : Nat := if space ≤ 2 then a else a % 2 ^ 48

/-- A block-scaled side. -/
def CopyD.srcAt (d : CopyD) : BlkAt :=
  ⟨d.sF, localPart d.srcSpace d.src, localPart d.srcSpace d.srcHdr, localPart d.srcSpace d.srcSide, ceilDiv d.rowLen 32⟩
def CopyD.dstAt (d : CopyD) : BlkAt :=
  ⟨d.dF, localPart d.dstSpace d.dst, localPart d.dstSpace d.dstHdr, localPart d.dstSpace d.dstSide, ceilDiv d.rowLen 32⟩

def CopyD.srcSpans (d : CopyD) : List (Nat × Nat) :=
  if d.srcBlk then d.srcAt.spans d.row0 d.rows 0 (ceilDiv d.rowLen 32)
  else rowSpan (localPart d.srcSpace d.src) d.srcStride d.rows d.srcRow
def CopyD.dstSpans (d : CopyD) : List (Nat × Nat) :=
  if d.dstBlk then d.dstAt.spans d.row0 d.rows 0 (ceilDiv d.rowLen 32)
  else rowSpan (localPart d.dstSpace d.dst) d.dstStride d.rows d.dstRow

/-- The ranges a COPY reads: dense rows one by one, or the three areas of a block-scaled side, each list in ascending
order. -/
def CopyD.wants (d : CopyD) : List (Nat × Nat) :=
  if d.srcBlk then d.srcSpans.insertionSort fun x y => x.1 ≤ y.1
  else (List.range d.rows).map fun r => (localPart d.srcSpace d.src + r * d.srcStride, d.srcRow)

def planCopy (p : Nat) (s : State) (b : List Byte) : CePlan :=
  let d := CopyD.parse b
  let c := s.ctxOf p
  let rd : CeArea := ⟨(s.resolve p c d.srcSpace d.srcLcore d.src).1, d.srcSpans⟩
  let wr : CeArea := ⟨(s.resolve p c d.dstSpace d.dstLcore d.dst).1, d.dstSpans⟩
  { ok := d.fieldsOk s c (s.numCtx p), noop := d.noop, reads := [rd], writes := [wr]
    apart := !rd.meets wr && selfDisjoint d.sF d.srcSpans && selfDisjoint d.dF d.dstSpans }

/-! ### Data -/

/-- What a COPY writes, from the areas it read (R162, R163, R177). -/
def CopyD.result (d : CopyD) (nc : NumCtx) (as : List Area) : Written :=
  if d.raw then
    let ps := (List.zip (List.range d.rows) as).map fun x => x.2.put (localPart d.dstSpace d.dst + x.1 * d.dstStride)
    { Written.empty with puts := ps }
  else
    let base := localPart d.srcSpace d.src
    let elem (r j : Nat) : Elem :=
      if d.srcBlk then
        ((readBlock as d.srcAt (d.row0 + r) (j / 32) nc.ftz).values[j % 32]?).getD Elem.zero
      else readDense (match as[r]? with | some a => [a] | none => []) d.sF (base + r * d.srcStride + j * elemBytes d.sF)
        nc.ftz
    let src := (List.range d.rows).map fun r => (List.range d.rowLen).map fun j => elem r j
    let at_ (r j : Nat) : Elem := (((src[r]?).getD [])[j]?).getD Elem.zero
    let evt := Evt.all (src.flatMap fun l => l.map (·.evt))
    let index (r j : Nat) : Nat := d.index0 + r * d.indexRow + j
    let k : Cls := .vector nc.ftz
    let w := if d.dstBlk then
        writeBlocks d.dstAt
          { auto := d.scaleMode == 1, q := d.q, thr := if d.escThr = 0 then nc.escThr else d.escThr,
            round := fun i => nc.round d.roundMode d.tag (index (i / d.rowLen - d.row0) (i % d.rowLen)), cls := k }
          d.row0 d.rows 0 d.rowLen d.rowLen
          fun r j => ((at_ (r - d.row0) j).val.mul (f32 d.enc), (at_ (r - d.row0) j).pois)
      else
        (List.range d.rows).foldl (fun acc r => (List.range d.rowLen).foldl (fun acc' j =>
          acc'.append (writeDense k d.dF (nc.round d.roundMode d.tag (index r j)) ((at_ r j).val.mul (f32 d.enc))
            (at_ r j).pois (localPart d.dstSpace d.dst + r * d.dstStride + j * elemBytes d.dF))) acc) Written.empty
    { w with evt := Evt.or evt w.evt }

/-! ### Delivery -/

/-- Look up a count by (chip, order class, epoch key). -/
def countOf (l : List (Nat × Nat × Nat × Nat)) (chip cls ep : Nat) : Nat :=
  match l.find? fun e => e.1 == chip && e.2.1 == cls && e.2.2.1 == ep with
  | some e => e.2.2.2
  | none => 0

def setCount (l : List (Nat × Nat × Nat × Nat)) (chip cls ep n : Nat) : List (Nat × Nat × Nat × Nat) :=
  (l.filter fun e => !(e.1 == chip && e.2.1 == cls && e.2.2.1 == ep)) ++ [(chip, cls, ep, n)]

/-- Tags given by the sender: a WRITE carries its core, an ADD's SIGNAL its core plus 256; rsig SIGNALs take numbers from
0x4000 and remote reads from 0x8000 (R274 leaves the value to the requester). -/
def tagWrite (p : Nat) : Nat := p
def tagAdd (p : Nat) : Nat := 0x100 + p
def tagRsig (n : Nat) : Nat := 0x4000 + n % 0x4000
def tagRead (n : Nat) : Nat := 0x8000 + n % 0x8000

/-- Logical core number of a core, as a sender. -/
def State.lcoreOf (s : State) (p : Nat) : Nat := ((s.coreOwner p).map (·.2)).getD 0

/-- A WRITE packet of a core's remote write (R276). -/
def State.sendWrite (s : State) (p chip cls : Nat) (epoch : Option Nat) (a : Nat) (bs : List Byte) (po : List Bool) :
    State :=
  let c := s.ctxOf p
  let x := s.ctx c
  let k := s.core p
  let n := countOf k.sentBytes chip cls (epKey epoch) + bs.length
  (s.setCore p { k with sentBytes := setCount k.sentBytes chip cls (epKey epoch) n }).emit
    (.packet (s.packet 1 chip (s.lcoreOf p) 0 (tagWrite p) (fld x.regs.lkJob 0 16)
      (pktFlags cls x.desc.secure epoch) epoch a (poisonBits po) 0 bs))

/-- A SIGNAL packet with its byte-count fence (R195, R275). -/
def State.sendSignal (s : State) (p chip lcore cls tag : Nat) (epoch : Option Nat) (ctr inc : Nat) : State :=
  let c := s.ctxOf p
  let x := s.ctx c
  s.emit (.packet (s.packet 5 chip (s.lcoreOf p) lcore tag (fld x.regs.lkJob 0 16)
    (pktFlags cls x.desc.secure epoch) epoch (ctr % 1024 + inc * 2 ^ 16) 0
    (countOf (s.core p).sentBytes chip cls (epKey epoch)) []))

/-- The remote signal of a COPY; its core awaits its receipt before END and STEP (R37, R164, R320). -/
def State.sendRsig (s : State) (p chip : Nat) (d : CopyD) (epoch : Option Nat) : State :=
  let tag := tagRsig s.nextTag
  ((({ s with nextTag := s.nextTag + 1 } : State).modCtx (s.ctxOf p) fun x => { x with
      rsigAcked := x.rsigAcked.filter fun g => g.1 != tag }).sendSignal p chip d.rsigLcore d.cls tag epoch d.rsigCtr
    d.rsigInc).modCore p fun k => { k with rsigOut := k.rsigOut ++ [tag] }

/-- Writes cut into packets (R276). -/
def State.sendPuts (s : State) (p chip cls : Nat) (epoch : Option Nat) (ps : List Put) : State :=
  (sortPuts ps).foldl (fun t x => (cut4k x.addr x.bytes.length).foldl (fun u y =>
    let o := y.1 - x.addr
    u.sendWrite p chip cls epoch y.1 ((x.bytes.drop o).take y.2) ((x.pois.drop o).take y.2)) t) s

/-- The largest payload of one host write (R480). -/
def maxPayload : Nat := 512

/-- Writes into a host window: runs of 64-byte units with the same EP bit (R226, R497), each within one block of the
largest payload (R480). -/
def windowRuns (ps : List Put) : List (Nat × List Byte × Bool) :=
  ps.flatMap fun x =>
    ((pieces x.addr x.bytes.length).map fun y =>
      let o := y.1 - x.addr
      (y.1, (x.bytes.drop o).take y.2, ((x.pois.drop o).take y.2).any (· == true))).foldr (fun y acc =>
        match acc with
        | z :: r => if y.1 + y.2.1.length == z.1 && y.2.2 == z.2.2 && y.1 / maxPayload == z.1 / maxPayload then (y.1, y.2.1 ++ z.2.1, y.2.2) :: r else y :: acc
        | [] => [y]) []

/-- The rsig of a COPY whose destination is the module's own chip: a local signal (R161, R193). -/
def State.localRsig (s : State) (p : Nat) (d : CopyD) (epoch : Option Nat) : State :=
  let c := s.ctxOf p
  match s.physCore c d.rsigLcore with
  | some t => { s with hub := s.hub ++ [⟨t, c, (s.ctx c).desc.secure, none, .add d.rsigCtr
      (BitVec.ofNat 32 d.rsigInc), false, epoch⟩] }
  | none => s

/-- The triples a started command keeps for R160. -/
def State.holdCe (s : State) (p : Nat) (q : QCmd) (b : List Byte) (wait : CeWait) : State :=
  let pl := planCopy p s b
  s.modCore p fun k => { k with ce := k.ce ++
    [⟨q, b, pl.reads.flatMap CeArea.triples, pl.writes.flatMap CeArea.triples, wait⟩] }

/-- The data of a COPY goes to its destination (R161–R165). Its flags are set also when the write is refused (DEDUCED,
log 150). -/
def State.copyDeliver (s : State) (p : Nat) (q : QCmd) (b : List Byte) (as : List Area) : State :=
  let d := CopyD.parse b
  let c := s.ctxOf p
  let w := d.result (s.numCtx p) as
  let s0 := s.flagEvt c w.evt
  match (s.resolve p c d.dstSpace d.dstLcore d.dst).1 with
  | .near t =>
    let (ok, s1) := s0.ceApply p q t w.puts d.hint
    if ok then (if d.rsigEn then s1.localRsig p d q.epoch else s1).retire p q else s1
  | .remote chip =>
    let s1 := (s0.sendPuts p chip d.cls q.epoch w.puts).countPoison p (putUnits (sortPuts w.puts))
    let n := countOf (s1.core p).sentBytes chip d.cls (epKey q.epoch)
    let s2 := if d.rsigEn then s1.sendRsig p chip d q.epoch else s1
    s2.holdCe p q b (.acks chip d.cls (epKey q.epoch) n)
  | .window w' =>
    match s0.windowOf c w' with
    | none => s0
    | some x =>
      let bytes := (w.puts.map fun y => y.bytes.length).sum
      if x.revoked then
        (s0.modRegs c fun r => { r with ceWinDrop := satInc r.ceWinDrop bytes }).retire p q
      else
        let runs := windowRuns (sortPuts w.puts)
        let s1 := runs.foldl (fun t y => t.emit (.hostWrite (t.ctx c).owner (x.hostAddr + y.1) y.2.1 y.2.2)) s0
        if runs.any (·.2.2) then
          s1.raise (codeAt Code.memPoisonHost c) ((s1.core p).whereOf (some c) q.addr)
        else s1.retire p q

/-- The answers of a remote or window read, put together for the ranges that were wanted. -/
def gather : List (Nat × Nat) → List (List Byte × List Bool) → List Area
  | [], _ => []
  | (a, n) :: r, ps =>
    let bs := ps.flatMap (·.1)
    let po := ps.flatMap (·.2)
    ⟨a, ⟨slice bs 0 n, po.take n⟩⟩ :: gather r [(bs.drop n, po.drop n)]

/-- A COPY that has passed its checks. The requests of a remote read go out in ascending address order (R276). -/
def State.runCopy (p : Nat) (q : QCmd) (s : State) (b : List Byte) : State :=
  let d := CopyD.parse b
  let c := s.ctxOf p
  match (s.resolve p c d.srcSpace d.srcLcore d.src).1 with
  | .near t =>
    let (as, s1) := s.readAreas t d.wants d.hint
    s1.copyDeliver p q b as
  | .remote chip =>
    let x := s.ctx c
    let cuts := d.wants.flatMap fun w => cut4k w.1 w.2
    let reqs := (List.zip (List.range cuts.length) cuts).map fun w => (tagRead (s.nextTag + w.1), w.2)
    let s1 := (reqs.insertionSort fun v w => v.2.1 ≤ w.2.1).foldl (fun t w =>
      t.emit (.packet (s.packet 2 chip (s.lcoreOf p) 0 w.1 (fld x.regs.lkJob 0 16)
        (pktFlags d.cls x.desc.secure q.epoch) q.epoch w.2.1 0 w.2.2 []))) s
    ({ s1 with nextTag := s.nextTag + reqs.length } : State).holdCe p q b (.remoteRead chip reqs [])
  | .window w =>
    match s.windowOf c w with
    | none => s
    | some x =>
      if x.revoked then s.ceError p q Code.ceWindow
      else
        let reqs := d.wants.flatMap fun y => cut4k y.1 y.2
        (reqs.foldl (fun t y => t.emit (.hostRead (t.ctx c).owner (x.hostAddr + y.1) y.2)) s).holdCe p q b
          (.windowRead reqs [])

/-- COPY at the head of the queue. -/
def State.startCopy (s : State) (p : Nat) (q : QCmd) : State := s.startCe p q 128 (planCopy p) (State.runCopy p q)

/-- A started command leaves the engine. -/
def State.dropCe (s : State) (p : Nat) (q : QCmd) : State :=
  s.modCore p fun k => { k with ce := k.ce.filter fun e => e.cmd.seqno != q.seqno }

end Sys2Proof.Machine
end

