-- ==== Sys2Proof/Machine/Hash.lean ====
section
/-! DEFINITION. CRC-32C, CRC-64/XZ, DIGEST128 and SHA-384 (R176). -/

namespace Sys2Proof.Machine

/-- One byte through a reflected CRC register. -/
def crcByte (poly : Nat) (c : Nat) (b : Byte) : Nat :=
  (List.range 8).foldl (fun x _ => if x % 2 = 1 then (x / 2) ^^^ poly else x / 2) (c ^^^ b.toNat)

/-- The CRC-32C register after bytes, before the final XOR. -/
def crc32cRun (c : Nat) (l : List Byte) : Nat := l.foldl (crcByte 0x82F63B78) c

/-- CRC-32C. -/
def crc32c (l : List Byte) : Nat := crc32cRun 0xFFFFFFFF l ^^^ 0xFFFFFFFF

/-- CRC-64/XZ: the polynomial 0x42F0E1EBA9EA3693 reflected. -/
def crc64 (l : List Byte) : Nat := (l.foldl (crcByte 0xC96C5795D7870F42) (2 ^ 64 - 1)) ^^^ (2 ^ 64 - 1)

/-- Bytes cut into chunks of `n`, the last one shorter. -/
def chunksFrom : Nat → Nat → List Byte → List (List Byte)
  | 0, _, _ => []
  | fuel + 1, n, l => if l.isEmpty then [] else l.take n :: chunksFrom fuel n (l.drop n)

def chunks (n : Nat) (l : List Byte) : List (List Byte) := chunksFrom (l.length / n + 1) n l

/-- DIGEST128 continued from a partial digest over chunks numbered from `c0`. -/
def digest128From (d : Nat) (c0 : Nat) (l : List Byte) : Nat :=
  let cs := chunks 4096 l
  let one (i : Nat) (ch : List Byte) : Nat :=
    let n := leBytes 8 (c0 + i)
    crc64 (n ++ ch) + 2 ^ 64 * crc64 (ch ++ n)
  ((List.range cs.length).zip cs).foldl (fun a p => a ^^^ one p.1 p.2) d

/-! ### SHA-384 (FIPS 180-4) -/

/-- The first `n` primes, latest first: trial division by the primes found so far. -/
def primesFrom : Nat → Nat → List Nat → List Nat
  | 0, _, found => found
  | fuel + 1, k, found =>
    primesFrom fuel (k + 1) (if found.any fun p => k % p = 0 then found else k :: found)

/-- The primes up to 409, the eightieth. -/
def shaPrimes : List Nat := (primesFrom 408 2 []).reverse

/-- Largest `r` below `2^bits + lo` with `r ^ k ≤ x`, bit by bit from the top. -/
def rootFrom (k x : Nat) : Nat → Nat → Nat
  | 0, lo => lo
  | bits + 1, lo => rootFrom k x bits (if (lo + 2 ^ bits) ^ k ≤ x then lo + 2 ^ bits else lo)

/-- First 64 bits of the fractional part of the `k`-th root of `p`. -/
def rootBits (k p : Nat) : DWord := BitVec.ofNat 64 (rootFrom k (p * 2 ^ (64 * k)) 69 0)

/-- The eight words a message starts from: square roots of the ninth to sixteenth primes. -/
def shaInit : List DWord := ((shaPrimes.drop 8).take 8).map (rootBits 2)

/-- The constant of each of the 80 steps: cube roots of the first 80 primes. -/
def shaSteps : List DWord := shaPrimes.map (rootBits 3)

/-- The mixing functions of FIPS 180-4 §4.1.3: two rotations, and a third rotation or (`shift`) a shift. -/
def shaMix (shift : Bool) (i j k : Nat) (x : DWord) : DWord :=
  let last := if shift then x >>> k else x.rotateRight k
  x.rotateRight i ^^^ (x.rotateRight j ^^^ last)

/-- The words of a block's schedule still to be used, oldest first; each step takes the oldest of 16 and puts in the
word 16 places on. -/
def shaNext (w : Vector DWord 16) : Vector DWord 16 :=
  let new := shaMix true 19 61 6 w[14] + w[9] + (shaMix true 1 8 7 w[1] + w[0])
  Vector.ofFn fun i : Fin 16 => if h : i.val < 15 then w[i.val + 1] else new

/-- The eight working variables. -/
structure ShaVars where
  a : DWord
  b : DWord
  c : DWord
  d : DWord
  e : DWord
  f : DWord
  g : DWord
  h : DWord

/-- The variables after one step, from the step's constant and schedule word added. -/
def ShaVars.step (v : ShaVars) (kw : DWord) : ShaVars :=
  let choose := v.g ^^^ (v.e &&& (v.f ^^^ v.g))
  let major := (v.a &&& v.b) ||| (v.c &&& (v.a ||| v.b))
  let up := kw + v.h + choose + shaMix false 14 18 41 v.e
  { a := up + major + shaMix false 28 34 39 v.a, b := v.a, c := v.b, d := v.c,
    e := up + v.d, f := v.e, g := v.f, h := v.g }

def ShaVars.ofList (l : List DWord) : ShaVars :=
  let at' (i : Nat) := (l[i]?).getD 0
  ⟨at' 0, at' 1, at' 2, at' 3, at' 4, at' 5, at' 6, at' 7⟩

def ShaVars.toList (v : ShaVars) : List DWord := [v.a, v.b, v.c, v.d, v.e, v.f, v.g, v.h]

/-- One 128-byte block. -/
def shaBlock (h : List DWord) (block : List Byte) : List DWord :=
  let w : Vector DWord 16 := Vector.ofFn fun i : Fin 16 => BitVec.ofNat 64 (ofBe (slice block (8 * i.val) 8))
  let run := shaSteps.foldl (fun (x : ShaVars × Vector DWord 16) k => (x.1.step (k + x.2[0]), shaNext x.2))
    (ShaVars.ofList h, w)
  List.zipWith (· + ·) h run.1.toList

/-- Whole blocks of a message. -/
def shaBlocks (h : List DWord) (l : List Byte) : List DWord := (chunks 128 l).foldl shaBlock h

/-- Bytes that fill the last block: the bit 1, zeros and the message's length in bits in 16 bytes. -/
def shaPadding (total : Nat) : List Byte :=
  let used := (total + 17) % 128
  (0x80 : Byte) :: (zeros (if used = 0 then 0 else 128 - used) ++ beBytes 16 (8 * total))

/-- The end of a message: `total` bytes in all, of which `tail` are still to be taken; 48 bytes. -/
def shaFinish (h : List DWord) (tail : List Byte) (total : Nat) : List Byte :=
  slice ((shaBlocks h (tail ++ shaPadding total)).flatMap fun w => beBytes 8 w.toNat) 0 48

/-- SHA-384 of a byte string, 48 bytes. -/
def sha384 (l : List Byte) : List Byte := shaFinish shaInit l l.length

end Sys2Proof.Machine
end

