-- ==== Sys2Proof/Machine/CopyIdx.lean ====
section
/-! DEFINITION. Irregular data: GATHER, SCATTER, SCATTER_ADD, SEG_REDUCE (R166–R168), ROUTE (R169, R170), SETOP (R171),
POS_GATHER (R172), XDELTA, XAPPLY (R173, R174) and HASH (R175, R176). -/

namespace Sys2Proof.Machine

/-- The null index. -/
def nullIdx : Nat := 0xFFFFFFFF

/-- The target of a space 0–2. -/
def State.nearTarget (s : State) (p c space lcore : Nat) : Target :=
  match (s.resolve p c space lcore 0).1 with
  | .near t => t
  | _ => .store p

/-! ### Indexed operations -/

structure IdxD where
  srcSpace : Nat
  dstSpace : Nat
  sF : Nat
  dF : Nat
  idxSpace : Nat
  control : Nat
  srcLcore : Nat
  dstLcore : Nat
  src : Nat
  dst : Nat
  idx : Nat
  rowLen : Nat
  count : Nat
  tableRows : Nat
  rsv : Nat
  srcStride : Nat
  dstStride : Nat
  seg : Nat
  rsv48 : List Byte
  deriving DecidableEq, Repr

def IdxD.parse (d : List Byte) : IdxD :=
  let b (o : Nat) : Nat := fieldAt d o 1
  let l (o : Nat) : Nat := fieldAt d o 8
  { srcSpace := b 0, dstSpace := b 1, sF := b 2, dF := b 3, idxSpace := b 4, control := b 5, srcLcore := b 6,
    dstLcore := b 7, src := l 8, dst := l 0x10, idx := l 0x18, rowLen := fieldAt d 0x20 4, count := fieldAt d 0x24 4,
    tableRows := fieldAt d 0x28 4, rsv := fieldAt d 0x2C 4, srcStride := l 0x30, dstStride := l 0x38, seg := l 0x40,
    rsv48 := slice d 0x48 24 }

/-- The four operations, by opcode: 2 GATHER, 3 SCATTER, 4 SCATTER_ADD, 5 SEG_REDUCE. -/
def IdxD.moves (op : Nat) : Bool := op == 2 || op == 3
def IdxD.srcRow (d : IdxD) (op : Nat) : Nat := if IdxD.moves op then d.rowLen else d.rowLen * elemBytes d.sF
def IdxD.dstRow (d : IdxD) (op : Nat) : Nat := if IdxD.moves op then d.rowLen else d.rowLen * elemBytes d.dF
/-- Rows of the source and of the destination area. -/
def IdxD.srcRows (d : IdxD) (op : Nat) : Nat := if op = 2 ∨ op = 5 then d.tableRows else d.count
def IdxD.dstRows (d : IdxD) (op : Nat) : Nat := if op = 2 ∨ op = 5 then d.count else d.tableRows
def IdxD.hasIdx (d : IdxD) : Bool := d.idxSpace != 0xFF

def IdxD.fieldsOk (d : IdxD) (s : State) (c op : Nat) : Bool :=
  let fsrc (f : Nat) : Bool := decide (f ≤ 4) || f == 8
  let fdst (f : Nat) : Bool := decide (f ≤ 2) || f == 8
  decide (d.srcSpace ≤ 2) && decide (d.dstSpace ≤ 2) &&
    (if IdxD.moves op then d.sF == 0xFF && d.dF == 0xFF else fsrc d.sF && fdst d.dF) &&
    (decide (d.idxSpace ≤ 2) || (op == 5 && d.idxSpace == 0xFF)) && decide (d.control ≤ 1) &&
    (if d.srcSpace = 1 ∨ d.idxSpace = 1 then decide (d.srcLcore < (s.ctx c).cores.length) else d.srcLcore == 0) &&
    s.lcoreOk c d.dstSpace d.dstLcore && aligned d.idx 4 && (d.hasIdx || d.idx == 0) && len4 d.rowLen && len4 d.count &&
    len4 d.tableRows && d.rsv == 0 && allZero d.rsv48 && (if op = 5 then aligned d.seg 4 else d.seg == 0) &&
    (decide (d.dstRows op ≤ 1) || d.dstStride != 0)

def IdxD.noop (d : IdxD) : Bool := d.rowLen == 0 || d.count == 0 || d.tableRows == 0

def planIdx (op p : Nat) (s : State) (b : List Byte) : CePlan :=
  let d := IdxD.parse b
  let c := s.ctxOf p
  let z := d.noop
  let st : Loc := .near (s.nearTarget p c d.srcSpace d.srcLcore)
  let dt : Loc := .near (s.nearTarget p c d.dstSpace d.dstLcore)
  let it : Loc := .near (s.nearTarget p c d.idxSpace d.srcLcore)
  let src : CeArea := ⟨st, rowSpan d.src d.srcStride (d.srcRows op) (d.srcRow op)⟩
  let dst : CeArea := ⟨dt, rowSpan d.dst d.dstStride (d.dstRows op) (d.dstRow op)⟩
  let idx : CeArea := ⟨it, if op = 5 ∨ d.count = 0 then [] else [(d.idx, 4 * d.count)]⟩
  let seg : CeArea := ⟨st, if op = 5 then [(d.seg, 4 * (d.count + 1))] else []⟩
  let list : CeArea := ⟨it, [(d.idx, 4 * ofLe (s.peek (s.nearTarget p c d.srcSpace d.srcLcore) (d.seg + 4 * d.count) 4))]⟩
  { ok := d.fieldsOk s c op, noop := z, reads := [src, idx, seg], writes := [dst],
    apart := areasApart [src, idx, seg] [dst]
    also := if op = 4 then [dst] else if op = 5 ∧ d.hasIdx then [list] else [] }

/-- The first entry of a list that ends the command: poisoned, or neither null nor below the bound. -/
def badEntry (a : Area) (xs : List Nat) (bound : Nat) : Option (Nat × Nat) :=
  ((List.range xs.length).zip xs).findSome? fun (i, x) =>
    if a.entryPois i then some (i, Code.cePoisonIndex)
    else if x ≠ nullIdx ∧ bound ≤ x then some (i, Code.ceIndex)
    else none

/-- Position of the last occurrence of each named row: (row, i). -/
def lastNamed (xs : List Nat) : List (Nat × Nat) :=
  (((List.range xs.length).zip xs).foldl (fun (acc : Tbl (Option Nat)) p =>
    if p.2 = nullIdx then acc else Tbl.set none acc p.2 (some p.1)) []).filterMap fun (r, i) => i.map fun j => (r, j)

/-- Rows of a table or list side, read one by one. -/
def State.readRow (s : State) (t : Target) (a n : Nat) (hint : Bool) : Area × State :=
  let (d, s1) := s.read t a n hint
  (⟨a, d⟩, s1)

/-- An accumulator of R167 and R168 with its poison and events. -/
structure Acc where
  v : Num
  po : Bool
  e : Evt
  deriving DecidableEq, Repr

def Acc.add (a : Acc) (x : Elem) : Acc :=
  let r := roundA48 (a.v.add x.val)
  ⟨a48 r.code, a.po || x.pois, Evt.or (Evt.or a.e x.evt) { overflow := r.overflow }⟩

def Acc.ofElem (x : Elem) : Acc := ⟨a48 (roundA48 x.val).code, x.pois, x.evt⟩

/-- The result of an accumulator rounded once into the destination (R167, R168). -/
def Acc.out (a : Acc) (dF addr : Nat) (ftz : Bool) : Written :=
  let w := writeDense (.vector ftz) dF .rne a.v a.po addr
  { w with evt := Evt.or a.e w.evt }

/-- The rows that a GATHER, SCATTER or SCATTER_ADD of these index entries writes. -/
def IdxD.writes (d : IdxD) (op : Nat) (s : State) (p : Nat) (xs : List Nat) : Written × State :=
  let c := s.ctxOf p
  let nc := s.numCtx p
  let h := bitAt d.control 0
  let st := s.nearTarget p c d.srcSpace d.srcLcore
  let dt := s.nearTarget p c d.dstSpace d.dstLcore
  let srcAt (i : Nat) : Nat := d.src + i * d.srcStride
  let dstAt (i : Nat) : Nat := d.dst + i * d.dstStride
  let n := d.srcRow op
  if op = 2 then
    ((List.range xs.length).zip xs).foldl (fun (r : Written × State) p =>
      if p.2 = nullIdx then
        ({ r.1 with puts := r.1.puts ++ [⟨dstAt p.1, zeros n, List.replicate n false⟩] }, r.2)
      else
        let (a, s1) := r.2.readRow st (srcAt p.2) n h
        ({ r.1 with puts := r.1.puts ++ [a.put (dstAt p.1)] }, s1)) (Written.empty, s)
  else if op = 3 then
    (lastNamed xs).foldl (fun (r : Written × State) p =>
      let (a, s1) := r.2.readRow st (srcAt p.2) n h
      ({ r.1 with puts := r.1.puts ++ [a.put (dstAt p.1)] }, s1)) (Written.empty, s)
  else
    (lastNamed xs).foldl (fun (r : Written × State) p =>
      let (old, s1) := r.2.readRow dt (dstAt p.1) (d.dstRow op) h
      let named := ((List.range xs.length).zip xs).filter fun q => q.2 == p.1
      let (rows, s2) := s1.readAreas st (named.map fun q => (srcAt q.1, n)) h
      let out := (List.range d.rowLen).foldl (fun (w : Written) j =>
        let a0 := Acc.ofElem (readDense [old] d.dF (dstAt p.1 + j * elemBytes d.dF) nc.ftz)
        let acc := (named.zip rows).foldl (fun (a : Acc) q =>
          a.add (readDense [q.2] d.sF (srcAt q.1.1 + j * elemBytes d.sF) nc.ftz)) a0
        w.append (acc.out d.dF (dstAt p.1 + j * elemBytes d.dF) nc.ftz)) Written.empty
      (r.1.append out, s2)) (Written.empty, s)

/-- The command's writes take effect and it completes; its flags are set also when the write is refused (DEDUCED, log
150). -/
def State.ceFinish (s : State) (p : Nat) (q : QCmd) (t : Target) (w : Written) (hint : Bool) : State :=
  let (ok, s1) := (s.flagEvt (s.ctxOf p) w.evt).ceApply p q t w.puts hint
  if ok then s1.retire p q else s1

/-- GATHER, SCATTER or SCATTER_ADD that has passed its checks. A bad entry ends it after some of the rows before that
entry have moved: how many is free (R166). -/
def State.runIdx (op p : Nat) (q : QCmd) (s : State) (b : List Byte) : State :=
  let d := IdxD.parse b
  let c := s.ctxOf p
  let h := bitAt d.control 0
  let (ia, s1) := s.readRow (s.nearTarget p c d.idxSpace d.srcLcore) d.idx (4 * d.count) h
  let xs := words ia
  let dt := s.nearTarget p c d.dstSpace d.dstLcore
  match badEntry ia xs d.tableRows with
  | none =>
    let (w, s2) := d.writes op s1 p xs
    s2.ceFinish p q dt w h
  | some (i, code) =>
    let (f, s2) := s1.draw
    let (w, s3) := d.writes op s2 p (xs.take (f % (i + 1)))
    let (ok, s4) := (s3.flagEvt c w.evt).ceApply p q dt w.puts h
    if ok then s4.ceError p q code else s4

/-- The first offset that ends a SEG_REDUCE (R168). -/
def badOffset (a : Area) (offs : List Nat) (bound : Option Nat) : Option Nat :=
  ((List.range offs.length).zip offs).findSome? fun (i, x) =>
    if a.entryPois i then some Code.cePoisonIndex
    else if decide (i ≠ 0) && decide (x < (offs[i - 1]?).getD 0) then some Code.ceOrder
    else match bound with
      | some n => if n < x then some Code.ceOrder else none
      | none => none

/-- SEG_REDUCE that has passed its checks (R168). -/
def State.runSeg (p : Nat) (q : QCmd) (s : State) (b : List Byte) : State :=
  let d := IdxD.parse b
  let c := s.ctxOf p
  let nc := s.numCtx p
  let h := bitAt d.control 0
  let st := s.nearTarget p c d.srcSpace d.srcLcore
  let dt := s.nearTarget p c d.dstSpace d.dstLcore
  let it := s.nearTarget p c d.idxSpace d.srcLcore
  let (oa, s1) := s.readRow st d.seg (4 * (d.count + 1)) h
  let offs := words oa
  match badOffset oa offs (if d.hasIdx then none else some d.tableRows) with
  | some code => s1.ceError p q code
  | none =>
    let total := (offs[d.count]?).getD 0
    let list : CeArea := ⟨.near it, [(d.idx, 4 * total)]⟩
    if d.hasIdx && !(list.spans.all fun sp => s1.spanOk c false list.loc sp) then s1.ceError p q Code.ceBound
    else if d.hasIdx && !areasApart [list] (planIdx 5 p s1 b).writes then s1.ceError p q Code.ceBadDesc
    else
      let (ia, s2) := if d.hasIdx then s1.readRow it d.idx (4 * total) h else (⟨0, ⟨[], []⟩⟩, s1)
      let xs := words ia
      match badEntry ia xs d.tableRows with
      | some (_, code) => s2.ceError p q code
      | none =>
        let rowOf (j : Nat) : Nat := if d.hasIdx then (xs[j]?).getD nullIdx else j
        let r := (List.range d.count).foldl (fun (r : Written × State) k =>
          let lo := (offs[k]?).getD 0
          let hi := (offs[k + 1]?).getD 0
          let rows := ((List.range (hi - lo)).map fun i => rowOf (lo + i)).filter (· != nullIdx)
          let (as, s3) := r.2.readAreas st (rows.map fun i => (d.src + i * d.srcStride, d.srcRow 5)) h
          let out := (List.range d.rowLen).foldl (fun (w : Written) j =>
            let acc := (rows.zip as).foldl (fun (a : Acc) x =>
              a.add (readDense [x.2] d.sF (d.src + x.1 * d.srcStride + j * elemBytes d.sF) nc.ftz)) ⟨.zero, false, {}⟩
            w.append (acc.out d.dF (d.dst + k * d.dstStride + j * elemBytes d.dF) nc.ftz)) Written.empty
          (r.1.append out, s3)) (Written.empty, s2)
        r.2.ceFinish p q dt r.1 h

def State.startGather (s : State) (p : Nat) (q : QCmd) : State := s.startCe p q 96 (planIdx 2 p) (State.runIdx 2 p q)
def State.startScatter (s : State) (p : Nat) (q : QCmd) : State := s.startCe p q 96 (planIdx 3 p) (State.runIdx 3 p q)
def State.startScatterAdd (s : State) (p : Nat) (q : QCmd) : State := s.startCe p q 96 (planIdx 4 p) (State.runIdx 4 p q)
def State.startSegReduce (s : State) (p : Nat) (q : QCmd) : State := s.startCe p q 96 (planIdx 5 p) (State.runSeg p q)

/-! ### ROUTE (R169, R170) -/

structure RouteD where
  space : Nat
  lcore : Nat
  rsv : Nat
  count : Nat
  buckets : Nat
  capacity : Nat
  key : Nat
  counts : Nat
  offsets : Nat
  perm : Nat
  inv : Nat
  summary : Nat
  deriving DecidableEq, Repr

def RouteD.parse (d : List Byte) : RouteD :=
  let l (o : Nat) : Nat := fieldAt d o 8
  { space := fieldAt d 0 1, lcore := fieldAt d 1 1, rsv := fieldAt d 2 2, count := fieldAt d 4 4,
    buckets := fieldAt d 8 4, capacity := fieldAt d 0x0C 4, key := l 0x10, counts := l 0x18, offsets := l 0x20,
    perm := l 0x28, inv := l 0x30, summary := l 0x38 }

def planRoute (p : Nat) (s : State) (b : List Byte) : CePlan :=
  let d := RouteD.parse b
  let c := s.ctxOf p
  let loc : Loc := .near (s.nearTarget p c d.space d.lcore)
  let area (a n : Nat) : CeArea := ⟨loc, if n = 0 then [] else [(a, n)]⟩
  let key := area d.key (4 * d.count)
  let outs := [area d.counts (4 * d.buckets), area d.offsets (4 * (d.buckets + 1)), area d.perm (4 * d.count),
    area d.inv (4 * d.count), area d.summary 12]
  { ok := decide (d.space ≤ 2) && s.lcoreOk c d.space d.lcore && d.rsv == 0 && len4 d.count && decide (1 ≤ d.buckets) &&
      decide (d.buckets ≤ 65536) && decide (1 ≤ d.capacity) && len4 d.capacity
    noop := d.count == 0, reads := [key], writes := outs, apart := areasAllApart (key :: outs) }

/-- What a ROUTE has made of the keys so far: kept counts by bucket, and for each key taken, latest first, its ordinal
within its bucket when it was kept. -/
structure Routed where
  counts : Tbl Nat
  ords : List (Option Nat)
  dropped : Nat
  nulls : Nat
  deriving DecidableEq, Repr

def Routed.take (capacity : Nat) (r : Routed) (k : Nat) : Routed :=
  if k = nullIdx then { r with ords := none :: r.ords, nulls := r.nulls + 1 }
  else
    let n := Tbl.get 0 r.counts k
    if capacity ≤ n then { r with ords := none :: r.ords, dropped := r.dropped + 1 }
    else { r with counts := Tbl.set 0 r.counts k (n + 1), ords := some n :: r.ords }

/-- Running sums, starting with 0. -/
def prefixSums (l : List Nat) : List Nat := (l.foldl (fun (a : List Nat × Nat) x => (a.1 ++ [a.2], a.2 + x)) ([], 0)).1

/-- The outputs of a ROUTE: counts, offsets, perm, inv and summary, each as u32 entries (R170). -/
def routeOut (buckets capacity : Nat) (keys : List Nat) : List Nat × List Nat × List Nat × List Nat × List Nat :=
  let r := keys.foldl (Routed.take capacity) ⟨[], [], 0, 0⟩
  let counts := (List.range buckets).map fun b => Tbl.get 0 r.counts b
  let kept := counts.sum
  let offs := prefixSums counts ++ [kept]
  let inv := (keys.zip r.ords.reverse).map fun (k, o) => match o with
    | some n => (offs[k]?).getD 0 + n
    | none => nullIdx
  let pos : Tbl Nat := ((List.range keys.length).zip inv).foldl (fun t (i, p) =>
    if p = nullIdx then t else Tbl.set nullIdx t p i) []
  let perm := (List.range keys.length).map fun p => Tbl.get nullIdx pos p
  (counts, offs, perm, inv, [kept, r.dropped, r.nulls])

/-- The bytes of u32 entries. -/
def wordBytes (l : List Nat) : List Byte := l.flatMap (leBytes 4)

def cleanPut (a : Nat) (bs : List Byte) : Put := ⟨a, bs, List.replicate bs.length false⟩

def State.runRoute (p : Nat) (q : QCmd) (s : State) (b : List Byte) : State :=
  let d := RouteD.parse b
  let t := s.nearTarget p (s.ctxOf p) d.space d.lcore
  let (ka, s1) := s.readRow t d.key (4 * d.count) false
  let keys := words ka
  match badEntry ka keys d.buckets with
  | some (_, code) => s1.ceError p q code
  | none =>
    let (counts, offs, perm, inv, sum) := routeOut d.buckets d.capacity keys
    let puts := [cleanPut d.counts (wordBytes counts), cleanPut d.offsets (wordBytes offs), cleanPut d.perm (wordBytes perm),
      cleanPut d.inv (wordBytes inv), cleanPut d.summary (wordBytes sum)]
    s1.ceFinish p q t { Written.empty with puts := puts } false

def State.startRoute (s : State) (p : Nat) (q : QCmd) : State := s.startCe p q 64 (planRoute p) (State.runRoute p q)

/-! ### SETOP (R171) -/

structure SetD where
  space : Nat
  lcore : Nat
  op : Nat
  rsv : Nat
  na : Nat
  nb : Nat
  cap : Nat
  a : Nat
  b : Nat
  d : Nat
  n : Nat
  rsv30 : List Byte
  deriving DecidableEq, Repr

def SetD.parse (d : List Byte) : SetD :=
  let l (o : Nat) : Nat := fieldAt d o 8
  { space := fieldAt d 0 1, lcore := fieldAt d 1 1, op := fieldAt d 2 1, rsv := fieldAt d 3 1, na := fieldAt d 4 4,
    nb := fieldAt d 8 4, cap := fieldAt d 0x0C 4, a := l 0x10, b := l 0x18, d := l 0x20, n := l 0x28,
    rsv30 := slice d 0x30 16 }

def planSet (p : Nat) (s : State) (b : List Byte) : CePlan :=
  let d := SetD.parse b
  let c := s.ctxOf p
  let loc : Loc := .near (s.nearTarget p c d.space d.lcore)
  let area (a n : Nat) : CeArea := ⟨loc, if n = 0 then [] else [(a, n)]⟩
  let ins := [area d.a (4 * d.na), area d.b (4 * d.nb)]
  let outs := [area d.d (4 * d.cap), area d.n 4]
  { ok := decide (d.space ≤ 2) && s.lcoreOk c d.space d.lcore && decide (d.op ≤ 3) && d.rsv == 0 && len4 d.na &&
      len4 d.nb && len4 d.cap && allZero d.rsv30
    noop := d.na == 0 && d.nb == 0, reads := ins, writes := outs, apart := areasApart ins outs }

/-- The first entry of a set list that ends the command: poisoned, or not above its predecessor. -/
def badSet (a : Area) (xs : List Nat) : Option Nat :=
  ((List.range xs.length).zip xs).findSome? fun (i, x) =>
    if a.entryPois i then some Code.cePoisonIndex
    else if decide (i ≠ 0) && decide (x ≤ (xs[i - 1]?).getD 0) then some Code.ceOrder
    else none

/-- Merge two ascending lists: each entry with whether it stands in a and in b. -/
def mergeSets : Nat → List Nat → List Nat → List (Nat × Bool × Bool)
  | 0, _, _ => []
  | _ + 1, [], ys => ys.map fun y => (y, false, true)
  | _ + 1, xs, [] => xs.map fun x => (x, true, false)
  | fuel + 1, x :: xs, y :: ys =>
    if x < y then (x, true, false) :: mergeSets fuel xs (y :: ys)
    else if y < x then (y, false, true) :: mergeSets fuel (x :: xs) ys
    else (x, true, true) :: mergeSets fuel xs ys

/-- Bytes of a put with a later one laid over them where the two meet. -/
def Put.under (x y : Put) : Put :=
  let inside (i : Nat) : Bool := decide (y.addr ≤ x.addr + i) && decide (x.addr + i < y.addr + y.bytes.length)
  { x with
    bytes := ((List.range x.bytes.length).zip x.bytes).map fun e =>
      if inside e.1 then (y.bytes[x.addr + e.1 - y.addr]?).getD e.2 else e.2
    pois := ((List.range x.pois.length).zip x.pois).map fun e =>
      if inside e.1 then (y.pois[x.addr + e.1 - y.addr]?).getD e.2 else e.2 }

/-- The result of a set operation on ascending lists (R171). -/
def setResult (op : Nat) (xs ys : List Nat) : List Nat :=
  (mergeSets (xs.length + ys.length + 1) xs ys).filterMap fun (v, a, b) =>
    let keep := match op with
      | 0 => true
      | 1 => a && b
      | 2 => a && !b
      | _ => a != b
    if keep then some v else none

/-- SETOP that has passed its checks; the count is written last (R171). -/
def State.runSet (p : Nat) (q : QCmd) (s : State) (b : List Byte) : State :=
  let d := SetD.parse b
  let t := s.nearTarget p (s.ctxOf p) d.space d.lcore
  let (aa, s1) := s.readRow t d.a (4 * d.na) false
  let (ba, s2) := s1.readRow t d.b (4 * d.nb) false
  match (badSet aa (words aa)).orElse fun _ => badSet ba (words ba) with
  | some code => s2.ceError p q code
  | none =>
    let r := setResult d.op (words aa) (words ba)
    if d.cap < r.length then s2.ceError p q Code.ceBound
    else
      let n := cleanPut d.n (leBytes 4 r.length)
      s2.ceFinish p q t { Written.empty with
        puts := (if r.isEmpty then [] else [(cleanPut d.d (wordBytes r)).under n]) ++ [n] } false

def State.startSet (s : State) (p : Nat) (q : QCmd) : State := s.startCe p q 64 (planSet p) (State.runSet p q)

/-! ### POS_GATHER (R172) -/

structure PosD where
  srcSpace : Nat
  dstSpace : Nat
  shift : Nat
  control : Nat
  p0 : Nat
  n : Nat
  rowBytes : Nat
  ptable : Nat
  dst : Nat
  dstStride : Nat
  entries : Nat
  dstLcore : Nat
  rsv : List Byte
  deriving DecidableEq, Repr

def PosD.parse (d : List Byte) : PosD :=
  let w (o : Nat) : Nat := fieldAt d o 4
  let l (o : Nat) : Nat := fieldAt d o 8
  { srcSpace := fieldAt d 0 1, dstSpace := fieldAt d 1 1, shift := fieldAt d 2 1, control := fieldAt d 3 1, p0 := w 4,
    n := w 8, rowBytes := w 0x0C, ptable := l 0x10, dst := l 0x18, dstStride := l 0x20, entries := w 0x28,
    dstLcore := fieldAt d 0x2C 1, rsv := slice d 0x2D 19 }

/-- Page entries that the range needs. -/
def PosD.pages (d : PosD) : List Nat :=
  if d.n = 0 then []
  else
    let lo := d.p0 / 2 ^ d.shift
    (List.range ((d.p0 + d.n - 1) / 2 ^ d.shift - lo + 1)).map (· + lo)

def PosD.pageBytes (d : PosD) : Nat := 2 ^ d.shift * d.rowBytes

/-- The token rows by a page table. -/
def PosD.rows (d : PosD) (entry : Nat → Nat) : List (Nat × Nat) :=
  (List.range d.n).map fun i =>
    let p := d.p0 + i
    (entry (p / 2 ^ d.shift) + p % 2 ^ d.shift * d.rowBytes, d.rowBytes)

def PosD.noop (d : PosD) : Bool := d.n == 0 || d.rowBytes == 0 || d.entries == 0

def planPos (p : Nat) (s : State) (b : List Byte) : CePlan :=
  let d := PosD.parse b
  let c := s.ctxOf p
  let dst : CeArea := ⟨.near (s.nearTarget p c d.dstSpace d.dstLcore), rowSpan d.dst d.dstStride d.n d.rowBytes⟩
  let tbl : CeArea := ⟨.near (.store p), if d.entries = 0 then [] else [(d.ptable, 8 * d.entries)]⟩
  let ok := d.srcSpace == 2 && decide (d.dstSpace ≤ 2) && decide (4 ≤ d.shift) && decide (d.shift ≤ 16) &&
      decide (d.control ≤ 1) && decide (d.p0 < 2 ^ 24) && len4 d.n && len4 d.rowBytes && aligned d.rowBytes 64 &&
      len4 d.entries && s.lcoreOk c d.dstSpace d.dstLcore && allZero d.rsv && (decide (d.n ≤ 1) || d.dstStride != 0)
  { ok := ok, noop := d.noop, reads := [tbl], writes := [dst], apart := areasApart [tbl] [dst]
    also := if ok && decide (d.p0 + d.n ≤ 2 ^ 24)
      then [⟨.near (.mem c), d.rows fun k => ofLe (s.peek (.store p) (d.ptable + 8 * k) 8)⟩] else [] }

def State.runPos (p : Nat) (q : QCmd) (s : State) (b : List Byte) : State :=
  let d := PosD.parse b
  let c := s.ctxOf p
  if 2 ^ 24 < d.p0 + d.n then s.ceError p q Code.ceBound
  else if d.pages.any fun k => decide (d.entries ≤ k) then s.ceError p q Code.ceIndex
  else
    let (es, s1) := s.readAreas (.store p) (d.pages.map fun k => (d.ptable + 8 * k, 8)) false
    let vals := d.pages.zip (es.map fun a => ofLe a.data.bytes)
    if poisoned es then s1.ceError p q Code.cePoisonIndex
    else if vals.any fun v => v.2 == 0 then s1.ceError p q Code.ceIndex
    else if vals.any fun v => !s1.inRegion c v.2 d.pageBytes then s1.ceError p q Code.ceBound
    else
      let src : CeArea := ⟨.near (.mem c), d.rows fun k => (vals.lookup k).getD 0⟩
      if !areasApart [src] (planPos p s1 b).writes then s1.ceError p q Code.ceBadDesc
      else
        let (as, s2) := s1.readAreas (.mem c) src.spans (bitAt d.control 0)
        let puts := ((List.range d.n).zip as).map fun x => x.2.put (d.dst + x.1 * d.dstStride)
        s2.ceFinish p q (s2.nearTarget p c d.dstSpace d.dstLcore) { Written.empty with puts := puts } (bitAt d.control 0)

def State.startPos (s : State) (p : Nat) (q : QCmd) : State := s.startCe p q 64 (planPos p) (State.runPos p q)

/-! ### XDELTA and XAPPLY (R173, R174) -/

structure XorD where
  space : Nat
  lcore : Nat
  control : Nat
  rsv : Nat
  len : Nat
  a : Nat
  b : Nat
  dst : Nat
  out : Nat
  rsv30 : List Byte
  deriving DecidableEq, Repr

def XorD.parse (d : List Byte) : XorD :=
  let l (o : Nat) : Nat := fieldAt d o 8
  { space := fieldAt d 0 1, lcore := fieldAt d 1 1, control := fieldAt d 2 1, rsv := fieldAt d 3 5, len := l 8, a := l 0x10,
    b := l 0x18, dst := l 0x20, out := l 0x28, rsv30 := slice d 0x30 16 }

def XorD.units (d : XorD) : Nat := d.len / 64

def XorD.fieldsOk (d : XorD) (s : State) (c : Nat) (apply : Bool) : Bool :=
  decide (d.space ≤ 2) && s.lcoreOk c d.space d.lcore && decide (d.control ≤ 1) && d.rsv == 0 && len8 d.len &&
    aligned d.len 64 && (!apply || d.a == 0) && allZero d.rsv30

def planXdelta (p : Nat) (s : State) (b : List Byte) : CePlan :=
  let d := XorD.parse b
  let c := s.ctxOf p
  let loc : Loc := .near (s.nearTarget p c d.space d.lcore)
  let area (a n : Nat) : CeArea := ⟨loc, if n = 0 then [] else [(a, n)]⟩
  let ins := [area d.a d.len, area d.b d.len]
  let outs := [area d.dst (deltaHead d.units + d.len), area d.out 8]
  { ok := d.fieldsOk s c false, noop := d.len == 0, reads := ins, writes := outs, apart := areasApart ins outs }

def State.runXdelta (p : Nat) (q : QCmd) (s : State) (b : List Byte) : State :=
  let d := XorD.parse b
  let h := bitAt d.control 0
  let t := s.nearTarget p (s.ctxOf p) d.space d.lcore
  let (a, s1) := s.read t d.a d.len h
  let (base, s2) := s1.read t d.b d.len h
  let (bs, po) := xdelta a base
  s2.ceFinish p q t { Written.empty with puts := [⟨d.dst, bs, po⟩, cleanPut d.out (leBytes 8 bs.length)] } h

def State.startXdelta (s : State) (p : Nat) (q : QCmd) : State := s.startCe p q 64 (planXdelta p) (State.runXdelta p q)

def planXapply (p : Nat) (s : State) (b : List Byte) : CePlan :=
  let d := XorD.parse b
  let c := s.ctxOf p
  let t := s.nearTarget p c d.space d.lcore
  let area (a n : Nat) : CeArea := ⟨.near t, if n = 0 then [] else [(a, n)]⟩
  let base := area d.b d.len
  let head := area d.dst (deltaHead d.units)
  let out := area d.out d.len
  let body := area (d.dst + deltaHead d.units) (64 * fieldAt (s.peek t d.dst 16) 8 8)
  { ok := d.fieldsOk s c true, noop := d.len == 0, reads := [base, head], writes := [out]
    apart := areasApart [head] [out] && (d.b == d.out || areasApart [base] [out])
    also := [body] }

def State.runXapply (p : Nat) (q : QCmd) (s : State) (b : List Byte) : State :=
  let d := XorD.parse b
  let c := s.ctxOf p
  let h := bitAt d.control 0
  let t := s.nearTarget p c d.space d.lcore
  let (hd, s1) := s.read t d.dst (deltaHead d.units) h
  let us := deltaUnits d.units hd.bytes
  if hd.pois.any (· == true) then s1.ceError p q Code.cePoisonIndex
  else if fieldAt hd.bytes 0 8 ≠ d.units ∨ fieldAt hd.bytes 8 8 ≠ us.length then s1.ceError p q Code.ceBadDesc
  else
    let body : CeArea := ⟨.near t, [(d.dst + deltaHead d.units, 64 * us.length)]⟩
    if !s1.spanOk c false (.near t) (d.dst, deltaHead d.units + 64 * us.length) then s1.ceError p q Code.ceBound
    else if !us.isEmpty && !areasApart [body] (planXapply p s1 b).writes then s1.ceError p q Code.ceBadDesc
    else
      let (bd, s2) := s1.read t (d.dst + deltaHead d.units) (64 * us.length) h
      let (base, s3) := s2.read t d.b d.len h
      match xapply base ⟨hd.bytes ++ bd.bytes, hd.pois ++ bd.pois⟩ with
      | none => s3.ceError p q Code.ceBadDesc
      | some r => s3.ceFinish p q t { Written.empty with puts := [⟨d.out, r.bytes, r.pois⟩] } h

def State.startXapply (s : State) (p : Nat) (q : QCmd) : State := s.startCe p q 64 (planXapply p) (State.runXapply p q)

/-! ### HASH (R175, R176) -/

structure HashD where
  space : Nat
  lcore : Nat
  algo : Nat
  control : Nat
  rsv : Nat
  len : Nat
  inA : Nat
  state : Nat
  out : Nat
  chunk0 : Nat
  rsv30 : List Byte
  deriving DecidableEq, Repr

def HashD.parse (d : List Byte) : HashD :=
  let l (o : Nat) : Nat := fieldAt d o 8
  { space := fieldAt d 0 1, lcore := fieldAt d 1 1, algo := fieldAt d 2 1, control := fieldAt d 3 1, rsv := fieldAt d 4 4,
    len := l 8, inA := l 0x10, state := l 0x18, out := l 0x20, chunk0 := l 0x28, rsv30 := slice d 0x30 16 }

def HashD.first (d : HashD) : Bool := bitAt d.control 0
def HashD.last (d : HashD) : Bool := bitAt d.control 1
def HashD.stateBytes (d : HashD) : Nat := if d.algo = 0 then 4 else if d.algo = 1 then 208 else 16
def HashD.outBytes (d : HashD) : Nat := if d.algo = 0 then 4 else if d.algo = 1 then 48 else 16

def HashD.fieldsOk (d : HashD) (s : State) (c : Nat) : Bool :=
  let al := if d.algo = 0 then 4 else 16
  decide (d.space ≤ 2) && s.lcoreOk c d.space d.lcore && decide (d.algo ≤ 2) && decide (d.control ≤ 7) && d.rsv == 0 &&
    len8 d.len && aligned d.state al && aligned d.out al && (d.algo == 2 || d.chunk0 == 0) && allZero d.rsv30 &&
    (d.algo != 1 || d.last || aligned d.len 128) && (d.algo != 2 || aligned d.len 64) &&
    (d.algo != 2 || d.last || aligned d.len 4096)

/-- What a HASH asks for. The areas it uses, its chaining state and its result, stay apart from the input, and a state
that is read stays apart from the result (R158, R175). -/
def planHash (p : Nat) (s : State) (b : List Byte) : CePlan :=
  let d := HashD.parse b
  let c := s.ctxOf p
  let area (a n : Nat) : CeArea := ⟨.near (s.nearTarget p c d.space d.lcore), if n = 0 then [] else [(a, n)]⟩
  let inp := area d.inA d.len
  let st := area d.state d.stateBytes
  let out := area d.out d.outBytes
  let old := if d.first then [] else [st]
  { ok := d.fieldsOk s c, noop := d.len == 0, reads := inp :: old, writes := [if d.last then out else st],
    apart := areasApart [inp] (old ++ [if d.last then out else st]) && (!d.last || areasApart old [out]) }

/-- The 208 bytes of a SHA-384 chaining state in memory: the eight words, no buffered byte, and the bytes hashed so far,
in an order of the implementation's own (R175). -/
def shaPack (h : List DWord) (total : Nat) : List Byte :=
  let l := (h.flatMap fun w => leBytes 8 w.toNat) ++ zeros 128 ++ leBytes 16 total
  (List.finRange 208).map fun i => (l[(Config.shaOrder i).val]?).getD 0

def shaUnpack (m : List Byte) : List DWord × Nat :=
  let l := (List.finRange 208).map fun i => (m[(Config.shaOrder.symm i).val]?).getD 0
  ((List.range 8).map fun i => BitVec.ofNat 64 (fieldAt l (8 * i) 8), fieldAt l 192 16)

/-- The bytes a HASH writes: its result with last, else its chaining state (R175, R176). -/
def HashD.result (d : HashD) (inp st : List Byte) : List Byte :=
  match d.algo with
  | 0 =>
    let r := crc32cRun (if d.first then 0xFFFFFFFF else ofLe st) inp
    leBytes 4 (if d.last then r ^^^ 0xFFFFFFFF else r)
  | 1 =>
    let (h, n) := if d.first then (shaInit, 0) else shaUnpack st
    if d.last then shaFinish (shaBlocks h (inp.take (inp.length / 128 * 128))) (inp.drop (inp.length / 128 * 128))
      (n + inp.length)
    else shaPack (shaBlocks h inp) (n + inp.length)
  | _ => leBytes 16 (digest128From (if d.first then 0 else ofLe st) d.chunk0 inp)

def State.runHash (p : Nat) (q : QCmd) (s : State) (b : List Byte) : State :=
  let d := HashD.parse b
  let h := bitAt d.control 2
  let t := s.nearTarget p (s.ctxOf p) d.space d.lcore
  let (inp, s1) := s.read t d.inA d.len h
  let (st, s2) := if d.first then (⟨[], []⟩, s1) else s1.read t d.state d.stateBytes h
  let r := d.result inp.bytes st.bytes
  let po := inp.pois.any (· == true) || st.pois.any (· == true)
  s2.ceFinish p q t
    { Written.empty with puts := [⟨if d.last then d.out else d.state, r, List.replicate r.length po⟩] } h

def State.startHash (s : State) (p : Nat) (q : QCmd) : State := s.startCe p q 64 (planHash p) (State.runHash p q)

/-! ### The queue head -/

/-- Plan of the descriptor of a queued copy-engine command, by opcode. -/
def cePlan (op p : Nat) (s : State) (b : List Byte) : CePlan :=
  match op with
  | 1 => planCopy p s b
  | 2 | 3 | 4 | 5 => planIdx op p s b
  | 6 => planRoute p s b
  | 7 => planSet p s b
  | 8 => planPos p s b
  | 9 => planXdelta p s b
  | 10 => planXapply p s b
  | _ => planHash p s b

def ceSize (op : Nat) : Nat := if op = 1 then 128 else if op ≤ 5 then 96 else 64

/-- The descriptor fails a check that the engine makes at the head of its queue (R158). -/
def State.ceFails (s : State) (p : Nat) (q : QCmd) : Bool :=
  let n := ceSize (slotOp q.slot)
  decide (2 ^ 22 < slotAddr q.slot + n) ||
    (s.planCode (s.ctxOf p) (cePlan (slotOp q.slot) p s (s.peek (.store p) (slotAddr q.slot) n))).isSome

/-- The command at the head may start: its descriptor fails and it raises its error, or fewer than 8 are in flight, no
hazard, the gate allows it, and no page it writes waits for a snapshot slot (R158–R160, R322, R403). -/
def State.ceReady (s : State) (p : Nat) (q : QCmd) : Bool :=
  let c := s.ctxOf p
  let pl := cePlan (slotOp q.slot) p s (s.peek (.store p) (slotAddr q.slot) (ceSize (slotOp q.slot)))
  s.ceFails p q || decide ((s.core p).ce.length < 8) && (pl.noop ||
    (!(s.core p).hazard pl && (!s.gateShut c q.epoch || s.retentionOnly c q.epoch pl.writes) &&
      !(pl.writes.any fun w => w.loc == .near (.mem c) && w.spans.any fun sp => s.snapBlocked c sp.1 sp.2)))

/-- The head is held by R160 (CE_STATUS.hazard_hold). -/
def State.ceHazard (s : State) (p : Nat) (q : QCmd) : Bool :=
  let pl := cePlan (slotOp q.slot) p s (s.peek (.store p) (slotAddr q.slot) (ceSize (slotOp q.slot)))
  pl.ok && !pl.noop && (s.core p).hazard pl

/-- A page it writes waits for a snapshot slot (MS_CKPT_STATUS.snap_wait). -/
def State.ceSnapWait (s : State) (p : Nat) (q : QCmd) : Bool :=
  let c := s.ctxOf p
  let pl := cePlan (slotOp q.slot) p s (s.peek (.store p) (slotAddr q.slot) (ceSize (slotOp q.slot)))
  pl.ok && !pl.noop && pl.writes.any fun w => w.loc == .near (.mem c) && w.spans.any fun sp => s.snapBlocked c sp.1 sp.2

end Sys2Proof.Machine
end

