-- ==== Sys2Proof/Machine/Sync.lean ====
section
/-! DEFINITION. The synchronisation unit's commands SET, ADD, SUB and WATCH (R184–R191) and the messages in the sync
hubs. -/

namespace Sys2Proof.Machine

/-- The 32-byte descriptor (R185). -/
structure SuD where
  kind : Nat
  cls : Nat
  ctr : Nat
  value : Nat
  chip : Nat
  lcore : Nat
  nLcore : Nat
  nCtr : Nat
  nInc : Nat
  rsv : List Byte
  deriving DecidableEq, Repr

def SuD.parse (d : List Byte) : SuD :=
  { kind := fieldAt d 0 1, cls := fieldAt d 1 1, ctr := fieldAt d 2 2, value := fieldAt d 4 4, chip := fieldAt d 8 2,
    lcore := fieldAt d 0x0A 1, nLcore := fieldAt d 0x0B 1, nCtr := fieldAt d 0x0C 2, nInc := fieldAt d 0x0E 2,
    rsv := slice d 0x10 16 }

/-- Opcodes: 1 SET, 2 ADD, 3 SUB, 4 WATCH (R184). The checks of R185 and R186. -/
def SuD.ok (d : SuD) (s : State) (c op : Nat) : Bool :=
  let own := d.chip == s.ownChip
  let n := (s.ctx c).cores.length
  let kind := chipKind (s.chipEntry d.chip)
  (if op = 4 then decide (1 ≤ d.kind) && decide (d.kind ≤ 3) else d.kind == 0) &&
    (if op = 2 ∧ !own then decide (d.cls ≤ 3) else d.cls == 0) && decide (d.ctr < 1024) &&
    (op != 4 || d.kind != 3 || d.value != 0) && decide (d.chip < 2 ^ 14) &&
    (if op = 2 then decide (d.chip ≤ 8223) && (own || kind == 1 || kind == 3) else own) &&
    (!own || decide (d.lcore < n)) &&
    (if op = 4 then decide (d.nLcore < n) && decide (d.nCtr < 1024) && decide (1 ≤ d.nInc)
      else d.nLcore == 0 && d.nCtr == 0 && d.nInc == 0) && allZero d.rsv

/-- The change or registration a local command makes. -/
def SuD.msg (d : SuD) (op : Nat) : SuMsg :=
  let v := BitVec.ofNat 32 d.value
  match op with
  | 1 => .set d.ctr v
  | 2 => .add d.ctr v
  | 3 => .sub d.ctr v
  | _ => .watch d.kind d.ctr v d.nLcore d.nCtr d.nInc

/-- The command at the head of the queue: it acts on its own unit at once, sends a message to a sibling's, or a SIGNAL
to another chip (R184–R187, R195). -/
def State.startSu (s : State) (p : Nat) (q : QCmd) : State :=
  let c := s.ctxOf p
  let op := slotOp q.slot
  match s.readDesc p q (slotAddr q.slot) 32 Code.suBadDesc with
  | (none, s1) => s1
  | (some b, s1) =>
    let d := SuD.parse b
    if !d.ok s1 c op then s1.raiseCore Code.suBadDesc p q.addr
    else if (op = 2 ∨ op = 3) ∧ d.value = 0 then s1.retire p q
    else if d.chip ≠ s1.ownChip then
      (s1.sendSignal p d.chip d.lcore d.cls (tagAdd p) q.epoch d.ctr d.value).modCore p fun k =>
        { k with suWait := some q }
    else
      match s1.physCore c d.lcore with
      | none => s1.raiseCore Code.suBadDesc p q.addr
      | some t =>
        if t = p then (s1.applySu p (d.msg op)).retire p q
        else
          let s2 := s1.modCore p fun k => { k with suWait := some q }
          { s2 with hub := s2.hub ++ [⟨t, c, (s2.ctx c).desc.secure, some p, d.msg op, false, q.epoch⟩] }

/-- The unit may start the command at the head: it executes none, and a command that names another chip waits at a
closed gate (R184, R322). -/
def State.suReady (s : State) (p : Nat) (q : QCmd) : Bool :=
  let d := SuD.parse (s.peek (.store p) (slotAddr q.slot) 32)
  (s.core p).suWait.isNone && (!s.gateShut (s.ctxOf p) q.epoch || d.chip == s.ownChip)

/-- The unit's command in progress is complete (R184). -/
def State.suDone (s : State) (p : Nat) : State :=
  match (s.core p).suWait with
  | none => s
  | some q => (s.modCore p fun k => { k with suWait := none }).retire p q

/-- Take the first message of a list that goes to a core. Messages of different sources to one unit are applied in the
order in which they were sent, which R15 and R190 leave open (DESIGN CHOICE, log 115). -/
def takeHub (p : Nat) : List HubMsg → Option (HubMsg × List HubMsg)
  | [] => none
  | m :: r =>
    if m.target = p then some (m, r)
    else match takeHub p r with
      | some (x, r') => some (x, m :: r')
      | none => none

/-- A message is checked against the world and owner of its target core, and applied; one of a context that no longer
exists faults no context (R189, R191). -/
def State.applyHub (s : State) (p : Nat) : State :=
  match takeHub p s.hub with
  | none => s
  | some (m, rest) =>
    let s1 : State := { s with hub := rest }
    let reject (code : Nat) : State :=
      if m.gone then s1.report (codeAt code p) {} else s1.raise (codeAt code p) { ctx := some m.ctx }
    let s2 := match s1.coreOwner p with
      | some (c, _) =>
        if (s1.ctx c).desc.secure ≠ m.secure then reject Code.suWorld
        else if c = m.ctx ∧ m.gone = false then s1.applySu p m.msg
        else reject Code.wldAccess
      | none => reject Code.wldAccess
    match m.origin with
    | some o => s2.suDone o
    | none => s2

end Sys2Proof.Machine
end

