-- ==== Sys2Proof/Machine/Vector.lean ====
section
/-! DEFINITION. The vector engine (R108–R128): element and row operations, table functions, full-width reductions and
optimizer updates. -/

namespace Sys2Proof.Machine

/-! ### Rounding in the vector class (R69, R113) -/

/-- A value with the events of the roundings that made it. -/
structure Fv where
  v : Num
  e : Evt
  deriving DecidableEq, Repr

/-- One rounding to f32 under R69; a NaN sets no flag until it is written. -/
def r32 (ftz : Bool) (x : Num) (e : Evt) : Fv :=
  let c := round32 x
  let (code, _, ff) := flushResult (.vector ftz) 0 c.code
  ⟨f32 code, Evt.or e { overflow := c.overflow, flushed := ff }⟩

def Fv.mul (ftz : Bool) (a b : Fv) : Fv := r32 ftz (a.v.mul b.v) (Evt.or a.e b.e)
def Fv.add (ftz : Bool) (a b : Fv) : Fv := r32 ftz (a.v.add b.v) (Evt.or a.e b.e)
def Fv.sub (ftz : Bool) (a b : Fv) : Fv := r32 ftz (a.v.sub b.v) (Evt.or a.e b.e)
def Fv.div (ftz : Bool) (a b : Fv) : Fv := r32 ftz (a.v.div b.v) (Evt.or a.e b.e)
def Fv.sqrt (ftz : Bool) (a : Fv) : Fv := r32 ftz a.v.sqrt a.e
/-- a × b + c with one rounding. -/
def Fv.fma (ftz : Bool) (a b c : Fv) : Fv := r32 ftz ((a.v.mul b.v).add c.v) (Evt.or (Evt.or a.e b.e) c.e)
/-- A constant of a descriptor. -/
def Fv.const (code : Nat) : Fv := ⟨f32 code, {}⟩

/-! ### ELEM (R110–R116) -/

structure ElemD where
  op : Nat
  aF : Nat
  bF : Nat
  cF : Nat
  dF : Nat
  control : Nat
  slot : Nat
  rsv : Nat
  count : Nat
  rows : Nat
  aAddr : Nat
  bAddr : Nat
  cAddr : Nat
  dAddr : Nat
  aStride : Nat
  bStride : Nat
  cStride : Nat
  dStride : Nat
  tag : Nat
  dEnc : Nat
  index0 : Nat
  indexRow : Nat
  rsv48 : Nat
  deriving DecidableEq, Repr

def ElemD.parse (d : List Byte) : ElemD :=
  { op := fieldAt d 0 1, aF := fieldAt d 1 1, bF := fieldAt d 2 1, cF := fieldAt d 3 1, dF := fieldAt d 4 1,
    control := fieldAt d 5 1, slot := fieldAt d 6 1, rsv := fieldAt d 7 1, count := fieldAt d 8 4,
    rows := fieldAt d 0x0C 4, aAddr := fieldAt d 0x10 4, bAddr := fieldAt d 0x14 4, cAddr := fieldAt d 0x18 4,
    dAddr := fieldAt d 0x1C 4, aStride := fieldAt d 0x20 4, bStride := fieldAt d 0x24 4, cStride := fieldAt d 0x28 4,
    dStride := fieldAt d 0x2C 4, tag := fieldAt d 0x30 4, dEnc := fieldAt d 0x34 4, index0 := fieldAt d 0x38 8,
    indexRow := fieldAt d 0x40 8, rsv48 := fieldAt d 0x48 8 }

def ElemD.bMode (d : ElemD) : Nat := bits d.control 0 2
def ElemD.cMode (d : ElemD) : Nat := bits d.control 2 2
def ElemD.roundMode (d : ElemD) : Nat := bits d.control 4 2
def ElemD.tap (d : ElemD) : Bool := bitAt d.control 6

/-- Number of operands of an operation; 0 for no operation (R112). -/
def elemArity (op : Nat) : Nat :=
  if op = 4 ∨ op = 0x0C then 3
  else if op = 6 ∨ op = 7 ∨ op = 0x0A ∨ op = 0x0B ∨ op = 0x20 ∨ op = 0x21 ∨ op = 0x22 then 1
  else if (1 ≤ op ∧ op ≤ 9) ∨ (0x10 ≤ op ∧ op ≤ 0x17) then 2
  else 0

def isRowOp (op : Nat) : Bool := decide (0x20 ≤ op) && decide (op ≤ 0x22)
def isIntOp (op : Nat) : Bool := decide (0x10 ≤ op) && decide (op ≤ 0x16)
/-- Operations that multiply by d_enc (R111). -/
def usesEnc (op : Nat) : Bool := decide (op ≤ 0x0B) || op == 0x20 || op == 0x21
def isFloat (f : Nat) : Bool := decide (f ≤ 4)
def vecFmt (f : Nat) : Bool := decide (f ≤ 4) || f == 8 || f == 9

/-- Operation, modes and formats fit (R111, R112, R116). -/
def ElemD.comboOk (d : ElemD) : Bool :=
  let n := elemArity d.op
  let imm (m f : Nat) : Bool := m != 1 || f == 0 || f == 9
  let wide := d.op == 1 || d.op == 2 || d.op == 0x0A || d.op == 0x20 || d.op == 0x21
  let fl (f : Nat) : Bool := isFloat f || (wide && f == 8)
  (decide (2 ≤ n) || d.bF == 0) && (decide (3 ≤ n) || d.cF == 0) &&
    (decide (n < 2) || imm d.bMode d.bF) && (decide (n < 3) || imm d.cMode d.cF) &&
    (if isIntOp d.op then d.aF == 9 && d.bF == 9 && d.dF == 9
     else if d.op = 0x17 then isFloat d.aF && isFloat d.bF && d.dF == 9
     else if d.op = 0x0C then (isFloat d.aF || d.aF == 8 || d.aF == 9) && d.bF == d.aF && d.dF == d.aF && d.cF == 9
     else if d.op = 0x20 ∨ d.op = 0x21 then fl d.aF && (d.dF == 0 || d.dF == 8)
     else if d.op = 0x22 then decide (d.aF ≤ 2) && d.dF == d.aF
     else fl d.aF && (decide (n < 2) || fl d.bF) && (decide (n < 3) || fl d.cF) && d.dF != 9)

/-- A stride of a vector operand, checked whatever the number of rows (R110; DEDUCED, log 146). -/
def vecStrideOk (mode f stride count : Nat) : Bool :=
  let e := elemBytes f
  match mode with
  | 0 => stride % e == 0 && decide (count * e ≤ stride)
  | 2 => stride % e == 0 && decide (e ≤ stride)
  | _ => true

/-- Stochastic rounding applies to a result (R111). -/
def stochOn (nc : NumCtx) (mode f : Nat) : Bool := (mode == 1 || (mode == 2 && nc.srDef)) && (f == 3 || f == 4)

/-- Each field on its own (R111 step 1). The mode bits of an operand that the operation does not use take any value
(DEDUCED, log 46). -/
def ElemD.fieldsOk (d : ElemD) : Bool :=
  let n := elemArity d.op
  let al (f a : Nat) : Bool := aligned a (elemBytes f)
  decide (n ≠ 0) && vecFmt d.aF && vecFmt d.bF && vecFmt d.cF && vecFmt d.dF && decide (d.control < 128) &&
    decide (d.roundMode ≠ 3) && (if d.op = 0x0B then decide (d.slot ≤ 7) else decide (d.slot = 0)) &&
    decide (d.rsv = 0) && decide (d.count ≠ 0xFFFFFFFF) && decide (d.rows ≠ 0xFFFFFFFF) && al d.aF d.aAddr &&
    (decide (n < 2) || d.bMode == 1 || al d.bF d.bAddr) && (decide (n < 3) || d.cMode == 1 || al d.cF d.cAddr) &&
    al d.dF d.dAddr && vecStrideOk 0 d.aF d.aStride d.count &&
    (decide (n < 2) || vecStrideOk d.bMode d.bF d.bStride d.count) &&
    (decide (n < 3) || vecStrideOk d.cMode d.cF d.cStride d.count) &&
    (isRowOp d.op || vecStrideOk 0 d.dF d.dStride d.count) && (!usesEnc d.op || isScale d.dEnc) &&
    decide (d.index0 < 2 ^ 51) && decide (d.rsv48 = 0)

/-- The area of an operand, from its first byte to its last, with the gaps between its rows; none on a no-op (R110, R111;
DEDUCED, log 147). -/
def vecSpan (mode f addr stride rows count : Nat) : List (Nat × Nat) :=
  if rows = 0 ∨ count = 0 then []
  else
    let e := elemBytes f
    match mode with
    | 0 => [(addr, (rows - 1) * stride + count * e)]
    | 2 => [(addr, (rows - 1) * stride + e)]
    | 3 => [(addr, count * e)]
    | _ => []

/-- The area of the result (R110, R116), empty on a no-op as an operand's (log 147). -/
def ElemD.dSpan (d : ElemD) : List (Nat × Nat) :=
  if isRowOp d.op then vecSpan 3 d.dF d.dAddr 0 1 (if d.count = 0 then 0 else d.rows)
  else vecSpan 0 d.dF d.dAddr d.dStride d.rows d.count

/-- Inputs: mode, format, address, stride. -/
def ElemD.ins (d : ElemD) : List (Nat × Nat × Nat × Nat) :=
  [(0, d.aF, d.aAddr, d.aStride), (d.bMode, d.bF, d.bAddr, d.bStride), (d.cMode, d.cF, d.cAddr, d.cStride)].take
    (elemArity d.op)

def ElemD.inSpan (d : ElemD) (i : Nat × Nat × Nat × Nat) : List (Nat × Nat) :=
  vecSpan i.1 i.2.1 i.2.2.1 i.2.2.2 d.rows d.count

/-- The checks of an ELEM in the order of R111. The result may be exactly each input that is the same area, an input of
one value per row or per column among them (DEDUCED, logs 95 and 147). -/
def ElemD.check (d : ElemD) (nc : NumCtx) : Option Nat :=
  let next : Int := d.index0 + (d.rows - 1 : Int) * d.indexRow + d.count
  let dStr := if isRowOp d.op then elemBytes d.dF else d.dStride
  if !d.fieldsOk then some Code.veBadDesc
  else if !d.comboOk || (!isRowOp d.op && stochOn nc d.roundMode d.dF && decide (2 ^ 51 < next)) then
    some Code.veBadDesc
  else if !inStore (d.dSpan ++ d.ins.flatMap d.inSpan) then some Code.veBound
  else if !(d.ins.all fun i => disjoint d.dSpan (d.inSpan i) ||
      (((i.1 == 0 || (i.1 == 2 && d.count == 1)) && i.2.2.2 == dStr || i.1 == 3 && d.rows == 1) && i.2.2.1 == d.dAddr &&
        elemBytes i.2.1 == elemBytes d.dF)) then
    some Code.veBadDesc
  else none

/-- An operand element: its raw code and its value as read. -/
structure VIn where
  code : Nat
  el : Elem
  deriving DecidableEq, Repr

/-- Read element (r, j) of an input (R50, R69, R110); `flush` is off where bits are copied unchanged. -/
def vecIn (as : List Area) (i : Nat × Nat × Nat × Nat) (ftz : Bool) (r j : Nat) : VIn :=
  let f := i.2.1
  let e := elemBytes f
  let (bs, po) := match i.1 with
    | 0 => areaGet as (i.2.2.1 + r * i.2.2.2 + j * e) e
    | 1 => (leBytes 4 i.2.2.1, false)
    | 2 => areaGet as (i.2.2.1 + r * i.2.2.2) e
    | _ => areaGet as (i.2.2.1 + j * e) e
  let code := ofLe bs
  ⟨code, if f = 9 then ⟨Num.ofInt (signed 32 code) 0, po, {}⟩ else readCode f code po ftz⟩

/-- A table function (R115). The image's values are read at their value, as R69 says of constants (DESIGN CHOICE, log
117). -/
def tableFunc (ftz : Bool) (img : Tbl Byte) (a : Num) : Fv :=
  let w (off : Nat) : Nat := ofLe (Tbl.getRun 0 img off 4)
  let e := r32 ftz (a.sub (f32 (w 0))) {}
  let u := r32 ftz (e.v.mul (f32 (w 4))) e.e
  if a.isNan then ⟨.nan, {}⟩
  else if u.v = .inf true ∨ a = .inf true then ⟨f32 (w 8), u.e⟩
  else if u.v = .inf false ∨ a = .inf false then ⟨f32 (w 12), u.e⟩
  else
    let fl := u.v.floor
    let i : Nat := if fl < 0 then 0 else if 127 < fl then 127 else fl.toNat
    let t := r32 ftz (u.v.sub (Num.ofNat i)) u.e
    let c (k : Nat) : Fv := ⟨f32 (w (16 + 16 * i + 4 * k)), {}⟩
    let r2 := Fv.fma ftz (c 3) t (c 2)
    let r1 := Fv.fma ftz r2 t (c 1)
    Fv.fma ftz r1 t (c 0)

/-- The value of a float operation before its conversion to d_format (R112–R114). -/
def floatOp (d : ElemD) (nc : NumCtx) (img : Tbl Byte) (a b c : Num) : Fv :=
  let wide := d.aF == 8 || (elemArity d.op == 2 && d.bF == 8)
  let z : Evt := {}
  let one (x : Num) : Fv := r32 nc.ftz x z
  let a48r (x : Num) : Fv := let r := roundA48 x; ⟨a48 r.code, { overflow := r.overflow }⟩
  match d.op with
  | 1 => if wide then a48r (a.add b) else one (a.add b)
  | 2 => if wide then a48r (a.sub b) else one (a.sub b)
  | 3 => one (a.mul b)
  | 4 => one ((a.mul b).add c)
  | 5 =>
    if nc.ieee then one (a.div b)
    else
      let q := one ((Num.fin false 1 0).div b)
      r32 nc.ftz (a.mul q.v) q.e
  | 6 => one a.sqrt
  | 7 => one a.rsqrt
  | 8 => one (a.minimum b)
  | 9 => one (a.maximum b)
  | 0x0A => if wide then ⟨a, z⟩ else one a
  | _ => tableFunc nc.ftz img a

/-- An integer or logic operation (R112). -/
def intOp (op a b : Nat) : Nat :=
  match op with
  | 0x10 => (a + b) % 2 ^ 32
  | 0x11 => (a + 2 ^ 32 - b) % 2 ^ 32
  | 0x12 => a &&& b
  | 0x13 => a ||| b
  | 0x14 => a ^^^ b
  | 0x15 => a * 2 ^ (b % 32) % 2 ^ 32
  | _ => a / 2 ^ (b % 32)

/-- What one result element or row writes. -/
structure VOut where
  code : Nat
  evt : Evt
  tap : Tap
  deriving DecidableEq, Repr

/-- A result whose bits are stored as they are; `fl`: they are the zero of a flushed element. -/
def rawOut (f code : Nat) (po fl : Bool) (e : Evt) : VOut :=
  let v := if f = 9 then Num.ofInt (signed 32 code) 0 else decodeCode f code
  ⟨code, Evt.or e { invalid := v.isNan },
    { pois := po, nonfinite := !v.isFinite, saturated := false, flushed := fl, value := v }⟩

/-- A float result times d_enc, rounded into d_format (R113); a zero of it counts as flushed when a flush took place on
its way (R133). -/
def floatOut (nc : NumCtx) (f dEnc : Nat) (r : Round) (x : Fv) (po : Bool) : VOut :=
  let w := writeElem (.vector nc.ftz) f r (x.v.mul (f32 dEnc)) po (.fin false 1 0)
  ⟨w.code, Evt.or x.e w.evt, { w.tap with flushed := w.tap.flushed || x.e.flushed }⟩

/-- An element operation on element (r, j) (R112, R113, R127). -/
def ElemD.element (d : ElemD) (nc : NumCtx) (as : List Area) (img : Tbl Byte) (r j : Nat) : VOut :=
  let n := elemArity d.op
  let copy := d.op == 0x0C
  let get (k : Nat) : VIn := match d.ins[k]? with
    | some i => vecIn as i (nc.ftz && !copy) r j
    | none => ⟨0, Elem.zero⟩
  let a := get 0
  let b := get 1
  let c := get 2
  let po := a.el.pois || b.el.pois || c.el.pois
  let e := Evt.all ([a.el.evt, b.el.evt, c.el.evt].take n)
  if isIntOp d.op then rawOut 9 (intOp d.op a.code b.code) po false e
  else if d.op = 0x17 then rawOut 9 (b2n (Num.lt a.el.val b.el.val)) po false e
  else if copy then
    let x := if c.code ≠ 0 then a else b
    rawOut d.dF (if d.dF = 8 ∧ x.code / 2 ^ 48 ≠ 0 then Fmt.a48.nanCode else x.code) po false e
  else
    let x := floatOp d nc img a.el.val b.el.val c.el.val
    floatOut nc d.dF d.dEnc (nc.round d.roundMode d.tag (d.index0 + r * d.indexRow + j)) ⟨x.v, Evt.or e x.e⟩ po

/-- A row operation on row r (R116, R127). -/
def ElemD.row (d : ElemD) (nc : NumCtx) (as : List Area) (r : Nat) : VOut :=
  let i := (0, d.aF, d.aAddr, d.aStride)
  let xs := (List.range d.count).map fun j => vecIn as i nc.ftz r j
  let po := xs.any fun x => x.el.pois
  let e := Evt.all (xs.map fun x => x.el.evt)
  if d.op = 0x22 then
    let best := xs.foldl (fun (b : Option VIn) x => match b with
      | none => some x
      | some y =>
        if y.el.val.isNan then some y
        else if x.el.val.isNan || y.el.val.ltz x.el.val then some x else some y) none
    let y := best.getD ⟨0, Elem.zero⟩
    let code := if y.el.val.isNan then (Fmt.ofCode d.aF).nanCode
      else if y.el.evt.flushed then flushCode d.aF y.code else y.code
    rawOut d.aF code po y.el.evt.flushed e
  else
    let step (acc : Fv) (x : VIn) : Fv :=
      let (t, o) := if d.op = 0x21 then
          let q := roundA48 (x.el.val.mul x.el.val)
          (a48 q.code, q.overflow) else (x.el.val, false)
      let s := roundA48 (acc.v.add t)
      ⟨a48 s.code, Evt.or acc.e { overflow := o || s.overflow }⟩
    floatOut nc d.dF d.dEnc .rne (xs.foldl step ⟨Num.zero, e⟩) po

/-- The writes and taps of a list of results at addresses. -/
def vecWritten (f : Nat) (outs : List (Nat × VOut)) : Written :=
  let n := elemBytes f
  { puts := outs.map fun x => ⟨x.1, leBytes n x.2.code, List.replicate n x.2.tap.pois⟩
    evt := Evt.all (outs.map fun x => x.2.evt)
    taps := outs.map fun x => x.2.tap
    esc := 0
    ovf := 0 }

/-- A vector command's results land; its flags and taps take effect, and it completes (R70, R123). -/
def State.vecFinish (s : State) (p : Nat) (q : QCmd) (tag : Nat) (w : Written) (t : Taps) : State :=
  let c := ((s.coreOwner p).map (·.1)).getD 0
  if s.putsHitStream p w.puts then s.raiseCore Code.seqStreamWrite p q.addr
  else
    (((s.storePuts p w.puts).flagEvt c w.evt).mergeTaps (q.cmdId p tag)
      { t with out := w.body }).retire p q

/-- An ELEM that has passed its checks: every result is computed from the operands as read, rounded and written
(R112, R113, R116). -/
def State.runElem (s : State) (p : Nat) (q : QCmd) (d : ElemD) : State :=
  let nc := s.numCtx p
  let tb := Tbl.get VTable.reset (s.core p).tables d.slot
  let (as, s1) := s.readStore p (d.ins.flatMap d.inSpan)
  let outs := (List.range d.rows).flatMap fun r =>
    if isRowOp d.op then [(d.dAddr + r * elemBytes d.dF, d.row nc as r)]
    else (List.range d.count).map fun j =>
      (d.dAddr + r * d.dStride + j * elemBytes d.dF, d.element nc as tb.image r j)
  let w := vecWritten d.dF outs
  s1.vecFinish p q d.tag w { on := d.tap, set1 := if d.tap then tapSet w.taps 0 0 else StatSet.reset }

/-- ELEM at the head of the queue. -/
def State.startElem (s : State) (p : Nat) (q : QCmd) : State :=
  match s.readDesc p q (slotAddr q.slot) 80 Code.veBound with
  | (none, s1) => s1
  | (some b, s1) =>
    let d := ElemD.parse b
    match d.check (s1.numCtx p) with
    | some code => s1.raiseCore code p q.addr
    | none =>
      if d.count = 0 ∨ d.rows = 0 then s1.retire p q
      else if d.op = 0x0B ∧ (Tbl.get VTable.reset (s1.core p).tables d.slot).loaded = false then
        s1.raiseCore Code.veTable p q.addr
      else s1.runElem p q d

/-! ### REDUCE (R117, R118) -/

structure RedD where
  dF : Nat
  control : Nat
  entries : Nat
  count : Nat
  dAddr : Nat
  tag : Nat
  dEnc : Nat
  rsv : Nat
  index0 : Nat
  deriving DecidableEq, Repr

def RedD.parse (d : List Byte) : RedD :=
  ⟨fieldAt d 0 1, fieldAt d 1 1, fieldAt d 2 2, fieldAt d 4 4, fieldAt d 8 4, fieldAt d 0x0C 4, fieldAt d 0x10 4,
    fieldAt d 0x14 4, fieldAt d 0x18 8⟩

def RedD.roundMode (d : RedD) : Nat := bits d.control 0 2
def RedD.tap (d : RedD) : Bool := bitAt d.control 2

/-- The fields of a REDUCE but for its entries (R117); index0 has ELEM's range (R110; DEDUCED, log 148). -/
def RedD.headOk (d : RedD) (nc : NumCtx) : Bool :=
  (isFloat d.dF || d.dF == 8) && decide (d.control < 8) && decide (d.roundMode ≠ 3) && decide (d.entries ≤ 256) &&
    decide (d.count ≠ 0xFFFFFFFF) && aligned d.dAddr (elemBytes d.dF) && isScale d.dEnc && decide (d.rsv = 0) &&
    decide (d.index0 < 2 ^ 51) && !(stochOn nc d.roundMode d.dF && decide (2 ^ 51 < d.index0 + d.count))

/-- Strictly ascending. -/
def ascending : List Nat → Bool
  | a :: b :: r => decide (a < b) && ascending (b :: r)
  | _ => true

/-- Checks over the entries (address, key) in the order of R111 and R118; `esz` is the size of a partial's element. A
no-op has no result area (DEDUCED, log 147). -/
def RedD.check (d : RedD) (nc : NumCtx) (es : List (Nat × Nat)) (esz : Nat) : Option Nat :=
  let dsp := if d.count = 0 ∨ d.entries = 0 then [] else [(d.dAddr, d.count * elemBytes d.dF)]
  let sp (e : Nat × Nat) : List (Nat × Nat) := if d.count = 0 then [] else [(e.1, d.count * esz)]
  if !d.headOk nc || es.any (fun e => !aligned e.1 esz || decide (2 ^ 22 ≤ e.2)) then some Code.veBadDesc
  else if !inStore (dsp ++ es.flatMap sp) then some Code.veBound
  else if !((List.zip (List.range es.length) es).all fun x => disjoint dsp (sp x.2) ||
      (x.1 == 0 && x.2.1 == d.dAddr && esz == elemBytes d.dF)) then some Code.veBadDesc
  else if !ascending (es.map (·.2)) then some Code.veOrder
  else none

/-- A REDUCE that has passed its checks: the partials are added in the order of the entries and the sum rounded once
(R117–R119). In V20 arithmetic a subnormal accumulator is flushed as R69 says of the vector class (DEDUCED, log 149). -/
def State.runReduce (s : State) (p : Nat) (q : QCmd) (d : RedD) (es : List (Nat × Nat)) : State :=
  let nc := s.numCtx p
  let esz := if nc.v20 then 4 else 8
  let (as, s1) := s.readStore p (es.map fun e => (e.1, d.count * esz))
  let outs := (List.range d.count).map fun j =>
    let xs := es.map fun e => readDense as (if nc.v20 then 0 else 8) (e.1 + j * esz) (nc.ftz && nc.v20)
    let acc := xs.foldl (fun (a : Fv) x =>
      if nc.v20 then r32 nc.ftz (a.v.add x.val) (Evt.or a.e x.evt)
      else
        let r := roundA48 (a.v.add x.val)
        ⟨a48 r.code, Evt.or (Evt.or a.e x.evt) { overflow := r.overflow }⟩) ⟨Num.zero, {}⟩
    (d.dAddr + j * elemBytes d.dF,
      floatOut nc d.dF d.dEnc (nc.round d.roundMode d.tag (d.index0 + j)) acc (xs.any (·.pois)))
  let w := vecWritten d.dF outs
  s1.vecFinish p q d.tag w { on := d.tap, set1 := if d.tap then tapSet w.taps 0 0 else StatSet.reset }

/-- The entries of a REDUCE: (address, key). -/
def RedD.entriesOf (d : RedD) (eb : List Byte) : List (Nat × Nat) :=
  (List.range d.entries).map fun i => (fieldAt eb (8 * i) 4, fieldAt eb (8 * i + 4) 4)

/-- REDUCE at the head of the queue. -/
def State.startReduce (s : State) (p : Nat) (q : QCmd) : State :=
  match s.readDesc p q (slotAddr q.slot) 32 Code.veBound with
  | (none, s1) => s1
  | (some b, s1) =>
    let d := RedD.parse b
    let nc := s1.numCtx p
    if !d.headOk nc then s1.raiseCore Code.veBadDesc p q.addr
    else
      match (if d.entries = 0 then (some [], s1)
             else s1.readDesc p q (slotAddr q.slot + 32) (8 * d.entries) Code.veBound) with
      | (none, s2) => s2
      | (some eb, s2) =>
        let es := d.entriesOf eb
        match d.check nc es (if nc.v20 then 4 else 8) with
        | some code => s2.raiseCore code p q.addr
        | none => if d.entries = 0 ∨ d.count = 0 then s2.retire p q else s2.runReduce p q d es

/-! ### UPDATE (R120–R123) -/

structure UpdD where
  algo : Nat
  gF : Nat
  wcF : Nat
  control : Nat
  count : Nat
  w : Nat
  m : Nat
  v : Nat
  g : Nat
  wc : Nat
  mask : Nat
  lr : Nat
  beta1 : Nat
  omb1 : Nat
  beta2 : Nat
  omb2 : Nat
  eps : Nat
  wd : Nat
  c1 : Nat
  c2 : Nat
  gScale : Nat
  wcEnc : Nat
  tag : Nat
  index0 : Nat
  rsv : List Byte
  deriving DecidableEq, Repr

def UpdD.parse (d : List Byte) : UpdD :=
  let f (o : Nat) : Nat := fieldAt d o 4
  { algo := fieldAt d 0 1, gF := fieldAt d 1 1, wcF := fieldAt d 2 1, control := fieldAt d 3 1, count := f 4, w := f 8,
    m := f 0x0C, v := f 0x10, g := f 0x14, wc := f 0x18, mask := f 0x1C, lr := f 0x20, beta1 := f 0x24,
    omb1 := f 0x28, beta2 := f 0x2C, omb2 := f 0x30, eps := f 0x34, wd := f 0x38, c1 := f 0x3C, c2 := f 0x40,
    gScale := f 0x44, wcEnc := f 0x48, tag := f 0x4C, index0 := fieldAt d 0x50 8, rsv := slice d 0x58 40 }

def UpdD.roundMode (d : UpdD) : Nat := bits d.control 0 2
def UpdD.tap (d : UpdD) : Bool := bitAt d.control 2
def UpdD.maskEn (d : UpdD) : Bool := bitAt d.control 3
def UpdD.hasWc (d : UpdD) : Bool := d.wcF != 0xFF

/-- Each field of an UPDATE on its own (R120); index0 has ELEM's range (R110; DEDUCED, log 148). -/
def UpdD.fieldsOk (d : UpdD) (nc : NumCtx) : Bool :=
  let fin (x : Nat) : Bool := (f32 x).isFinite
  let sgd := d.algo == 1
  decide (d.algo ≤ 1) && (d.gF == 0 || d.gF == 2 || d.gF == 8) &&
    (d.wcF == 0xFF || (decide (1 ≤ d.wcF) && decide (d.wcF ≤ 4))) && decide (d.control < 16) &&
    decide (d.roundMode ≠ 3) && decide (d.count ≠ 0xFFFFFFFF) && aligned d.w 4 && aligned d.m 4 && aligned d.v 4 &&
    aligned d.g (elemBytes d.gF) && (!d.hasWc || aligned d.wc (elemBytes d.wcF)) && (!sgd || d.v == 0) &&
    (d.hasWc || d.wc == 0) &&
    ([d.lr, d.beta1, d.omb1, d.beta2, d.omb2, d.eps, d.wd, d.c1, d.c2, d.gScale].all fin) &&
    (!sgd || [d.omb1, d.beta2, d.omb2, d.eps, d.c1, d.c2].all (· == 0)) && isScale d.wcEnc &&
    (d.hasWc || d.wcEnc == 0x3F800000) && decide (d.index0 < 2 ^ 51) && allZero d.rsv

def UpdD.spans (d : UpdD) : List (List (Nat × Nat)) :=
  if d.count = 0 then []
  else
    [[(d.w, 4 * d.count)], [(d.m, 4 * d.count)], if d.algo = 0 then [(d.v, 4 * d.count)] else [],
      [(d.g, elemBytes d.gF * d.count)], if d.hasWc then [(d.wc, elemBytes d.wcF * d.count)] else [],
      if d.maskEn then [(d.mask, ceilDiv d.count 8)] else []]

/-- No two areas of a list meet. -/
def allApart : List (List (Nat × Nat)) → Bool
  | [] => true
  | x :: r => (r.all fun y => disjoint x y) && allApart r

def UpdD.check (d : UpdD) (nc : NumCtx) : Option Nat :=
  if !d.fieldsOk nc then some Code.veBadDesc
  else if d.hasWc && stochOn nc d.roundMode d.wcF && decide (2 ^ 51 < d.index0 + d.count) then
    some Code.veBadDesc
  else if !inStore d.spans.flatten then some Code.veBound
  else if !allApart d.spans then some Code.veBadDesc
  else none

/-- What one parameter's update writes and taps. -/
structure UpdOut where
  puts : List Put
  evt : Evt
  g : Tap
  w : Option Tap
  dw : Option Tap
  deriving DecidableEq, Repr

/-- The update of parameter i (R121, R122, R127). -/
def UpdD.param (d : UpdD) (nc : NumCtx) (as : List Area) (i : Nat) : UpdOut :=
  let z := nc.ftz
  let k (c : Nat) : Fv := Fv.const c
  let rd (f a : Nat) : Elem × Fv := let e := readDense as f a z; (e, ⟨e.val, e.evt⟩)
  let (we, w) := rd 0 (d.w + 4 * i)
  let (me, m) := rd 0 (d.m + 4 * i)
  let (ve, v) := if d.algo = 0 then rd 0 (d.v + 4 * i) else (Elem.zero, ⟨Num.zero, {}⟩)
  let (ge, gin) := rd d.gF (d.g + elemBytes d.gF * i)
  let (mb, mp) := if d.maskEn then areaGet as (d.mask + i / 8) 1 else ([0], false)
  let frozen := d.maskEn && bitAt (ofLe mb) (i % 8) && !mp
  let po := we.pois || me.pois || ve.pois || ge.pois || mp
  let g := Fv.mul z (r32 z gin.v gin.e) (k d.gScale)
  let m' := if d.algo = 0 then Fv.fma z (k d.beta1) m (Fv.mul z (k d.omb1) g) else Fv.fma z (k d.beta1) m g
  let v' := Fv.fma z (k d.beta2) v (Fv.mul z (k d.omb2) (Fv.mul z g g))
  let den := Fv.add z (Fv.sqrt z (Fv.mul z v' (k d.c2))) (k d.eps)
  let u := if d.algo = 0 then Fv.div z (Fv.mul z m' (k d.c1)) den else m'
  let w' := Fv.sub z w (Fv.mul z (k d.lr) (Fv.fma z (k d.wd) w u))
  let out (a : Nat) (x : Fv) : Put × Evt :=
    let c := round32 x.v
    (⟨a, leBytes 4 c.code, List.replicate 4 po⟩, Evt.or x.e { invalid := c.invalid })
  let gt : Tap := { pois := ge.pois, nonfinite := !g.v.isFinite, saturated := false, flushed := g.e.flushed, value := g.v }
  if frozen then ⟨[], {}, gt, none, none⟩
  else
    let o1 := out (d.w + 4 * i) w'
    let o2 := out (d.m + 4 * i) m'
    let o3 := if d.algo = 0 then [out (d.v + 4 * i) v'] else []
    let n := elemBytes d.wcF
    let o4 := if d.hasWc then
        let r := writeElem (.vector z) d.wcF (nc.round d.roundMode d.tag (d.index0 + i)) (w'.v.mul (f32 d.wcEnc)) po
          (.fin false 1 0)
        [((⟨d.wc + n * i, leBytes n r.code, List.replicate n po⟩ : Put), r.evt)] else []
    let all := [o1, o2] ++ o3 ++ o4
    let tap (x : Num) (fl : Bool) : Tap := ⟨po, !x.isFinite, false, fl, x⟩
    ⟨all.map (·.1), Evt.all (all.map (·.2)), gt, some (tap w'.v w'.e.flushed), some (tap (w'.v.sub w.v) false)⟩

/-- An UPDATE that has passed its checks: every parameter is updated from its values as read (R121, R122). -/
def State.runUpdate (s : State) (p : Nat) (q : QCmd) (d : UpdD) : State :=
  let nc := s.numCtx p
  let (as, s1) := s.readStore p ({ d with wcF := 0xFF } : UpdD).spans.flatten
  let outs := (List.range d.count).map fun i => d.param nc as i
  let col (f : UpdOut → List Put) : List Put := outs.flatMap f
  let w : Written := { puts := col (·.puts), evt := Evt.all (outs.map (·.evt)), taps := [], esc := 0, ovf := 0 }
  s1.vecFinish p q d.tag w
    { on := d.tap
      set0 := if d.tap then tapSet (outs.map (·.g)) 0 0 else StatSet.reset
      set1 := if d.tap then tapSet (outs.filterMap (·.w)) 0 0 else StatSet.reset
      set2 := if d.tap then tapSet (outs.filterMap (·.dw)) 0 0 else StatSet.reset }

/-- UPDATE at the head of the queue. -/
def State.startUpdate (s : State) (p : Nat) (q : QCmd) : State :=
  match s.readDesc p q (slotAddr q.slot) 128 Code.veBound with
  | (none, s1) => s1
  | (some b, s1) =>
    let d := UpdD.parse b
    match d.check (s1.numCtx p) with
    | some code => s1.raiseCore code p q.addr
    | none => if d.count = 0 then s1.retire p q else s1.runUpdate p q d

/-! ### TABLE_LOAD (R108, R115) -/

/-- A table's image, byte by byte (R115). -/
def tableImage (b : List Byte) : Tbl Byte := (List.zip (List.range 2064) b).filter fun x => x.2 != 0

/-- TABLE_LOAD at the head of the queue: the header's fields, then the bounds (R111, R115). -/
def State.startTableLoad (s : State) (p : Nat) (q : QCmd) : State :=
  match s.readDesc p q (slotAddr q.slot) 16 Code.veBound with
  | (none, s1) => s1
  | (some h, s1) =>
    let xlo := f32 (fieldAt h 0 4)
    let iw := f32 (fieldAt h 4 4)
    if !xlo.isFinite || !iw.isFinite || !Num.lt .zero iw then s1.raiseCore Code.veBadDesc p q.addr
    else
      match s1.readDesc p q (slotAddr q.slot) 2064 Code.veBound with
      | (none, s2) => s2
      | (some b, s2) =>
        (s2.modCore p fun k => { k with
          tables := Tbl.set VTable.reset k.tables (slotByte2 q.slot) ⟨tableImage b, true⟩ }).retire p q

end Sys2Proof.Machine
end

