-- ==== Sys2Proof/Machine/Engines.lean ====
section
/-! DEFINITION. The engine queues at work: starting the commands at their heads (R35, R36, R87, R159, R322), and
dispatching a slot into a queue (R34). -/

namespace Sys2Proof.Machine

/-- The command at the head of its queue starts (R80, R108, R155, R184). -/
def State.startCmd (s : State) (p : Nat) (q : QCmd) : State :=
  let f := q.faults
  match slotEng q.slot, slotOp q.slot with
  | 1, 1 => s.startMat p .warp q true f.warp1 f.warp2
  | 1, 2 => s.startMat p .warp q false f.warp1 f.warp2
  | 1, 3 => s.startAccStore p .warp q
  | 1, _ => s.startAccLoad p .warp q
  | 2, 1 => s.startMat p .weft q true f.weft1 f.weft2
  | 2, 2 => s.startMat p .weft q false f.weft1 f.weft2
  | 2, 3 => s.startAccStore p .weft q
  | 2, _ => s.startAccLoad p .weft q
  | 3, _ => s.startPair p q
  | 4, 1 => s.startElem p q
  | 4, 2 => s.startReduce p q
  | 4, 3 => s.startUpdate p q
  | 4, _ => s.startTableLoad p q
  | 5, 1 => s.startCopy p q
  | 5, 2 => s.startGather p q
  | 5, 3 => s.startScatter p q
  | 5, 4 => s.startScatterAdd p q
  | 5, 5 => s.startSegReduce p q
  | 5, 6 => s.startRoute p q
  | 5, 7 => s.startSet p q
  | 5, 8 => s.startPos p q
  | 5, 9 => s.startXdelta p q
  | 5, 10 => s.startXapply p q
  | 5, _ => s.startHash p q
  | _, _ => s.startSu p q

/-- The places of an engine that carry parity, with the code of its error (R95, R101, R130, R181). -/
def paritySites (p : Nat) (slot : List Byte) : List (ParitySite × Nat) :=
  match slotEng slot with
  | 1 => [(.array p .warp, Code.arParity)]
  | 2 => [(.array p .weft, Code.arParity)]
  | 3 => [(.array p .warp, Code.arParity), (.array p .weft, Code.arParity)]
  | 4 => [(.vector p, Code.veParity)]
  | 5 => [(.copy p, Code.ceParity)]
  | _ => []

/-- The command at the head of its queue starts, unless the engine finds a parity error in itself (R95, R130, R181). -/
def State.startSound (s : State) (p : Nat) (q : QCmd) : State :=
  match (paritySites p q.slot).find? fun x => s.parity.contains x.1 with
  | some x => (s.clearParity x.1).raiseCore x.2 p q.addr
  | none => s.startCmd p q

/-- The core may start commands: its context executes and is not being suspended (R28, R31, R41). -/
def State.starting (s : State) (p : Nat) : Bool :=
  match s.coreOwner p with
  | none => false
  | some (c, _) =>
    (s.ctx c).executing && !((s.ctx c).busy.any fun h => h.opcode == 3) && (s.core p).seq.running

/-- The engine itself is ready for the command (R87, R94, R160, R322). -/
def State.engReady (s : State) (p : Nat) (q : QCmd) : Bool :=
  let gate := !s.gateShut (s.ctxOf p) q.epoch
  match slotEng q.slot with
  | 1 | 2 | 3 => gate && s.arrReady p q
  | 4 => gate
  | 5 => s.ceReady p q
  | _ => s.suReady p q

/-- The command is at the head of every queue it stands in (R36). -/
def Core.atHeads (k : Core) (q : QCmd) : Bool := (enginesOf q.slot).all fun e => (k.queue e).head? == some q

/-- The command at the head of a queue starts now. -/
def State.mayStart (s : State) (p : Nat) (q : QCmd) : Bool :=
  s.starting p && (s.core p).atHeads q && (s.core p).waitMet q.slot && s.engReady p q

/-- Take a command from the heads of its queues. -/
def Core.popCmd (k : Core) (q : QCmd) : Core :=
  (enginesOf q.slot).foldl (fun x e => x.setQueue e ((x.queue e).drop 1)) k

/-- Note why the head of the copy queue is held (R160, R403). -/
def State.noteHold (s : State) (p : Nat) : State :=
  match (s.core p).qCopy with
  | [] => s.modCore p fun k => { k with hazardHold := false }
  | q :: _ =>
    let met := (s.core p).waitMet q.slot && s.starting p
    let s1 := s.modCore p fun k => { k with hazardHold := met && s.ceHazard p q }
    if met && s.ceSnapWait p q then s1.modCtx (s.ctxOf p) fun x => { x with ck := { x.ck with snapWait := true } } else s1

/-- The queues that are worked together: a pair frees both arrays at once (R36, R104). -/
def engGroup : Eng → List Eng
  | .warp => [.warp, .weft]
  | .weft => [.weft, .warp]
  | e => [e]

/-- Start the commands at the heads of an engine's queues while they may start. -/
def State.pumpFrom (s : State) (p : Nat) (e : Eng) : Nat → State
  | 0 => s
  | fuel + 1 =>
    match ((engGroup e).filterMap fun x => ((s.core p).queue x).head?).find? fun q => s.mayStart p q with
    | none => s
    | some q => ((s.modCore p fun k => k.popCmd q).startSound p q).pumpFrom p e fuel

/-- Start what may start in one engine's queue; two queues hold at most 32 commands. -/
def State.pump (s : State) (p : Nat) (e : Eng) : State :=
  let s1 := s.pumpFrom p e 33
  if e = .copy then s1.noteHold p else s1

/-- A slot of an engine is dispatched into its queues, unless one of them is full (R34, R36); commands that may start do
so. -/
def State.engineRow (s : State) (p eng op : Nat) (f : Faults) : State :=
  match s.fetchFor p eng op with
  | .stop s1 => s1
  | .slot b s1 =>
    let k := s1.core p
    let es := enginesOf b
    if es.any fun e => decide (16 ≤ (k.queue e).length) then s
    else
      let q : QCmd := ⟨b, k.seq.pos, k.seq.seqno, k.seq.lastStep, f⟩
      let s2 := s1.modCore p fun x => es.foldl (fun y e => y.setQueue e (y.queue e ++ [q])) x
      let s3 := (s2.countDispatch p).goTo p (k.seq.pos + 32)
      match es with
      | [] => s3
      | e :: _ => s3.pump p e

/-- The arrays' queues after something on an array ended. -/
def State.pumpArrays (s : State) (p : Nat) : State := s.pump p .warp

end Sys2Proof.Machine
end

