-- ==== Sys2Proof/Machine/ArrayCmds.lean ====
section
/-! DEFINITION. The rows of the warp and weft arrays (R36, R80, R87, R94, R96, R105). -/

namespace Sys2Proof.Machine

def coreOk (p : Nat) : Bool := decide (p < 192)

/-- Engine number of an array in a slot (R34). -/
def arrEng : Arr → Nat
  | .warp => 1
  | .weft => 2

def arrFaults (a : Arr) (e1 e2 : ArrFault) : Faults :=
  match a with
  | .warp => ⟨e1, e2, noFault, noFault⟩
  | .weft => ⟨noFault, noFault, e1, e2⟩

/-- MATMUL (R80, R86): the slot is dispatched; the product runs when it reaches the head of its queue. -/
def execMatmul (core : Nat) (arr : Arr) (e1 e2 : ArrFault) (s : State) : Host.Outcome State Fault Refusal :=
  inRange (coreOk core) (s.engineRow core (arrEng arr) 1 (arrFaults arr e1 e2))

/-- BORDER_TIEBREAK (R94, R332): the third execution of a command whose first two disagree. -/
def execBorderTiebreak (core : Nat) (arr : Arr) (e3 : ArrFault) (s : State) : Host.Outcome State Fault Refusal :=
  inRange (coreOk core) ((s.tieBreak core arr e3).pumpArrays core)

/-- EPILOGUE (R80, R90). -/
def execEpilogue (core : Nat) (arr : Arr) (s : State) : Host.Outcome State Fault Refusal :=
  inRange (coreOk core) (s.engineRow core (arrEng arr) 2 Faults.none)

/-- EPILOGUE_DRAIN_DONE (R87, R92): the bank's drain ends, its command completes, and held commands may start. -/
def execEpilogueDrainDone (core : Nat) (arr : Arr) (s : State) : Host.Outcome State Fault Refusal :=
  inRange (coreOk core) ((s.drainDone core arr).pumpArrays core)

/-- ACC_STORE (R96). -/
def execAccStore (core : Nat) (arr : Arr) (s : State) : Host.Outcome State Fault Refusal :=
  inRange (coreOk core) (s.engineRow core (arrEng arr) 3 Faults.none)

/-- ACC_LOAD (R96). -/
def execAccLoad (core : Nat) (arr : Arr) (s : State) : Host.Outcome State Fault Refusal :=
  inRange (coreOk core) (s.engineRow core (arrEng arr) 4 Faults.none)

/-- MATMUL_PAIR (R36, R103, R105). -/
def execMatmulPair (core : Nat) (warp1 warp2 weft1 weft2 : ArrFault) (s : State) : Host.Outcome State Fault Refusal :=
  inRange (coreOk core) (s.engineRow core 3 1 ⟨warp1, warp2, weft1, weft2⟩)

end Sys2Proof.Machine
end

