-- ==== Sys2Proof/Machine/Scaling.lean ====
section
/-! DEFINITION. Loss scaling (R144–R147), publication of statistics (R140), the snapshot of a checkpoint (R398, R402),
and the internal layout of the sequencer (R41). -/

namespace Sys2Proof.Machine

/-! ### Loss scaling -/

/-- The exponent of the latest attempt of a step. -/
def LossScale.expOf (l : LossScale) (n : Nat) : Option Int := l.exps.lookup n

def LossScale.setExp (l : LossScale) (n : Nat) (e : Int) : LossScale :=
  { l with exps := (n, e) :: (l.exps.filter fun x => x.1 != n && decide (n ≤ x.1 + 3)) }

def LossScale.raiseOf (l : LossScale) (n : Nat) : Bool := (l.raises.lookup n).getD false

def LossScale.setRaise (l : LossScale) (n : Nat) (b : Bool) : LossScale :=
  { l with raises := (n, b) :: (l.raises.filter fun x => x.1 != n && decide (n ≤ x.1 + 3)) }

/-- The exponent that a context without st_en uses throughout (R144). -/
def LossScale.startExp (l : LossScale) : Int := if l.en then l.init else 0

/-- Exponent of the first attempt of step M (R144, R145). -/
def Ctx.firstExp (x : Ctx) (m : Nat) : Int :=
  let l := x.ls
  if !l.en then 0
  else if !x.stEn then l.init
  else if l.first.isNone || l.first == some m || m = 0 then l.init
  else
    match l.expOf (m - 1) with
    | none => l.init
    | some e => min (e + (if 2 ≤ m ∧ l.raiseOf (m - 2) then 1 else 0)) l.max

/-- Exponent of the current attempt of a step. -/
def Ctx.curExp (x : Ctx) (n : Nat) : Int := (x.ls.expOf n).getD (x.firstExp n)

/-- The word of TS_LS_STATE (R153). -/
def lsWord (e : Int) (clean : Nat) (last prev : Bool) : Word :=
  BitVec.ofNat 32 (unsigned 8 e + clean % 65536 * 2 ^ 8 + b2n last * 2 ^ 24 + b2n prev * 2 ^ 25)

/-- The state of loss scaling after COMMIT of N (R145, R153). -/
def Ctx.lsCommit (x : Ctx) (n : Nat) : LossScale :=
  let l := x.ls
  let e := x.curExp n
  if !x.stEn then { l with state := lsWord e 0 false false }
  else if !l.en then { l with state := lsWord e l.clean (l.raiseOf n) (decide (1 ≤ n) && l.raiseOf (n - 1)) }
  else
    let up := decide (l.growth ≠ 0) && l.clean + 1 == l.growth
    let l1 := { l.setRaise n up with clean := if up then 0 else l.clean + 1 }
    { l1 with state := lsWord e l1.clean up (decide (1 ≤ n) && l1.raiseOf (n - 1)) }

/-- An overflow REPLAY of N: the rerun takes x − 1 and a raise not yet applied is cancelled (R145). -/
def Ctx.lsOverflow (x : Ctx) (n : Nat) : LossScale :=
  let l := x.ls.setExp n (x.curExp n - 1)
  { (if 1 ≤ n then l.setRaise (n - 1) false else l) with clean := 0 }

/-- The registers as captured at CTX_START or CTX_RESUME (R144). -/
def CtxRegs.lsCapture (r : CtxRegs) (l : LossScale) : LossScale :=
  { l with en := flag r.tsLsConfig 0, nfAction := flag r.tsLsConfig 1, growth := fld r.tsLsConfig 16 16
           init := signed 8 (fld r.tsLsRange 16 8), max := signed 8 (fld r.tsLsRange 8 8)
           min := signed 8 (fld r.tsLsRange 0 8) }

/-- The registers captured for a context: without st_en TS_LS_STATE reads the exponent in use at once (R144). -/
def Ctx.lsTake (x : Ctx) (l : LossScale) : LossScale :=
  let k := x.regs.lsCapture l
  if x.stEn then k else { k with state := lsWord k.startExp 0 false false }

/-- TS_LS_RANGE is valid (R144). -/
def CtxRegs.lsRangeOk (r : CtxRegs) : Bool :=
  let f (o : Nat) : Int := signed 8 (fld r.tsLsRange o 8)
  let ok (v : Int) : Bool := decide (-126 ≤ v) && decide (v ≤ 126)
  ok (f 16) && ok (f 8) && ok (f 0) && decide (f 0 ≤ f 16) && decide (f 16 ≤ f 8)

/-! ### Publication (R140) -/

/-- COMMIT of N starts the publication of its bank. -/
def State.startPublish (s : State) (c n : Nat) : State := s.modRegs c fun r => { r with tsPublishing := r.tsPublishing ++ [n] }

/-- Write the readout record and accumulators of one set (R137, R138). -/
def State.writeSet (s : State) (c bank k : Nat) : State :=
  let x := s.ctx c
  let t := Tbl.get StatSet.reset (Tbl.get StatBank.reset x.banks bank).sets k
  s.devWrite c (x.regs.tsArea + 0x100000 + 0x300000 * bank + 0x100 * k) (t.record ++ t.accumulators) []

/-- Publication completes: every set of entries 1–4,095 is written, then the header (R137, R140 step 3, R150). -/
def State.publish (s : State) (c : Nat) : State :=
  match (s.ctx c).regs.tsPublishing with
  | [] => s
  | n :: _ =>
    let b := n % 3
    let s1 := ((List.range 12285).map (· + 3)).foldl (fun t k => t.writeSet c b k) s
    let sat := (Tbl.get StatBank.reset (s1.ctx c).banks b).sets.any fun e => e.2.sumSat || e.2.sumsqSat || e.2.countSat
    let s2 := (s1.modCtx c fun x => { x with
      banks := Tbl.set StatBank.reset x.banks b { Tbl.get StatBank.reset x.banks b with state := 2 } }).writeHeader c b
    s2.modRegs c fun r => { r with
      tsPubStep := BitVec.ofNat 64 n, tsPubValid := true, tsPublishing := r.tsPublishing.drop 1, tsAccSat := r.tsAccSat || sat }

/-! ### Snapshot of a checkpoint (R398, R402) -/

/-- The snapshot of a checkpoint that awaits it: D is frozen (R398, R402). -/
def State.ckSnapshot (s : State) (c : Nat) : State :=
  let x := s.ctx c
  if x.ck.state ≠ 1 then s
  else
    let all := x.pagesIn x.ckSet
    let d := if x.ck.kind = 2 ∧ !x.ck.allDirty then all.filter fun k => x.ck.dirty.contains k else all
    s.modCtx c fun y => { y with ck := { y.ck with
      state := 2, left := d, frozen := d, live := [], baseValid := false
      stepC := match y.step.committed with
        | some n => BitVec.ofNat 64 n
        | none => BitVec.ofNat 64 (2 ^ 64 - 1) } }

/-! ### Step boundaries -/

/-- The context enters PAUSED; the event carries a code, and an awaited snapshot is taken (R28, R398, R495). -/
def State.enterPaused (s : State) (c : Nat) (code : Word) : State :=
  let s1 := s.modCtx c fun x => { x with st := .paused, step := { x.step with pausePending := none } }
  (s1.event c 2 code).ckSnapshot c

/-- Step n may run: it is the first, or its predecessor has committed. -/
def StepSt.mayRun (st : StepSt) (n : Nat) : Bool :=
  st.first == some n || (match st.committed with
    | some k => decide (n ≤ k + 1)
    | none => false)

/-- The time at which the gate of a step opened is kept for it and the step before (R386). -/
def StepSt.openAt (st : StepSt) (n t : Nat) : StepSt :=
  { st with gateTimes := (st.gateTimes.filter fun e => e.1 != n && decide (n ≤ e.1 + 1)) ++ [(n, t)] }

/-- The gate of the declared step opens, or a pending pause takes effect there (R322, R343). -/
def State.openGate (s : State) (c : Nat) : State :=
  let x := s.ctx c
  match x.step.declared with
  | none => s
  | some n =>
    if !x.step.gateClosed || !x.step.mayRun n || x.st != .running then s
    else match x.step.pausePending with
      | some code => s.enterPaused c code
      | none =>
        if x.step.gateHeld || x.step.pairPending then s
        else s.modStep c fun st => { st.openAt n s.suTime with gateClosed := false }

/-- The context is FINISHED: every stream has executed END and every declared step has committed, and no suspension is
in progress (R28, R41, R321). -/
def State.tryFinish (s : State) (c : Nat) : State :=
  let x := s.ctx c
  let ended := x.cores.all fun p => (s.core p).seq.ended
  if x.st == .running && ended && !(x.busy.any fun h => h.opcode == 3) && (x.step.declared.isNone || x.step.declared == x.step.committed) then
    ((s.modCtx c fun y => { y with st := .finished }).event c 3 0).ckSnapshot c
  else s

/-! ### The sequencer's internal layout (R41, R325) -/

/-- Place bytes in the implementation's order. -/
def permute {n : Nat} (e : Equiv.Perm (Fin n)) (l : List Byte) : List Byte :=
  (List.finRange n).map fun i => (l[(e i).val]?).getD 0

def unpermute {n : Nat} (e : Equiv.Perm (Fin n)) (l : List Byte) : List Byte :=
  (List.finRange n).map fun i => (l[(e.symm i).val]?).getD 0

/-- Slot index of an address in the stream. -/
def Seq.index (q : Seq) (a : Nat) : Nat := (a - q.base) / 32

/-- The first 112 bytes of the sequencer's state: flags, stacks, position, last STEP and phase. -/
def Seq.core112 (q : Seq) : List Byte :=
  leBytes 1 (b2n q.running + 2 * b2n q.ended + 4 * b2n q.inStore + 8 * b2n q.lastStep.isSome) ++
    leBytes 1 q.calls.length ++ leBytes 1 q.loops.length ++ leBytes 1 q.phase ++ leBytes 8 q.lastStepSlot ++
    leBytes 8 q.base ++ leBytes 4 q.length ++ leBytes 8 q.pos ++ leBytes 8 (q.lastStep.getD 0) ++ leBytes 8 q.seqno ++
    slice (q.calls.flatMap fun a => leBytes 4 (q.index a)) 0 32 ++
    slice (q.loops.flatMap fun l => leBytes 4 l.1 ++ leBytes 4 (q.index l.2)) 0 32

/-- The 512 bytes of the sequencer part; `extra` holds what it keeps about queued commands. -/
def Seq.bytes (q : Seq) (extra : List Byte) : List Byte :=
  permute Config.seqOrder (q.core112 ++ slice extra 0 400)

/-- The sequencer state that 512 bytes hold, and its extra part. -/
def Seq.parse (m : List Byte) : Seq × List Byte :=
  let l := unpermute Config.seqOrder m
  let fl := fieldAt l 0 1
  let base := fieldAt l 12 8
  let at_ (i : Nat) : Nat := base + 32 * i
  ({ running := bitAt fl 0, ended := bitAt fl 1, inStore := bitAt fl 2, base := base, length := fieldAt l 20 4,
     pos := fieldAt l 24 8, lastStep := if bitAt fl 3 then some (fieldAt l 32 8) else none, lastStepSlot := fieldAt l 4 8,
     phase := fieldAt l 3 1, seqno := fieldAt l 40 8,
     calls := (List.range (fieldAt l 1 1)).map fun i => at_ (fieldAt l (48 + 4 * i) 4)
     loops := (List.range (fieldAt l 2 1)).map fun i => (fieldAt l (80 + 8 * i) 4, at_ (fieldAt l (84 + 8 * i) 4)) },
    l.drop 112)

/-- The 4 KiB of a core's counters in counter order. -/
def Core.counterBytes (k : Core) : List Byte := (List.range 1024).flatMap fun i => leBytes 4 (k.ctr i)

/-- Counters read from 4 KiB. -/
def countersFrom (b : List Byte) : Tbl Word :=
  (List.range 1024).filterMap fun i =>
    let v := fieldAt b (4 * i) 4
    if v = 0 then none else some (i, BitVec.ofNat 32 v)

end Sys2Proof.Machine
end

