-- ==== Sys2Proof/Machine/StepProto.lean ====
section
/-! DEFINITION. The step protocol: STEP (R38, R320, R321), digests (R330, R331), votes and decisions (R334–R340),
rollback and rerun (R341–R343), and the diagnosis window (R344–R346). -/

namespace Sys2Proof.Machine

/-! ### Messages (R335, R336, R339, R342) -/

def msgVote : Nat := 0x0010
def msgDecide : Nat := 0x0011
def msgDigest : Nat := 0x0012
def msgRolled : Nat := 0x0013
def msgGo : Nat := 0x0014

/-- The context with st_en that holds a step message's job tag: one that is not FREE, or whose context was destroyed
during a step (R334, R335). -/
def State.stepCtx (s : State) (p : Packet) : Option Nat :=
  let tag := p.jobTag.toNat
  if tag = 0 then none
  else ctxNums.find? fun c =>
    let x := s.ctx c
    x.stEn && fld x.regs.lkJob 0 16 == tag && (x.st != .free || x.step.failCode == codeAt Code.stCtxGone c)

/-- A vote's 64 bytes (R336). -/
def Vote.bytes (v : Vote) (step attempt : Nat) : List Byte :=
  leBytes 8 step ++ leBytes 2 attempt ++ leBytes 2 v.covered ++
    leBytes 1 (b2n v.allOk + 2 * b2n v.faultedAny + 4 * b2n v.overflow + 8 * b2n v.digestBad + 16 * b2n v.quarantineAny) ++
    leBytes 1 (unsigned 8 v.xMin) ++ leBytes 1 (unsigned 8 v.xMax) ++ zeros 1 ++ leBytes 4 v.nonfiniteAll ++
    leBytes 4 v.nonfiniteWatched ++ leBytes 2 v.failChip ++ zeros 2 ++ leBytes 4 v.failCode.toNat ++ zeros 32

def Vote.parse (d : List Byte) : Vote :=
  let fl := fieldAt d 0x0C 1
  { covered := fieldAt d 0x0A 2, allOk := bitAt fl 0, faultedAny := bitAt fl 1, overflow := bitAt fl 2,
    digestBad := bitAt fl 3, quarantineAny := bitAt fl 4, xMin := signed 8 (fieldAt d 0x0D 1),
    xMax := signed 8 (fieldAt d 0x0E 1), nonfiniteAll := fieldAt d 0x10 4, nonfiniteWatched := fieldAt d 0x14 4,
    failChip := fieldAt d 0x18 2, failCode := BitVec.ofNat 32 (fieldAt d 0x1C 4) }

/-- Merging of votes (R337). -/
def Vote.merge (a b : Vote) : Vote :=
  let low := if b.failChip < a.failChip then b else a
  { covered := a.covered + b.covered, allOk := a.allOk && b.allOk, faultedAny := a.faultedAny || b.faultedAny,
    overflow := a.overflow || b.overflow, digestBad := a.digestBad || b.digestBad,
    quarantineAny := a.quarantineAny || b.quarantineAny, xMin := min a.xMin b.xMin, xMax := max a.xMax b.xMax,
    nonfiniteAll := satAdd 32 a.nonfiniteAll b.nonfiniteAll,
    nonfiniteWatched := satAdd 32 a.nonfiniteWatched b.nonfiniteWatched, failChip := low.failChip,
    failCode := low.failCode }

/-- A decision's 32 bytes (R339). -/
def Decision.bytes (d : Decision) : List Byte :=
  leBytes 8 d.step ++ leBytes 2 d.attempt ++ leBytes 1 d.kind ++ leBytes 1 d.reason ++ leBytes 2 d.failChip ++ zeros 2 ++
    leBytes 4 d.failCode.toNat ++ zeros 12

def Decision.parse (d : List Byte) : Decision :=
  ⟨fieldAt d 0 8, fieldAt d 8 2, fieldAt d 0x0A 1, fieldAt d 0x0B 1, fieldAt d 0x0C 2, BitVec.ofNat 32 (fieldAt d 0x10 4)⟩

/-! ### Slots of the skein (R325) -/

/-- The module's step-fail code: ST_CTX_GONE of a context that is destroyed, the code of a FAULTED one, else the step's
own (R325, R334, R337, R440). -/
def Ctx.stepFail (x : Ctx) (c : Nat) : Word :=
  if x.zeroing then codeAt Code.stCtxGone c
  else if x.st = .faulted then x.faultCode
  else x.step.failCode

/-- The header of a slot, and the zeros after it. -/
def Ctx.slotHeader (x : Ctx) (c n attempt state : Nat) : List Byte :=
  let st := x.step
  let mine := n == st.current && st.complete
  let bank := Tbl.get StatBank.reset x.banks (n % 3)
  let nf := if bank.step = n ∧ st.voted then (bank.nonfiniteAll, bank.nonfiniteWatched) else (0, 0)
  leBytes 8 n ++ leBytes 2 attempt ++ leBytes 1 state ++ leBytes 1 (unsigned 8 (x.curExp n)) ++ zeros 4 ++
    leBytes 4 x.regs.stShardOwn.toNat ++ leBytes 4 x.regs.stShardMir.toNat ++
    leBytes 16 (if mine then st.digestOwn.toNat else 0) ++ leBytes 16 (if mine then st.digestMir.toNat else 0) ++
    leBytes 4 (min nf.1 0xFFFFFFFF) ++ leBytes 4 (min nf.2 0xFFFFFFFF) ++ st.undoFields n ++
    leBytes 4 (x.stepFail c).toNat ++ zeros 4012

/-- Attempts of a step before its current one. -/
def StepSt.attemptOf (st : StepSt) (n : Nat) : Nat := if n = st.current then st.attempt else 0

/-- Write a slot's header: state 0 free, 1 live, 2 voted, 3 held in the window, 4 paused. -/
def State.writeSlot (s : State) (c n state : Nat) : State :=
  match (s.ctx c).skein with
  | none => s
  | some k => s.devWrite c (k.slotBase n) ((s.ctx c).slotHeader c n ((s.ctx c).step.attemptOf n) state) []

/-- Write the step record of a core (R321, R325). -/
def State.writeRecord (s : State) (c p lcore n : Nat) : State :=
  match (s.ctx c).skein with
  | none => s
  | some k =>
    let q := s.core p
    s.devWrite c (k.recBase n lcore) (q.counterBytes ++ q.seq.bytes [] ++ zeros 3584) []

/-! ### Pair image copies (R360, R362) -/

/-- The pair area's base and the partner, when the context is paired (R388). -/
def Ctx.pair (x : Ctx) : Option (Nat × Nat) :=
  if flag x.regs.stPair 31 then some (x.regionBase (fld x.regs.stPair 16 4), fld x.regs.stPair 0 14) else none

/-- A core copies a range of the context's memory into the partner's pair area. -/
def State.pairSend (s : State) (p chip : Nat) (epoch : Option Nat) (src dst n : Nat) : State :=
  let (d, s1) := s.read (.mem (s.ctxOf p)) src n
  s1.sendPuts p chip 0 epoch [⟨dst, d.bytes, d.pois⟩]

/-- Copy a part of a slot of step n (its header, or a step record) to the partner. -/
def State.pairSlot (s : State) (c p n off len : Nat) : State :=
  match (s.ctx c).pair, (s.ctx c).skein with
  | some (base, chip), some k =>
    s.pairSend p chip (some n) (k.slotBase n + off) (0x10000 + base + n % k.slots * 2 ^ 21 + off) len
  | _, _ => s

/-- The partner has acknowledged every byte that the context's cores sent with this epoch key. -/
def State.pairAcked (s : State) (c key : Nat) : Bool :=
  match (s.ctx c).pair with
  | none => true
  | some (_, chip) => (s.ctx c).cores.all fun p =>
      decide (countOf (s.core p).sentBytes chip 0 key ≤ countOf (s.core p).ackedBytes chip 0 key)

/-! ### STEP -/

/-- The STEP's number is the one its core must carry (R38). -/
def State.stepOrderOk (s : State) (c p n : Nat) : Bool :=
  match (s.core p).seq.lastStep with
  | some k => n == k + 1
  | none => match (s.ctx c).step.first with
    | some f => n == f
    | none => true

/-- The STEP may be dispatched: step N − 2 has committed and is published (R140, R320), and no diagnosis replay stops
it (R345). -/
def State.stepReady (s : State) (c n : Nat) : Bool :=
  let x := s.ctx c
  !x.step.diagRunning &&
    (match x.step.first with
      | some f => decide (n < f + 2) || (match x.step.committed with
          | some k => decide (n ≤ k + 2)
          | none => false)
      | none => true) &&
    x.regs.tsPublishing.all fun k => decide (n < k + 2)

/-- The context has declared step n: some core has executed its STEP, or a later one (R140). -/
def StepSt.isDeclared (st : StepSt) (n : Nat) : Bool := st.declared.any fun k => decide (n ≤ k)

/-- Step n is declared (R140, R144, R321, R322); a context with parts to relocate is to pause at its boundary (R244).
Without st_en the gate is closed only for a pause that is pending. -/
def State.declare (s : State) (c n : Nat) : State :=
  let x := s.ctx c
  if x.step.isDeclared n then s
  else
    let ls := { x.ls with first := x.ls.first.orElse fun _ => some n }
    let x1 := { x with ls := ls }
    let e := x1.firstExp n
    let s1 := s.setCtx c { x1 with
      ls := ls.setExp n e
      step := { (if x.stEn then x.step else x.step.openAt n s.suTime) with
        first := x.step.first.orElse (fun _ => some n), declared := some n
        gateClosed := x.stEn || x.step.pausePending.isSome } }
    let s2 := ((s1.emptyBank c n e).writeSlot c n 1).openGate c
    if s2.moveDue c then s2.memoryPause c else s2

/-- The time of a core's completion of a step (R386). -/
def State.noteCore (s : State) (c lcore n : Nat) : State :=
  s.modStep c fun st => { st with
    coreTimes := (st.coreTimes.filter fun e => !(e.1 == n && e.2.1 == lcore)) ++ [(n, lcore, s.suTime)] }

/-- STEP N at a core: declaration, the step's own signal, its record (R321, R325), and the pair copy (R362). -/
def State.doStep (s : State) (p : Nat) (slot : List Byte) (n : Nat) : State :=
  match s.coreOwner p with
  | none => s
  | some (c, lcore) =>
    let q := (s.core p).seq
    let fresh := !(s.ctx c).step.isDeclared n
    let s1 := match q.lastStep with
      | some k => s.noteCore c lcore k
      | none => s
    let s2 := (s1.modCore p fun k => { k with seq := { k.seq with lastStep := some n, lastStepSlot := q.pos } }).declare c n
    let s3 := (s2.signalSlot p slot).goTo p (q.pos + 32)
    if !(s3.core p).seq.running then s3
    else
      let s4 := s3.writeRecord c p lcore n
      let s5 := if fresh then s4.pairSlot c p n 0 0x1000 else s4
      s5.pairSlot c p n (0x1000 + 0x2000 * lcore) 0x2000

/-! ### Completion and digests -/

/-- A core has completed step n: it has executed STEP n + 1 or END (R321). -/
def Core.passed (k : Core) (n : Nat) : Bool :=
  k.seq.ended || (match k.seq.lastStep with
    | some m => decide (n < m)
    | none => false)

/-- In a diagnosis replay, a core stands before STEP D + 1 with nothing in flight, or has ended (R345). -/
def State.diagStopped (s : State) (p : Nat) : Bool :=
  let k := s.core p
  k.seq.ended || (k.done && (let b := s.peek (s.streamTarget p) k.seq.pos 32
    slotEng b == 0 && slotOp b == 7))

/-- The step under way, if every core has completed it. -/
def State.stepOver (s : State) (c : Nat) : Option Nat :=
  let x := s.ctx c
  let st := x.step
  if x.cores.isEmpty then none
  else if st.diagRunning then
    if x.cores.all fun p => s.diagStopped p then st.diagStep else none
  else match st.declared with
    | none => none
    | some d => if st.current ≤ d ∧ x.cores.all (fun p => (s.core p).passed st.current) then some st.current else none

/-- XOR of the digest parts of the cores that have a record of step n (R330); `off` is 0x1200 or 0x1210. -/
def State.xorParts (s : State) (c n off : Nat) : Nat :=
  match (s.ctx c).skein with
  | none => 0
  | some k =>
    let cores := (s.ctx c).cores
    ((List.range cores.length).zip cores).foldl (fun a (l, p) =>
      match (s.core p).seq.lastStep with
      | some m => if n ≤ m then a ^^^ ofLe (s.peek (.mem c) (k.recBase n l + off) 16) else a
      | none => a) 0

/-- ST_DIGEST to each valid peer (R331, R353). -/
def State.sendDigests (s : State) (c : Nat) : State :=
  let x := s.ctx c
  [x.regs.stPeer0, x.regs.stPeer1, x.regs.stPeer2, x.regs.stPeer3].foldl (fun t w =>
    if flag w 31 then
      let mir := flag w 16
      let shard := if mir then x.regs.stShardMir else x.regs.stShardOwn
      let d := if mir then x.step.digestMir else x.step.digestOwn
      t.sendCtl c (fld w 0 14) msgDigest (some x.step.current)
        (leBytes 8 x.step.current ++ leBytes 2 x.step.attempt ++ zeros 2 ++ leBytes 4 shard.toNat ++ leBytes 16 d.toNat)
    else t) s

/-- A peer's digest of a shard is compared with the module's own (R331). -/
def State.compareDigest (s : State) (c : Nat) (shard : Word) (d : BitVec 128) : State :=
  let x := s.ctx c
  let own := x.regs.stShardOwn == shard
  let mir := shard != 0 && x.regs.stShardMir == shard
  let good := if own then x.step.digestOwn == d else mir && x.step.digestMir == d
  let s1 := s.modStep c fun st => { st with digestsIn := st.digestsIn + 1 }
  if good then s1
  else ((s1.modRegs c fun r => { r with stDigestBad := true }).modStep c fun st => { st with
      digestBad := true
      failCode := if st.failCode = 0 then codeAt Code.stDigestMismatch c else st.failCode }).report
    (codeAt Code.stDigestMismatch c) { ctx := some c, step := some x.step.current }

/-- Held digests of the current attempt are compared once the step is complete. -/
def State.useHeld (s : State) (c : Nat) : State :=
  let st := (s.ctx c).step
  let mine (e : Nat × Nat × Word × BitVec 128) : Bool := e.1 == st.current && e.2.1 == st.attempt
  let s1 := s.modStep c fun t => { t with digestsHeld := t.digestsHeld.filter fun e => !mine e }
  (st.digestsHeld.filter mine).foldl (fun t e => t.compareDigest c e.2.2.1 e.2.2.2) s1

/-- Each logical core's time for a step, in ns from the opening of its gate (R386): core, time; in the order in which
they completed it. -/
def StepSt.timesOf (st : StepSt) (n : Nat) : List (Nat × Nat) :=
  (st.coreTimes.filter fun e => e.1 == n).map fun e => (e.2.1, e.2.2 - (st.gateTimes.lookup n).getD e.2.2)

/-- The timing of a step is published (R386, R392–R394). -/
def State.histogram (s : State) (c n : Nat) : State :=
  let times := (s.ctx c).step.timesOf n
  let us (e : Nat × Nat) : Nat := e.2 / 1000
  let slow := times.getLastD (0, 0)
  s.modRegs c fun r =>
    let w := 2 ^ fld r.stHistCfg 0 4
    let bin (e : Nat × Nat) : Nat := min 15 (us e / w)
    { r with
      stTiming := BitVec.ofNat 32 (min (us slow) 0xFFFFFFFF)
      stHistCfg := setFld r.stHistCfg 16 8 slow.1
      stHistBins := (List.range 16).filterMap fun b =>
        let k := (times.filter fun e => bin e == b).length
        if k = 0 then none else some (b, BitVec.ofNat 32 k) }

/-- Fence entries of a context's epochs selected by their key are released, and so are the counts its cores keep for
those epochs as senders and their class-3 paths (R195, R197, R198, R277). -/
def State.dropFences (s : State) (c : Nat) (sel : Nat → Bool) : State :=
  (s.ctx c).cores.foldl (fun t p => t.modCore p fun k => { k with
    sentBytes := k.sentBytes.filter fun e => !sel e.2.2.1
    ackedBytes := k.ackedBytes.filter fun e => !sel e.2.2.1 })
    { s with
      fences := s.fences.filter fun f => !(f.ctx == c && sel f.epoch)
      fab := { s.fab with class3 := s.fab.class3.filter fun e => !(e.job == fld (s.ctx c).regs.lkJob 0 16 && sel e.epoch) } }

/-- Undo records of an epoch are released. -/
def State.releaseUndo (s : State) (c : Nat) (sel : Undo → Bool) : State :=
  (s.modStep c fun st =>
    let left := st.undo.filter fun u => !sel u
    { st with
      undo := left
      ringTail := match left with
        | u :: _ => u.ring
        | [] => st.ringTail
      ringHead := match left.reverse with
        | u :: _ => u.ring + 1
        | [] => st.ringTail }).writeRing c

/-- The ring head stays within the ring. -/
def State.wrapRing (s : State) (c : Nat) : State :=
  match (s.ctx c).skein with
  | some k => (s.modStep c fun st => { st with ringHead := st.ringHead % k.undoSlots }).writeRing c
  | none => s

/-- A step attempt's gathered votes and digests are forgotten. -/
def StepSt.newAttempt (st : StepSt) : StepSt :=
  { st with complete := false, digestOwn := 0, digestMir := 0, digestsIn := 0, digestBad := false,
            quarantineAny := false, failCode := 0, voters := [], merged := none, voted := false, coreTimes := [] }

/-- COMMIT of step n is acted on (R340, R344). -/
def State.commitStep (s : State) (c n : Nat) : State :=
  let x := s.ctx c
  let W := x.windowW
  let s1 := s.histogram c n
  let s2 := s1.modCtx c fun y => { y with
    ls := y.lsCommit n
    poisonCounts := y.poisonCounts.filter fun e => decide (n < e.1) }
  let s3 := s2.modStep c fun st => { st.newAttempt with
    coreTimes := st.coreTimes.filter fun e => decide (n < e.1), committed := some n, attempt := 0, failReplays := 0, rerun := false, decision := none, discardFrom := none,
    rerunDue := false, suspectNext := false
    failCode := if st.suspectNext then codeAt Code.elSuspect c else 0 }
  let s4 := if W = 0 then ((s3.releaseUndo c fun u => u.epoch == n).wrapRing c).markSlot c n 0
    else
      let t := s3.markSlot c n 3
      let t1 := if W ≤ (t.ctx c).step.window.length then t.dropWindow c else t
      t1.modStep c fun st => { st with window := st.window ++ [n] }
  (((s4.dropFences c fun k => k == n + 1).startPublish c n).ckSnapshot c |>.openGate c).tryFinish c

/-- Completing step n reads the digest parts in its step records, and in diagnosis the header of its slot; the reads find
the errors stored there (R221, R331, R345). -/
def State.touchParts (s : State) (c n : Nat) : State :=
  match (s.ctx c).skein with
  | none => s
  | some k =>
    let s1 := (List.range (s.ctx c).cores.length).foldl (fun t l => t.touch (.mem c) (k.recBase n l + 0x1200) 32) s
    if (s.ctx c).step.diagRunning then s1.touch (.mem c) (k.slotBase n) 64 else s1

/-- Step n is complete on the module (R319, R321, R330, R345). -/
def State.completeStep (s : State) (c n : Nat) : State :=
  let s := s.touchParts c n
  let x := s.ctx c
  if x.step.diagRunning then
    let own := s.xorParts c n 0x1200
    let mir := s.xorParts c n 0x1210
    let head := match x.skein with
      | some k => s.peek (.mem c) (k.slotBase n) 0x38
      | none => []
    let same := fieldAt head 0x18 16 == own && fieldAt head 0x28 16 == mir
    let s1 := s.modStep c fun st => { st with
      complete := true, digestOwn := BitVec.ofNat 128 own, digestMir := BitVec.ofNat 128 mir, digestBad := !same }
    if same then s1 else s1.report (codeAt Code.stDiagDiverge c) { ctx := some c, step := some n }
  else if !x.stEn then s.commitStep c n
  else
    let s1 := s.modStep c fun st => { st with
      complete := true, digestOwn := BitVec.ofNat 128 (s.xorParts c n 0x1200)
      digestMir := BitVec.ofNat 128 (s.xorParts c n 0x1210) }
    ((s1.writeSlot c n 1).sendDigests c).useHeld c

/-! ### The vote -/

/-- The module's own vote (R337). -/
def State.ownVote (s : State) (c : Nat) : Vote :=
  let x := s.ctx c
  let st := x.step
  let n := if st.diagRunning then st.diagStep.getD 0 else st.current
  let code := x.stepFail c
  let bank := Tbl.get StatBank.reset x.banks (n % 3)
  let nf := if bank.step = n ∧ !st.diagRunning then (bank.nonfiniteAll, bank.nonfiniteWatched) else (0, 0)
  let e := x.curExp n
  { covered := 1
    allOk := decide (code = 0) && !st.digestBad
    faultedAny := decide (3 ≤ severityOf code) && decide (severityOf code ≤ 4)
    overflow := x.ls.en && decide (nf.2 ≠ 0)
    digestBad := st.digestBad
    quarantineAny := st.quarantineAny
    xMin := e, xMax := e
    nonfiniteAll := min nf.1 0xFFFFFFFF
    nonfiniteWatched := min nf.2 0xFFFFFFFF
    failChip := if code = 0 then 0xFFFF else s.ownChip
    failCode := code }

def Ctx.parent (x : Ctx) : Nat := fld x.regs.stTree 16 14
def Ctx.childCount (x : Ctx) : Nat := fld x.regs.stTree 0 7
def Ctx.digExpect (x : Ctx) : Nat := fld x.regs.stCfg 2 3
def Ctx.replayLimit (x : Ctx) : Nat := fld x.regs.stCfg 12 4

/-- The module is the job's coordinator (R334). -/
def State.coordinator (s : State) (c : Nat) : Bool := (s.ctx c).parent == s.ownChip

/-- The context takes no further part in a step: it is faulted, or destroyed. -/
def Ctx.gone (x : Ctx) : Bool := x.st == .faulted || x.st == .free || x.zeroing

/-- The three conditions of R334, with R362. -/
def State.mayVote (s : State) (c : Nat) : Bool :=
  let x := s.ctx c
  let st := x.step
  x.stEn && !st.voted && st.first.isSome && decide (st.voters.length = x.childCount) &&
    (if st.diagRunning then st.complete
     else x.gone || (st.complete && decide (x.digExpect ≤ st.digestsIn) && s.pairAcked c (st.current + 2)))

/-- The coordinator's decision on the whole tree's vote (R338). -/
def Ctx.verdict (x : Ctx) (v : Vote) : Nat × Nat :=
  if v.xMin ≠ v.xMax then (3, 6)
  else if v.faultedAny then (3, 1)
  else if x.ls.en && v.overflow then (if v.xMin = x.ls.min then (3, 4) else (2, 8))
  else if !x.ls.en && x.ls.nfAction && v.nonfiniteWatched != 0 then (3, 5)
  else if !v.allOk then
    if x.step.failReplays = x.replayLimit then (3, 7) else (2, if v.digestBad then 3 else 2)
  else (1, 0)

/-- A decision goes to the coordinator's own module, which forwards it (R339). -/
def State.sendDecision (s : State) (c : Nat) (d : Decision) (dst : Nat) : State :=
  s.sendCtl c dst msgDecide (some d.step) d.bytes

/-- The module's own vote with the votes of its children (R337). -/
def State.fullVote (s : State) (c : Nat) : Vote :=
  match (s.ctx c).step.merged with
  | some m => (s.ownVote c).merge m
  | none => s.ownVote c

/-- The vote leaves the module, or is decided (R334, R338, R345). -/
def State.sendVote (s : State) (c : Nat) : State :=
  let x := s.ctx c
  let st := x.step
  let n := if st.diagRunning then st.diagStep.getD 0 else st.current
  let v := s.fullVote c
  let s1 := s.modStep c fun t => { t with voted := true, merged := some v }
  let s2 := if st.diagRunning then s1 else s1.writeSlot c n 2
  if !s.coordinator c then s2.sendCtl c x.parent msgVote (some n) (v.bytes n st.attempt)
  else if st.diagRunning then
    s2.sendDecision c ⟨n, st.attempt, 5, if v.allOk then 9 else 10, v.failChip, v.failCode⟩ s.ownChip
  else
    let (k, reason) := x.verdict v
    let s3 := if reason = 6 then s2.report (codeAt Code.tsLsMismatch c) { ctx := some c, step := some n } else s2
    s3.sendDecision c ⟨n, st.attempt, k, reason, v.failChip, v.failCode⟩ s.ownChip

/-- The step reaches its vote with poisoned writes (R21, R225, R226). -/
def Ctx.poisoned (x : Ctx) : Bool :=
  !x.gone && !x.step.diagRunning && Tbl.get 0 x.poisonCounts x.step.current != 0

/-- Stage 7 of R21: a step with poisoned writes faults its context, whose vote then carries the code (R226). -/
def State.voteNow (s : State) (c : Nat) : State :=
  if (s.ctx c).poisoned then
    (s.raise (codeAt Code.memPoisonStep c) { ctx := some c, step := some (s.ctx c).step.current }).sendVote c
  else s.sendVote c

/-- The children's chips: those heard from, and for the rest of their number free values (R334). -/
def Ctx.childChips (x : Ctx) : List Nat :=
  x.step.children ++ (List.range (x.childCount - x.step.children.length)).map fun i =>
    (Config.childChip (fld x.regs.lkJob 0 16) i).toNat

/-- A message goes to every child in ascending chip order (R339, R341). -/
def State.toChildren (s : State) (c type n : Nat) (data : List Byte) : State :=
  ((s.ctx c).childChips.mergeSort (· ≤ ·)).foldl (fun t ch => t.sendCtl c ch type (some n) data) s

/-! ### Rollback -/

/-- Messages of a context on their way through a hub are dropped with the epochs that are rolled back (R341). -/
def State.dropHub (s : State) (c n : Nat) : State :=
  { s with hub := s.hub.filter fun m => !(m.ctx == c && !m.gone && m.epoch.any fun e => decide (n ≤ e)) }

/-- Step 1 of R341: sequencers stop, engines abandon their commands, and what is on its way of epochs N and later is
discarded, arrivals as well as messages in the hubs; a diagnosis replay waits for those instead. -/
def State.stopForRollback (s : State) (c : Nat) (d : Decision) : State :=
  (((s.ctx c).cores.foldl (fun t p => t.modCore p Core.stop) (if d.kind = 4 then s else s.dropHub c d.step))).modStep c fun st =>
    { st with decision := some d, discardFrom := some d.step, rolledSelf := false, rolledFrom := [], rolledCovered := 0,
              lostAny := false, diagRefusedAny := false }

/-- Load a core's counters and sequencer from its step record (R341, R345); the core stays stopped. -/
def State.loadRecord (s : State) (c p lcore n : Nat) : State :=
  match (s.ctx c).skein with
  | none => s
  | some k =>
    let (d, s1) := s.read (.mem c) (k.recBase n lcore) 0x1200
    let (q, _) := Seq.parse (slice d.bytes 0x1000 512)
    s1.modCore p fun x => { x with counters := countersFrom d.bytes, seq := { q with running := false }, watches := [] }

/-- Every core that has a record of step n is loaded from it; watch slots are freed (R187, R341). -/
def State.loadRecords (s : State) (c n : Nat) : State :=
  let cores := (s.ctx c).cores
  ((List.range cores.length).zip cores).foldl (fun t (l, p) =>
    match (t.core p).seq.lastStep with
    | some m => if n ≤ m then t.loadRecord c p l n else t.modCore p fun x => { x with watches := [] }
    | none => t.modCore p fun x => { x with watches := [] }) s

/-- An undo record's header, read as the device reads memory, is clean and agrees with the ring (R220, R341). -/
def State.undoOk (s : State) (c : Nat) (k : Skein) (u : Undo) : Bool × State :=
  let (d, s1) := s.read (.mem c) (k.undoAddr u.ring) 64
  let h := d.bytes
  (!d.pois.any id && fieldAt h 0 8 == u.epoch && fieldAt h 8 8 == u.page && fieldAt h 0x10 4 == u.kind &&
    decide (fieldAt h 0x14 4 ≤ 65536) && (u.kind != 1 || fieldAt h 0x14 4 == 65536), s1)

/-- Write back a raw record, or apply a delta record in either direction (R328, R341, R345). -/
def State.applyUndo (s : State) (c : Nat) (k : Skein) (u : Undo) : State :=
  let a := k.undoAddr u.ring + 64
  let n := fieldAt (s.peek (.mem c) (k.undoAddr u.ring) 64) 0x14 4
  let (d, s1) := s.read (.mem c) a pageBytes
  if u.kind = 1 then s1.devWrite c u.page d.bytes d.pois
  else
    let (page, s2) := s1.read (.mem c) u.page pageBytes
    if u.kind = 3 then
      s2.devWrite c u.page (xorBytes page.bytes d.bytes) (List.zipWith (fun x y => x || y) page.pois d.pois)
    else match xapply page ⟨d.bytes.take n, d.pois.take n⟩ with
      | some r => s2.devWrite c u.page r.bytes r.pois
      | none => s2

/-- Apply records in order, stopping at one whose header cannot be used; true when all were applied. -/
def State.applyUndos (s : State) (c : Nat) (k : Skein) : List Undo → Bool × State
  | [] => (true, s)
  | u :: r => match s.undoOk c k u with
    | (true, s1) => (s1.applyUndo c k u).applyUndos c k r
    | (false, s1) => (false, s1)

/-- Rollback fails: the context moves to FAULTED and the module reports lost (R341). -/
def State.rollbackFail (s : State) (c n : Nat) : State :=
  (s.raise (codeAt Code.stRollbackFail c) { ctx := some c, step := some n }).modStep c fun st =>
    { st with rolledSelf := true, lostAny := true }

/-- Epochs from n on leave nothing behind: fences, held signals, poison counts (R198, R225). -/
def State.forgetEpochs (s : State) (c n : Nat) : State :=
  (s.dropFences c fun k => decide (n < k)).modCtx c fun x =>
    { x with poisonCounts := x.poisonCounts.filter fun e => decide (e.1 < n) }

/-- Step 2 of R341 for a REPLAY or PAUSE of step n. -/
def State.rollback (s : State) (c n : Nat) (overflow : Bool) : State :=
  match (s.ctx c).skein with
  | none => s
  | some k =>
    let raws := (s.ctx c).step.undo.filter fun u => decide (n ≤ u.epoch) && u.kind == 1
    let (ok, s1) := s.applyUndos c k raws.reverse
    if !ok then s1.rollbackFail c n
    else
      let s2 := ((s1.releaseUndo c fun u => decide (n ≤ u.epoch)).wrapRing c).writeUndoFields c n
      let s3 := if (s2.ctx c).step.declared == some (n + 1) then s2.markSlot c (n + 1) 0 else s2
      let s4 := (s3.loadRecords c n).forgetEpochs c n
      let s5 := s4.modCtx c fun x => { x with ls := if overflow then x.lsOverflow n else x.ls.setExp n (x.curExp n) }
      let s6 := s5.emptyBank c n ((s5.ctx c).curExp n)
      let s7 := s6.emptyBank c (n + 1) ((s6.ctx c).firstExp (n + 1))
      s7.modStep c fun st => { st with declared := some n, gateClosed := true, rolledSelf := true }

/-- Sequencers and counters of the cores that have no record of a step are kept aside, or put back (R345). -/
def State.keepEnded (s : State) (c n : Nat) : State :=
  let cores := (s.ctx c).cores
  s.modStep c fun st => { st with diagKept := ((List.range cores.length).zip cores).filterMap fun (l, p) =>
    match (s.core p).seq.lastStep with
    | some m => if n ≤ m then none else some (l, (s.core p).seq, (s.core p).counters)
    | none => some (l, (s.core p).seq, (s.core p).counters) }

/-- Counters and sequencers of a step's records; the cores that had none stand as they were kept. -/
def State.loadAfterDiag (s : State) (c n : Nat) : State :=
  let cores := (s.ctx c).cores
  let kept := (s.ctx c).step.diagKept
  ((List.range cores.length).zip cores).foldl (fun t (l, p) =>
    match kept.find? fun e => e.1 == l with
    | some (_, q, ctr) => t.modCore p fun x => { x with seq := q, counters := ctr, watches := [] }
    | none => t.loadRecord c p l n) (s.modStep c fun st => { st with diagKept := [] })

/-- Deltas of window steps applied: of steps D to L in descending order, or ascending (R345). -/
def State.applyWindow (s : State) (c : Nat) (k : Skein) (lo hi : Nat) (down : Bool) : Bool × State :=
  let us := (s.ctx c).step.undo.filter fun u => decide (lo ≤ u.epoch) && decide (u.epoch ≤ hi) && u.kind != 1
  s.applyUndos c k (if down then us.reverse else us)

/-- Every raw record of a committed window step is converted (R344). -/
def State.convertAll (s : State) (c : Nat) : State :=
  ((s.ctx c).step.undo.filter fun u => u.kind == 1 && (s.ctx c).step.window.contains u.epoch).foldl
    (fun t u => t.convertUndo c u) s

/-- Step 2 of R345: state D − 1, counters and sequencers of D; a module without D refuses (R346). -/
def State.diagBack (s : State) (c d : Nat) : State :=
  let st := (s.ctx c).step
  match (s.ctx c).skein with
  | none => s
  | some k =>
    if !st.window.contains d then
      (s.modStep c fun t => { t with rolledSelf := true, diagRefusedAny := true }).report (codeAt Code.stDiagRefused c)
        { ctx := some c, step := some d }
    else
      let s0 := (s.convertAll c).keepEnded c (st.committed.getD 0 + 1)
      let (ok, s1) := s0.applyWindow c k d (st.committed.getD 0) true
      if !ok then s1.rollbackFail c d
      else
        (s1.loadRecords c d).modStep c fun t => { t with rolledSelf := true, diagStep := some d }

/-- A core that has a record of the step restarts at its replay point. -/
def State.restartCores (s : State) (c : Nat) : State :=
  (s.ctx c).cores.foldl (fun t p => t.modCore p fun k =>
    { k with seq := { k.seq with running := decide (0 < k.seq.length) || k.seq.running } }) s

/-- The counters and sequencers are loaded from slot L + 1 and the context is PAUSED again (R345, R346). -/
def State.diagEnd (s : State) (c : Nat) : State :=
  let st := (s.ctx c).step
  let l := st.committed.getD 0
  let s1 := ((s.ctx c).cores.foldl (fun t p => t.modCore p Core.stop) s).dropHub c (st.diagStep.getD 0)
  let s2 := (s1.loadAfterDiag c (l + 1)).dropFences c fun k => k == (st.diagStep.getD 0) + 1
  let s3 := s2.modStep c fun t => { t.newAttempt with
    diagRunning := false, diagStep := none, decision := none, gateClosed := true
    discardFrom := if st.rerunDue then some (l + 1) else none }
  if st.rerunDue then s3 else s3.restartCores c

/-- DIAG_DONE is acted on (R345, R346). -/
def State.diagDone (s : State) (c reason : Nat) : State :=
  let st := (s.ctx c).step
  match (s.ctx c).skein, st.diagStep with
  | some k, some d =>
    let l := st.committed.getD 0
    let raws := st.undo.filter fun u => u.epoch == d && u.kind == 1
    let s1 := if reason = 10 then (s.applyUndos c k raws.reverse).2 else s
    let s2 := if st.diagRunning then
        ((s1.releaseUndo c fun u => u.epoch == d && u.kind == 1).wrapRing c).writeUndoFields c d else s1
    let s3 := (s2.applyWindow c k (if reason = 9 then d + 1 else d) l false).2
    s3.diagEnd c
  | _, _ => s.modStep c fun t => { t with decision := none, diagRefusedAny := false }

/-- ST_ROLLED's 16 bytes (R342). -/
def rolledBytes (n attempt covered : Nat) (lost refused : Bool) : List Byte :=
  leBytes 8 n ++ leBytes 2 attempt ++ leBytes 2 covered ++ leBytes 1 (b2n lost + 2 * b2n refused) ++ zeros 3

/-- ST_GO's 16 bytes (R342). -/
def goBytes (n attempt action : Nat) : List Byte :=
  leBytes 8 n ++ leBytes 2 attempt ++ zeros 2 ++ leBytes 1 action ++ zeros 3

/-- Step 3 and 4 of R341: with its own rollback and every child's message in, a module reports to its parent, and the
coordinator sends the order (R341, R345, R346). -/
def State.rolledCheck (s : State) (c : Nat) : State :=
  let x := s.ctx c
  let st := x.step
  match st.decision with
  | none => s
  | some d =>
    if !(st.rolledSelf && decide (st.rolledFrom.length = x.childCount)) then s
    else
      let covered := st.rolledCovered + 1
      let lost := st.lostAny || x.gone
      if !s.coordinator c then
        s.sendCtl c x.parent msgRolled (some d.step) (rolledBytes d.step d.attempt covered lost st.diagRefusedAny)
      else if d.kind = 4 then
        if st.diagRefusedAny ∨ lost = true then s.sendDecision c ⟨d.step, d.attempt, 5, 11, 0xFFFF, 0⟩ s.ownChip
        else s.sendCtl c s.ownChip msgGo (some d.step) (goBytes d.step d.attempt 3)
      else
        let rerun := decide (d.kind = 2) && !lost
        s.sendCtl c s.ownChip msgGo (some d.step) (goBytes d.step (d.attempt + b2n rerun) (if rerun then 1 else 2))

/-- The rerun of the current step begins (R341 step 5, R343). -/
def State.rerunStep (s : State) (c attempt : Nat) : State :=
  let s1 := s.modStep c fun st => { st.newAttempt with
    attempt := attempt, rerun := true, decision := none, discardFrom := none, rolledSelf := false, rolledFrom := [],
    rolledCovered := 0, rerunDue := false, gateClosed := true }
  let n := (s1.ctx c).step.current
  (((s1.dropFences c fun k => decide (n < k)).restartCores c).writeSlot c n 1).openGate c

end Sys2Proof.Machine
end

