-- ==== Sys2Proof/Machine/Control.lean ====
section
/-! DEFINITION. The receipt of CONTROL messages (R275, R335, R365, R441). -/

namespace Sys2Proof.Machine

/-- The chip is fenced (R310, R365). -/
def State.fencedChip (s : State) (c : Nat) : Bool := chipKind (s.chipEntry c) == 3

/-- A packet of an operation has arrived at this module: it is addressed here, and neither end is fenced
(R299, R365, R366). -/
def State.arrived (s : State) (p : Packet) (op : Nat) : Bool :=
  p.op.toNat == op && p.dst == s.ownChip && !s.fencedChip p.src && !s.fencedChip p.dst

/-- The header obeys R274 and R275. -/
def goodHeader (p : Packet) : Bool :=
  let op := p.op.toNat
  let a := p.address.toNat
  decide (p.flags.toNat < 64) && decide (p.gh ≤ 2) && decide (p.dst < 2 ^ 14) && decide (p.src < 2 ^ 14) &&
    (op == 5 || p.dstLcore == 0) && decide (p.length.toNat ≤ 4096) && p.data.length == p.length.toNat &&
    decide (p.epoch.toNat < 2 ^ 48) &&
    (if op = 6 then decide (1 ≤ p.rsv.toNat) && decide (p.rsv.toNat ≤ 3) else p.rsv == 0) &&
    (if op = 5 then bits a 10 6 == 0 && decide (a < 2 ^ 48) && decide (1 ≤ bits a 16 32) else decide (a < 2 ^ 48)) &&
    (if op = 2 then decide (1 ≤ p.arg.toNat) && decide (p.arg.toNat ≤ 4096) else op != 1 || p.arg == 0) &&
    (op == 1 || op == 3 || op == 9 || p.length == 0) && (op != 6 || aligned a 8) &&
    (op != 3 || p.arg == 0) && (op != 8 || decide (p.arg.toNat < 2 ^ 16)) &&
    (p.jobTag != 0 || (p.srcLcore == 0xFF && op != 5))

/-- The port by which a packet came: it is noted at delivery, or still waits in that port's buffer. -/
def State.portOf (s : State) (p : Packet) : Option Nat :=
  (List.range 40).find? fun l => (s.link l).delivered.contains p || (s.link l).assembled.contains p

/-- The packet's own row has taken it. -/
def State.taken (s : State) (p : Packet) : State :=
  match (List.range 40).find? fun l => (s.link l).delivered.contains p with
  | some l => s.modLink l fun k => { k with delivered := k.delivered.erase p }
  | none => s

/-- REFUSE with a reason, and its report at the port the packet came by; for a packet that no port brought the location
is open (R280, R291). -/
def State.refuseAt (s : State) (port : Option Nat) (p : Packet) (reason : Nat) : State :=
  let (v, s1) := s.draw
  (s1.emit (.packet (s1.packet 8 p.src 0xFF 0 p.tag.toNat p.jobTag.toNat
    (pktFlags p.cls p.secure p.epochOf) p.epochOf 0 0 (reason + 256 * p.op.toNat) []))).report
      (codeAt Code.lkRemoteRefused (port.getD (v % 40)))

/-- A packet that has just come is refused. -/
def State.refuse (s : State) (p : Packet) (reason : Nat) : State := s.refuseAt (s.portOf p) p reason

/-- The packet came by a port at version 1 (R262). -/
def State.viaVersion1 (s : State) (p : Packet) : Bool := (s.portOf p).any fun l => (s.link l).version == 1

/-- A CONTROL message of a type has arrived; one with a bad header is refused at delivery (R274). -/
def State.ctlHere (s : State) (p : Packet) (type : Nat) : Bool := s.arrived p 9 && goodHeader p && p.arg.toNat == type

/-- What FAB finds for itself rather than by a message. -/
def fabOwn : Instr → Bool
  | .tableRebuild .. | .discoveryTimeout .. => true
  | _ => false

/-- A message for FAB: while FAB restarts it is held, up to 256; a further one is discarded (R441, R442). -/
def State.viaFab (s : State) (i : Instr) (f : State → State) : State :=
  if s.err.restarting.contains .fab then
    if (s.err.heldControl.filter fun h => !fabOwn h).length < 256 then
      { s with err := { s.err with heldControl := s.err.heldControl ++ [i] } }
    else s.report (codeAt Code.mcMailboxDrop 2)
  else f s

/-- What FAB finds for itself waits, while FAB restarts, for the end of the restart (R441). -/
def State.whenFab (s : State) (i : Instr) (f : State → State) : State :=
  if s.err.restarting.contains .fab then { s with err := { s.err with heldControl := s.err.heldControl ++ [i] } } else f s

end Sys2Proof.Machine
end

