-- ==== Sys2Proof/Machine/StepCmds.lean ====
section
/-! DEFINITION. The rows of the step protocol (R321, R331, R334–R346) and of publication (R140). -/

namespace Sys2Proof.Machine

def ctxOk (c : Nat) : Bool := decide (c < 8)

/-- The step is complete on this module (R321, R330). -/
def State.stepCompleteRow (s : State) (c : Nat) : State :=
  if !(s.ctx c).executing || (s.ctx c).step.complete then s
  else match s.stepOver c with
    | some n => s.completeStep c n
    | none => s

/-- STEP_COMPLETE (R319, R321, R331). -/
def execStepComplete (ctx : Nat) (s : State) : Host.Outcome State Fault Refusal :=
  inRange (ctxOk ctx) (s.stepCompleteRow ctx)

/-- A peer's digest is compared, held for its attempt, or discarded (R331). -/
def State.recvDigest (s : State) (p : Packet) : State :=
  if !s.ctlHere p msgDigest then s
  else match s.stepCtx p with
    | none => s
    | some c =>
      let st := (s.ctx c).step
      let n := fieldAt p.data 0 8
      let a := fieldAt p.data 8 2
      let shard := BitVec.ofNat 32 (fieldAt p.data 0x0C 4)
      let d := BitVec.ofNat 128 (fieldAt p.data 0x10 16)
      let later (e : Nat × Nat) : Bool :=
        decide (st.current < e.1) || (e.1 == st.current && decide (st.attempt < e.2))
      if n = st.current ∧ a = st.attempt then
        if st.complete then s.compareDigest c shard d
        else s.modStep c fun t => { t with digestsHeld := t.digestsHeld ++ [(n, a, shard, d)] }
      else if later (n, a) ∧ (st.digestsHeld.filter fun e => later (e.1, e.2.1)).length < 4 then
        s.modStep c fun t => { t with digestsHeld := t.digestsHeld ++ [(n, a, shard, d)] }
      else s

/-- ST_DIGEST (R331). -/
def execStDigest (pkt : Packet) (s : State) : Host.Outcome State Fault Refusal :=
  .next (s.viaFab (.stDigest pkt) fun t => t.recvDigest pkt)

/-- The vote leaves when its conditions hold (R226, R334). -/
def State.voteRow (s : State) (c : Nat) : State := if s.mayVote c then s.voteNow c else s

/-- VOTE_SEND (R334, R337, R338). -/
def execVoteSend (ctx : Nat) (s : State) : Host.Outcome State Fault Refusal :=
  inRange (ctxOk ctx) (if s.err.restarting.contains .fab then s else s.voteRow ctx)

/-- The step that votes now: the current one, or the step of the diagnosis replay. -/
def StepSt.voteStep (st : StepSt) : Nat := if st.diagRunning then st.diagStep.getD 0 else st.current

/-- A vote, own or a child's, joins the merge. -/
def StepSt.join (st : StepSt) (v : Vote) : Option Vote :=
  match st.merged with
  | some m => some (m.merge v)
  | none => some v

/-- A child's vote is merged; the coordinator decides when it has them all (R334, R335, R337). -/
def State.recvVote (s : State) (p : Packet) : State :=
  if !s.ctlHere p msgVote then s
  else match s.stepCtx p with
    | none => s
    | some c =>
      let st := (s.ctx c).step
      if fieldAt p.data 0 8 ≠ st.voteStep ∨ fieldAt p.data 8 2 ≠ st.attempt ∨ st.voters.contains p.src then s
      else
        let s1 := s.modStep c fun t => { t with
          children := keyInsert p.src t.children, voters := keyInsert p.src t.voters, merged := t.join (Vote.parse p.data) }
        if s1.coordinator c then s1.voteRow c else s1

/-- ST_VOTE (R337, R338). -/
def execStVote (pkt : Packet) (s : State) : Host.Outcome State Fault Refusal :=
  .next (s.viaFab (.stVote pkt) fun t => t.recvVote pkt)

/-- A decision of one kind for the receiver's current attempt, forwarded to the children (R335, R339). -/
def State.withDecision (s : State) (p : Packet) (kind : Nat) (f : Nat → Decision → State → State) : State :=
  if !s.ctlHere p msgDecide then s
  else match s.stepCtx p with
    | none => s
    | some c =>
      let st := (s.ctx c).step
      let d := Decision.parse p.data
      let stepOk :=
        if kind = 4 then true
        else if kind = 5 then st.decision.any fun e => e.step == d.step && e.kind == 4
        else d.step == st.current && st.decision.isNone
      if d.kind = kind ∧ stepOk ∧ d.attempt = st.attempt then f c d (s.toChildren c msgDecide d.step p.data) else s

/-- ST_DECIDE COMMIT (R340). -/
def execStDecideCommit (pkt : Packet) (s : State) : Host.Outcome State Fault Refusal :=
  .next (s.viaFab (.stDecideCommit pkt) fun t => t.withDecision pkt 1 fun c d u => u.commitStep c d.step)

/-- A REPLAY is acted on: it is reported and counted, for reasons 2 and 3 in fail_replays too, and engines stop
(R338, R341, R357, R358). -/
def State.actReplay (s : State) (c : Nat) (d : Decision) : State :=
  (((s.report (codeAt Code.stReplay c) { ctx := some c, step := some d.step }).modRegs c fun r =>
    { r with stReplays := satInc r.stReplays }).modStep c fun st =>
    { st with failReplays := if d.reason = 2 ∨ d.reason = 3 then st.failReplays + 1 else st.failReplays }).stopForRollback c d

/-- ST_DECIDE REPLAY (R341). -/
def execStDecideReplay (pkt : Packet) (s : State) : Host.Outcome State Fault Refusal :=
  .next (s.viaFab (.stDecideReplay pkt) fun t => t.withDecision pkt 2 fun c d u => u.actReplay c d)

/-- The code that a PAUSE's reason raises on each module (R146, R358). -/
def pauseCode (reason : Nat) : Option Nat :=
  match reason with
  | 4 => some Code.tsLsFloor
  | 5 => some Code.tsNfPause
  | 7 => some Code.stReplayLimit
  | _ => none

/-- A PAUSE is acted on: its reason is reported and shown, and engines stop (R146, R147, R341). -/
def State.actPause (s : State) (c : Nat) (d : Decision) : State :=
  let s1 := match pauseCode d.reason with
    | some k => s.report (codeAt k c) { ctx := some c, step := some d.step }
    | none => s
  (s1.modRegs c fun r => { r with
    tsLsFloor := r.tsLsFloor || d.reason == 4
    tsNfPaused := r.tsNfPaused || d.reason == 5
    tsLsMismatch := r.tsLsMismatch || d.reason == 6 }).stopForRollback c d

/-- ST_DECIDE PAUSE (R146, R341). -/
def execStDecidePause (pkt : Packet) (s : State) : Host.Outcome State Fault Refusal :=
  .next (s.viaFab (.stDecidePause pkt) fun t => t.withDecision pkt 3 fun c d u => u.actPause c d)

/-- A module whose window does not hold the step changes nothing and will report so (R346). -/
def State.refuseDiag (s : State) (c : Nat) (d : Decision) : State :=
  s.modStep c fun st => { st with
    decision := some d, rolledSelf := false, rolledFrom := [], rolledCovered := 0, lostAny := false, diagRefusedAny := false }

/-- ST_DECIDE DIAG (R345): the window's deltas are applied at ROLLBACK_RESTORE. -/
def execStDecideDiag (pkt : Packet) (s : State) : Host.Outcome State Fault Refusal :=
  .next (s.viaFab (.stDecideDiag pkt) fun t => t.withDecision pkt 4 fun c d u =>
    if (u.ctx c).st ≠ .paused then u
    else if (u.ctx c).step.window.contains d.step then u.stopForRollback c d
    else u.refuseDiag c d)

/-- The diagnosis command completes at the coordinator (R345, R346). -/
def State.diagComplete (s : State) (c reason : Nat) : State :=
  match (s.ctx c).step.diagCmd with
  | none => s
  | some h =>
    let s1 := (s.modStep c fun st => { st with diagCmd := none }).modCtx c fun x => { x with busy := none }
    if reason = 9 then s1.finish h 0
    else s1.finish h 9 (codeAt (if reason = 10 then Code.stDiagDiverge else Code.stDiagRefused) c)

/-- ST_DECIDE DIAG_DONE (R345, R346). -/
def execStDecideDiagDone (pkt : Packet) (s : State) : Host.Outcome State Fault Refusal :=
  .next (s.viaFab (.stDecideDiagDone pkt) fun t => t.withDecision pkt 5 fun c d u =>
    (u.diagDone c d.reason).diagComplete c d.reason)

/-- Step 2 of R341 or R345 on this module, once every packet and message it sent is settled. -/
def State.restoreRow (s : State) (c : Nat) : State :=
  let x := s.ctx c
  match x.step.decision with
  | none => s
  | some d =>
    if x.step.rolledSelf || d.kind == 1 || d.kind == 5 || (d.kind == 4 && s.hub.any fun m => m.ctx == c) then s
    else
      let s1 :=
        if x.gone then s.modStep c fun st => { st with rolledSelf := true, lostAny := true }
        else if d.kind = 4 then s.diagBack c d.step
        else s.rollback c d.step (d.kind == 2 && d.reason == 8)
      s1.rolledCheck c

/-- ROLLBACK_RESTORE (R341, R345). -/
def execRollbackRestore (ctx : Nat) (s : State) : Host.Outcome State Fault Refusal :=
  inRange (ctxOk ctx) (s.restoreRow ctx)

/-- A child's rollback report is merged (R341, R342). -/
def State.recvRolled (s : State) (p : Packet) : State :=
  if !s.ctlHere p msgRolled then s
  else match s.stepCtx p with
    | none => s
    | some c =>
      let st := (s.ctx c).step
      match st.decision with
      | none => s
      | some d =>
        let fl := fieldAt p.data 0x0C 1
        if fieldAt p.data 0 8 ≠ d.step ∨ fieldAt p.data 8 2 ≠ d.attempt ∨ st.rolledFrom.contains p.src then s
        else (s.modStep c fun t => { t with
          children := keyInsert p.src t.children, rolledFrom := keyInsert p.src t.rolledFrom
          rolledCovered := t.rolledCovered + fieldAt p.data 0x0A 2, lostAny := t.lostAny || bitAt fl 0
          diagRefusedAny := t.diagRefusedAny || bitAt fl 1 }).rolledCheck c

/-- ST_ROLLED (R341, R342). -/
def execStRolled (pkt : Packet) (s : State) : Host.Outcome State Fault Refusal :=
  .next (s.viaFab (.stRolled pkt) fun t => t.recvRolled pkt)

/-- An order of one action for the decision in hand, forwarded to the children (R341, R342). -/
def State.withGo (s : State) (p : Packet) (action : Nat) (f : Nat → Decision → State → State) : State :=
  if !s.ctlHere p msgGo then s
  else match s.stepCtx p with
    | none => s
    | some c =>
      match (s.ctx c).step.decision with
      | none => s
      | some d =>
        let want := if action = 1 then d.attempt + 1 else d.attempt
        if fieldAt p.data 0 8 = d.step ∧ fieldAt p.data 8 2 = want ∧ fieldAt p.data 0x0C 1 = action ∧
            (action == 3) = (d.kind == 4) then
          f c d (s.toChildren c msgGo d.step p.data)
        else s

/-- ST_GO RERUN (R341, R343). -/
def execStGoRerun (pkt : Packet) (s : State) : Host.Outcome State Fault Refusal :=
  .next (s.viaFab (.stGoRerun pkt) fun t => t.withGo pkt 1 fun c d u =>
    if (u.ctx c).gone then u else u.rerunStep c (d.attempt + 1))

/-- The code of the PAUSED event of a decision. -/
def Decision.pausedCode (d : Decision) (c : Nat) : Word :=
  match pauseCode d.reason with
  | some k => codeAt k c
  | none => if d.reason = 6 then codeAt Code.tsLsMismatch c else d.failCode

/-- HOLD: the context enters PAUSED with the gate of the step closed; arrivals of the step go on being discarded until
it reruns (R198, R341). -/
def State.hold (s : State) (c : Nat) (d : Decision) : State :=
  let s1 := s.modStep c fun st => { st with decision := none, gateClosed := true, rerunDue := true }
  if (s1.ctx c).st = .running then (s1.markSlot c d.step 4).enterPaused c (d.pausedCode c) else s1

/-- The diagnosis replay of a step begins, with the exponent of its slot (R345). -/
def State.diagRun (s : State) (c : Nat) (d : Decision) : State :=
  match (s.ctx c).skein, (s.ctx c).step.diagStep with
  | some k, some n =>
    let e := signed 8 (fieldAt (s.peek (.mem c) (k.slotBase n) 64) 0x0B 1)
    ((s.touch (.mem c) (k.slotBase n) 64).modCtx c fun x => { x with
      ls := x.ls.setExp d.step e
      step := { x.step.newAttempt with diagRunning := true, discardFrom := none } }).restartCores c
  | _, _ => s

/-- ST_GO DIAG_RUN (R345). -/
def execStGoDiagRun (pkt : Packet) (s : State) : Host.Outcome State Fault Refusal :=
  .next (s.viaFab (.stGoDiagRun pkt) fun t => t.withGo pkt 3 fun c d u => u.diagRun c d)

/-- STATS_PUBLISH_DONE (R140). -/
def execStatsPublishDone (ctx : Nat) (s : State) : Host.Outcome State Fault Refusal :=
  inRange (ctxOk ctx) (s.publish ctx)

/-- The oldest raw record of a window step is converted (R344). -/
def State.convertOne (s : State) (c : Nat) : State :=
  let x := s.ctx c
  match x.step.undo.find? fun u => u.kind == 1 && x.step.window.contains u.epoch with
  | some u => if x.step.diagRunning then s else s.convertUndo c u
  | none => s

/-- UNDO_DELTA_CONVERT (R344). -/
def execUndoDeltaConvert (ctx : Nat) (s : State) : Host.Outcome State Fault Refusal :=
  inRange (ctxOk ctx) (s.convertOne ctx)

end Sys2Proof.Machine
end

