-- ==== Sys2Proof/Machine/HostCmd.lean ====
section
/-! DEFINITION. Host commands: posting, fetching and taking them in turn (R29, R484, R487–R490). -/

namespace Sys2Proof.Machine

/-- READY (R513). -/
def stageReady : Nat := 0xF0

/-- SCH processes commands: the start is over, and neither a reset, a restart nor standby stops it
(R440, R441, R469, R513). -/
def State.schRuns (s : State) : Bool :=
  s.board.powered && !s.board.resetLow && s.boot.stage == stageReady && !s.err.warmReset &&
    !s.err.restarting.contains .sch && s.pw.standby == 0

/-- Payload size, and whether it is a command of a context that exists (R489). -/
def cmdForm (op : Nat) : Option (Nat × Bool) :=
  match op with
  | 0x01 => some (64, false)
  | 0x02 => some (8, true)
  | 0x03 | 0x04 | 0x05 => some (0, true)
  | 0x10 => some (32, true)
  | 0x11 => some (8, true)
  | 0x12 => some (16, true)
  | 0x20 => some (24, true)
  | 0x21 => some (8, true)
  | 0x30 | 0x31 => some (64, true)
  | 0x40 => some (8, true)
  | 0x41 => some (40, true)
  | 0x42 => some (8, true)
  | 0x50 => some (8, false)
  | 0x51 => some (72, false)
  | 0x60 => some (0, false)
  | _ => none

/-- The command of a block (R488). -/
def HostCmd.parse (port : Nat) (b : List Byte) : HostCmd :=
  { port := port, opcode := fieldAt b 0 2, ctxId := fieldAt b 2 1, irq := bitAt (fieldAt b 3 1) 0
    tag := BitVec.ofNat 64 (fieldAt b 8 8), payload := slice b 0x40 (fieldAt b 4 4 % 128) }

/-- The status that a block's header earns, if it is refused (R486, R488, R490). -/
def State.headerStatus (s : State) (port : Nat) (b : List Byte) : Option Nat :=
  if s.err.fatalHold then some 10
  else if (s.port port).selected = 0 then some 7
  else match cmdForm (fieldAt b 0 2) with
    | none => some 8
    | some (n, ofCtx) =>
      let id := fieldAt b 2 1
      if (if ofCtx then decide (id < 8) else id == 0xFF) && decide (fieldAt b 3 1 < 2) && fieldAt b 4 4 == n &&
          allZero (slice b 0x10 48) then none
      else some 3

/-- A command block has been read: its command is accepted into SCH's order, or refused (R487, R488). -/
def State.acceptBlock (s : State) (port : Nat) (b : List Byte) : State :=
  let h := HostCmd.parse port b
  match s.headerStatus port b with
  | some 7 => (s.report (codeAt Code.hxErrVersion port)).finish h 7 (codeAt Code.hxErrVersion port)
  | some st => s.finish h st
  | none => { s with sch := s.sch ++ [h] }

/-- A record for a post whose block could not be taken (R487). -/
def State.postRefused (s : State) (port status : Nat) (code : Word) : State :=
  s.postRecord port (recordBytes 0 0 0xFF status 0 code.toNat 0 []) false

/-- The oldest post of a port is fetched (R487, R496). -/
def State.fetchPost (s : State) (port : Nat) (r : PcieRead) : State :=
  let p := s.port port
  match p.queue with
  | [] => s
  | a :: rest =>
    if !s.schRuns || p.full || !p.waiting.isEmpty then s
    else
      let s1 := s.setPort port { p with queue := rest }
      if a.toNat % 64 ≠ 0 then s1.postRefused port 3 0
      else match r with
        | .ok b => s1.acceptBlock port b
        | _ => (s1.report (codeAt Code.hxCmdReadFail port)).postRefused port 11 (codeAt Code.hxCmdReadFail port)

/-- COMMAND_FETCH (R487, R488). -/
def execCommandFetch (port : Nat) (r : PcieRead) (s : State) : Host.Outcome State Fault Refusal :=
  inRange (decide (port < 2)) (s.fetchPost port r)

/-! ### Taking a command in turn -/

/-- Take the first queued command of a context id, or the first module command with an opcode. -/
def takeCmd (sel : HostCmd → Bool) : List HostCmd → Option (HostCmd × List HostCmd)
  | [] => none
  | h :: r =>
    if sel h then some (h, r)
    else match takeCmd sel r with
      | some (x, r') => some (x, h :: r')
      | none => none

/-- A command that SEC's world table must record waits while SEC restarts (R441). -/
def needsSec (op : Nat) : Bool := op == 1 || op == 5 || op == 0x10 || op == 0x11

/-- The next command of a context, if it has this opcode: one from a port that does not own the context, or that finds
a slot without a context, is refused; others run (R29, R489). -/
def State.ctxCmd (s : State) (c op : Nat) (f : HostCmd → State → State) : State :=
  if !s.schRuns || (needsSec op && s.err.restarting.contains .sec) then s
  else match takeCmd (fun h => h.ctxId == c) s.sch with
    | none => s
    | some (h, rest) =>
      let x := s.ctx c
      if h.opcode ≠ op ∨ (x.busy.isSome ∧ op ≠ 5) then s
      else
        let s1 : State := { s with sch := rest }
        if s.err.fatalHold then s1.finish h 10
        else if x.st = .free then s1.finish h 1
        else if x.owner ≠ h.port then s1.finish h 2
        else f h s1

/-- The next module command with this opcode; it needs the port's administrative permission (R489). -/
def State.moduleCmd (s : State) (op : Nat) (f : HostCmd → State → State) : State :=
  if !s.schRuns || (needsSec op && s.err.restarting.contains .sec) then s
  else match takeCmd (fun h => h.ctxId == 0xFF && h.opcode == op) s.sch with
    | none => s
    | some (h, rest) =>
      let s1 : State := { s with sch := rest }
      if s.err.fatalHold then s1.finish h 10
      else if op ≠ 1 ∧ !s.portAdmin h.port then s1.finish h 2
      else f h s1

/-- A command stays in progress for its context. -/
def State.setBusy (s : State) (c : Nat) (h : HostCmd) : State := s.modCtx c fun x => { x with busy := some h }
def State.clearBusy (s : State) (c : Nat) : State := s.modCtx c fun x => { x with busy := none }

/-- Commands in progress: taken in turn, and not complete (R29, R487). -/
def State.inProgress (s : State) : List HostCmd :=
  (ctxNums.flatMap fun c => (s.ctx c).busy.toList ++ (s.ctx c).ck.cmd.toList) ++ s.kakCmd.toList ++
    s.mapoutCmds.map (·.2) ++ s.resumeWaits.map (·.2.2)

/-! ### The creation record (R361) -/

/-- The 80 bytes of registers. -/
def CtxRegs.creation (r : CtxRegs) : List Byte :=
  [r.stCfg, r.stSkein, r.stPersist, r.stTree, r.stShardOwn, r.stShardMir, r.stPeer0, r.stPeer1, r.stPeer2, r.stPeer3,
    r.stTrace, r.stPair, r.stRegmap, r.stRecov, r.tsLsConfig, r.tsLsRange, r.lkJob].flatMap
      (fun w => leBytes 4 w.toNat) ++ zeros 12

/-- One region entry. -/
def Ctx.regionEntry (x : Ctx) (r : Nat) : List Byte :=
  match x.region r with
  | some g => leBytes 8 g.base ++ leBytes 8 g.bytes ++ leBytes 1 g.mode ++ leBytes 1 g.set ++ leBytes 1 1 ++ zeros 13
  | none => zeros 32

/-- The 32 KiB creation record of a context, with the registers and the stream table of its CTX_START. -/
def Ctx.creation (x : Ctx) : List Byte :=
  let head := slice x.desc.raw 0 64 ++ (List.range 16).flatMap x.regionEntry ++
    leBytes 16 (maskOf ((List.range x.lid.length).filter fun i => (x.lid[i]?).any (·.2))) ++ leBytes 8 x.startTable ++
    x.startRegs.creation
  slice head 0 0x8000

end Sys2Proof.Machine
end

