-- ==== Sys2Proof/Machine/Bar0.lean ====
section
/-! DEFINITION. How a BAR0 write reaches its register (R441, R469, R483, R484), the values that registers store
(R6, R152, R252, R254, R289, R349–R354, R388–R395, R419, R444, R450, R498), and the mailbox (R487). -/

namespace Sys2Proof.Machine

/-! ### STAT (R547) and platform events (R552) -/

/-- STAT[2:0]: the first row of R547 that applies. -/
def State.stat (s : State) : Nat :=
  if !s.board.powered || s.board.resetLow || (s.boot.stage == 0 && !s.boot.startDue) then 7
  else if s.err.fatalHold || s.pw.tripped || s.board.leakWet then 3
  else if s.err.warmReset then 5
  else if 0xE0 ≤ s.boot.stage ∧ s.boot.stage ≤ 0xE2 then 2
  else if s.boot.stage < 0x0E then 1
  else if s.pw.standby ≠ 0 then 4
  else 0

/-- A platform event goes to the endpoint of the latest SetEventReceiver, if there is one (R552). -/
def State.platformEvent (s : State) (sensor : Nat) (value : Int) : State :=
  match s.board.eventReceiver with
  | some eid => s.emit (.event eid sensor value)
  | none => s

/-- The state sensor's change since it read `old` is sent. -/
def State.tell (s : State) (old : Nat) : State := if s.stat = old then s else s.platformEvent 0x10 s.stat

/-! ### Writes -/

/-- A BAR0 write takes effect, is held while SCH restarts, or is dropped (R441, R469, R484). -/
def State.bar0 (s : State) (i : Instr) (f : State → State) : State :=
  if !s.board.powered || s.board.resetLow || s.boot.stage != stageReady || s.err.warmReset || s.pw.standby != 0 then s
  else if s.err.restarting.contains .sch then { s with err := { s.err with heldWrites := s.err.heldWrites ++ [i] } }
  else f s

/-- The port owns the context (R483). -/
def State.owns (s : State) (port c : Nat) : Bool := (s.ctx c).st != .free && (s.ctx c).owner == port

/-- The port may reach a core's registers: the core is free, or its context is the port's (R483). -/
def State.ownsCore (s : State) (port p : Nat) : Bool :=
  match s.coreOwner p with
  | some (c, _) => s.owns port c
  | none => true

/-- The context accepts writes of its set-up registers (R290, R349, R388, R419). -/
def Ctx.setUp (x : Ctx) : Bool := x.st == .created || x.st == .finished

/-! ### Stored values: fields kept, reserved bits zero -/

/-- The bits of a word below `n`. -/
def lowBits (w : Word) (n : Nat) : Word := BitVec.ofNat 32 (fld w 0 n)

/-- The word with only the listed fields (lowest bit, width). -/
def keepFields (w : Word) (l : List (Nat × Nat)) : Word :=
  BitVec.ofNat 32 ((l.map fun (lo, n) => fld w lo n * 2 ^ lo).sum)

/-- W1C: each 1 written clears the bit, among those of the mask (R6). -/
def w1c (old v mask : Word) : Word := old &&& ~~~(v &&& mask)

/-- ST_CTX_CFG (R349). -/
def putStCfg (w : Word) : Word :=
  at32 12 (max 1 (fld w 12 4)) ||| at32 5 (min 16 (fld w 5 5)) ||| at32 2 (min 4 (fld w 2 3)) ||| at32 0 (fld w 0 1)

/-- ST_CTX_SKEIN (R350). -/
def putStSkein (w : Word) : Word := keepFields w [(8, 16), (0, 4)]
/-- ST_CTX_TREE (R351). -/
def putStTree (w : Word) : Word := at32 16 (fld w 16 14) ||| at32 0 (min 64 (fld w 0 7))
/-- ST_CTX_PEER0–3 (R353). -/
def putStPeer (w : Word) : Word := keepFields w [(31, 1), (16, 1), (0, 14)]
/-- ST_CTX_TRACE (R354). -/
def putStTrace (w : Word) : Word := keepFields w [(31, 1), (0, 4)]
/-- ST_CTX_PAIR (R388). -/
def putStPair (w : Word) : Word := keepFields w [(31, 1), (16, 4), (0, 14)]
/-- ST_CTX_RECOV (R390). -/
def putStRecov (w : Word) : Word :=
  at32 24 (fld w 24 8) ||| at32 8 (max 1 (fld w 8 16)) ||| at32 0 (min 2 (fld w 0 2))
/-- TS_LS_CONFIG (R151) and TS_LS_RANGE (R152). -/
def putLsConfig (w : Word) : Word := keepFields w [(16, 16), (0, 2)]
def putLsRange (w : Word) : Word := lowBits w 24
/-- MS_CKPT_CFG (R419). -/
def putCkptCfg (w : Word) : Word := keepFields w [(31, 1), (16, 8), (8, 4), (0, 4)]
/-- ST_CTX_HIST_CFG: width is written, slowest stays (R393). -/
def putHistCfg (old w : Word) : Word := setFld old 0 4 (fld w 0 4)
/-- MS_HBM_CFG: a burst outside 8–128 leaves the field unchanged (R252). -/
def putHbmCfg (old w : Word) : Word :=
  let b := fld w 8 8
  at32 8 (if 8 ≤ b ∧ b ≤ 128 then b else fld old 8 8) ||| at32 0 (fld w 0 1)
/-- MS_LAT_SEL (R254). -/
def putLatSel (w : Word) : Word := at32 8 (min 10 (fld w 8 4)) ||| at32 0 (fld w 0 8)
/-- LK_CFG (R289), TP_FD_CFG (R395). -/
def putLkCfg (w : Word) : Word := at32 0 (max 1 (fld w 0 8))
def putFdCfg (w : Word) : Word := at32 0 (max 2 (fld w 0 8))
/-- TP_OVR (R316). -/
def putTpOvr (w : Word) : Word := keepFields w [(31, 1), (29, 2), (23, 6), (0, 14)]
/-- EL_CTRL.fatal_action (R444). -/
def putFatalAction (w : Word) : Nat := if fld w 0 2 = 3 then 1 else fld w 0 2
/-- EL_WD_CFG (R450). -/
def putWdCfg (w : Word) : Word := at32 16 (fld w 16 16) ||| at32 0 (max 1 (fld w 0 16))
/-- HX_IRQ_CFG (R498). -/
def putIrqCfg (w : Word) : Word := at32 8 (fld w 8 24) ||| at32 0 (min 4 (fld w 0 3))

/-! ### Mailbox (R487) -/

/-- A write of HX_MBX_POST_HI posts, or is discarded when 64 posts wait. -/
def State.mbxPost (s : State) (port : Nat) (hi : Word) : State :=
  let p := { s.port port with postHi := hi }
  if p.queue.length < 64 then s.setPort port { p with queue := p.queue ++ [hi ++ p.postLo] }
  else (s.setPort port { p with discarded := true, irqStatus := p.irqStatus ||| at32 3 1 }).report
    (codeAt Code.hxMbxFull port)

/-- MBX_POST (R487). -/
def execMbxPost (port : Nat) (hi : Word) (s : State) : Host.Outcome State Fault Refusal :=
  inRange (decide (port < 2)) (s.bar0 (.mbxPost port hi) fun t => t.mbxPost port hi)

end Sys2Proof.Machine
end

