-- ==== Sys2Proof/Machine/Ckpt.lean ====
section
/-! DEFINITION. Checkpoints (R398–R413): the command, the movers, the shards and the manifest in the pool, and the
acknowledgement; and the tensor table (R409). -/

namespace Sys2Proof.Machine

/-! ### Tensor entries (R409) -/

/-- A tensor entry. -/
structure TEntry where
  tag : Nat
  format : Nat
  layout : Nat
  dims : Nat
  region : Nat
  base : Nat
  strideHdr : Nat
  side : Nat
  lohi : List (Nat × Nat)
  extent : List Nat
  raw : List Byte
  deriving DecidableEq, Repr

def TEntry.parse (b : List Byte) : TEntry :=
  let n := fieldAt b 0x0A 1
  { tag := fieldAt b 0 8, format := fieldAt b 8 1, layout := fieldAt b 9 1, dims := n, region := fieldAt b 0x0B 1
    base := fieldAt b 0x10 8, strideHdr := fieldAt b 0x18 8, side := fieldAt b 0x20 8
    lohi := (List.range (min n 6)).map fun d => (fieldAt b (0x30 + 8 * d) 4, fieldAt b (0x34 + 8 * d) 4)
    extent := (List.range (min n 6)).map fun d => fieldAt b (0x60 + 4 * d) 4
    raw := slice b 0 128 }

/-- Entries of a table. -/
def tEntries (t : List Byte) : List TEntry := (List.range (t.length / 128)).map fun i => TEntry.parse (t.drop (128 * i))

/-- Lengths of the slice in each dimension. -/
def TEntry.lens (t : TEntry) : List Nat := t.lohi.map fun x => x.2 - x.1
/-- Stored rows: the outer dimensions in row-major order. -/
def TEntry.rows (t : TEntry) : Nat := (t.lens.dropLast).prod
/-- Elements of a row. -/
def TEntry.cols (t : TEntry) : Nat := (t.lens.getLast?).getD 0

def TEntry.blkAt (t : TEntry) : BlkAt := ⟨t.format, t.base, t.strideHdr, t.side, ceilDiv t.cols 32⟩

/-- The ranges that a slice takes. -/
def TEntry.spans (t : TEntry) : List (Nat × Nat) :=
  if t.layout = 2 then t.blkAt.spans 0 t.rows 0 t.blkAt.B
  else if t.rows = 0 then [] else [(t.base, (t.rows - 1) * t.strideHdr + t.cols * elemBytes t.format)]

/-- The entry obeys R409. -/
def TEntry.ok (t : TEntry) : Bool :=
  let blk := isBlockFmt t.format
  let n := t.dims
  decide (t.format ≤ 8) && (t.layout == (if blk then 2 else 1)) && decide (1 ≤ n) && decide (n ≤ 6) &&
    allZero (slice t.raw 0x0C 4) && allZero (slice t.raw 0x28 8) && (blk || t.side == 0) &&
    (List.range n).all (fun d => match t.lohi[d]?, t.extent[d]? with
      | some x, some e => decide (x.1 < x.2) && decide (x.2 ≤ e) &&
          (!blk || (if d + 1 = n then decide (x.1 % 32 = 0) && (decide (x.2 % 32 = 0) || x.2 == e)
            else if d + 2 = n then decide (x.1 % 64 = 0) && (decide (x.2 % 64 = 0) || x.2 == e) else true))
      | _, _ => false) &&
    (List.range 6).all (fun d => decide (d < n) || (allZero (slice t.raw (0x30 + 8 * d) 8) && allZero (slice t.raw (0x60 + 4 * d) 4))) &&
    allZero (slice t.raw 0x78 8)

/-- The slice lies wholly in its region, which is one of the listed ones. -/
def TEntry.inside (t : TEntry) (x : Ctx) (rs : List Nat) : Bool :=
  rs.contains t.region && t.spans.all fun sp => within sp.1 sp.2 (x.regionBase t.region) (x.regionBytes t.region)

/-- Mapped regions of a context. -/
def Ctx.mapped (x : Ctx) : List Nat := (List.range 16).filter fun r => (x.region r).isSome

/-! ### The command (R400, R401) -/

/-- Sizes of the full shards in the pool area, each from a multiple of 64 KiB (R405, R406). -/
def Ctx.fullSize (x : Ctx) (rs : List Nat) : Nat := (rs.map fun r => roundUp (x.regionBytes r) 65536).sum

/-- The region is in use by neither the persistent mask nor the checkpoint set. -/
def Ctx.freeRegion (x : Ctx) (r : Nat) : Bool :=
  (x.region r).isSome && !bitAt x.persist r && !x.ckSet.contains r

/-- The base of MS_CKPT_CFG can serve (R401). -/
def Ctx.baseOk (x : Ctx) : Bool :=
  !x.ckSet.contains (fld x.regs.msCkptCfg 0 4) && decide (x.baseOffset 16 ≤ x.regionBytes (fld x.regs.msCkptCfg 0 4))

/-- The snapshot region and the base of MS_CKPT_CFG can serve (R401). -/
def Ctx.ckCfgOk (x : Ctx) : Bool := x.freeRegion (fld x.regs.msCkptCfg 8 4) && (!x.baseEn || x.baseOk)

/-- The descriptor obeys R401. -/
def State.ckDescOk (s : State) (c : Nat) (b : List Byte) : Bool :=
  let x := s.ctx c
  let kind := fieldAt b 1 1
  let chip := fieldAt b 2 2
  let n := fieldAt b 4 4
  let seq := fieldAt b 8 8
  let base := fieldAt b 0x10 8
  let size := fieldAt b 0x18 8
  let addr := fieldAt b 0x20 8
  let rs := if kind = 3 then x.mapped else x.ckSet
  fieldAt b 0 1 == c && decide (1 ≤ kind) && decide (kind ≤ 3) && decide (chip < 2 ^ 14) &&
    chipKind (s.chipEntry chip) == 4 && s.routed chip && decide (n ≤ 8160) && seq != 2 ^ 64 - 1 &&
    (match x.ck.lastSeq with
      | some l => decide (l.toNat < seq)
      | none => true) &&
    aligned base 65536 && decide (base < 2 ^ 48) && aligned size 65536 && decide (2 ^ 21 + x.fullSize rs ≤ size) &&
    aligned addr 128 && (n != 0 || addr == 0) && allZero (slice b 0x28 24) && (kind == 3 || x.ckCfgOk) &&
    (n == 0 || s.inRegion c addr (128 * n))

/-- State in which a kind is accepted (R398). -/
def ckAccepts (kind : Nat) (st : CtxState) : Bool :=
  match st with
  | .suspended => true
  | .running | .paused | .finished => kind != 3
  | _ => false

/-- The held signals as a shard: 16 bytes each (R407). -/
def heldBytes (l : List HeldSignal) : List Byte :=
  l.flatMap fun h =>
    leBytes 2 h.ctr ++ leBytes 4 h.inc ++ leBytes 2 h.chip ++ leBytes 1 h.sender ++ zeros 7

/-- What a STATE checkpoint takes whole: creation record, save area, lid scratchpad, held signals (R398, R403). -/
def State.ckExtra (s : State) (c : Nat) : List (Nat × List Byte) :=
  let x := s.ctx c
  [(3, x.creation), (4, s.peek (.mem c) x.saveArea (roundUp (x.desc.coreCount * 4767744) (2 ^ 26))),
    (5, s.peek (.mem c) lidBase (x.scratch.length * 2 ^ 25)), (6, heldBytes x.heldSignals)]

/-- Taking the save area and the scratchpad for a STATE checkpoint reads them, which finds their errors (R221, R222). -/
def State.touchExtra (s : State) (c : Nat) : State :=
  let x := s.ctx c
  (s.touch (.mem c) x.saveArea (roundUp (x.desc.coreCount * 4767744) (2 ^ 26))).touch (.mem c) lidBase
    (x.scratch.length * 2 ^ 25)

/-- CKPT is accepted or refused (R400, R401); a snapshot that need not wait is taken at once (R398). -/
def State.ckStart (s : State) (c : Nat) (h : HostCmd) : State :=
  let x := s.ctx c
  let b := h.payload
  let kind := fieldAt b 1 1
  if x.ck.state ≠ 0 ∨ !ckAccepts kind x.st then s.finish h (if 1 ≤ kind ∧ kind ≤ 3 then 1 else 3)
  else if !s.ckDescOk c b then s.finish h 3
  else
    let n := fieldAt b 4 4
    let (t, s1) := s.read (.mem c) (fieldAt b 0x20 8) (128 * n)
    let es := tEntries t.bytes
    if !es.all (fun e => e.ok && e.inside x (if kind = 3 then x.mapped else x.ckSet)) then s1.finish h 3
    else
      let every := fld x.regs.msCkptCfg 16 8
      let promote := kind == 2 && (!x.ck.baseValid || (decide (every ≠ 0) && decide (every ≤ x.ck.deltas)))
      let s2 := if promote then s1.report (codeAt Code.ckPromoted c) { ctx := some c } else s1
      let s3 := s2.modCtx c fun y => { y with ck := { y.ck with
        state := 1, kind := if promote then 1 else kind, cmd := some h, seq := BitVec.ofNat 64 (fieldAt b 8 8)
        poolChip := fieldAt b 2 2, poolBase := fieldAt b 0x10 8, poolSize := fieldAt b 0x18 8, tensors := t.bytes
        sent := Tbl.get 0 y.ck.poolSent (fieldAt b 2 2)
        promoted := y.ck.promoted || promote } }
      if kind = 3 then
        let all := x.pagesIn x.mapped
        (s3.touchExtra c).modCtx c fun y => { y with ck := { y.ck with
          state := 2, left := all, frozen := all, live := [], extra := s.ckExtra c
          stepC := BitVec.ofNat 64 (x.step.committed.getD (2 ^ 64 - 1)) } }
      else if x.st = .running then s3
      else s3.ckSnapshot c

/-- CKPT (R400, R401). -/
def execCkpt (ctx : Nat) (s : State) : Host.Outcome State Fault Refusal :=
  inRange (ctxOk ctx) (s.ctxCmd ctx 0x30 fun h t => t.ckStart ctx h)

/-! ### Shards (R405–R407) -/

/-- Tag of a context's writes to the pool, and of its reads from it. -/
def tagPool (c : Nat) : Nat := 0x300 + c
def tagRestore (c : Nat) : Nat := 0x400 + c

/-- The delta shard of a region from its page records. -/
def deltaShard (r pages : Nat) (recs : List (Nat × List Byte)) : List Byte :=
  let sorted := recs.mergeSort fun a b => a.1 ≤ b.1
  leBytes 1 r ++ zeros 7 ++ leBytes 8 pages ++ leBytes 8 sorted.length ++ zeros 40 ++
    slice (bitmapBytes pages fun p => sorted.any fun e => e.1 == p) 0 (roundUp (ceilDiv pages 8) 64) ++
    sorted.flatMap (·.2)

/-- The full shard of a region from its page images. -/
def fullShard (recs : List (Nat × List Byte)) : List Byte :=
  (recs.mergeSort fun a b => a.1 ≤ b.1).flatMap (·.2)

/-- The shards in order: regions, then what a STATE takes whole: (contents, region, bytes, region bytes). -/
def Ctx.shardsOf (x : Ctx) : List (Nat × Nat × List Byte × Nat) :=
  let k := x.ck
  let rs := if k.kind = 3 then x.mapped else x.ckSet
  (rs.map fun r =>
    let recs := k.pages.filterMap fun e => if e.1 = r then some (e.2.1, e.2.2) else none
    if k.kind = 2 then (2, r, deltaShard r (x.regionBytes r / pageBytes) recs, x.regionBytes r)
    else (1, r, fullShard recs, x.regionBytes r)) ++ k.extra.map fun e => (e.1, 0, e.2, 0)

/-- Offsets of the shards in the pool area. -/
def placeShards : Nat → List (Nat × Nat × List Byte × Nat) → List (Nat × Nat × Nat × List Byte × Nat)
  | _, [] => []
  | off, (k, r, b, n) :: rest => (k, r, off, b, n) :: placeShards (off + roundUp b.length 65536) rest

/-- Writes of a byte string into the pool area (R276, R405). Their acknowledgement is the landed count of one fence
entry at the pool, so the count sent runs on over checkpoints (R281; log 159). -/
def State.poolWrite (s : State) (c off : Nat) (b : List Byte) : State :=
  let x := s.ctx c
  let a := x.ck.poolBase + off
  let s1 := (cut4k a b.length).foldl (fun t w =>
    t.emit (.packet (t.packet 1 x.ck.poolChip 0xFF 0 (tagPool c) (fld x.regs.lkJob 0 16)
      (pktFlags 0 x.desc.secure none) none w.1 0 0 ((b.drop (w.1 - a)).take w.2)))) s
  s1.modCtx c fun y =>
    let n := Tbl.get 0 y.ck.poolSent x.ck.poolChip + b.length
    { y with ck := { y.ck with poolSent := Tbl.set 0 y.ck.poolSent x.ck.poolChip n, sent := n } }

/-- Every page is read: the shards are laid out and written, up to one that would pass the area (R405). -/
def State.sendShards (s : State) (c : Nat) : State :=
  let x := s.ctx c
  let l := placeShards (2 ^ 21) x.shardsOf
  let fits (e : Nat × Nat × Nat × List Byte × Nat) : Bool := decide (e.2.2.1 + e.2.2.2.1.length ≤ x.ck.poolSize)
  let s1 := s.modCtx c fun y => { y with ck := { y.ck with shards := l, shardsSent := true } }
  let s2 := (l.takeWhile fits).foldl (fun t e => t.poolWrite c e.2.2.1 e.2.2.2.1) s1
  if l.all fits then s2 else s2.ckFail c Code.ckPoolFull

/-- One page is copied by a mover, pages in snapshot slots first (R402, R404). -/
def State.moverStep (s : State) (c : Nat) : State :=
  let k := (s.ctx c).ck
  if k.state ≠ 2 ∨ k.shardsSent then s
  else
    let next := match k.saved with
      | e :: _ => some (e.1, e.2.1)
      | [] => k.left.head?
    let s1 := match next with
      | some e => s.moverTake c e
      | none => s
    let k1 := (s1.ctx c).ck
    if k1.state = 2 ∧ k1.left.isEmpty then s1.sendShards c else s1

/-- MOVER_PAGE_COPY (R404). -/
def execMoverPageCopy (ctx : Nat) (s : State) : Host.Outcome State Fault Refusal :=
  inRange (ctxOk ctx) (s.moverStep ctx)

/-! ### The manifest (R408, R410) -/

def shardEntry (e : Nat × Nat × Nat × List Byte × Nat) : List Byte :=
  leBytes 1 e.1 ++ leBytes 1 e.2.1 ++ zeros 6 ++ leBytes 8 e.2.2.1 ++ leBytes 8 e.2.2.2.1.length ++ leBytes 8 e.2.2.2.2 ++
    sha384 e.2.2.2.1 ++ zeros 16

def State.manifest (s : State) (c : Nat) : List Byte :=
  let x := s.ctx c
  let k := x.ck
  let n := k.tensors.length / 128
  let allOnes := 2 ^ 64 - 1
  let head := leBytes 4 1 ++ leBytes 1 k.kind ++ leBytes 1 k.shards.length ++ leBytes 2 (fld x.regs.lkJob 0 16) ++
    leBytes 8 k.stepC.toNat ++ leBytes 8 k.seq.toNat ++
    leBytes 8 (if k.kind = 2 then (k.lastSeq.map (·.toNat)).getD allOnes else allOnes) ++
    leBytes 8 (if k.kind = 2 then k.fullSeq.toNat else k.seq.toNat) ++ leBytes 2 s.ownChip ++ zeros 2 ++ leBytes 4 n ++
    leBytes 4 x.regs.stShardOwn.toNat ++ leBytes 4 (0x1000 + 128 * n + 48) ++ zeros 8
  let b := slice (head ++ k.shards.flatMap shardEntry) 0 0x1000 ++ k.tensors
  b ++ sha384 b

/-- The manifest is written once every shard write is acknowledged (R410). -/
def State.manifestStep (s : State) (c : Nat) : State :=
  let k := (s.ctx c).ck
  if k.state = 2 ∧ k.shardsSent ∧ k.sent ≤ k.acked ∧ !k.manifestSent then
    (s.poolWrite c 0 (s.manifest c)).modCtx c fun y => { y with ck := { y.ck with state := 3, manifestSent := true } }
  else s

/-- CK_MANIFEST_WRITE (R408, R410). -/
def execCkManifestWrite (ctx : Nat) (s : State) : Host.Outcome State Fault Refusal :=
  inRange (ctxOk ctx) (s.manifestStep ctx)

def msgCommit : Nat := 0x0030
def msgCkAck : Nat := 0x0031

/-- A CONTROL message without an epoch (R410, R371). -/
def State.sendJob (s : State) (c dst type : Nat) (data : List Byte) : State := s.sendCtl c dst type none data

/-- The pool node has acknowledged so many bytes; with the manifest among them, CK_COMMIT goes out (R410). -/
def State.poolAcked (s : State) (c n : Nat) : State :=
  let k := (s.ctx c).ck
  if k.state ≠ 2 ∧ k.state ≠ 3 then s
  else
    let s1 := s.modCtx c fun y => { y with ck := { y.ck with acked := max y.ck.acked n } }
    if k.manifestSent ∧ k.acked < k.sent ∧ k.sent ≤ n then
      s1.sendJob c k.poolChip msgCommit (leBytes 8 k.seq.toNat ++ leBytes 8 k.poolBase ++
        leBytes 4 (0x1000 + k.tensors.length + 48) ++ zeros 4 ++ leBytes 8 k.stepC.toNat)
    else s1

/-- The checkpoint exists (R412). -/
def Ckpt.done (k : Ckpt) (baseEn : Bool) : Ckpt :=
  let d := (if k.allDirty then [] else k.dirty).filter fun e => !k.frozen.contains e
  { k.idle with
    allDirty := false, dirty := k.live.foldl (fun l e => pageInsert e l) d
    baseValid := k.baseValid || baseEn
    deltas := if k.kind = 1 then 0 else if k.kind = 2 then min (k.deltas + 1) 255 else k.deltas
    fullSeq := if k.kind = 2 then k.fullSeq else k.seq
    lastSeq := some k.seq }

/-- The context that awaits CK_ACK for a seq under a job tag; a checkpoint needs no fabric_en (R398, R410). -/
def State.ckptOf (s : State) (job seq : Nat) : Option Nat :=
  ctxNums.find? fun c =>
    let x := s.ctx c
    x.ck.state == 3 && fld x.regs.lkJob 0 16 == job && x.ck.seq.toNat == seq

/-- CK_ACK for the seq in progress (R410, R412). -/
def State.recvCkAck (s : State) (p : Packet) : State :=
  if !s.ctlHere p msgCkAck then s
  else match s.ckptOf p.jobTag.toNat (fieldAt p.data 0 8) with
    | none => s
    | some c =>
      let x := s.ctx c
      if fieldAt p.data 8 4 ≠ 0 then s.ckFail c Code.ckPoolRefused
      else
        let s1 := (s.modCtx c fun y => { y with ck := y.ck.done x.baseEn }).report (codeAt Code.ckDone c) { ctx := some c }
        match x.ck.cmd with
        | some h => s1.complete h 0 (codeAt Code.ckDone c) c 0 []
        | none => s1

/-- CK_ACK (R412). -/
def execCkAck (pkt : Packet) (s : State) : Host.Outcome State Fault Refusal :=
  .next (s.viaFab (.ckAck pkt) fun t => t.recvCkAck pkt)

/-- An acknowledgement has not come for 10 s (R412). -/
def State.poolTimeout (s : State) (c : Nat) : State :=
  let k := (s.ctx c).ck
  if k.state = 3 ∨ (k.state = 2 ∧ k.shardsSent ∧ k.acked < k.sent) then s.ckFail c Code.ckPoolTimeout else s

/-- CK_POOL_TIMEOUT (R412). -/
def execCkPoolTimeout (ctx : Nat) (s : State) : Host.Outcome State Fault Refusal :=
  inRange (ctxOk ctx) (s.poolTimeout ctx)

/-! ### The mailbox (R348, R418) -/

/-- Row number of a context state (R28, R505). -/
def CtxState.num : CtxState → Nat
  | .free => 0 | .created => 1 | .running => 2 | .paused => 3 | .suspended => 4 | .finished => 5 | .faulted => 6

/-- The step record of the mailbox (R348). -/
def Ctx.boxStep (x : Ctx) : List Byte :=
  let ones := 2 ^ 64 - 1
  let st := x.step
  leBytes 2 (fld x.regs.lkJob 0 16) ++ leBytes 1 x.st.num ++ leBytes 1 (unsigned 8 (x.curExp st.current)) ++
    leBytes 2 st.attempt ++ leBytes 1 st.window.length ++ zeros 1 ++ leBytes 8 (st.committed.getD ones) ++
    leBytes 8 (st.declared.getD ones) ++ leBytes 8 (st.window.head?.getD ones) ++ zeros 32

/-- The checkpoint record of the mailbox (R418). -/
def Ctx.boxCkpt (x : Ctx) : List Byte :=
  let ones := 2 ^ 64 - 1
  let k := x.ck
  slice (leBytes 8 (if k.state = 0 ∨ k.state = 4 then ones else k.seq.toNat) ++ leBytes 8 ((k.lastSeq.map (·.toNat)).getD ones) ++
    leBytes 8 k.stepC.toNat ++ leBytes 4 (min k.left.length 0xFFFFFFFF) ++ leBytes 1 k.state ++ leBytes 1 k.kind) 0 0x100

/-- The 64 KiB of the management mailbox. -/
def State.mailbox (s : State) : List Byte :=
  slice (ctxNums.flatMap fun c => (s.ctx c).boxStep) 0 0x8000 ++ slice (ctxNums.flatMap fun c => (s.ctx c).boxCkpt) 0 0x8000

end Sys2Proof.Machine
end

