-- ==== Sys2Proof/Machine/MemHealth.lean ====
section
/-! DEFINITION. Memory health: placement of granule parts, relocation and map-out (R240–R246), the write buffer (R235),
the scrub (R237), repair records (R242), access timeouts (R434), and BAR2 (R485). -/

namespace Sys2Proof.Machine

/-! ### Placement -/

/-- Chunks of 256 KiB in a channel of 2.25 GiB (R209). -/
def chanChunks : Nat := 9216

/-- Hops between two clusters of the die network (R13, R15). -/
def hops (a b : Nat) : Nat := (a % 8 - b % 8) + (b % 8 - a % 8) + (if a / 8 = b / 8 then 0 else 1)

/-- The channel takes new parts: it is neither being mapped out nor mapped out (R243, R245). -/
def State.goodChan (s : State) (ch : Nat) : Bool := !(s.chan ch).pending && !(s.chan ch).mappedOut

/-- A part of `n` chunks may be placed at a chunk of a channel (R209, R240). -/
def State.chunkFree (s : State) (ch chunk n : Nat) : Bool :=
  decide (chunk + n ≤ chanChunks) &&
    !(s.granules.any fun (_, w) =>
      let e := Gran.ofWord w
      (e.parts ch).any fun q => overlaps chunk n q.chunk (partChunks e.mode)) &&
    !((s.chan ch).retired.any fun pg => decide (chunk ≤ pg / 4) && decide (pg / 4 < chunk + n))

/-- The lowest free chunk for a part. -/
def State.lowChunk (s : State) (ch mode : Nat) : Option Nat :=
  let n := partChunks mode
  ((List.range (chanChunks / n)).map (· * n)).find? fun k => s.chunkFree ch k n

/-- Channels of a set. -/
def setChans (mode set : Nat) : List Nat := (List.range (2 ^ modeBits mode)).map (· + setBase mode set)

/-- A list turned so that it begins after an element. -/
def turnAfter (l : List Nat) (x : Option Nat) : List Nat :=
  match x with
  | none => l
  | some v => l.filter (fun a => decide (v < a)) ++ l.filter (fun a => decide (a ≤ v))

/-- A substitute part for a channel of a set: the set's other good channels in turn, then the channels nearest to its
first cluster (R244). -/
def State.substitute (s : State) (mode set from' : Nat) (last : Option Nat) : Option (Nat × Nat) :=
  let own := setChans mode set
  let inSet := turnAfter (own.filter fun c => c != from' && s.goodChan c) last
  let home := clusterOfChan (setBase mode set)
  let far := ((List.range 256).filter fun c => !own.contains c && s.goodChan c).mergeSort fun a b =>
    decide (hops home (clusterOfChan a) < hops home (clusterOfChan b)) ||
      (hops home (clusterOfChan a) == hops home (clusterOfChan b) && decide (a ≤ b))
  (inSet ++ far).findSome? fun c => (s.lowChunk c mode).map fun k => (c, k)

/-- A granule table entry for a new granule: the lowest chunk free in every good channel of the set; one channel that
takes no part is substituted (R209, R243). -/
def State.placeGranule (s : State) (mode set : Nat) : Option DWord :=
  let own := setChans mode set
  let bad := own.filter fun c => !s.goodChan c
  let n := partChunks mode
  let chunk := ((List.range (chanChunks / n)).map (· * n)).find? fun k =>
    (own.filter fun c => s.goodChan c).all fun c => s.chunkFree c k n
  match chunk, bad with
  | some k, [] => some (Gran.toWord ⟨true, mode, set, false, 0, 0, 0, k⟩)
  | some k, [b] =>
    let s1 : State := s.setGran 9216 (Gran.toWord ⟨true, mode, set, false, 0, 0, 0, k⟩)
    (s1.substitute mode set b none).map fun (c, q) => Gran.toWord ⟨true, mode, set, true, b, c, q, k⟩
  | _, _ => none

/-- Units that a channel holds with the poison code become units of the granule that now covers them. -/
def State.takeMarks (s : State) : State :=
  s.chans.foldl (fun t e => e.2.marks.foldl (fun t m =>
    match t.localOf e.1 (m * 64) with
    | none => t
    | some _ => (t.modChan e.1 fun k => { k with marks := keyRemoveRun m 1 k.marks }).poisonCode e.1 (m * 64)) t) s

/-- Map granules for a context; none when one of them cannot be placed. -/
def State.mapGranules (s : State) (c mode set : Nat) : List Nat → Option State
  | [] => some s
  | g :: rest =>
    match s.placeGranule mode set with
    | none => none
    | some w => (((s.setGran g w).setGranOwner g (some c)).takeMarks).mapGranules c mode set rest

/-- What a channel keeps of a granule that is zeroed: no stored error, no buffered block, no page held (R30, R219,
R241). -/
def Chan.forget (k : Chan) (ch g : Nat) (e : Gran) : Chan :=
  { k with
    errs := (e.parts ch).foldl (fun t q => Tbl.clearRun t (q.chunk * 4096) (partChunks e.mode * 4096)) k.errs
    buffered := Tbl.clearRun k.buffered (g * 2 ^ 18) (2 ^ 18)
    held := k.held.filter (· != g) }

/-- The lines of a granule leave a set. -/
def CacheSet.forget (k : CacheSet) (g : Nat) : CacheSet :=
  { k with ways := k.ways.filter fun w => !(w.2.any fun l => l.1 / 2 ^ 18 == g) }

/-- Entries of a table changed one by one, in canonical form. -/
def mapTbl {α : Type} [DecidableEq α] (d : α) (f : Nat → α → α) (t : Tbl α) : Tbl α :=
  t.filterMap fun e => if f e.1 e.2 = d then none else some (e.1, f e.1 e.2)

/-- A granule is zeroed and returns to the free pool: its entry is no longer valid, and no cache holds a line of it (R30,
R209, R217). -/
def State.freeGranule (s : State) (g : Nat) : State :=
  { (s.setGran g { s.gran g with valid := false }.toWord).setGranOwner g none with
    hbm := s.hbm.clear (g * 2 ^ 26) (2 ^ 26), lines := s.lines.clear (g * 2 ^ 26) (2 ^ 26)
    cache := mapTbl CacheSet.reset (fun _ k => k.forget g) s.cache
    chans := mapTbl Chan.reset (fun ch k => k.forget ch g (s.gran g)) s.chans }

/-! ### Relocation (R241, R244) -/

/-- Local block addresses of a granule's part. -/
def Gran.blocks (e : Gran) (g : Nat) (q : Part) : List Nat :=
  (List.range (partChunks e.mode * 1024)).map fun k => e.blockAt g q k

/-- One block is read at its old place; the units that arrive poisoned (R244). -/
def State.copyOut (s : State) (a : Nat) : List Nat × State :=
  match s.hbmPlace a with
  | some (ch, x) => s.chanRead ch a x [0, 1, 2, 3] [0, 1, 2, 3]
  | none => ([], s)

/-- One block is written at its new place. -/
def State.copyIn (s : State) (a : Nat) : State :=
  match s.hbmPlace a with
  | some (ch, x) => if (s.chan ch).faulted then s else s.chanWrite ch a x (s.blockBytes (a / 256)) [0, 1, 2, 3] [0, 1, 2, 3]
  | none => s

/-- Blocks are read out of a channel, once their lines are written back and its buffered writes sent; the units (by
address div 64) that arrive poisoned (R244). -/
def State.moveOut (s : State) (ch : Nat) (blocks : List Nat) : List Nat × State :=
  blocks.foldl (fun (r : List Nat × State) a =>
    let (p, t) := r.2.copyOut a
    (p.map (a / 64 + ·) ++ r.1, t)) ([], (blocks.foldl State.evict s).turnBus ch)

/-- The granule's entry is rewritten, and the blocks read are written at the new place with their marks (R244). -/
def State.moveIn (s : State) (g : Nat) (e : Gran) (blocks bad : List Nat) : State :=
  let s0 := s.setGran g e.toWord
  let s1 : State := { s0 with hbm := { s0.hbm with poison := bad.foldl (fun l u => keyInsert u l) s0.hbm.poison } }
  (blocks.foldl State.copyIn s1).turnBus e.subTo

/-- The entry after a part in the channel moves to a substitute place. -/
def Gran.moved (e : Gran) (ch : Nat) (q : Part) (to' chunk : Nat) : Gran :=
  if q.sub then { e with subTo := to', subChunk := chunk }
  else { e with subEn := true, subFrom := ch, subTo := to', subChunk := chunk }

/-- The new place of a part: for a retired page in a substitute part another chunk of the same channel (R241), else a
substitute (R244). -/
def State.newPlace (s : State) (ch : Nat) (e : Gran) (q : Part) (last : Option Nat) : Option (Nat × Nat) :=
  if q.sub && !(s.chan ch).pending then (s.lowChunk ch e.mode).map fun k => (ch, k)
  else s.substitute e.mode e.set (if q.sub then e.subFrom else ch) last

/-- A part is moved; when its new channel faults during the copy, another place is chosen and the copy starts again
(R246). The channel used, or none when no place remains. -/
def State.relocatePart (s : State) (g ch : Nat) (q : Part) (last : Option Nat) : Nat → Option Nat × State
  | 0 => (none, s)
  | n + 1 =>
    let e := s.gran g
    match s.newPlace ch e q last with
    | none => (none, s)
    | some (to', chunk) =>
      let blocks := e.blocks g q
      let (bad, s1) := s.moveOut ch blocks
      let t := s1.moveIn g (e.moved ch q to' chunk) blocks bad
      if (t.chan to').faulted && !(s.chan to').faulted then
        ({ t.setGran g e.toWord with hbm := s1.hbm } : State).relocatePart g ch q last n
      else (some to', t)

/-- The parts of a granule that have to move are moved, a substitute before the granule's own part, which stays when the
granule already substitutes another channel (R241, R243, R246). True when one of them could not be moved. -/
def State.relocateGranule (s : State) (ch g : Nat) (last : Option Nat) : Bool × Option Nat × State :=
  let e := s.gran g
  (((e.parts ch).filter (s.mustMove ch g)).reverse).foldl (fun (r : Bool × Option Nat × State) q =>
    let (left, l, t) := r
    if e.subEn && !q.sub then (true, l, t)
    else match t.relocatePart g ch q l 256 with
      | (none, u) => (true, l, u)
      | (some to', u) => (left, some to', u)) (false, last, s)

/-- Parts are moved out of a channel in turn; granules with a part left there are returned with their owners (R244,
R246). -/
def State.moveAll (s : State) (ch : Nat) (todo : List (Nat × Nat)) : List (Nat × Nat) × State :=
  let r := todo.foldl (fun (r : List (Nat × Nat) × Option Nat × State) x =>
    let (left, last, t) := r.2.2.relocateGranule ch x.1 r.2.1
    (if left then r.1 ++ [x] else r.1, last, t)) ([], none, s)
  (r.1, r.2.2)

/-- Host commands that wait for a channel's map-out end with an outcome. -/
def State.endMapouts (s : State) (ch status code : Nat) : State :=
  (s.mapoutCmds.filter fun e => e.1 == ch).foldl (fun t e => t.finish e.2 status (codeAt code ch))
    { s with mapoutCmds := s.mapoutCmds.filter fun e => e.1 != ch }

/-- Contexts that the memory service paused return to RUNNING, but for those with a part still to be moved (R244). -/
def State.resumePaused (s : State) : State :=
  ctxNums.foldl (fun t c =>
    let x := t.ctx c
    if x.step.pausedByMemory && x.st == .paused && !x.zeroing && !t.moveDue c then
      (t.setCtx c { x with st := .running, step := { x.step with pausedByMemory := false } }).openGate c
    else t) s

/-- The MAPOUT command (R243). -/
def State.mapoutCmd (s : State) (h : HostCmd) : State :=
  let ch := fieldAt h.payload 0 1
  if !allZero (slice h.payload 1 7) then s.finish h 3
  else
    let x := s.chan ch
    if x.mappedOut then s.finish h 0 (codeAt Code.hbmMapout ch)
    else
      let s1 : State := { s with mapoutCmds := s.mapoutCmds ++ [(ch, h)] }
      if x.pending then s1
      else
        let short := decide (s.freeGranules.length < 36 * (s.pendingChans.length + 1))
        let s2 := s1.triggerMapout ch
        if short then s2.endMapouts ch 9 Code.hbmMapoutRefused else s2

/-- MAPOUT (R243, R489). -/
def execMapout (s : State) : Host.Outcome State Fault Refusal := .next (s.moduleCmd 0x50 fun h t => t.mapoutCmd h)

/-! ### Channel events -/

/-- HBM_WRITE_TURN (R235): every buffered block is written. -/
def execHbmWriteTurn (ch : Nat) (s : State) : Host.Outcome State Fault Refusal :=
  inRange (decide (ch < 256)) (s.turnBus ch)

/-- The scrub reads the next unit of the channel, spare rows in use included (R237). -/
def State.scrub (s : State) (ch : Nat) : State :=
  let x := s.chan ch
  if !flag s.hbmCfg 0 || x.mappedOut || s.pw.standby != 0 then s
  else ((s.setChan ch { x with scrubPos := (x.scrubPos + 64) % (chanChunks * 2 ^ 18) }).countRead ch).readUnit ch x.scrubPos

/-- SCRUB_READ (R237). -/
def execScrubRead (ch : Nat) (s : State) : Host.Outcome State Fault Refusal :=
  inRange (decide (ch < 256)) (s.scrub ch)

/-- REPAIR_RECORD_WRITE (R242, R441). -/
def execRepairRecordWrite (s : State) : Host.Outcome State Fault Refusal :=
  .next (match s.boot.repairsDue with
    | [] => s
    | r :: rest =>
      if s.err.restarting.contains .sec then s
      else { s with boot := { s.boot with repairs := s.boot.repairs ++ [r], repairsDue := rest } })

/-- HBM_ACCESS_TIMEOUT (R220, R434). -/
def execHbmAccessTimeout (ch : Nat) (s : State) : Host.Outcome State Fault Refusal :=
  inRange (decide (ch < 256)) (s.channelFault ch)

/-! ### BAR2 (R485) -/

/-- The context and local address that a BAR2 access reaches, if it is served. -/
def State.bar2Target (s : State) (port offset len : Nat) : Option (Nat × Nat) :=
  let p := s.port port
  let c := fld p.bar2Cfg 16 3
  let a := fld p.bar2Cfg 0 12 * 2 ^ 36 + offset
  let x := s.ctx c
  if flag p.bar2Cfg 31 && x.st != .free && !x.zeroing && x.owner == port && decide (offset + len ≤ 2 ^ 36) &&
      s.pw.standby == 0 && !s.err.warmReset && s.reachable (.mem c) a len then some (c, a) else none

/-- A BAR2 write of the port waits for a snapshot slot: its later accesses keep behind it (R403). -/
def State.bar2Waits (s : State) (port : Nat) : Bool :=
  s.snapWaiting.any fun i => match i with
    | .bar2Write q _ _ => q == port
    | _ => false

/-- A BAR2 read (R45, R226, R485). -/
def State.bar2Get (s : State) (port offset len : Nat) : State :=
  match s.bar2Target port offset len with
  | none => s.emit (.unsupported port)
  | some (c, a) =>
    if s.bar2Waits port then s.waitForSnap c (.bar2Read port offset len)
    else
      let (d, s1) := s.read (.mem c) a len
      s1.emit (.bar2 port d.bytes (d.pois.any (· == true)))

/-- BAR2_READ (R485). -/
def execBar2Read (port offset len : Nat) (s : State) : Host.Outcome State Fault Refusal :=
  inRange (decide (port < 2)) (s.bar2Get port offset len)

/-- A BAR2 write: dropped when refused, dropped and reported when it meets a guarded area (R33, R45, R136, R326, R327);
it counts as of the latest declared step, and waits while a page it writes waits for a snapshot slot (R403). -/
def State.bar2Put (s : State) (port offset : Nat) (bs : List Byte) : State :=
  match s.bar2Target port offset bs.length with
  | none => s.emit (.unsupported port)
  | some (c, a) =>
    if s.err.fatalHold then s
    else if s.hostGuard c a bs.length then s.emit (.unsupported port)
    else if s.bar2Waits port || s.snapBlocked c a bs.length then s.waitForSnap c (.bar2Write port offset bs)
    else s.epochWrite c (s.ctx c).step.declared a bs []

/-- BAR2_WRITE (R485). -/
def execBar2Write (port offset : Nat) (bytes : List Byte) (s : State) : Host.Outcome State Fault Refusal :=
  inRange (decide (port < 2)) (s.bar2Put port offset bytes)

end Sys2Proof.Machine
end

