-- ==== Sys2Proof/Machine/CopyCmds.lean ====
section
/-! DEFINITION. The rows of the copy engine (R155, R160, R497). -/

namespace Sys2Proof.Machine

/-- COPY (R161–R165). -/
def execCopy (core : Nat) (s : State) : Host.Outcome State Fault Refusal :=
  inRange (coreOk core) (s.engineRow core 5 1 Faults.none)

/-- GATHER (R166, R167). -/
def execGather (core : Nat) (s : State) : Host.Outcome State Fault Refusal :=
  inRange (coreOk core) (s.engineRow core 5 2 Faults.none)

/-- SCATTER (R166, R167). -/
def execScatter (core : Nat) (s : State) : Host.Outcome State Fault Refusal :=
  inRange (coreOk core) (s.engineRow core 5 3 Faults.none)

/-- SCATTER_ADD (R166, R167). -/
def execScatterAdd (core : Nat) (s : State) : Host.Outcome State Fault Refusal :=
  inRange (coreOk core) (s.engineRow core 5 4 Faults.none)

/-- SEG_REDUCE (R168). -/
def execSegReduce (core : Nat) (s : State) : Host.Outcome State Fault Refusal :=
  inRange (coreOk core) (s.engineRow core 5 5 Faults.none)

/-- ROUTE (R169, R170). -/
def execRoute (core : Nat) (s : State) : Host.Outcome State Fault Refusal :=
  inRange (coreOk core) (s.engineRow core 5 6 Faults.none)

/-- SETOP (R171). -/
def execSetop (core : Nat) (s : State) : Host.Outcome State Fault Refusal :=
  inRange (coreOk core) (s.engineRow core 5 7 Faults.none)

/-- POS_GATHER (R172). -/
def execPosGather (core : Nat) (s : State) : Host.Outcome State Fault Refusal :=
  inRange (coreOk core) (s.engineRow core 5 8 Faults.none)

/-- XDELTA (R173, R174). -/
def execXdelta (core : Nat) (s : State) : Host.Outcome State Fault Refusal :=
  inRange (coreOk core) (s.engineRow core 5 9 Faults.none)

/-- XAPPLY (R173, R174). -/
def execXapply (core : Nat) (s : State) : Host.Outcome State Fault Refusal :=
  inRange (coreOk core) (s.engineRow core 5 10 Faults.none)

/-- HASH (R175, R176). -/
def execHash (core : Nat) (s : State) : Host.Outcome State Fault Refusal :=
  inRange (coreOk core) (s.engineRow core 5 11 Faults.none)

/-- CE_HAZARD_RELEASE (R160): a held command starts once nothing holds it. -/
def execCeHazardRelease (core : Nat) (s : State) : Host.Outcome State Fault Refusal :=
  inRange (coreOk core) (s.pump core .copy)

/-- The oldest started command that reads a host window and still lacks a completion. -/
def Core.windowReader (k : Core) : Option (CeCmd × List (Nat × Nat) × List (List Byte × List Bool)) :=
  k.ce.findSome? fun e => match e.wait with
    | .windowRead reqs got => if got.length < reqs.length then some (e, reqs, got) else none
    | _ => none

/-- A completion fills the next request of a window read; an error completion raises CE_WINDOW (R497). -/
def State.windowData (s : State) (p : Nat) (r : PcieRead) : State :=
  match (s.core p).windowReader with
  | none => s
  | some (e, reqs, got) =>
    let n := ((reqs[got.length]?).getD (0, 0)).2
    let fill (bs : List Byte) (po : Bool) : State :=
      let got' := got ++ [(slice bs 0 n, List.replicate n po)]
      if got'.length < reqs.length then
        s.modCore p fun k => { k with ce := k.ce.map fun x =>
          if x.cmd.seqno = e.cmd.seqno then { x with wait := .windowRead reqs got' } else x }
      else
        ((s.dropCe p e.cmd).copyDeliver p e.cmd e.desc (gather (CopyD.parse e.desc).wants got')).pump p .copy
    match r with
    | .ok bs => fill bs false
    | .poisoned bs => fill bs true
    | .failed => s.ceError p e.cmd Code.ceWindow

/-- PCIE_READ_COMPLETION (R165, R497). -/
def execPcieReadCompletion (core : Nat) (r : PcieRead) (s : State) : Host.Outcome State Fault Refusal :=
  inRange (coreOk core) (s.windowData core r)

end Sys2Proof.Machine
end

