-- ==== Sys2Proof/Machine/SyncCmds.lean ====
section
/-! DEFINITION. The rows of the synchronisation unit (R184, R189). -/

namespace Sys2Proof.Machine

/-- SET (R184). -/
def execSet (core : Nat) (s : State) : Host.Outcome State Fault Refusal :=
  inRange (coreOk core) (s.engineRow core 6 1 Faults.none)

/-- ADD (R184, R195). -/
def execAdd (core : Nat) (s : State) : Host.Outcome State Fault Refusal :=
  inRange (coreOk core) (s.engineRow core 6 2 Faults.none)

/-- SUB (R184). -/
def execSub (core : Nat) (s : State) : Host.Outcome State Fault Refusal :=
  inRange (coreOk core) (s.engineRow core 6 3 Faults.none)

/-- WATCH (R184, R187). -/
def execWatch (core : Nat) (s : State) : Host.Outcome State Fault Refusal :=
  inRange (coreOk core) (s.engineRow core 6 4 Faults.none)

/-- The next message for a core is applied; the unit whose command it completes may start its next one. -/
def State.hubStep (s : State) (p : Nat) : State :=
  match takeHub p s.hub with
  | none => s
  | some (m, _) =>
    let s1 := s.applyHub p
    match m.origin with
    | some o => s1.pump o .sync
    | none => s1

/-- SU_CHANGE_APPLY (R189, R191): the next message of the hubs for this core is applied. -/
def execSuChangeApply (core : Nat) (s : State) : Host.Outcome State Fault Refusal :=
  inRange (coreOk core) (s.hubStep core)

end Sys2Proof.Machine
end

