-- ==== Sys2Proof/Machine/VectorCmds.lean ====
section
/-! DEFINITION. The rows of the vector engine (R108). -/

namespace Sys2Proof.Machine

/-- ELEM (R109–R114). -/
def execElem (core : Nat) (s : State) : Host.Outcome State Fault Refusal :=
  inRange (coreOk core) (s.engineRow core 4 1 Faults.none)

/-- REDUCE (R116–R119). -/
def execReduce (core : Nat) (s : State) : Host.Outcome State Fault Refusal :=
  inRange (coreOk core) (s.engineRow core 4 2 Faults.none)

/-- UPDATE (R120–R123). -/
def execUpdate (core : Nat) (s : State) : Host.Outcome State Fault Refusal :=
  inRange (coreOk core) (s.engineRow core 4 3 Faults.none)

/-- TABLE_LOAD (R108, R115). -/
def execTableLoad (core : Nat) (s : State) : Host.Outcome State Fault Refusal :=
  inRange (coreOk core) (s.engineRow core 4 4 Faults.none)

end Sys2Proof.Machine
end

