-- ==== Sys2Proof/Machine/SeqCmds.lean ====
section
/-! DEFINITION. The sequencer's own commands (R37–R39, R320, R321), and the release of held commands and the signals of
completed ones (R35). -/

namespace Sys2Proof.Machine

/-- A sequencer command's action is done: its signal is applied, and dispatch continues at an address (R37). -/
def State.seqDone (s : State) (p : Nat) (b : List Byte) (next : Nat) : State :=
  let s1 := (s.countDispatch p).signalSlot p b
  if (s1.core p).seq.running then s1.goTo p next else s1

/-- A jump: its destination must lie in the stream before anything of it happens (R37). -/
def State.seqJump (s : State) (p : Nat) (b : List Byte) (target : Nat) (f : Seq → Seq) : State :=
  let q := (s.core p).seq
  if q.inStream target then (s.modCore p fun k => { k with seq := f k.seq }).seqDone p b target
  else s.raiseCore Code.seqFetchBound p q.pos

/-- Where a scan for an ENDLOOP ends: at the address after it, outside the stream, or at a poisoned slot. -/
inductive Scan where
  | found (a : Nat)
  | missing
  | poisoned (a : Nat)
  deriving DecidableEq, Repr

/-- The slot after the matching ENDLOOP, reading slots from an address at a nesting depth (R37, R224). -/
def State.afterLoop (s : State) (p : Nat) : Nat → Nat → Nat → Scan × State
  | 0, _, _ => (.missing, s)
  | fuel + 1, a, depth =>
    if !(s.core p).seq.inStream a then (.missing, s)
    else
      let (d, s1) := s.read (s.streamTarget p) a 32
      let b := d.bytes
      if d.pois.any (· == true) then (.poisoned a, s1)
      else if slotEng b = 0 ∧ slotOp b = 5 then s1.afterLoop p fuel (a + 32) (depth + 1)
      else if slotEng b = 0 ∧ slotOp b = 6 then
        match depth with
        | 0 => (.found (a + 32), s1)
        | d + 1 => s1.afterLoop p fuel (a + 32) d
      else s1.afterLoop p fuel (a + 32) depth

/-- The context has executed no STEP. -/
def Ctx.noStep (x : Ctx) : Bool := x.step.first.isNone

/-- A NOTIFY or END of a context without steps meets poison that its engines marked (R226). -/
def State.poisonEnd (s : State) (p : Nat) : Bool :=
  let x := s.ctx (s.ctxOf p)
  x.noStep && Tbl.get 0 x.poisonCounts 0 != 0

/-- MEM_POISON_END (R226). -/
def State.raisePoisonEnd (s : State) (p : Nat) : State :=
  s.raise (codeAt Code.memPoisonEnd (s.ctxOf p)) { ctx := some (s.ctxOf p) }

/-- END (R37, R226, R320): the stream ends. -/
def State.seqEndAct (s : State) (p : Nat) (b : List Byte) : State :=
  if s.poisonEnd p then s.raisePoisonEnd p
  else
    let s1 := (s.countDispatch p).signalSlot p b
    if !(s1.core p).seq.running then s1
    else
      let s2 := s1.modCore p fun k => { k with seq := { k.seq with ended := true, calls := [], loops := [] } }
      let s3 := match s2.coreOwner p, (s2.core p).seq.lastStep with
        | some (c, l), some n => s2.noteCore c l n
        | _, _ => s2
      s3.tryFinish (s3.ctxOf p)

/-- CALL (R37). -/
def State.seqCallAct (s : State) (p : Nat) (b : List Byte) : State :=
  let q := (s.core p).seq
  if 8 ≤ q.calls.length then s.raiseCore Code.seqNestDepth p q.pos
  else s.seqJump p b (slotLong b) fun x => { x with calls := (q.pos + 32) :: x.calls }

/-- RETURN (R37). -/
def State.seqRetAct (s : State) (p : Nat) (b : List Byte) : State :=
  let q := (s.core p).seq
  match q.calls with
  | [] => s.raiseCore Code.seqNestDepth p q.pos
  | a :: r => s.seqJump p b a fun x => { x with calls := r }

/-- LOOP (R37). -/
def State.seqLoopAct (s : State) (p : Nat) (b : List Byte) : State :=
  let q := (s.core p).seq
  if slotAddr b = 0 then
    match s.afterLoop p q.length (q.pos + 32) 0 with
    | (.found a, s1) => s1.seqDone p b a
    | (.poisoned a, s1) => s1.raiseCore Code.seqFetchPoison p a
    | (.missing, s1) => s1.raiseCore Code.seqBadField p q.pos
  else if 4 ≤ q.loops.length then s.raiseCore Code.seqNestDepth p q.pos
  else (s.modCore p fun k => { k with seq := { k.seq with loops := (slotAddr b, q.pos + 32) :: q.loops } }).seqDone p b
    (q.pos + 32)

/-- ENDLOOP (R37). -/
def State.seqEndloopAct (s : State) (p : Nat) (b : List Byte) : State :=
  let q := (s.core p).seq
  match q.loops with
  | [] => s.raiseCore Code.seqNestDepth p q.pos
  | (n, a) :: r =>
    if n ≤ 1 then (s.modCore p fun k => { k with seq := { k.seq with loops := r } }).seqDone p b (q.pos + 32)
    else (s.modCore p fun k => { k with seq := { k.seq with loops := (n - 1, a) :: r } }).seqDone p b a

/-- STEP (R38, R320, R321). -/
def State.seqStepAct (s : State) (p : Nat) (b : List Byte) : State :=
  let c := s.ctxOf p
  let n := slotLong b
  if !s.stepOrderOk c p n then s.raiseCore Code.seqStepOrder p (s.core p).seq.pos
  else (s.countDispatch p).doStep p b n

/-- A NOTIFY record is dropped: the buffer of a lost host is full under CONTINUE (R496). -/
def State.dropNotify (s : State) (p : Nat) (b : List Byte) : State :=
  let c := s.ctxOf p
  let x := s.ctx c
  let s1 := s.modPort x.owner fun q => { q with cplDrop := satInc q.cplDrop }
  let s2 := s1.report (codeAt Code.hxCplFull x.owner) { ctx := some c, step := (s.core p).seq.lastStep }
  let s3 := s2.seqDone p b ((s.core p).seq.pos + 32)
  if (s3.ctx c).st != .running then s3
  else if x.noStep then s3.enterPaused c (codeAt Code.hxCplFull x.owner)
  else s3.modStep c fun st => { st with
    pausePending := st.pausePending.orElse fun _ => some (codeAt Code.hxCplFull x.owner) }

/-- NOTIFY (R37, R226, R494–R496). -/
def State.seqNotifyAct (s : State) (p : Nat) (b : List Byte) : State :=
  let c := s.ctxOf p
  let x := s.ctx c
  let port := s.port x.owner
  if s.poisonEnd p then s.raisePoisonEnd p
  else if port.full || !port.waiting.isEmpty then s.dropNotify p b
  else
    let r := recordBytes (slotLong b) 1 c 0 0x0A 0 (s.lcoreOf p) (leBytes 8 ((s.core p).seq.lastStep.getD 0))
    (s.storeRecord x.owner r true).seqDone p b ((s.core p).seq.pos + 32)

/-- PHASE marks a phase; its id is on its way to PWC (R39). -/
def State.markPhase (s : State) (p id : Nat) : State :=
  s.modCore p fun k => { k with seq := { k.seq with phase := id }, phaseSent := k.phaseSent ++ [id] }

/-- The action of a sequencer command, by its opcode (R37). -/
def State.seqAct (s : State) (p : Nat) (b : List Byte) : State :=
  let next := (s.core p).seq.pos + 32
  match slotOp b with
  | 1 => s.seqEndAct p b
  | 2 => s.seqJump p b (slotLong b) id
  | 3 => s.seqCallAct p b
  | 4 => s.seqRetAct p b
  | 5 => s.seqLoopAct p b
  | 6 => s.seqEndloopAct p b
  | 7 => s.seqStepAct p b
  | 8 => (s.markPhase p (fieldAt b 0x0C 1)).seqDone p b next
  | 9 => s.seqDone p b next
  | 10 => s.seqNotifyAct p b
  | _ => s.seqDone p b next

/-- A sequencer command cannot go on yet: END, STEP and DRAIN await every earlier command, END and STEP the receipt of
remote signals too, STEP also the step protocol, and NOTIFY space in the completion buffer (R37, R320, R321, R496). A
STEP out of order raises its error without waiting (DESIGN CHOICE, log 120). -/
def State.seqStalls (s : State) (p : Nat) (b : List Byte) : Bool :=
  let c := s.ctxOf p
  let x := s.ctx c
  let port := s.port x.owner
  match slotOp b with
  | 1 => !(s.core p).done
  | 9 => !(s.core p).quiet
  | 7 => s.stepOrderOk c p (slotLong b) && (!(s.core p).done || !s.stepReady c (slotLong b))
  | 10 => !s.poisonEnd p && (port.full || !port.waiting.isEmpty) && !(port.hostLost && x.desc.lossPolicy == 0)
  | _ => false

/-- A sequencer command is fetched and, its wait met, executed (R37). -/
def State.seqRow (s : State) (p op : Nat) : State :=
  match s.fetchFor p 0 op with
  | .stop s1 => s1
  | .slot b s1 => if (s1.core p).waitMet b && !s1.seqStalls p b then s1.seqAct p b else s

/-- NOP (R37). -/
def execNop (core : Nat) (s : State) : Host.Outcome State Fault Refusal := inRange (coreOk core) (s.seqRow core 0)

/-- END (R37). -/
def execSeqEnd (core : Nat) (s : State) : Host.Outcome State Fault Refusal := inRange (coreOk core) (s.seqRow core 1)

/-- JUMP (R37). -/
def execJump (core : Nat) (s : State) : Host.Outcome State Fault Refusal := inRange (coreOk core) (s.seqRow core 2)

/-- CALL (R37). -/
def execCall (core : Nat) (s : State) : Host.Outcome State Fault Refusal := inRange (coreOk core) (s.seqRow core 3)

/-- RETURN (R37). -/
def execRet (core : Nat) (s : State) : Host.Outcome State Fault Refusal := inRange (coreOk core) (s.seqRow core 4)

/-- LOOP (R37). -/
def execLoop (core : Nat) (s : State) : Host.Outcome State Fault Refusal := inRange (coreOk core) (s.seqRow core 5)

/-- ENDLOOP (R37). -/
def execEndloop (core : Nat) (s : State) : Host.Outcome State Fault Refusal := inRange (coreOk core) (s.seqRow core 6)

/-- STEP (R38, R320, R321). -/
def execStepDecl (core : Nat) (s : State) : Host.Outcome State Fault Refusal := inRange (coreOk core) (s.seqRow core 7)

/-- PHASE (R39). -/
def execPhase (core : Nat) (s : State) : Host.Outcome State Fault Refusal := inRange (coreOk core) (s.seqRow core 8)

/-- DRAIN (R37). -/
def execDrain (core : Nat) (s : State) : Host.Outcome State Fault Refusal := inRange (coreOk core) (s.seqRow core 9)

/-- NOTIFY (R37, R495). -/
def execNotify (core : Nat) (s : State) : Host.Outcome State Fault Refusal := inRange (coreOk core) (s.seqRow core 10)

/-- A command held by its wait goes on, if its counter has reached the value (R35, R37). -/
def State.release (s : State) (p : Nat) (e : Eng) : State :=
  if e ≠ .seq then s.pump p e
  else
    let b := s.peek (s.streamTarget p) (s.core p).seq.pos 32
    if slotEng b = 0 ∧ slotWaitEn b then s.seqRow p (slotOp b) else s

/-- WAIT_RELEASE (R35). -/
def execWaitRelease (core : Nat) (eng : Eng) (s : State) : Host.Outcome State Fault Refusal :=
  inRange (coreOk core) (s.release core eng)

/-- The oldest due signal of an engine is applied (R35). -/
def State.slotSignalStep (s : State) (p : Nat) (e : Eng) : State :=
  match (s.core p).dueSignal e with
  | none => s
  | some x => (s.modCore p fun k => { k with toSignal := k.toSignal.erase x }).signalSlot p x.2.slot

/-- SLOT_SIGNAL (R35, R183). -/
def execSlotSignal (core : Nat) (eng : Eng) (s : State) : Host.Outcome State Fault Refusal :=
  inRange (coreOk core) (s.slotSignalStep core eng)

end Sys2Proof.Machine
end

