-- ==== Sys2Proof/Machine/Context.lean ====
section
/-! DEFINITION. Creating, starting, suspending, resuming and destroying contexts (R25–R33, R40–R44, R136, R213, R324,
R359–R362), and their save records (R41, R126, R192). -/

namespace Sys2Proof.Machine

/-! ### Allocation -/

/-- A physical core may be placed: it is free, works, and needs no kernels (R10, R333, R433). -/
def State.coreFree (s : State) (p : Nat) : Bool :=
  let k := s.core p
  (s.coreOwner p).isNone && !k.quarantined && !k.needsKernels && !(k.warp.quarantined && k.weft.quarantined)

/-- Cores for a placement mode (R27): 0 any, the lowest free cores; 1 whole clusters, the lowest; 2 explicit. -/
def State.chooseCores (s : State) (mode n mask : Nat) : Option (List Nat) :=
  let free := (List.range 192).filter fun p => s.coreFree p
  match mode with
  | 0 => if n ≤ free.length then some (free.take n) else none
  | 1 =>
    let cl := (List.range 16).filter fun c => (List.range 12).all fun k => free.contains (12 * c + k)
    if n / 12 ≤ cl.length then some ((cl.take (n / 12)).flatMap fun c => (List.range 12).map fun k => 12 * c + k) else none
  | _ =>
    let want := bitList 192 mask
    if want.all fun p => free.contains p then some want else none

/-- Lid units for a context on these cores (R213). -/
def State.chooseLid (s : State) (cores : List Nat) (n : Nat) : Option (List Nat) :=
  let own := (List.range 16).filter fun c => cores.any fun p => p / 12 == c
  let home := (own.head?).getD 0
  let rest := ((List.range 16).filter fun c => !own.contains c).mergeSort fun a b =>
    decide (hops home a < hops home b) || (hops home a == hops home b && decide (a ≤ b))
  let units := (own ++ rest).flatMap fun sl => (List.range 8).filterMap fun i =>
    let u := 8 * sl + i
    if (s.lidUnit u).owner.isNone && !(s.lidUnit u).withheld then some u else none
  if n ≤ units.length then some ((units.take n).mergeSort (· ≤ ·)) else none

/-- The first granule of a run of `n` free granules: at the base asked for, or the lowest. -/
def State.chooseRun (s : State) (base n : Nat) : Option Nat :=
  let free := s.freeGranules
  let ok (g : Nat) : Bool := (List.range n).all fun i => free.contains (g + i)
  if base ≠ 0 then (if ok (base / 2 ^ 26) then some (base / 2 ^ 26) else none) else free.find? ok

/-- Size of the save area (R41). -/
def saveBytes (n : Nat) : Nat := roundUp (n * 4767744) (2 ^ 26)

/-! ### CTX_CREATE (R32) -/

/-- A numeric profile word (R73). -/
def profileOk (w : Nat) : Bool :=
  decide (w < 2 ^ 11) && bitAt w 0 && decide (bits w 1 2 ≤ 1) && decide (1 ≤ bits w 5 6) && decide (bits w 5 6 ≤ 32)

/-- Every field of the descriptor is valid (R32). -/
def ctxDescOk (b : List Byte) (port : Nat) : Bool :=
  let id := fieldAt b 0 1
  let n := fieldAt b 4 2
  let place := fieldAt b 6 1
  let prof := fieldAt b 0x0C 4
  let bytes := fieldAt b 0x18 8
  let base := fieldAt b 0x20 8
  let mask := fieldAt b 0x28 24
  (decide (id < 8) || id == 0xFF) && decide (fieldAt b 1 1 ≤ 1) && fieldAt b 2 1 == port && decide (fieldAt b 3 1 ≤ 2) &&
    decide (1 ≤ n) && decide (n ≤ 192) && decide (place ≤ 2) && (place != 1 || n % 12 == 0) &&
    decide (fieldAt b 7 1 ≤ 128) && decide (fieldAt b 8 4 < 16) && (prof == 0 || profileOk prof) &&
    aligned bytes (2 ^ 26) && bytes != 0 && aligned base (2 ^ 26) && decide (base < 9216 * 2 ^ 26) &&
    (if place = 2 then popcount 192 mask == n else mask == 0)

/-- Interleave mode and set of region 0 (R491). -/
def State.mode0 (s : State) (cores : List Nat) (n : Nat) : Nat × Nat :=
  match cores with
  | [] => (2, 0)
  | p :: _ =>
    let cl := p / 12
    let room := ((List.range (chanChunks / 16)).filter fun k =>
      (setChans 0 cl).all fun ch => s.goodChan ch && s.chunkFree ch (16 * k) 16).length
    if (cores.all fun q => q / 12 == cl) && decide (n ≤ room) then (0, cl) else (2, 0)

/-- What CTX_CREATE does to the slot's registers (R70, R150, R180, R230, R290, R355, R357, R391, R476, R517). -/
def State.createRegs (s : State) (r : CtxRegs) (area : Nat) : CtxRegs :=
  let partner := s.recField 0x026 2
  { r with
    tsFlags := 0, tsArea := area, tsPubValid := false, tsPublishing := [], tsAccSat := false, tsLsFloor := false
    tsNfPaused := false, tsLsMismatch := false, stWindowDrop := false, stDigestBad := false, ceWinDrop := 0, msPoison := 0, lkJob := 0, stReplays := 0
    stPair := if partner = 0xFFFF then r.stPair else setFld (setFld r.stPair 31 1 0) 0 14 partner
    stRecov := setFld r.stRecov 0 2 (s.recField 0x025 1)
    pwEnergy := 0, pwEnergyHi := 0 }

/-- The context descriptor as kept. -/
def State.descOf (s : State) (b : List Byte) : CtxDesc :=
  let prof := fieldAt b 0x0C 4
  { secure := fieldAt b 1 1 == 1, lossPolicy := fieldAt b 3 1, coreCount := fieldAt b 4 2, placement := fieldAt b 6 1
    lidUnits := fieldAt b 7 1, flags := BitVec.ofNat 32 (fieldAt b 8 4)
    profile := BitVec.ofNat 32 (if prof = 0 then s.recField 0x020 4 else prof)
    jobSeed := BitVec.ofNat 64 (fieldAt b 0x10 8), hbmBytes := fieldAt b 0x18 8, hbmBase := fieldAt b 0x20 8
    coreMask := fieldAt b 0x28 24, raw := slice b 0 64 }

/-- What a context is given: slot, cores, lid units, first granule, mode and set. -/
structure Grant where
  slot : Nat
  cores : List Nat
  lid : List Nat
  first : Nat
  mode : Nat
  set : Nat
  deriving DecidableEq, Repr

/-- Resources for a descriptor, if they are free. -/
def State.grant (s : State) (b : List Byte) : Option Grant :=
  let id := fieldAt b 0 1
  let n := fieldAt b 4 2
  let slot := if id < 8 then (if (s.ctx id).st = .free then some id else none)
    else ctxNums.find? fun c => (s.ctx c).st == .free
  let g := fieldAt b 0x18 8 / 2 ^ 26
  let need := (if bitAt (fieldAt b 8 4) 2 then saveBytes n else 0) + tsAreaBytes
  match slot, s.chooseCores (fieldAt b 6 1) n (fieldAt b 0x28 24) with
  | some c, some cores =>
    match s.chooseLid cores (fieldAt b 7 1), s.chooseRun (fieldAt b 0x20 8) g with
    | some lid, some first =>
      let (m, st) := s.mode0 cores g
      if need ≤ g * 2 ^ 26 then some ⟨c, cores, lid, first, m, st⟩ else none
    | _, _ => none
  | _, _ => none

/-- Give a context its resources (R32, R44, R136, R399). -/
def State.build (s : State) (b : List Byte) (port : Nat) (g : Grant) : Option State :=
  let bytes := fieldAt b 0x18 8
  let base := g.first * 2 ^ 26
  let d := s.descOf b
  let save := if flag d.flags 2 then saveBytes d.coreCount else 0
  let area := base + bytes - save - tsAreaBytes
  let old := s.ctx g.slot
  match s.mapGranules g.slot g.mode g.set ((List.range (bytes / 2 ^ 26)).map (· + g.first)) with
  | none => none
  | some s1 =>
    let s2 := g.cores.foldl (fun t p => t.modCore p Core.fresh) s1
    let s3 := g.lid.foldl (fun t u => t.setLidUnit u
      { t.lidUnit u with owner := some g.slot, secure := d.secure, cache := false, logical := (indexOf? g.lid u).getD 0 }) s2
    some (s3.setCtx g.slot { Ctx.reset with
      st := .created, desc := d, owner := port, cores := g.cores, lid := g.lid.map fun u => (u, false)
      regions := Tbl.set none [] 0 (some ⟨base, bytes, g.mode, g.set⟩), saveArea := if flag d.flags 2 then base + bytes - save else 0
      regs := s.createRegs old.regs area, ck := { Ckpt.reset with allDirty := true } })

/-- A mask of physical cores, 24 bytes (R495). -/
def coreMaskBytes (cores : List Nat) : List Byte := leBytes 24 (maskOf cores)

/-- CTX_CREATE: every check comes before any allocation (R32). -/
def State.createCmd (s : State) (h : HostCmd) : State :=
  let b := h.payload
  if !ctxDescOk b h.port then s.finish h 3
  else if fieldAt b 1 1 = 1 ∧ !s.portSecure h.port then s.finish h 4
  else match s.grant b with
    | none => s.finish h 5
    | some g =>
      match s.build b h.port g with
      | none => s.finish h 5
      | some t => t.complete h 0 0 g.slot g.first (coreMaskBytes g.cores)

/-- CTX_CREATE (R28, R32, R520). -/
def execCtxCreate (s : State) : Host.Outcome State Fault Refusal :=
  .next (if s.boot.stagingOwner.isSome ∨ s.boot.updState = 2 ∨ s.boot.updState = 3 then s else s.moduleCmd 1 fun h t => t.createCmd h)

/-! ### CTX_START (R33, R144, R279, R324, R359, R360) -/

/-- A stream table entry: start, length, and whether the stream lies in the core's own store. -/
def State.streamEntry (s : State) (c : Nat) (e : List Byte) : Option (Nat × Nat × Bool) :=
  let a := fieldAt e 0 8
  let n := fieldAt e 8 4
  if !aligned a 32 || n == 0xFFFFFFFF || !allZero (slice e 0x0C 4) then none
  else if n = 0 ∨ s.inRegion c a (32 * n) then some (a, n, false)
  else if a + 32 * n ≤ 2 ^ 22 then some (a, n, true)
  else none

/-- The stream table at an address, if every entry is valid (R33). -/
def State.streamTableAt (s : State) (c addr : Nat) : Option (List (Nat × Nat × Bool)) :=
  let n := (s.ctx c).cores.length
  if !s.inRegion c addr (16 * n) then none
  else
    let b := s.peek (.mem c) addr (16 * n)
    let es := (List.range n).map fun i => s.streamEntry c (b.drop (16 * i))
    if es.all (·.isSome) then some (es.filterMap id) else none

/-- The stream table is read as the device reads memory: errors are found, and poison makes it unusable (R221). -/
def State.readTable (s : State) (c addr : Nat) : Bool × State :=
  let n := (s.ctx c).cores.length
  if !s.inRegion c addr (16 * n) then (true, s)
  else
    let (d, s1) := s.read (.mem c) addr (16 * n)
    (!d.pois.any id, s1)

/-- A fresh sequencer at a table entry. -/
def Seq.start (e : Nat × Nat × Bool) : Seq :=
  { Seq.reset with running := true, ended := e.2.1 == 0, base := e.1, length := e.2.1, inStore := e.2.2, pos := e.1 }

/-- Another context with fabric_en holds the job tag (R279). -/
def State.tagTaken (s : State) (c tag : Nat) : Bool :=
  ctxNums.any fun d =>
    let y := s.ctx d
    d != c && y.st != .free && bitAt y.desc.flags.toNat 0 && fld y.regs.lkJob 0 16 == tag

/-- Bits of a mask name mapped regions. -/
def Ctx.maskMapped (x : Ctx) (m : Nat) : Bool := (bitList 16 m).all fun r => (x.region r).isSome

/-- Peers of ST_CTX_PEER0–3 that are valid. -/
def Ctx.peers (x : Ctx) : List Word :=
  [x.regs.stPeer0, x.regs.stPeer1, x.regs.stPeer2, x.regs.stPeer3].filter fun w => flag w 31

/-- The conditions of R324. -/
def State.skeinOk (s : State) (c : Nat) : Bool :=
  let x := s.ctx c
  let pages := ((bitList 16 x.persist).map fun r => x.regionBytes r / pageBytes).sum
  match x.skein with
  | none => false
  | some k =>
    !bitAt x.persist (fld x.regs.stSkein 0 4) && k.inBytes != 0 && x.regs.stShardOwn != 0 &&
      decide (2 ^ 20 + k.slots * k.slotBytes + (if x.windowW = 0 then 1 else 2) * pages * undoStride ≤ k.size) &&
      x.maskMapped x.persist && x.maskMapped x.mirrorMask && x.maskMapped x.staticMask &&
      (!flag x.regs.stTrace 31 || (x.region (fld x.regs.stTrace 0 4)).isSome) &&
      (x.parent == s.ownChip || chipKind (s.chipEntry x.parent) == 1) &&
      x.peers.all fun w => chipKind (s.chipEntry (fld w 0 14)) == 1

/-- Addresses of static images in a pair area, each at a multiple of 64 MiB from the region's start, after the slot
copies (R360). -/
def imagesAt (base : Nat) (sizes : List Nat) : List Nat :=
  (List.range sizes.length).map fun i => base + 2 ^ 26 + ((sizes.take i).map fun n => roundUp n (2 ^ 26)).sum

/-- The device reads the creation record and the member bitmap in its pair area (R360, R221). -/
def State.touchPair (s : State) (c : Nat) : State :=
  match (s.ctx c).pair with
  | some (base, _) => s.touch (.mem c) base (0x8000 + 1028)
  | none => s

/-- The conditions of R359 and R360 for a paired context. -/
def State.pairOk (s : State) (c : Nat) : Bool :=
  let x := s.ctx c
  match x.pair with
  | none => true
  | some (base, chip) =>
    let e := s.chipEntry chip
    let r := fld x.regs.stPair 16 4
    let statics := ((bitList 16 x.staticMask).map fun q => roundUp (x.regionBytes q) (2 ^ 26)).sum
    let bm := s.peek (.mem c) (base + 0x8000 + s.ownChip / 8) 1
    chipKind e == 1 && chipGroup e != s.ownGroup && (x.peers.any fun w => fld w 0 14 == chip && !flag w 16) &&
      bitAt (ofLe bm) (s.ownChip % 8) && (x.region r).isSome && !bitAt x.persist r && !bitAt x.staticMask r &&
      !bitAt x.mirrorMask r && r != fld x.regs.stSkein 0 4 &&
      decide (65536 + (2 + x.windowW) * 2 ^ 21 + statics ≤ x.regionBytes r)

/-- The pair image written at CTX_START (R362): the creation record and the static regions. -/
def State.pairImage (s : State) (c : Nat) : State :=
  let x := s.ctx c
  match x.pair, x.cores with
  | some (base, chip), p :: _ =>
    let s1 := s.sendPuts p chip 0 none [⟨base, x.creation, []⟩]
    let rs := bitList 16 x.staticMask
    ((rs.zip (imagesAt base (rs.map x.regionBytes))).foldl (fun t (q, a) =>
      t.pairSend p chip none (x.regionBase q) a (x.regionBytes q)) s1).modStep c fun st => { st with pairPending := true }
  | _, _ => s

/-- The header of the skein (R323). -/
def State.skeinHeader (s : State) (c : Nat) : State :=
  match (s.ctx c).skein with
  | none => s
  | some k => s.devWrite c k.base (slice (leBytes 8 k.slots ++ leBytes 8 k.slotBytes ++ leBytes 8 (k.undoBase - k.base) ++
      leBytes 8 k.undoSize) 0 4096) []

/-- PWC sees the cores of a context without a phase (R39). -/
def State.clearPhases (s : State) (cores : List Nat) : State :=
  { s with pw := { s.pw with phases := cores.foldl (fun t p => Tbl.set 255 t p 255) s.pw.phases } }

/-- The context starts, its checks passed. -/
def State.startCtx (s : State) (c addr : Nat) (es : List (Nat × Nat × Bool)) : State :=
  let x := s.ctx c
  let s1 := ((List.zip x.cores es).foldl (fun t (p, e) =>
    t.modCore p fun k => { k with seq := Seq.start e, phaseSent := [] }) s).clearPhases x.cores
  let s2 := s1.setCtx c { x with
    st := .running, streamTable := addr, startRegs := x.regs, startTable := addr
    ls := x.lsTake { LossScale.reset with state := x.ls.state }
    step := StepSt.reset, poisonCounts := [] }
  let s3 : State := { s2 with err := { s2.err with wdWaited := s2.err.wdWaited.filter fun e => !x.cores.contains e.1 } }
  (((s3.skeinHeader c).pairImage c).tryFinish c)

/-- CTX_START (R28, R33). -/
def State.startCmdCtx (s : State) (c : Nat) (h : HostCmd) : State :=
  let x := s.ctx c
  let addr := fieldAt h.payload 0 8
  let tag := fld x.regs.lkJob 0 16
  if x.st ≠ .created ∧ x.st ≠ .finished then s.finish h 1
  else
    let (clean, t0) := s.readTable c addr
    let t := t0.touchPair c
    match (if clean then t.streamTableAt c addr else none) with
    | none => t.finish h 3
    | some es =>
      if (bitAt x.desc.flags.toNat 0 && (tag == 0 || t.tagTaken c tag)) || !x.regs.lsRangeOk ||
          (x.stEn && !t.skeinOk c) || !t.pairOk c then t.finish h 3
      else (t.startCtx c addr es).finish h 0

/-- CTX_START (R33). -/
def execCtxStart (ctx : Nat) (s : State) : Host.Outcome State Fault Refusal :=
  inRange (ctxOk ctx) (s.ctxCmd ctx 2 fun h t => t.startCmdCtx ctx h)

/-! ### Save records (R41) -/

/-- Bytes in one save record. -/
def recordSize : Nat := 4767744

/-- The banks of an array: 2 × 128 × 128 containers. -/
def Array.bankBytes (a : Array) : List Byte × List Bool :=
  let one (t : Tbl (BitVec 48)) (po : List Nat) : List Byte × List Bool :=
    ((List.range 16384).flatMap fun k => leBytes 8 (Tbl.get 0 t k).toNat, (List.range 16384).flatMap fun k =>
      List.replicate 8 (po.contains k))
  let x := one a.bank0 a.poison0
  let y := one a.bank1 a.poison1
  (x.1 ++ y.1, x.2 ++ y.2)

/-- The banks read back. -/
def Array.loadBanks (a : Array) (b : List Byte) (po : List Bool) : Array :=
  let bank (o : Nat) : Tbl (BitVec 48) := (List.range 16384).filterMap fun k =>
    let v := BitVec.ofNat 48 (fieldAt b (o + 8 * k) 8)
    if v = 0 then none else some (k, v)
  let pois (o : Nat) : List Nat := (List.range 16384).filter fun k => (po[o + 8 * k]?).getD false
  { a with bank0 := bank 0, bank1 := bank 131072, poison0 := pois 0, poison1 := pois 131072 }

/-- The vector engine's state (R126). -/
def Core.vecBytes (k : Core) : List Byte :=
  let img (i : Nat) : List Byte := (Tbl.getRun 0 (Tbl.get VTable.reset k.tables i).image 0 2064)
  slice ((List.range 8).flatMap (fun i => (img i).take 16) ++ (List.range 8).flatMap (fun i => (img i).drop 16) ++
    leBytes 1 (maskOf ((List.range 8).filter fun i => (Tbl.get VTable.reset k.tables i).loaded))) 0 32768

/-- The tables read back. -/
def tablesFrom (b : List Byte) : Tbl VTable :=
  (List.range 8).foldl (fun t i =>
    let img := slice b (16 * i) 16 ++ slice b (0x80 + 2048 * i) 2048
    Tbl.set VTable.reset t i ⟨Tbl.setRun 0 [] 0 img, bitAt (fieldAt b 0x4080 1) i⟩) []

/-- A watch slot (R192). -/
def Watch.bytes (w : Watch) : List Byte :=
  leBytes 1 w.kind ++ leBytes 1 w.notifyLcore ++ leBytes 2 w.ctr ++ leBytes 4 w.value.toNat ++ leBytes 2 w.notifyCtr ++
    leBytes 2 w.notifyInc ++ zeros 4

def watchesFrom (b : List Byte) : List Watch :=
  ((List.range 64).map fun i => b.drop (16 * i)).filterMap fun e =>
    if fieldAt e 0 1 = 0 then none
    else some ⟨fieldAt e 0 1, fieldAt e 2 2, BitVec.ofNat 32 (fieldAt e 4 4), fieldAt e 1 1, fieldAt e 8 2, fieldAt e 0x0A 2⟩

/-- One queue's 16 slots: a slot's bytes with its place and number in its zero bytes. -/
def Seq.queueBytes (q : Seq) (l : List QCmd) : List Byte :=
  slice (l.flatMap fun c => slice c.slot 0 20 ++ leBytes 4 (q.index c.addr) ++ leBytes 8 c.seqno) 0 512

/-- A queue read back; its commands carry the epoch of the last STEP (R320). -/
def Seq.queueFrom (q : Seq) (b : List Byte) : List QCmd :=
  ((List.range 16).map fun i => b.drop (32 * i)).filterMap fun e =>
    if slotEng e = 0 then none
    else some ⟨slice (slice e 0 20) 0 32, q.base + 32 * fieldAt e 20 4, fieldAt e 24 8, q.lastStep, Faults.none⟩

/-- A core's whole store, read. -/
def State.readWhole (s : State) (p : Nat) : Data × State := s.read (.store p) 0 (2 ^ 22)

/-- The part of a record before its header, with poison marks, from the store's contents. -/
def Core.saveBody (k : Core) (st : Data) : Data :=
  let w := k.warp.bankBytes
  let f := k.weft.bankBytes
  let rest := k.vecBytes ++ (List.range 4096).map Config.epilogueByte ++ k.counterBytes ++
    slice (k.watches.flatMap Watch.bytes) 0 1024 ++
    permute Config.queueOrder ([k.qWarp, k.qWeft, k.qVec, k.qCopy, k.qSync].flatMap k.seq.queueBytes) ++ k.seq.bytes []
  ⟨st.bytes ++ w.1 ++ f.1 ++ rest, st.pois ++ w.2 ++ f.2 ++ List.replicate rest.length false⟩

/-- The header: logical core, context, version, CRC-32C (R41 gives the fields, not their places). -/
def saveHeader (l c : Nat) (body : List Byte) : List Byte :=
  leBytes 2 l ++ leBytes 1 c ++ leBytes 1 1 ++ leBytes 4 (crc32c body) ++ zeros 4088

/-- Address of a record. -/
def Ctx.recordAt (x : Ctx) (l : Nat) : Nat := x.saveArea + recordSize * l

/-- Write the save record of a core. -/
def State.saveCore (s : State) (c p l : Nat) : State :=
  let r := s.readWhole p
  let d := (s.core p).saveBody r.1
  r.2.devWrite c ((r.2.ctx c).recordAt l) (d.bytes ++ saveHeader l c d.bytes) (d.pois ++ List.replicate 4096 false)

/-- A record's version and CRC are good (R43). -/
def State.recordOk (s : State) (c l : Nat) : Bool :=
  let b := s.peek (.mem c) ((s.ctx c).recordAt l) recordSize
  let body := b.take 0x48B000
  fieldAt b 0x48B003 1 == 1 && fieldAt b 0x48B004 4 == crc32c body

/-- Restore a core from a record. -/
def State.loadCore (s : State) (c p l : Nat) : State :=
  let (d, s1) := s.read (.mem c) ((s.ctx c).recordAt l) recordSize
  let b := d.bytes
  let (q, _) := Seq.parse (slice b 0x48AE00 512)
  let qs := unpermute Config.queueOrder (slice b 0x48A400 2560)
  let queue (i : Nat) : List QCmd := q.queueFrom (slice qs (512 * i) 512)
  let counts := (s.ctx c).savedCounts.find? fun e => e.lcore == l
  let s2 := s1.write (.store p) 0 (b.take (2 ^ 22)) (d.pois.take (2 ^ 22))
  s2.modCore p fun k =>
    { k.fresh with
      seq := q
      warp := k.fresh.warp.loadBanks (slice b 0x400000 0x40000) (d.pois.drop 0x400000)
      weft := k.fresh.weft.loadBanks (slice b 0x440000 0x40000) (d.pois.drop 0x440000)
      tables := tablesFrom (slice b 0x480000 32768), counters := countersFrom (slice b 0x489000 4096)
      watches := watchesFrom (slice b 0x48A000 1024)
      qWarp := queue 0, qWeft := queue 1, qVec := queue 2, qCopy := queue 3, qSync := queue 4
      sentBytes := (counts.map (·.sent)).getD [], ackedBytes := (counts.map (·.acked)).getD []
      phaseSent := if q.phase = 255 then [] else [q.phase] }

/-! ### CTX_SUSPEND and its end (R40, R41) -/

/-- CTX_SUSPEND: dispatch stops (R40, R41). -/
def State.suspendCmd (s : State) (c : Nat) (h : HostCmd) : State :=
  let x := s.ctx c
  if flag x.desc.flags 2 && ((x.st == .running && !flag x.desc.flags 0) || x.st == .paused) then s.setBusy c h
  else s.finish h 1

/-- CTX_SUSPEND (R40). -/
def execCtxSuspend (ctx : Nat) (s : State) : Host.Outcome State Fault Refusal :=
  inRange (ctxOk ctx) (s.ctxCmd ctx 3 fun h t => t.suspendCmd ctx h)

/-- Commands of the context that have started are complete, the receipt of their remote signals included, and no change
of it is on its way (R37, R41). -/
def State.ctxSettled (s : State) (c : Nat) : Bool :=
  (s.ctx c).cores.all (fun p => (s.core p).started.isEmpty && (s.core p).toSignal.isEmpty && (s.core p).rsigOut.isEmpty) &&
    !(s.hub.any fun m => m.ctx == c)

/-- Numbers with their index. -/
def numbered (l : List Nat) : List (Nat × Nat) := (List.range l.length).zip l

/-- The save records are written and the cores released; a context that faulted meanwhile discards them (R31, R41). -/
def State.saveDone (s : State) (c : Nat) : State :=
  let x := s.ctx c
  match x.busy with
  | none => s
  | some h =>
    if h.opcode ≠ 3 then s
    else if x.st = .faulted then (s.clearBusy c).finish h 9 x.faultCode
    else if !s.ctxSettled c then s
    else
      let s1 := (numbered x.cores).foldl (fun t (l, p) => t.saveCore c p l) s
      let counts := (numbered x.cores).map fun (l, p) => (⟨l, (s.core p).sentBytes, (s.core p).ackedBytes⟩ : SavedCounts)
      let s2 := x.cores.foldl (fun t p => t.releaseCore p) s1
      let s3 := s2.modCtx c fun y => { y with
        st := .suspended, resumeTo := x.st, cores := [], busy := none
        savedCounts := counts.filter fun e => !e.sent.isEmpty }
      (s3.ckSnapshot c).finish h 0

/-- SUSPEND_SAVE_DONE (R41). -/
def execSuspendSaveDone (ctx : Nat) (s : State) : Host.Outcome State Fault Refusal :=
  inRange (ctxOk ctx) (s.saveDone ctx)

/-! ### CTX_RESUME (R42, R43, R144, R146, R192) -/

/-- A signal of an earlier epoch joins the core's record of an uncommitted step too (R329). -/
def State.recordSignalAt (s : State) (c lcore ctr inc n : Nat) : State :=
  match (s.ctx c).skein with
  | none => s
  | some k =>
    let a := k.recBase n lcore + 4 * ctr
    s.devWrite c a (leBytes 4 (ofLe (s.peek (.mem c) a 4) + inc)) []

/-- Steps the core has executed that are uncommitted and later than the signal's epoch, given by its key; at most two are
open (R320). -/
def State.openSteps (s : State) (c p key : Nat) : List Nat :=
  match (s.core p).seq.lastStep with
  | none => []
  | some m => [m, m - 1].eraseDups.filter fun n => decide (key ≤ n) &&
      (match (s.ctx c).step.committed with
        | some q => decide (q < n)
        | none => true)

/-- A signal joins every open record of its core that it precedes (R329). -/
def State.recordSignal (s : State) (c p lcore ctr inc key : Nat) : State :=
  (s.openSteps c p key).foldl (fun t n => t.recordSignalAt c lcore ctr inc n) s

/-- The epoch key of a held signal; a restored one has come before every step (R407, R416). -/
def HeldSignal.key (g : HeldSignal) : Nat := (g.req.map fun r => epKey r.epochOf).getD 0

/-- A held signal reaches its counter, and the records it precedes; one that came from another module and does not fit is
refused to its sender (R42, R183, R329). -/
def State.applyHeldOne (s : State) (c : Nat) (g : HeldSignal) : State :=
  match s.physCore c g.lcore with
  | none => s
  | some p => match g.req with
    | some r => if (s.core p).ctr g.ctr + g.inc < 2 ^ 32 then
        (s.addCtr p g.ctr g.inc).recordSignal c p g.lcore g.ctr g.inc g.key
      else (s.suError p Code.suOverflow).refuseAt g.port r 6
    | none => (s.addCtr p g.ctr g.inc).recordSignal c p g.lcore g.ctr g.inc g.key

/-- Apply the held signals in arrival order (R42). -/
def State.applyHeld (s : State) (c : Nat) : State :=
  (s.ctx c).heldSignals.foldl (fun t g => t.applyHeldOne c g) (s.modCtx c fun x => { x with heldSignals := [] })

/-- Evaluate every watch of a core once, in order (R192). -/
def State.evaluateAll (s : State) (p : Nat) : State :=
  (s.core p).watches.foldl (fun t w => t.evaluate p w.ctr) s

/-- Leaving PAUSED by CTX_RESUME: a step rolled back by PAUSE reruns; else the gate may open (R144, R146). -/
def State.resumePausedCtx (s : State) (c : Nat) : State :=
  let x := s.ctx c
  let s1 := s.setCtx c { x with
    st := .running, ls := x.lsTake x.ls
    regs := { x.regs with tsLsFloor := false, tsNfPaused := false, tsLsMismatch := false }
    recov := if x.recov.rstate = 6 then Recov.reset else x.recov
    step := { x.step with pausePending := none, pausedByMemory := false, discardFrom := none } }
  if x.step.rerunDue then s1.rerunStep c (x.step.attempt + 1)
  else (s1.openGate c).tryFinish c

/-- The channel being mapped out whose copy moves a part of the context's granules, or has moved one and is not complete
(R246). -/
def State.copying (s : State) (c : Nat) : Option Nat :=
  (s.mapouts.find? fun ch => s.moving ch && (s.toMove ch).any fun e => e.2 == c).orElse fun _ =>
    s.pendingChans.find? fun ch => (s.chan ch).movers.contains c

/-- CTX_RESUME (R43, R144); of a SUSPENDED context, it waits for a map-out whose copy is under way (R246). -/
def State.resumeCmd (s : State) (c : Nat) (h : HostCmd) : State :=
  let x := s.ctx c
  if x.st = .paused then
    if !x.regs.lsRangeOk then s.finish h 3
    else (s.resumePausedCtx c).complete h 0 0 c 0 (coreMaskBytes x.cores)
  else if x.st = .suspended then
    if !x.regs.lsRangeOk then s.finish h 3
    else match s.copying c with
    | some ch => { s with resumeWaits := s.resumeWaits ++ [(ch, c, h)] }
    | none => match s.chooseCores x.desc.placement x.desc.coreCount x.desc.coreMask with
    | none => s.finish h 5
    | some cores =>
      if !(List.range x.desc.coreCount).all (fun l => s.recordOk c l) then
        (s.each (List.range x.desc.coreCount) fun t l => t.touch (.mem c) (x.recordAt l) recordSize).finish h 6
      else
        let s1 := (numbered cores).foldl (fun t (l, p) => t.loadCore c p l)
          (s.modCtx c fun y => { y with cores := cores, savedCounts := [] })
        let s2 := (s1.applyHeld c)
        let s3 := cores.foldl State.evaluateAll s2
        if (s3.ctx c).st = .faulted then s3.complete h 9 (s3.ctx c).faultCode c 0 []
        else (((s3.modCtx c fun y => { y with st := x.resumeTo }).complete h 0 0 c 0 (coreMaskBytes cores)).openGate
          c).tryFinish c
  else s.finish h 1

/-- CTX_RESUME (R43). -/
def execCtxResume (ctx : Nat) (s : State) : Host.Outcome State Fault Refusal :=
  inRange (ctxOk ctx) (s.ctxCmd ctx 4 fun h t => t.resumeCmd ctx h)

/-! ### CTX_DESTROY and its end (R30) -/

/-- A context with st_en is in a step: one is declared and not committed (R334). -/
def Ctx.inStep (x : Ctx) : Bool := x.stEn && x.step.declared.isSome && x.step.declared != x.step.committed

/-- The context stops and its resources begin to be zeroed (R30, R334, R413). -/
def State.destroyCtx (s : State) (c : Nat) : State :=
  let x := s.ctx c
  let s1 := x.cores.foldl (fun t p => t.modCore p Core.stop) s
  let s2 := if 1 ≤ x.ck.state ∧ x.ck.state ≤ 3 then s1.ckFail c Code.ckAborted else s1
  let s3 := if x.inStep then s2.report (codeAt Code.stCtxGone c) { ctx := some c, step := some x.step.current } else s2
  let s4 := s3.modCtx c fun y => { y with
    zeroing := true, busy := none, ck := y.ck.idle, windows := [], heldSignals := [], rsigAcked := []
    step := { y.step with
      diagCmd := none, failCode := if x.inStep then codeAt Code.stCtxGone c else y.step.failCode } }
  { s4 with fences := s4.fences.filter fun f => f.ctx != c }

/-- CTX_DESTROY (R30). -/
def execCtxDestroy (ctx : Nat) (s : State) : Host.Outcome State Fault Refusal :=
  inRange (ctxOk ctx) (if (s.ctx ctx).zeroing then s
    else s.ctxCmd ctx 5 fun h t => (t.destroyCtx ctx).setBusy ctx h)

/-- Lid units zeroed and returned (R30). -/
def State.releaseLid (s : State) (u : Nat) : State :=
  { s.setLidUnit u { s.lidUnit u with owner := none, secure := false, cache := false, logical := 0 } with
    lid := s.lid.clear (u * 2 ^ 25) (2 ^ 25), cache := Tbl.clearRun s.cache (u * 8192) 8192 }

/-- Every resource of a context is zeroed and returned; the slot is FREE (R30). -/
def State.freeCtx (s : State) (c : Nat) : State :=
  let x := s.ctx c
  let s1 := x.cores.foldl (fun t p => t.releaseCore p) s
  let s2 := x.lid.foldl (fun t u => t.releaseLid u.1) s1
  let gs := s2.granOwner.filterMap fun (g, o) => if o = some c then some g else none
  let gone := fun (m : HubMsg) => if m.ctx = c then { m with gone := true, origin := none } else m
  let s3 : State := { gs.foldl State.freeGranule s2 with hub := s2.hub.map gone }
  s3.setCtx c { Ctx.reset with
    regs := x.regs, step := if x.step.failCode = codeAt Code.stCtxGone c then x.step else StepSt.reset }

/-- Zeroing is complete (R30); the world table is written by SEC, so it waits for a restart of SEC (R441). -/
def State.zeroingDone (s : State) (c : Nat) : State :=
  let x := s.ctx c
  if !x.zeroing || s.err.restarting.contains .sec then s
  else match x.busy with
    | some h => (s.freeCtx c).finish h 0
    | none => s.freeCtx c

/-- CTX_ZEROING_DONE (R30). -/
def execCtxZeroingDone (ctx : Nat) (s : State) : Host.Outcome State Fault Refusal :=
  inRange (ctxOk ctx) (s.zeroingDone ctx)

end Sys2Proof.Machine
end

