-- ==== Sys2Proof/Machine/Commands.lean ====
section
/-! DEFINITION. Host commands for regions, lid units and windows (R209, R214, R215, R491, R497), DIAG (R345, R346),
REPLAN, STAKE_ADD and KAK_RUN (R380, R381, R384, R492). -/

namespace Sys2Proof.Machine

/-! ### Regions -/

/-- A mode with a set that it has (R209, R491). -/
def setOk (mode set : Nat) : Bool := mode == 0 && decide (set < 16) || mode == 1 && decide (set < 8) || mode == 2 && set == 0

/-- The fields of REGION_MAP's payload are valid (R491). -/
def Ctx.mapOk (x : Ctx) (b : List Byte) : Bool :=
  let r := fieldAt b 0 1
  let bytes := fieldAt b 8 8
  decide (1 ≤ r) && decide (r ≤ 15) && (x.region r).isNone && setOk (fieldAt b 1 1) (fieldAt b 2 1) &&
    allZero (slice b 3 5) && allZero (slice b 0x18 8) && bytes != 0 && aligned bytes (2 ^ 26) &&
    aligned (fieldAt b 0x10 8) (2 ^ 26)

/-- REGION_MAP (R491). -/
def State.regionMapCmd (s : State) (c : Nat) (h : HostCmd) : State :=
  let x := s.ctx c
  let b := h.payload
  let n := fieldAt b 8 8 / 2 ^ 26
  let base := fieldAt b 0x10 8
  if !x.setUp then s.finish h 1
  else if !x.mapOk b then s.finish h 3
  else if s.freeGranules.length < n then s.finish h 5
  else match s.chooseRun base n with
    | none => s.finish h (if base = 0 then 5 else 3)
    | some g =>
      match s.mapGranules c (fieldAt b 1 1) (fieldAt b 2 1) ((List.range n).map (· + g)) with
      | none => s.finish h 5
      | some t =>
        let reg : Region := ⟨g * 2 ^ 26, n * 2 ^ 26, fieldAt b 1 1, fieldAt b 2 1⟩
        (t.modCtx c fun y => { y with regions := Tbl.set none y.regions (fieldAt b 0 1) (some reg) }).finish h 0

/-- REGION_MAP (R209, R491). -/
def execRegionMap (ctx : Nat) (s : State) : Host.Outcome State Fault Refusal :=
  inRange (ctxOk ctx) (s.ctxCmd ctx 0x10 fun h t => t.regionMapCmd ctx h)

/-- REGION_UNMAP: the region is zeroed and freed; its page states go with it (R489). -/
def State.regionUnmapCmd (s : State) (c : Nat) (h : HostCmd) : State :=
  let x := s.ctx c
  let r := fieldAt h.payload 0 1
  if !x.setUp then s.finish h 1
  else match (if 1 ≤ r ∧ r ≤ 15 ∧ allZero (slice h.payload 1 7) then x.region r else none) with
    | none => s.finish h 3
    | some g =>
      let t := ((List.range (g.bytes / 2 ^ 26)).map (· + g.base / 2 ^ 26)).foldl State.freeGranule s
      (t.modCtx c fun y => { y with
        regions := Tbl.set none y.regions r none
        ck := { y.ck with dirty := y.ck.dirty.filter fun k => k.1 != r } }).finish h 0

/-- REGION_UNMAP (R489). -/
def execRegionUnmap (ctx : Nat) (s : State) : Host.Outcome State Fault Refusal :=
  inRange (ctxOk ctx) (s.ctxCmd ctx 0x11 fun h t => t.regionUnmapCmd ctx h)

/-! ### Lid units -/

/-- Logical numbers of the scratchpad units: their index in ascending physical order (R215). -/
def scratchNumbers (l : List (Nat × Bool)) : List (Nat × Bool × Nat) :=
  let scratch := (l.filter fun u => !u.2).map (·.1)
  l.map fun u => (u.1, u.2, if u.2 then 0 else (indexOf? scratch u.1).getD 0)

/-- LID_CONFIG: bit i of the bitmap makes the context's unit i, in ascending physical order, a cache unit. -/
def State.lidConfigCmd (s : State) (c : Nat) (h : HostCmd) : State :=
  let x := s.ctx c
  let m := fieldAt h.payload 0 16
  if x.st ≠ .created then s.finish h 1
  else if 2 ^ x.lid.length ≤ m then s.finish h 3
  else
    let l := (List.range x.lid.length).zip x.lid |>.map fun (i, u) => (u.1, bitAt m i)
    let s1 := (scratchNumbers l).foldl (fun t (u, k, n) => t.setLidUnit u { t.lidUnit u with cache := k, logical := n }) s
    (s1.modCtx c fun y => { y with lid := l }).finish h 0

/-- LID_CONFIG (R214, R215). -/
def execLidConfig (ctx : Nat) (s : State) : Host.Outcome State Fault Refusal :=
  inRange (ctxOk ctx) (s.ctxCmd ctx 0x12 fun h t => t.lidConfigCmd ctx h)

/-! ### Windows (R497) -/

/-- CREATED to FINISHED, in the order of R28. -/
def CtxState.windowed (st : CtxState) : Bool := st != .free && st != .faulted

def Ctx.window (x : Ctx) (n : Nat) : Option Window := Tbl.get none x.windows n

/-- WINDOW_REG. -/
def State.windowRegCmd (s : State) (c : Nat) (h : HostCmd) : State :=
  let x := s.ctx c
  let b := h.payload
  let n := fieldAt b 0 1
  let acc := fieldAt b 1 1
  let addr := fieldAt b 8 8
  let size := fieldAt b 0x10 8
  let free := match x.window n with
    | some w => w.revoked
    | none => true
  if !x.st.windowed then s.finish h 1
  else if decide (n < 64) && decide (acc < 4) && allZero (slice b 2 6) && aligned addr 4096 && aligned size 4096 &&
      decide (4096 ≤ size) && decide (size ≤ 2 ^ 40) && free then
    (s.modCtx c fun y => { y with windows := Tbl.set none y.windows n (some ⟨addr, size, bitAt acc 0, bitAt acc 1, false⟩) }).finish
      h 0
  else s.finish h 3

/-- WINDOW_REG (R497). -/
def execWindowReg (ctx : Nat) (s : State) : Host.Outcome State Fault Refusal :=
  inRange (ctxOk ctx) (s.ctxCmd ctx 0x20 fun h t => t.windowRegCmd ctx h)

/-- WINDOW_DEREG: the window is revoked. -/
def State.windowDeregCmd (s : State) (c : Nat) (h : HostCmd) : State :=
  let x := s.ctx c
  let n := fieldAt h.payload 0 1
  if !x.st.windowed then s.finish h 1
  else match (if n < 64 ∧ allZero (slice h.payload 1 7) then x.window n else none) with
    | none => s.finish h 3
    | some w =>
      (s.modCtx c fun y => { y with windows := Tbl.set none y.windows n (some { w with revoked := true }) }).finish h 0

/-- WINDOW_DEREG (R497). -/
def execWindowDereg (ctx : Nat) (s : State) : Host.Outcome State Fault Refusal :=
  inRange (ctxOk ctx) (s.ctxCmd ctx 0x21 fun h t => t.windowDeregCmd ctx h)

/-! ### DIAG (R345, R346) -/

/-- DIAG: the coordinator sends ST_DECIDE DIAG for step D down the tree. -/
def State.diagCmd (s : State) (c : Nat) (h : HostCmd) : State :=
  let x := s.ctx c
  let d := fieldAt h.payload 0 8
  if x.st ≠ .paused ∨ !x.stEn ∨ !s.coordinator c then s.finish h 1
  else if !x.step.window.contains d then s.finish h 3
  else ((s.setBusy c h).modStep c fun st => { st with diagCmd := some h }).sendDecision c ⟨d, x.step.attempt, 4, 0, 0xFFFF, 0⟩
    s.ownChip

/-- DIAG (R345, R346). -/
def execDiag (ctx : Nat) (s : State) : Host.Outcome State Fault Refusal :=
  inRange (ctxOk ctx) (s.ctxCmd ctx 0x40 fun h t => t.diagCmd ctx h)

/-! ### REPLAN (R380, R492) -/

/-- The registers that REPLAN writes. -/
def CtxRegs.replan (r : CtxRegs) (b : List Byte) : CtxRegs :=
  let w (o : Nat) : Word := BitVec.ofNat 32 (fieldAt b o 4)
  { r with
    stCfg := putStCfg (w 8), stTree := putStTree (w 0x0C), stPeer0 := putStPeer (w 0x10), stPeer1 := putStPeer (w 0x14)
    stPeer2 := putStPeer (w 0x18), stPeer3 := putStPeer (w 0x1C), stPair := putStPair (w 0x20) }

/-- New streams on a held context: counters and watches are cleared, and each sequencer stands at its new entry; its
first STEP carries R. -/
def State.replanCmd (s : State) (c : Nat) (h : HostCmd) : State :=
  let x := s.ctx c
  let b := h.payload
  if x.st ≠ .paused ∨ x.recov.rstate ≠ 6 then s.finish h 1
  else
    let (clean, t) := s.readTable c (fieldAt b 0 8)
    match (if clean && allZero (slice b 0x24 4) then t.streamTableAt c (fieldAt b 0 8) else none) with
    | none => t.finish h 3
    | some es =>
      let s1 := (List.zip x.cores es).foldl (fun t (p, e) => t.modCore p fun k =>
        { k with seq := Seq.start e, counters := [], watches := [] }) t
      (s1.modCtx c fun y => { y with
        streamTable := fieldAt b 0 8, regs := y.regs.replan b
        step := { y.step.newAttempt with
          first := y.recov.stepR, declared := y.step.committed, rerunDue := false, children := [] } }).finish h 0

/-- REPLAN (R492). -/
def execReplan (ctx : Nat) (s : State) : Host.Outcome State Fault Refusal :=
  inRange (ctxOk ctx) (s.ctxCmd ctx 0x41 fun h t => t.replanCmd ctx h)

/-! ### Known-answer kernels (R384, R492) -/

/-- A named part that a context owns. -/
def State.kakTaken (s : State) (b : List Byte) : Bool :=
  (bitList 192 (fieldAt b 0 24)).any (fun p => (s.coreOwner p).isSome) ||
    (bitList 256 (fieldAt b 24 32)).any (fun ch => !(s.granulesIn ch).isEmpty) ||
    (bitList 128 (fieldAt b 56 16)).any fun u => (s.lidUnit u).owner.isSome

/-- KAK_RUN: HLT runs the kernels on the named free parts; the record waits for them. -/
def State.kakRunCmd (s : State) (h : HostCmd) : State :=
  if s.kakTaken h.payload then s.finish h 3 else { s with kakCmd := some h }

/-- KAK_RUN (R384): one suite at a time. -/
def execKakRun (s : State) : Host.Outcome State Fault Refusal :=
  .next (if s.kakCmd.isSome then s else s.moduleCmd 0x51 fun h t => t.kakRunCmd h)

/-- Some part failed the kernels. -/
def kakAny (r : KakResult) : Bool :=
  !(r.badArrays.isEmpty && r.badCores.isEmpty && r.badChannels.isEmpty && r.badLidUnits.isEmpty)

/-- Parts that failed the kernels leave service, and RC_KAK_FAIL is raised (R332, R333, R384, R397). -/
def State.kakFailed (s0 : State) (r : KakResult) : State :=
  let s := if kakAny r then s0.report (codeAt Code.rcKakFail 0xFF) else s0
  let quar (t : State) (k : Nat) : State := t.modCore (k / 2) fun x =>
    if k % 2 = 0 then { x with warp := { x.warp with quarantined := true } }
    else { x with weft := { x.weft with quarantined := true } }
  let s1 := r.badArrays.foldl quar s
  let s2 := r.badCores.foldl (fun t p => t.modCore p fun x => { x with quarantined := true }) s1
  let s3 := r.badLidUnits.foldl (fun t u => t.setLidUnit u { t.lidUnit u with withheld := true }) s2
  r.badChannels.foldl State.triggerMapout s3

/-- The kernels have run on a core that no context holds (R433). -/
def State.kernelsRun (s : State) (p : Nat) : State :=
  if (s.coreOwner p).isNone then s.modCore p fun x => { x with needsKernels := false } else s

/-- The kernels are done: failing parts leave service, cores reset by EL_WD_EXEC that were tested may be placed again,
and KAK_RUN's record is written. -/
def State.kakDone (s : State) (r : KakResult) : State :=
  if s.err.restarting.contains .hlt then s
  else match s.kakCmd with
    | some h =>
      let s1 : State := { s.kakFailed r with kakCmd := none }
      let s2 := (bitList 192 (fieldAt h.payload 0 24)).foldl State.kernelsRun s1
      if kakAny r then s2.finish h 9 (codeAt Code.rcKakFail 0xFF) else s2.finish h 0
    | none =>
      let due := s.cores.filterMap fun (p, k) => if k.needsKernels && (s.coreOwner p).isNone then some p else none
      if due.isEmpty then s
      else due.foldl State.kernelsRun (s.kakFailed r)

/-- The parts named exist. -/
def kakInRange (r : KakResult) : Bool :=
  r.badArrays.all (fun a => decide (a < 384)) && r.badCores.all (fun a => decide (a < 192)) &&
    r.badChannels.all (fun a => decide (a < 256)) && r.badLidUnits.all fun a => decide (a < 128)

/-- KNOWN_ANSWER_KERNELS_DONE (R384). -/
def execKnownAnswerKernelsDone (r : KakResult) (s : State) : Host.Outcome State Fault Refusal :=
  inRange (kakInRange r) (s.kakDone r)

end Sys2Proof.Machine
end

