-- ==== Sys2Proof/Machine/Flits.lean ====
section
/-! DEFINITION. Ports and their neighbour plan (R257, R293, R305, R308), and the transmitter of a port: headers and flits
(R263–R265, R274), credits and replay buffer (R266, R270), slots (R265). -/

namespace Sys2Proof.Machine

/-- A global port, G0–G7 (R257). -/
def isGlobal (l : Nat) : Bool := decide (31 ≤ l) && decide (l ≤ 38)

/-- The group port from slot s to slot t (R293). -/
def groupPort (s t : Nat) : Nat := (t + 32 - s) % 32 - 1

/-- A plan entry (R305). -/
structure Plan where
  expect : Nat
  openPort : Bool
  switched : Bool
  peer : Nat
  peerPort : Nat
  moduleId : Nat
  deriving DecidableEq, Repr

/-- The plan entry of a port in force: TP_OVR replaces that of a switched global port (R305, R308). -/
def State.plan (s : State) (l : Nat) : Plan :=
  let e := slice s.boot.record (0x40 + 16 * l) 16
  let fl := fieldAt e 1 1
  let p : Plan := ⟨fieldAt e 0 1, bitAt fl 0, bitAt fl 1, fieldAt e 2 2, fieldAt e 4 1, fieldAt e 8 8⟩
  let o := Tbl.get 0 s.fab.ovrUsed (l - 31)
  if isGlobal l && p.switched && flag o 31 then
    { p with expect := fld o 29 2, peer := fld o 0 14, peerPort := fld o 23 6, moduleId := 0 }
  else p

/-- An admitted port that carries flits. -/
def Link.carries (k : Link) : Bool := (k.state == 2 || k.state == 3) && k.outcome == 1

/-- The position at the far end of a port to a compute position. -/
def State.farPos (s : State) (l : Nat) : Option Nat :=
  if l < 31 then some (s.ownGroup * 32 + (s.ownSlot + l + 1) % 32)
  else if (s.plan l).expect = 1 then some (s.plan l).peer
  else none

/-! ### Headers and flits -/

/-- Receive pool sizes by pool 3 × vc + gh (R269). -/
def ownPool (pool : Nat) : Nat := if pool < 6 then 384 else if pool < 9 then 64 else 32

/-- The 48 header bytes of a packet (R274, R275). -/
def headerBytes (p : Packet) : List Byte :=
  [p.op, p.flags] ++ leBytes 2 p.dst ++ leBytes 2 p.src ++ [p.srcLcore, p.dstLcore] ++ leBytes 2 p.tag.toNat ++
    leBytes 2 p.jobTag.toNat ++ leBytes 2 p.length.toNat ++ leBytes 2 p.rsv.toNat ++ leBytes 8 p.epoch.toNat ++
    leBytes 8 p.address.toNat ++ leBytes 8 p.poison.toNat ++ leBytes 8 p.arg.toNat

/-- The packet that a run of flit payloads holds. -/
def packetOf (b : List Byte) : Packet :=
  let n := fieldAt b 0x0C 2
  { op := BitVec.ofNat 8 (fieldAt b 0 1), flags := BitVec.ofNat 8 (fieldAt b 1 1)
    dstChip := BitVec.ofNat 16 (fieldAt b 2 2), srcChip := BitVec.ofNat 16 (fieldAt b 4 2)
    srcLcore := BitVec.ofNat 8 (fieldAt b 6 1), dstLcore := BitVec.ofNat 8 (fieldAt b 7 1)
    tag := BitVec.ofNat 16 (fieldAt b 8 2), jobTag := BitVec.ofNat 16 (fieldAt b 0x0A 2), length := BitVec.ofNat 16 n
    rsv := BitVec.ofNat 16 (fieldAt b 0x0E 2), epoch := BitVec.ofNat 64 (fieldAt b 0x10 8)
    address := BitVec.ofNat 64 (fieldAt b 0x18 8), poison := BitVec.ofNat 64 (fieldAt b 0x20 8)
    arg := BitVec.ofNat 64 (fieldAt b 0x28 8), data := slice b 48 n }

/-- Virtual channel of an operation (R268). -/
def vcOf (op : Nat) : Nat := if op = 5 then 2 else if op = 9 then 3 else if op = 1 ∨ op = 2 ∨ op = 6 then 0 else 1

/-- Payload areas of a packet: 244 bytes each, the last padded with zeros (R265). -/
def flitsOf (p : Packet) (gh : Nat) : List TxFlit :=
  let b := headerBytes p ++ p.data
  let n := ceilDiv b.length 244
  (List.range n).map fun i => ⟨0, vcOf p.op.toNat, gh, i == 0, i + 1 == n, slice (b.drop (244 * i)) 0 244⟩

/-- Flits that a packet takes. -/
def flitCount (p : Packet) : Nat := ceilDiv (48 + p.data.length) 244

/-- The header word (R264). -/
def flitHeader (kind : Nat) (f : TxFlit) (ack : Nat) (nak : Bool) (pool credit : Nat) : DWord :=
  BitVec.ofNat 64 (kind + f.vc * 2 ^ 4 + f.gh * 2 ^ 6 + b2n f.sop * 2 ^ 8 + b2n f.eop * 2 ^ 9 + f.seq * 2 ^ 10 +
    ack * 2 ^ 22 + b2n nak * 2 ^ 34 + pool * 2 ^ 35 + credit % 4096 * 2 ^ 39)

/-- A flit without sequence or channel. -/
def bareFlit (payload : List Byte) : TxFlit := ⟨0, 0, 0, false, false, payload⟩

/-- The lane of the port's next flit: alternating at full width, else the remaining lane (R258). -/
def Link.txLane (k : Link) : Nat := if k.up0 && k.up1 then k.txFlits % 2 else b2n k.up1

/-- The lane that the next received flit comes on (R258). -/
def Link.rxLane (k : Link) : Nat := if k.up0 && k.up1 then k.rxFlits % 2 else b2n k.up1

/-- CRC-32C of a flit's header and payload (R263). -/
def flitCrc (h : DWord) (payload : List Byte) : Word := BitVec.ofNat 32 (crc32c (leBytes 8 h.toNat ++ payload))

/-- Put a flit in the next slot of a link, with the link's ack, nak and next credit report (R263–R266). -/
def State.putFlit (s : State) (l kind : Nat) (f : TxFlit) : State :=
  let k := s.link l
  let h := flitHeader kind f k.rxSeq k.nakPending k.reportPool (Tbl.get 0 k.freed k.reportPool)
  (s.setLink l { k with nakPending := false, reportPool := (k.reportPool + 1) % 12, slots := k.slots + 1, txFlits := k.txFlits + 1 }).emit
    (.flit l k.txLane h f.payload (flitCrc h f.payload))

/-- The port may send data flits: it carries flits and its neighbour is not fenced (R365, R367). -/
def State.maySend (s : State) (l : Nat) : Bool :=
  (s.link l).carries && !s.fab.selfFenced && !(match (s.farPos l).bind fun q => s.chipAt q with
    | some c => s.fencedChip c
    | none => false)

/-- Maintenance payload: probe, echo, corrected symbols of the lanes, keepalive word (R265, R363; the places are the
model's). -/
def State.maintenance (s : State) (l : Nat) : List Byte :=
  let k := s.link l
  let word := BitVec.ofNat 32 (b2n k.fencedYou * 2 ^ 31 + s.ownChip % 2 ^ 14 * 2 ^ 16 + s.fab.heartbeat.toNat)
  slice (leBytes 8 s.suTime ++ leBytes 8 k.probe.toNat ++ leBytes 4 k.sym0 ++ leBytes 4 k.sym1 ++
    leBytes 4 (word : Word).toNat) 0 244

/-- The first waiting flit whose channel is not blocked and whose pool holds a credit, with the rest (R265, R270). -/
def pickFlit (k : Link) (blocked : List Nat) : List TxFlit → Option (TxFlit × List TxFlit)
  | [] => none
  | f :: r =>
    if !blocked.contains f.vc && decide (0 < Tbl.get 0 k.credits (3 * f.vc + f.gh)) then some (f, r)
    else (pickFlit k (f.vc :: blocked) r).map fun (g, q) => (g, f :: q)

/-- The next data flit that may go: the port sends data, its replay buffer has room, and the pool a credit (R266,
R270). -/
def State.nextData (s : State) (l : Nat) : Option (TxFlit × List TxFlit) :=
  let k := s.link l
  if !s.maySend l || decide (512 ≤ k.replay.length) then none else pickFlit k [] k.txQueue

/-- The next slot of a link is every 58th one since step 6, which carries a maintenance flit (R265). -/
def Link.maintSlot (k : Link) : Bool := (k.slots + 1) % 58 == 0

/-- A maintenance flit goes out. -/
def State.putMaintenance (s : State) (l : Nat) : State := s.putFlit l 2 (bareFlit (s.maintenance l))

/-- A data flit goes out, kept for replay and paid with a credit. -/
def State.putData (s : State) (l : Nat) (f : TxFlit) (rest : List TxFlit) : State :=
  let k := s.link l
  let g := { f with seq := k.txSeq }
  let pool := 3 * f.vc + f.gh
  (s.setLink l { k with
    txQueue := rest, txSeq := (k.txSeq + 1) % 4096, replay := k.replay ++ [g]
    credits := Tbl.set 0 k.credits pool (Tbl.get 0 k.credits pool - 1) }).putFlit l 1 g

/-- The transmitter fills one slot: maintenance, data, or idle (R265). -/
def State.fillSlot (s : State) (l : Nat) : State :=
  if (s.link l).maintSlot then s.putMaintenance l
  else match s.nextData l with
    | some (f, rest) => s.putData l f rest
    | none => s.putFlit l 0 (bareFlit (zeros 244))

/-- Slots are filled up to the next maintenance slot, that one included. -/
def State.fillRound (s : State) (l : Nat) : Nat → State
  | 0 => s
  | n + 1 => if (s.link l).maintSlot then s.putMaintenance l else (s.fillSlot l).fillRound l n

/-- Slots are filled while data flits can go. -/
def State.pumpLink (s : State) (l : Nat) : Nat → State
  | 0 => s
  | n + 1 => match s.nextData l with
    | none => s
    | some _ => (s.fillSlot l).pumpLink l n

/-- Send every data flit that can go. -/
def State.pumpAll (s : State) (l : Nat) : State := s.pumpLink l (2 * (s.link l).txQueue.length)

/-- A packet as a port of version 1 carries it: gh 0 and an epoch of 32 bits (R262). -/
def asVersion1 (p : Packet) : Packet :=
  { p with flags := p.flags &&& 0xF3, epoch := BitVec.ofNat 64 (bits p.epoch.toNat 0 32) }

/-- A transit packet goes on by a port on a VC, and its last flit has not come (R283). -/
def State.cutting (s : State) (l vc : Nat) : Bool :=
  (List.range 40).any fun a => Tbl.get none (s.link a).cut vc == some l

/-- Flits of one packet join a port's queue; they wait for the end of a transit packet on their VC, as the flits of one
packet are consecutive (R268). -/
def State.enqueue (s : State) (l vc : Nat) (fs : List TxFlit) : State :=
  s.modLink l fun k =>
    if s.cutting l vc then { k with txHeld := k.txHeld ++ fs } else { k with txQueue := k.txQueue ++ fs }

/-- A transit packet on a VC of a port has ended: the flits that waited for it follow. -/
def State.releaseHeld (s : State) (l vc : Nat) : State :=
  if s.cutting l vc || !(s.link l).carries then s
  else (s.modLink l fun k => { k with
    txQueue := k.txQueue ++ k.txHeld.filter (fun f => f.vc == vc)
    txHeld := k.txHeld.filter fun f => f.vc != vc }).pumpAll l

/-- A packet leaves on a link. -/
def State.sendOn (s : State) (l : Nat) (p : Packet) : State :=
  let q := if (s.link l).version = 1 then asVersion1 p else p
  (s.enqueue l (vcOf q.op.toNat) (flitsOf q q.gh)).pumpAll l

/-- The flags byte after one more global hop (R269, R274). -/
def hopFlags (b : Nat) : Nat := b - bits b 2 2 * 4 + min 2 (bits b 2 2 + 1) * 4

/-- gh counts the global hops a packet has taken, the one it leaves by included (R269). -/
def hopped (p : Packet) (l : Nat) : Packet :=
  if isGlobal l then { p with flags := BitVec.ofNat 8 (hopFlags p.flags.toNat) } else p

end Sys2Proof.Machine
end

