-- ==== Sys2Proof/Machine/Topology.lean ====
section
/-! DEFINITION. Topology: positions and global links (R292, R295), link-state records and routing
tables (R302–R304, R309), floods (R309, R371), and TP_STATUS.topo (R307). -/

namespace Sys2Proof.Machine

/-- Global ports of this position that carry flits to a compute position of a group, ascending. -/
def State.globalsTo (s : State) (h : Nat) : List Nat :=
  ((List.range 8).map (· + 31)).filter fun l =>
    (s.link l).carries && (match s.farPos l with
      | some q => q / 32 == h
      | none => false)

/-- Groups reached by this position's global ports, in ascending port order, each once. -/
def State.nearGroups (s : State) : List Nat :=
  (((List.range 8).map (· + 31)).filterMap fun l =>
    if (s.link l).carries then (s.farPos l).map (· / 32) else none).reverse.dedup.reverse

/-! ### Link-state records (R309) -/

/-- The far end of link ℓ by the standard cabling (R295). -/
def farLink (n l : Nat) : Nat := l / (n - 1) * (n - 1) + (n - 2 - l % (n - 1))

/-- The far group of link ℓ of a group by the standard cabling (R295). -/
def farGroupOf (n g l : Nat) : Nat := (g + 1 + l % (n - 1)) % n

/-- Link index of a record's end (R295). -/
def LinkRec.index (r : LinkRec) : Nat := 8 * r.slot + (r.port - 31)

/-- The plan has a module's own global ports cabled as R295 says. -/
def State.standardCabling (s : State) : Bool :=
  (List.range 8).all fun k =>
    let p := s.plan (k + 31)
    let m := farLink s.groups (8 * s.ownSlot + k)
    p.expect != 1 || p.peer == farGroupOf s.groups s.ownGroup (8 * s.ownSlot + k) * 32 + m / 8 && p.peerPort == 31 + m % 8

/-- The slot and port of the far end of a record's link. The message names only the far group: an own link's end is in
the plan; that of another position is taken from R295 where the plan and the far group agree with it (DEDUCED, log 79).
-/
def State.farEnd (s : State) (r : LinkRec) : Option (Nat × Nat) :=
  if r.fromGroup = s.ownGroup ∧ r.slot = s.ownSlot then some ((s.plan r.port).peer % 32, (s.plan r.port).peerPort)
  else if s.standardCabling ∧ r.farGroup = farGroupOf s.groups r.fromGroup r.index then
    let m := farLink s.groups r.index
    some (m / 8, 31 + m % 8)
  else none

/-- The records of one group's links to another, up or down. -/
def State.recsOf (s : State) (a b : Nat) (up : Bool) : List LinkRec :=
  s.fab.linkRecs.filter fun q => q.fromGroup == a && q.farGroup == b && q.up == up

/-- Links from a group to another that only the far group reports down. -/
def State.farDowns (s : State) (a b : Nat) : Nat := (s.recsOf b a false).length - (s.recsOf a b false).length

/-- The far end of the record's link reports it down. -/
def State.farEndDown (s : State) (r : LinkRec) : Bool :=
  s.fab.linkRecs.any fun q => q.fromGroup == r.farGroup && !q.up && s.farEnd r == some (q.slot, q.port)

/-- A link is up unless either end reports it down (R309). For another position's link the count of what only the far
group reports down decides, and which of several links that is follows R295 (DEDUCED, log 79). -/
def State.recUp (s : State) (r : LinkRec) : Bool :=
  let n := s.farDowns r.fromGroup r.farGroup
  if r.fromGroup = s.ownGroup ∧ r.slot = s.ownSlot then r.up && !s.farEndDown r
  else r.up && decide (n < (s.recsOf r.fromGroup r.farGroup true).length) && (n == 0 || !s.farEndDown r)

/-- A link is up from one group to another. -/
def State.linkUp (s : State) (x h : Nat) : Bool :=
  s.fab.linkRecs.any fun r => r.fromGroup == x && r.farGroup == h && s.recUp r

/-- A record is stored if it is newer than the one held; that of a lost port, whose message names no far group, keeps the
group it led to (R309). -/
def State.storeRec (s : State) (r : LinkRec) : Option State :=
  let same (q : LinkRec) : Bool := q.fromGroup == r.fromGroup && q.slot == r.slot && q.port == r.port
  if s.fab.linkRecs.any fun q => same q && decide (r.seq ≤ q.seq) then none
  else
    let far := if r.up then r.farGroup else ((s.fab.linkRecs.find? same).map (·.farGroup)).getD r.farGroup
    some { s with fab := { s.fab with linkRecs := (s.fab.linkRecs.filter fun q => !same q) ++ [{ r with farGroup := far }] } }

/-! ### Exit and route tables (R302, R303) -/

/-- The exit entry for a group. -/
def State.exitEntry (s : State) (h : Nat) : Nat :=
  if h = s.ownGroup ∨ s.groups ≤ h then 0
  else maskOf ((s.globalsTo h).map (· - 31)) * 2 ^ 32 +
    maskOf (s.fab.linkRecs.filterMap fun r =>
      if r.fromGroup = s.ownGroup ∧ r.farGroup = h ∧ s.recUp r then some (r.slot % 32) else none)

/-- One enabled path. -/
def routePath (x : Nat) : Nat := 0x8000 + x

/-- The group route entry: path 0 direct, then up to three via paths. -/
def State.routeEntry (s : State) (h : Nat) : Nat :=
  if h = s.ownGroup ∨ s.groups ≤ h then 0
  else
    let via := (s.nearGroups.filter fun x => x != s.ownGroup && x != h && s.linkUp x h).take 3
    let direct := if s.exitEntry h = 0 then 0 else routePath h
    direct + (((List.range 3).zip via).map fun (i, x) => routePath x * 2 ^ (16 * (i + 1))).sum

/-- Write one exit entry and one route entry. -/
def State.rebuildEntry (s : State) (h : Nat) : State :=
  { s with fab := { s.fab with
    exitTable := Tbl.set 0 s.fab.exitTable h (BitVec.ofNat 64 (s.exitEntry h))
    routeTable := Tbl.set 0 s.fab.routeTable h (BitVec.ofNat 64 (s.routeEntry h)) } }

/-- FAB recomputes the tables (R303). -/
def State.rebuildTables (s : State) : State := (List.range 257).foldl State.rebuildEntry s

/-! ### Floods (R309, R371) -/

/-- Chips of this group's other positions, by slot: a message to one that is fenced is discarded on its way (R300). -/
def State.groupChips (s : State) : List Nat :=
  (List.range 32).filterMap fun t => if t = s.ownSlot then none else s.chipAt (s.ownGroup * 32 + t)

/-- This position's up global links to compute positions, with the chips at their far ends. -/
def State.globalLinks (s : State) : List (Nat × Nat) :=
  ((List.range 8).map (· + 31)).filterMap fun l =>
    if (s.link l).carries then ((s.farPos l).bind fun q => s.chipAt q).map fun c => (l, c) else none

/-- A packet is discarded whole and counted (R300). -/
def State.discard (s : State) (arrival : Option Nat) : State :=
  ({ s with fab := { s.fab with dropCnt := satInc s.fab.dropCnt } } : State).report
    (codeAt Code.tpTransitDrop (arrival.getD 0xFF))

/-- A packet goes once over each of this position's up global links (R309); one for a fenced chip is discarded (R300). -/
def State.overGlobals (s : State) (p : Packet) : State :=
  s.globalLinks.foldl (fun t (l, c) => if t.fencedChip c then t.discard none else t.sendOn l (hopped { p with
    dstChip := BitVec.ofNat 16 c, flags := p.flags &&& 0xF3 } l)) s

/-- Copies of a packet to chips; the order class, world and epoch stay, gh starts at 0. -/
def State.copies (s : State) (p : Packet) (l : List Nat) : State :=
  l.foldl (fun t c => t.emit (.packet { p with
    dstChip := BitVec.ofNat 16 c, flags := p.flags &&& 0xF3 })) s

/-- A flood starts: a copy to this module itself, to its group, and over its global links. -/
def State.flood (s : State) (p : Packet) : State := (s.copies p (s.ownChip :: s.groupChips)).overGlobals p

/-- A flooded message is passed on: within the sender's group over the global links; at the position of arrival of
another group, to that group (R309). -/
def State.passOn (s : State) (p : Packet) : State :=
  if p.src = s.ownChip then s
  else if p.gh ≠ 0 then s.copies p s.groupChips
  else if chipGroup (s.chipEntry p.src) = s.ownGroup then s.overGlobals p
  else s

/-! ### LINK_STATE -/

/-- Its 16 bytes (R309). -/
def LinkRec.bytes (r : LinkRec) : List Byte :=
  leBytes 2 r.fromGroup ++ leBytes 2 (if r.up then r.farGroup else 0xFFFF) ++ leBytes 1 r.slot ++ leBytes 1 r.port ++
    leBytes 1 (b2n r.up) ++ zeros 1 ++ leBytes 8 r.seq

def LinkRec.parse (d : List Byte) : LinkRec :=
  ⟨fieldAt d 0 2, fieldAt d 4 1, fieldAt d 5 1, fieldAt d 2 2, fieldAt d 6 1 == 1, fieldAt d 8 8⟩

def msgLinkState : Nat := 0x0001

/-- A CONTROL packet with job tag 0, as `State.sendMgmt` sends it. -/
def State.mgmtPacket (s : State) (dst type : Nat) (data : List Byte) : Packet :=
  s.packet 9 dst 0xFF 0 0 0 0 none 0 0 type data

/-- The group at the far end of a global port; a device stands in the group of its attach position (R298). -/
def State.farGroupAt (s : State) (l : Nat) : Nat := ((s.farPos l).map (· / 32)).getD s.ownGroup

/-- A global port is admitted or lost: record, message and tables (R303, R309); FAB does it after a restart (R441). -/
def State.announce (s : State) (l : Nat) (up : Bool) : State :=
  if !isGlobal l then s
  else if s.err.restarting.contains .fab then
    { s with fab := { s.fab with announceDue := s.fab.announceDue ++ [(l, up)] } }
  else
    let r : LinkRec := ⟨s.ownGroup, s.ownSlot, l, if up then s.farGroupAt l else 0xFFFF, up, s.fab.linkSeq + 1⟩
    let s1 := (s.storeRec r).getD s
    let s2 : State := { s1 with fab := { s1.fab with linkSeq := r.seq } }
    let s3 := s2.groupChips.foldl (fun t c => t.sendMgmt c msgLinkState r.bytes) s2
    (s3.overGlobals (s3.mgmtPacket 0 msgLinkState r.bytes)).rebuildTables

/-- A LINK_STATE message arrives (R309). -/
def State.recvLinkState (s : State) (link : Nat) (p : Packet) : State :=
  if !s.ctlHere p msgLinkState then s
  else
    let r := LinkRec.parse p.data
    match s.storeRec r with
    | none => s
    | some s1 =>
      (if r.fromGroup = s.ownGroup then s1.overGlobals (s1.mgmtPacket 0 msgLinkState p.data)
        else if isGlobal link then s1.groupChips.foldl (fun t c => t.sendMgmt c msgLinkState p.data) s1
        else s1).rebuildTables

/-- LINK_STATE (R303, R309). -/
def execLinkState (link : Nat) (pkt : Packet) (s : State) : Host.Outcome State Fault Refusal :=
  inRange (decide (link < 40)) (s.viaFab (.linkState link pkt) fun t => t.recvLinkState link pkt)

/-! ### TP_STATUS.topo (R307) -/

/-- Ports with a planned neighbour. -/
def State.planned (s : State) : List Nat := (List.range 40).filter fun l => (s.plan l).expect != 0

/-- topo is recomputed after a port's outcome changes. -/
def State.updateTopo (s : State) : State :=
  let open' := s.planned.any fun l => (s.link l).outcome == 0
  let all := s.planned.all fun l => (s.link l).carries
  { s with fab := { s.fab with topo := if s.fab.topo = 0 ∧ open' then 0 else if all then 1 else 2 } }

/-- A table entry is rebuilt after a parity error: tables 1 and 2 from the records, the chip table as it stood (R304). -/
def State.tableRebuild (s : State) (table index : Nat) : State :=
  let s1 := s.report (codeAt Code.tpParity 0xFF)
  if table = 0 then s1 else s1.rebuildEntry index

/-- TABLE_REBUILD (R304): table 0 chip, 1 exit, 2 route. While FAB restarts the error is found when FAB works again. -/
def execTableRebuild (table index : Nat) (s : State) : Host.Outcome State Fault Refusal :=
  inRange (decide (table < 3) && decide (index < (if table = 0 then 16384 else 257)))
    (s.whenFab (.tableRebuild table index) fun t => t.tableRebuild table index)

end Sys2Proof.Machine
end

