-- ==== Sys2Proof/Machine/Detect.lean ====
section
/-! DEFINITION. The failure detector: heartbeats, suspicions, verdicts and fences (R363–R367), and the messages of
detector and recovery (R370, R371). -/

namespace Sys2Proof.Machine

/-! ### Messages -/

def msgSuspect : Nat := 0x0020
def msgFence : Nat := 0x0021
def msgFenceReq : Nat := 0x0022
def msgProbe : Nat := 0x0023
def msgProbeReply : Nat := 0x0024
def msgStatus : Nat := 0x0025
def msgOrder : Nat := 0x0026
def msgReady : Nat := 0x0027

/-- The fields of a message (R370), its seq aside. -/
structure RcMsg where
  step : Nat := 0
  chipA : Nat := 0
  chipB : Nat := 0
  action : Nat := 0
  flags : Nat := 0
  attempt : Nat := 0
  code : Word := 0
  value : Nat := 0
  deriving DecidableEq, Repr

/-- The 32 bytes (R370). -/
def RcMsg.bytes (m : RcMsg) (seq : Nat) : List Byte :=
  leBytes 8 m.step ++ leBytes 2 (m.chipA % 2 ^ 14) ++ leBytes 2 (m.chipB % 2 ^ 14) ++ leBytes 1 m.action ++
    leBytes 1 m.flags ++ leBytes 2 m.attempt ++ leBytes 4 m.code.toNat ++ leBytes 4 seq ++ leBytes 8 m.value

def RcMsg.parse (d : List Byte) : RcMsg :=
  { step := fieldAt d 0 8, chipA := bits (fieldAt d 8 2) 0 14, chipB := bits (fieldAt d 0x0A 2) 0 14
    action := fieldAt d 0x0C 1, flags := fieldAt d 0x0D 1, attempt := fieldAt d 0x0E 2
    code := BitVec.ofNat 32 (fieldAt d 0x10 4), value := fieldAt d 0x18 8 }

/-- The next sequence number of a type (R370). -/
def State.takeSeq (s : State) (type : Nat) : Nat × State :=
  let n := Tbl.get 0 s.fab.sentSeq type + 1
  (n, { s with fab := { s.fab with sentSeq := Tbl.set 0 s.fab.sentSeq type n } })

/-- A detector message to each of a list of chips: one message, job tag 0. -/
def State.sendFd (s : State) (type : Nat) (m : RcMsg) (to' : List Nat) : State :=
  let (n, s1) := s.takeSeq type
  to'.foldl (fun t c => t.sendMgmt c type (m.bytes n)) s1

/-- A detector message flooded in the manner of R309, this module included. -/
def State.floodFd (s : State) (type : Nat) (m : RcMsg) : State :=
  let (n, s1) := s.takeSeq type
  s1.flood (s1.mgmtPacket 0 type (m.bytes n))

/-- A recovery message of a context's job. -/
def State.sendRc (s : State) (c dst type : Nat) (m : RcMsg) : State :=
  let (n, s1) := s.takeSeq type
  s1.sendCtl c dst type none (m.bytes n)

/-- A flooded message not acted on before is noted and passed on; none for a repeat (R371). -/
def State.firstOf (s : State) (p : Packet) : Option State :=
  let key := (p.arg.toNat, p.src, fieldAt p.data 0x14 4)
  if s.fab.seen.contains key then none
  else some (({ s with fab := { s.fab with seen := s.fab.seen ++ [key] } } : State).passOn p)

/-! ### Suspicions (R364) -/

/-- Ports train while the module is supplied, FAB has started, and the module is not in standby; on leaving it they
train from FAB's restart on (R469, R513). -/
def State.portsLive (s : State) : Bool :=
  s.board.powered && !s.board.resetLow && s.boot.stage == 0xF0 &&
    (s.pw.standby == 0 || s.pw.standby == 3 && !s.err.restarting.contains .fab)

/-- FAB works: the ports are live and it is not restarting (R441). -/
def State.fabRuns (s : State) : Bool := s.portsLive && !s.err.restarting.contains .fab

/-- HEARTBEAT_TICK (R363). -/
def execHeartbeatTick (s : State) : Host.Outcome State Fault Refusal :=
  .next (if s.fabRuns then { s with fab := { s.fab with heartbeat := s.fab.heartbeat + 1 } } else s)

/-- The chip that stands at a slot of this group. -/
def State.slotChip (s : State) (t : Nat) : Option Nat := s.chipAt (s.ownGroup * 32 + t)

/-- Slots of this group whose position is not fenced. -/
def State.liveSlots (s : State) : List Nat :=
  (List.range 32).filter fun t => match s.slotChip t with
    | some c => !s.fencedChip c
    | none => false

/-- Positions that hold a suspicion of a slot: unfenced ones, other than itself. -/
def State.suspecting (s : State) (t : Nat) : List Nat :=
  (s.liveSlots.filter fun u => u != t && s.fab.suspicions.contains (t, u))

/-- Own ports to the position of a chip send fenced_you, or stop sending it (R363, R365). -/
def State.markFenced (s : State) (pos : Nat) (b : Bool) : State :=
  (List.range 40).foldl (fun t l => if t.farPos l = some pos then t.modLink l fun k => { k with fencedYou := b } else t) s

/-- A chip's entry becomes kind 3, its position unchanged (R365). -/
def State.fenceEntry (s : State) (c : Nat) : State :=
  let w := s.chipEntry c
  if chipKind w = 1 ∨ chipKind w = 2 then
    let s1 : State := { s with fab := { s.fab with
      chipTable := Tbl.set 0 s.fab.chipTable c (chipWord 3 (chipGroup w) (chipSlot w) 0) } }
    s1.markFenced (chipGroup w * 32 + chipSlot w) true
  else s

/-- The verdict on a slot: with 16 suspicions it is DEAD, and the lowest-slot unfenced other position floods FD_FENCE
(R364, R365). -/
def State.judge (s : State) (t : Nat) : State :=
  match s.slotChip t with
  | none => s
  | some c =>
    let lowest := (s.liveSlots.filter (· != t)).head?
    if s.fencedChip c ∨ (s.suspecting t).length < 16 ∨ lowest ≠ some s.ownSlot then s
    else
      let s1 := (s.report (codeAt Code.rcFenceIssued 0xFF)).fenceEntry c
      s1.floodFd msgFence { chipA := c, code := Tbl.get (codeAt Code.rcFenced 0xFF) s.fab.causes t }

/-- This module starts to suspect a slot (R364). -/
def State.suspect (s : State) (t : Nat) (requested : Bool) : State :=
  match s.slotChip t with
  | none => s
  | some c =>
    let s1 : State := { s with fab := { s.fab with
      mySuspects := keyInsert t s.fab.mySuspects, suspicions := pageInsert (t, s.ownSlot) s.fab.suspicions
      requested := if requested then pageInsert (t, s.ownSlot) s.fab.requested else s.fab.requested } }
    (s1.sendFd msgSuspect { chipA := c, action := 1, flags := b2n requested } s1.groupChips).judge t

/-- This module's suspicion of a slot ends, unless a request holds it (R364). -/
def State.withdraw (s : State) (t : Nat) : State :=
  match s.slotChip t with
  | none => s
  | some c =>
    if !s.fab.mySuspects.contains t || s.fab.requested.contains (t, s.ownSlot) then s
    else
      let s1 : State := { s with fab := { s.fab with
        mySuspects := s.fab.mySuspects.filter (· != t), suspicions := s.fab.suspicions.filter (· != (t, s.ownSlot)) } }
      s1.sendFd msgSuspect { chipA := c, action := 0 } s1.groupChips

/-- KA_TIMEOUT (R364). -/
def execKaTimeout (slot : Nat) (s : State) : Host.Outcome State Fault Refusal :=
  inRange (decide (slot < 32)) (if !s.fabRuns || slot == s.ownSlot || s.fab.mySuspects.contains slot then s
    else s.suspect slot false)

/-- A neighbour's suspicion begins or ends. -/
def State.recvSuspect (s : State) (p : Packet) : State :=
  if !s.ctlHere p msgSuspect then s
  else
    let m := RcMsg.parse p.data
    let a := s.chipEntry m.chipA
    let w := s.chipEntry p.src
    if chipGroup a ≠ s.ownGroup ∨ chipGroup w ≠ s.ownGroup then s
    else
      let key := (chipSlot a, chipSlot w)
      if m.action = 1 then
        ({ s with fab := { s.fab with
          suspicions := pageInsert key s.fab.suspicions
          requested := if bitAt m.flags 0 then pageInsert key s.fab.requested else s.fab.requested } } : State).judge key.1
      else if s.fab.requested.contains key then s
      else { s with fab := { s.fab with suspicions := s.fab.suspicions.filter (· != key) } }

/-- FD_SUSPECT (R364). -/
def execFdSuspect (pkt : Packet) (s : State) : Host.Outcome State Fault Refusal :=
  .next (s.viaFab (.fdSuspect pkt) fun t => t.recvSuspect pkt)

/-- A fence request asks this position to suspect the target until the verdict. -/
def State.recvFenceReq (s : State) (p : Packet) : State :=
  if !s.ctlHere p msgFenceReq then s
  else
    let m := RcMsg.parse p.data
    let a := s.chipEntry m.chipA
    if chipGroup a = s.ownGroup ∧ chipSlot a ≠ s.ownSlot ∧ chipKind a ≠ 0 ∧ !s.fencedChip m.chipA then
      ({ s with fab := { s.fab with causes := Tbl.set 0 s.fab.causes (chipSlot a) m.code } } : State).suspect
        (chipSlot a) true
    else s

/-- RC_FENCE_REQ (R364, R369). -/
def execRcFenceReq (pkt : Packet) (s : State) : Host.Outcome State Fault Refusal :=
  .next (s.viaFab (.rcFenceReq pkt) fun t => t.recvFenceReq pkt)

/-- A fence request goes to the target's group (R369, R371). -/
def State.sendFenceReq (s : State) (c target : Nat) (code : Word) : State :=
  let g := chipGroup (s.chipEntry target)
  let (n, s1) := s.takeSeq msgFenceReq
  ((List.range 32).filterMap fun t => s.chipAt (g * 32 + t)).foldl (fun u d =>
    if d = target then u else u.sendCtl c d msgFenceReq none (({ chipA := target, code := code } : RcMsg).bytes n)) s1

/-- A module that learns it is fenced: contexts with fabric_en are FAULTED, and it sends no data (R367). -/
def State.selfFence (s : State) : State :=
  if s.fab.selfFenced then s
  else
    let s1 : State := { s with fab := { s.fab with selfFenced := true } }
    ctxNums.foldl (fun t c => if flag (t.ctx c).desc.flags 0 && (t.ctx c).st != .free then
      t.raise (codeAt Code.rcSelfFenced c) { ctx := some c } else t) s1

end Sys2Proof.Machine
end

