-- ==== Sys2Proof/Machine/Links.lean ====
section
/-! DEFINITION. Nuoresh ports: lanes (R258, R259, R271–R273), training, negotiation and discovery (R260–R262, R306),
received flits and replay (R263–R270), and forwarding of packets (R297–R300). -/

namespace Sys2Proof.Machine

def linkOk (l : Nat) : Bool := decide (l < 40)

/-! ### Ports going up and down -/

/-- Everything that goes with a port's lanes: packets in it are lost (R271, R283). -/
def Link.dropped (k : Link) : Link :=
  { k with
    state := 0, up0 := false, up1 := false, txSeq := 0, rxSeq := 4095, replay := [], nakPending := false
    nakSent := false, credits := [], poolSizes := [], lastReport := [], freed := [], occupied := [], reportPool := 0
    slots := 0, rxParts := [], txQueue := [], partner := [], agreed := false, assembled := [], probe := 0, version := 0
    rxFlits := 0, txFlits := 0, partnerDone := false, cut := [], txHeld := [], ue0 := [], ue1 := [], missed := false }

/-- The rest of transit packets that went on by a port is lost with it: they go on by no port (R283). -/
def State.cutOff (s : State) (l : Nat) : State :=
  ((List.range 40).filter fun a => (s.link a).cut.any fun e => e.2 == some l).foldl (fun t a => t.modLink a fun k =>
    { k with cut := k.cut.map fun e => if e.2 = some l then (e.1, some 40) else e }) s

/-- A port loses its lanes: its links leave the tables (R303, R307, R309), and transit packets that were coming in or
going out by it end there (R283). -/
def State.portLost (s : State) (l : Nat) : State :=
  let k := s.link l
  let s1 := (s.setLink l k.dropped).cutOff l
  let s2 := k.cut.foldl (fun t e => match e.2 with
    | some x => t.releaseHeld x e.1
    | none => t) s1
  (if k.carries then s2.announce l false else s2).updateTopo

/-- A port goes DOWN with LK_PORT_DOWN (R271, R273). -/
def State.portDown (s : State) (l : Nat) : State := (s.report (codeAt Code.lkPortDown l)).portLost l

/-- A protocol error: the port retrains from step 1 (R264, R270). -/
def State.protocolError (s : State) (l seq : Nat) : State :=
  (s.report (codeAt Code.lkProtocol l) { info := seq }).portLost l

/-- One hour of SU_TIME (R272). -/
def hourNs : Nat := 3600 * 10 ^ 9

/-- Lane-down events of the last hour. -/
def recentDowns (now : Nat) (l : List Nat) : List Nat := l.filter fun t => decide (now < t + hourNs)

/-- A lane-down event is counted; the fifth within an hour quarantines the lane (R272). -/
def State.countDown (s : State) (l lane : Nat) : State :=
  let k := s.link l
  let ds := recentDowns s.suTime (if lane = 0 then k.downs0 else k.downs1) ++ [s.suTime]
  let q := decide (5 ≤ ds.length)
  let k1 := if lane = 0 then { k with downs0 := ds, quar0 := k.quar0 || q } else { k with downs1 := ds, quar1 := k.quar1 || q }
  let s1 := s.setLink l k1
  if q && !(if lane = 0 then k.quar0 else k.quar1) then s1.report (codeAt Code.lkLaneQuar l) else s1

/-- A latent error of the port's buffers is found: the port goes DOWN and its packets are lost (R283, R291). -/
def State.bufferFault (s : State) (l : Nat) : State :=
  ((s.clearParity (.linkBuffer l)).report (codeAt Code.lkBufUe l)
    { info := ((s.link l).replay.head?.map (·.seq)).getD 0 }).portLost l

/-- Every buffered flit is sent again in order, a maintenance flit in every 58th slot (R265, R266); a port that may send
no data flit resends none (R365, R367). -/
def State.replayAll (s : State) (l : Nat) : State :=
  if !s.maySend l then s
  else if s.parity.contains (.linkBuffer l) then s.bufferFault l
  else (s.link l).replay.foldl (fun t f =>
    (if (t.link l).maintSlot then t.putMaintenance l else t).putFlit l 1 f) s

/-! ### Lanes (R258, R259, R271–R273) -/

/-- A lane goes down: the port degrades and replays on the other lane, or goes DOWN. -/
def State.laneDown (s : State) (l lane : Nat) : State :=
  let k := s.link l
  let up := if lane = 0 then k.up0 else k.up1
  if !up then s
  else
    let s1 := (s.report (codeAt Code.lkLaneDown l)).countDown l lane
    let s2 := s1.modLink l fun k => if lane = 0 then { k with up0 := false } else { k with up1 := false }
    let k2 := s2.link l
    if !k2.up0 && !k2.up1 then s2.portDown l
    else if k2.state = 2 then (s2.setLink l { k2 with state := 3 }).replayAll l
    else s2

/-- LANE_DOWN (R259, R271, R272). -/
def execLaneDown (link lane : Nat) (s : State) : Host.Outcome State Fault Refusal :=
  inRange (linkOk link && decide (lane < 2)) (s.laneDown link lane)

/-- What the codewords of a received flit brought is counted on the flit's lane (R258, R265, R287). -/
def Link.countCodewords (k : Link) (now : Nat) (f : Flit) : Link :=
  let add (w : Word) : Word :=
    setFld (setFld w 8 24 (satAdd 24 (fld w 8 24) f.corrected)) 0 8 (satAdd 8 (fld w 0 8) f.uncorrectable)
  let late (l : List Nat) : List Nat :=
    l.filter (fun t => decide (now < t + 10 ^ 6)) ++ List.replicate f.uncorrectable now
  let k1 := { k with rxFlits := k.rxFlits + 1 }
  if k.rxLane = 0 then { k1 with fec0 := add k.fec0, sym0 := (k.sym0 + f.symbols) % 2 ^ 32, ue0 := late k.ue0 }
  else { k1 with fec1 := add k.fec1, sym1 := (k.sym1 + f.symbols) % 2 ^ 32, ue1 := late k.ue1 }

/-- A flit has come: its codewords are counted, and more than 64 uncorrectable ones in 1 ms take its lane down (R259). -/
def State.takeCodewords (s : State) (l : Nat) (f : Flit) : State :=
  let k := s.link l
  let k1 := k.countCodewords s.suTime f
  let s1 := s.setLink l k1
  if 64 < (if k.rxLane = 0 then k1.ue0 else k1.ue1).length then s1.laneDown l k.rxLane else s1

/-! ### Training and negotiation (R260–R262) -/

/-- This module's negotiation payload (R261). -/
def State.negotiation (s : State) (l : Nat) (agree : Bool) (ver rate : Nat) : List Byte :=
  leBytes 1 1 ++ leBytes 1 2 ++ leBytes 1 3 ++ leBytes 1 (b2n agree) ++ leBytes 1 ver ++ leBytes 1 rate ++ leBytes 1 1 ++
    leBytes 1 l ++ leBytes 2 s.ownChip ++ zeros 2 ++ slice s.boot.identity 0 8 ++
    (List.range 12).flatMap (fun p => leBytes 2 (ownPool p)) ++ zeros 200

/-- Version and rate that both ends support: the highest of each (R262). Version 1 is only for devices 2 and 3. -/
def chooseVersion (b : List Byte) : Option (Nat × Nat) :=
  let lo := max 1 (fieldAt b 0 1)
  let hi := min 2 (fieldAt b 1 1)
  let rates := bits (fieldAt b 2 1) 0 2
  let dev := fieldAt b 6 1
  if hi < lo ∨ rates = 0 ∨ (hi = 1 ∧ dev ≠ 2 ∧ dev ≠ 3) then none
  else some (hi, if bitAt rates 0 then 0 else 1)

/-- The partner's flit confirms a version and a rate. -/
def confirms (b : List Byte) (ver rate : Nat) : Bool :=
  fieldAt b 3 1 == 1 && fieldAt b 4 1 == ver && fieldAt b 5 1 == rate

/-- The payload of a port's next negotiation flit: the side with the lower chip number chooses when it has a flit of the
partner, and the other confirms; after agreement the flit stays the same (R261, R262). -/
def State.offer (s : State) (l : Nat) : List Byte :=
  let k := s.link l
  if k.agreed then s.negotiation l true k.version (b2n k.rate)
  else match chooseVersion k.partner with
    | none => s.negotiation l false 0 0
    | some (ver, rate) =>
      if s.ownChip < bits (fieldAt k.partner 8 2) 0 14 || confirms k.partner ver rate then s.negotiation l true ver rate
      else s.negotiation l false 0 0

/-- A negotiation flit goes out, after the maintenance flit that its slot is due; a fenced module sends an idle flit
(R265, R367). -/
def State.sendNegotiation (s : State) (l : Nat) : State :=
  let s1 := if (s.link l).carries && (s.link l).maintSlot then s.putMaintenance l else s
  if s.fab.selfFenced then s1.putFlit l 0 (bareFlit (zeros 244)) else s1.putFlit l 3 (bareFlit (s1.offer l))

/-- The port exchanges negotiation flits: it has lanes, is not admitted, and the two sides have not both agreed (R261).
-/
def Link.negotiates (k : Link) : Bool := (k.up0 || k.up1) && k.state != 0 && !k.carries && !(k.agreed && k.partnerDone)

/-- Each side sends one negotiation flit every 1 µs (R261). -/
def State.negotiationTick (s : State) : State :=
  if s.suTime % 1000 = 0 then
    ((List.range 40).filter fun l => (s.link l).negotiates).foldl State.sendNegotiation s
  else s

/-- PORT_TRAIN: lanes that are not quarantined and lock come up, and negotiation begins. -/
def State.portTrain (s : State) (l : Nat) (lock0 lock1 : Bool) : State :=
  let k := s.link l
  if !s.portsLive || k.disable || k.heldDown || k.up0 || k.up1 || (k.quar0 && k.quar1) then s
  else
    let a := lock0 && !k.quar0
    let b := lock1 && !k.quar1
    let s0 : State := if isGlobal l then { s with fab := { s.fab with
      ovrUsed := Tbl.set 0 s.fab.ovrUsed (l - 31) (Tbl.get 0 s.fab.tpOvr (l - 31)) } } else s
    let s1 := s0.setLink l { k.dropped with state := 1, up0 := a, up1 := b, missed := k.missed }
    (if a || b then s1.sendNegotiation l else s1).updateTopo

/-- PORT_TRAIN (R260). -/
def execPortTrain (link : Nat) (lock0 lock1 : Bool) (s : State) : Host.Outcome State Fault Refusal :=
  inRange (linkOk link) (s.portTrain link lock0 lock1)

/-- CRC of a received flit (R263). -/
def flitGood (f : Flit) : Bool :=
  !f.fecLost && f.uncorrectable == 0 && flitCrc f.header f.payload == f.crc && f.payload.length == 244

/-- A dropped flit: LK_CRC and its count (R263, R286). -/
def State.flitDropped (s : State) (l seq : Nat) : State :=
  (s.modLink l fun k => { k with errCnt := setFld k.errCnt 16 16 (satAdd 16 (fld k.errCnt 16 16) 1) }).report
    (codeAt Code.lkCrc l) { info := seq }

/-- Fields of a header word (R264). -/
def hdr (f : Flit) (lo n : Nat) : Nat := bits f.header.toNat lo n

/-- Every field of a header is valid (R264). -/
def headerOk (f : Flit) : Bool :=
  decide (hdr f 0 4 ≤ 3) && decide (hdr f 6 2 ≤ 2) && decide (hdr f 35 4 ≤ 11) && hdr f 51 13 == 0 &&
    (hdr f 0 4 == 1 || hdr f 4 6 == 0 && hdr f 10 12 == 0)

/-- What the plan's entry for a port expects as chip number: for a compute position, the number that stands there. -/
def State.expectedChip (s : State) (l : Nat) : Option Nat :=
  let p := s.plan l
  if p.expect = 1 then s.chipAt p.peer else some p.peer

/-- A port is admitted: sequence numbers and credits start at zero, and the tables are updated (R260 step 6, R306). -/
def State.admitPort (s : State) (l : Nat) : State :=
  let k := s.link l
  let pools := (List.range 12).foldl (fun t i => Tbl.set 0 t i (fieldAt k.partner (0x14 + 2 * i) 2)) []
  let s1 := s.setLink l { k with
    state := if k.up0 && k.up1 then 2 else 3, outcome := 1, txSeq := 0, rxSeq := 4095, credits := pools
    poolSizes := pools, lastReport := [], freed := [], occupied := [], reportPool := 0, slots := 0 }
  let s2 : State := if k.foundDevice = 1 then s1 else { s1 with fab := { s1.fab with
    chipTable := Tbl.set 0 s1.fab.chipTable k.foundChip (chipWord (2 + k.foundDevice) s1.ownGroup s1.ownSlot l) } }
  (s2.announce l true).updateTopo

/-- A port stays HELD with an outcome and its report (R306). -/
def State.holdPort (s : State) (l outcome code : Nat) : State :=
  ((s.modLink l fun k => { k with outcome := outcome }).report (codeAt code l)).updateTopo

/-- Discovery of an agreed partner against the plan (R306). -/
def State.discover' (s : State) (l : Nat) : State :=
  let p := s.plan l
  let b := (s.link l).partner
  let dev := fieldAt b 6 1
  let port := fieldAt b 7 1
  let chip := bits (fieldAt b 8 2) 0 14
  let s1 := s.modLink l fun k => { k with foundDevice := dev % 4, foundPort := port % 64, foundChip := chip }
  if p.expect ≠ 0 then
    if dev = p.expect ∧ port = p.peerPort ∧ s.expectedChip l = some chip ∧ (p.moduleId = 0 ∨ p.moduleId = fieldAt b 0x0C 8) then
      s1.admitPort l
    else s1.holdPort l 2 Code.tpNeighborWrong
  else if p.openPort && (dev == 2 || dev == 3) && decide (12288 ≤ chip) then s1.admitPort l
  else s1.holdPort l 3 Code.tpNeighborExtra

/-- A negotiation flit in training: version and rate are chosen or confirmed; after two identical flits with agree = 1
the partner is passed to discovery. -/
def State.negotiateWith (s : State) (l : Nat) (f : Flit) : State :=
  let k := s.link l
  match chooseVersion f.payload with
    | none => ((s.report (codeAt Code.lkVersion l) { info := hdr f 10 12 }).portLost l).modLink l fun k => { k with heldDown := true }
    | some (ver, rate) =>
      let s1 := (s.setLink l { k with partner := f.payload }).sendNegotiation l
      if confirms f.payload ver rate && k.partner == f.payload then
        let s2 := s1.modLink l fun k => { k with agreed := true, state := 4, version := ver, rate := rate == 1, outcome := 0 }
        if s.err.restarting.contains .fab then s2 else s2.discover' l
      else s1

/-- A flit arrives on a port that has trained lanes: it is dropped if bad; an invalid header retrains the port; a
negotiation flit is answered, also after this side has agreed; a flit of another kind then shows that the partner has
agreed too (R261, R263, R264). -/
def State.negotiate (s : State) (l : Nat) (f : Flit) : State :=
  let k := s.link l
  if k.state = 0 ∨ (!k.up0 ∧ !k.up1) then s
  else
    let s1 := s.takeCodewords l f
    if (s1.link l).state = 0 then s1
    else if !flitGood f then s1.flitDropped l (hdr f 10 12)
    else if !headerOk f then s1.protocolError l (hdr f 10 12)
    else if hdr f 0 4 ≠ 3 then s1.modLink l fun q => { q with partnerDone := q.agreed }
    else if k.agreed then s1.sendNegotiation l
    else s1.negotiateWith l f

/-- NEGOTIATION_FLIT (R261, R262, R306). -/
def execNegotiationFlit (link : Nat) (flit : Flit) (s : State) : Host.Outcome State Fault Refusal :=
  inRange (linkOk link) (s.negotiate link flit)

/-- No agreement within 1 ms: each trained lane counts a lane-down event, and training starts again (R260). -/
def State.negotiationOver (s : State) (l : Nat) : State :=
  let k := s.link l
  if k.state ≠ 1 ∨ (!k.up0 ∧ !k.up1) then s
  else
    let s1 := s.report (codeAt Code.lkVersion l)
    let s2 := if k.up0 then s1.countDown l 0 else s1
    let s3 := if k.up1 then s2.countDown l 1 else s2
    s3.portLost l

/-- NEGOTIATION_TIMEOUT (R260). -/
def execNegotiationTimeout (link : Nat) (s : State) : Host.Outcome State Fault Refusal :=
  inRange (linkOk link) (s.negotiationOver link)

/-- No planned neighbour reached discovery within 2 s of the port's enabling, its loss, or the start (R306). -/
def State.discoveryOver (s : State) (l : Nat) : State :=
  let k := s.link l
  if (s.plan l).expect ≠ 0 ∧ k.state ≤ 1 ∧ !k.missed ∧ s.portsLive then
    (s.modLink l fun q => { q with missed := true }).holdPort l 4 Code.tpNeighborMissing
  else s

/-- DISCOVERY_TIMEOUT (R306). -/
def execDiscoveryTimeout (link : Nat) (s : State) : Host.Outcome State Fault Refusal :=
  inRange (linkOk link) (s.whenFab (.discoveryTimeout link) fun t => t.discoveryOver link)

/-! ### Host control of ports and lanes (R271–R273, R285, R308) -/

/-- The lost lane of a port on one lane is retrained; when it locks, the port is at full width again. -/
def State.laneRetrain (s : State) (l : Nat) (locks : Bool) : State :=
  let k := s.link l
  let quar := if k.up0 then k.quar1 else k.quar0
  if k.up0 = k.up1 ∨ k.state < 2 ∨ quar ∨ !locks then s
  else s.setLink l { k with up0 := true, up1 := true, state := if k.state = 3 then 2 else k.state }

/-- LANE_RETRAIN (R271). -/
def execLaneRetrain (link : Nat) (locks : Bool) (s : State) : Host.Outcome State Fault Refusal :=
  inRange (linkOk link) (s.laneRetrain link locks)

/-- LK_PORT_CTRL.disable is written (R273, R285). -/
def State.portDisable (s : State) (l : Nat) (b : Bool) : State :=
  let k := s.link l
  let s1 := s.setLink l { k with disable := b, heldDown := k.heldDown && b, missed := k.missed && b }
  if b && !k.disable && k.state != 0 then s1.portDown l else s1

/-- LK_PORT_DISABLE (R273, R285). -/
def execLkPortDisable (port link : Nat) (bit : Bool) (s : State) : Host.Outcome State Fault Refusal :=
  inRange (decide (port < 2) && linkOk link) (s.bar0 (.lkPortDisable port link bit) fun t => t.portDisable link bit)

/-- A quarantined lane is released and its down count zeroed (R285). -/
def State.laneRelease (s : State) (l lane : Nat) : State :=
  s.modLink l fun k =>
    if lane = 0 then (if k.quar0 then { k with quar0 := false, downs0 := [] } else k)
    else if k.quar1 then { k with quar1 := false, downs1 := [] } else k

/-- LANE0_RELEASE (R272, R285). -/
def execLane0Release (port link : Nat) (s : State) : Host.Outcome State Fault Refusal :=
  inRange (decide (port < 2) && linkOk link) (s.bar0 (.lane0Release port link) fun t => t.laneRelease link 0)

/-- LANE1_RELEASE (R272, R285). -/
def execLane1Release (port link : Nat) (s : State) : Host.Outcome State Fault Refusal :=
  inRange (decide (port < 2) && linkOk link) (s.bar0 (.lane1Release port link) fun t => t.laneRelease link 1)

/-- TP_OVR is written: only for a switched global port, and while no context with fabric_en is RUNNING, PAUSED or
SUSPENDED; the port then goes down and retrains (R308). -/
def State.ovrWrite (s : State) (g : Nat) (v : Word) : State :=
  let l := g + 31
  let busy := ctxNums.any fun c =>
    let x := s.ctx c
    bitAt x.desc.flags.toNat 0 && (x.st == .running || x.st == .paused || x.st == .suspended)
  if busy || !(s.plan l).switched then { s with fab := { s.fab with ovrRefused := true } }
  else
    let s1 : State := { s with fab := { s.fab with tpOvr := Tbl.set 0 s.fab.tpOvr g (putTpOvr v) } }
    if flag v 31 then
      let s2 := s1.portLost l
      let s3 : State := { s2 with fab := { s2.fab with ovrUsed := Tbl.set 0 s2.fab.ovrUsed g (putTpOvr v) } }
      (s3.modLink l fun k => { k with heldDown := false }).updateTopo
    else s1

/-- TP_OVR_WRITE (R308, R316). -/
def execTpOvrWrite (port g : Nat) (v : Word) (s : State) : Host.Outcome State Fault Refusal :=
  inRange (decide (port < 2) && decide (g < 8)) (s.bar0 (.tpOvrWrite port g v) fun t => t.ovrWrite g v)

/-! ### Routes (R297–R300) -/

/-- The port with the most credits of the packet's pool, ties to the lowest index; class 3 takes the lowest (R297). -/
def State.bestPort (s : State) (p : Packet) : List Nat → Option Nat
  | [] => none
  | l :: r =>
    match s.bestPort p r with
    | none => some l
    | some m =>
      let cr (x : Nat) : Nat := Tbl.get 0 (s.link x).credits (3 * vcOf p.op.toNat + (if isGlobal x then p.gh + 1 else p.gh))
      if p.cls = 3 ∨ cr m ≤ cr l then some l else some m

/-- Rule 5 of R297: own global ports to a group, else group ports to its exits. -/
def State.exitPorts (s : State) (h : Nat) : List Nat :=
  match s.globalsTo h with
  | [] => (bitList 32 (Tbl.get 0 s.fab.exitTable h).toNat).filterMap fun t =>
      if t = s.ownSlot then none
      else if (s.link (groupPort s.ownSlot t)).carries then some (groupPort s.ownSlot t) else none
  | l => l

/-- Rule 6 of R297: first links of the usable paths to a group. -/
def State.pathPorts (s : State) (p : Packet) (h : Nat) : List Nat :=
  let r := (Tbl.get 0 s.fab.routeTable h).toNat
  (List.range 4).filterMap fun i =>
    let e := bits r (16 * i) 16
    let x := bits e 0 9
    if !bitAt e 15 then none
    else s.bestPort p ((if x = h then s.exitPorts h else s.globalsTo x).mergeSort (· ≤ ·))

/-- The port to a position or attach port in this group. -/
def State.groupHop (s : State) (w : Word) : Nat :=
  if chipSlot w = s.ownSlot then chipPort w else groupPort s.ownSlot (chipSlot w)

/-- What a position does with a packet. -/
inductive Route where
  | deliver | discard | wait | out (link : Nat)
  deriving DecidableEq, Repr

/-- A port at version 1 carries no transit traffic (R262). -/
def State.version1 (s : State) (l : Nat) : Bool := (s.link l).version == 1

/-- The route of a packet, class-3 paths of the sender aside (R297–R300). One that came with an invalid chip number is
delivered, to be refused (R274). -/
def State.route (s : State) (arrival : Option Nat) (p : Packet) : Route :=
  let w := s.chipEntry p.dst
  let h := chipGroup w
  let device := chipKind w == 4 || chipKind w == 5
  let one (l : Option Nat) : Route := match l with
    | some x =>
      if arrival.isSome && s.version1 x then .discard
      else if (s.link x).carries then .out x else if arrival.isNone then .wait else .discard
    | none => if arrival.isNone then .wait else .discard
  if s.fencedChip p.dst || s.fencedChip p.src then .discard
  else if p.dst = s.ownChip ∨ (arrival.isSome ∧ 2 ^ 14 ≤ p.dst) then .deliver
  else if arrival.any fun a => s.version1 a then .discard
  else if chipKind w = 0 ∨ (device ∧ h ≠ s.ownGroup) then .discard
  else if h = s.ownGroup then one (some (s.groupHop w))
  else match arrival with
    | none => one (s.bestPort p ((s.pathPorts p h).mergeSort (· ≤ ·)))
    | some a =>
      if a < 31 then one (s.bestPort p (s.globalsTo h))
      else if p.gh = 2 then .discard
      else one (s.bestPort p ((s.exitPorts h).mergeSort (· ≤ ·)))

/-! ### Flits (R263–R270) -/

/-- A gap: nak = 1 is due in the next flit sent, once for the gap (R266). -/
def State.gap (s : State) (l : Nat) : State :=
  s.modLink l fun k => if k.nakSent then k else { k with nakPending := true, nakSent := true }

/-- Flits up to an ack leave the replay buffer (R266). -/
def ackReplay (l : List TxFlit) (ack : Nat) : List TxFlit :=
  if l.any fun f => f.seq == ack then (l.dropWhile fun f => f.seq != ack).drop 1 else l

/-- Ack, nak and credit report of a flit; none when the report gives too many credits (R266, R270). -/
def State.takeReport (s : State) (l : Nat) (f : Flit) : Option State :=
  let k := s.link l
  let pool := hdr f 35 4
  let c := hdr f 39 12
  let n := Tbl.get 0 k.credits pool + (c + 4096 - Tbl.get 0 k.lastReport pool) % 4096
  if Tbl.get 0 k.poolSizes pool < n then none
  else
    let s1 := s.setLink l { k with
      replay := ackReplay k.replay (hdr f 22 12), credits := Tbl.set 0 k.credits pool n
      lastReport := Tbl.set 0 k.lastReport pool c }
    some (if hdr f 34 1 = 1 then
      (s1.modLink l fun q => { q with errCnt := setFld q.errCnt 0 16 (satAdd 16 (fld q.errCnt 0 16) 1) }).replayAll l else s1)

/-- The port by which a packet whose first flit has come goes on at once (R283), with the table entries it finds then
(R304). One that is delivered or discarded here is taken whole, and so is one behind another packet of its VC. -/
def State.cutThrough (s : State) (l vc : Nat) (first : List Byte) : Option Nat :=
  match s.route (some l) (packetOf first) with
  | .out x => if s.cutting x vc || (s.link l).assembled.any (fun q => vcOf q.op.toNat == vc) then none else some x
  | _ => none

/-- A flit of a transit packet as it goes on: its packet takes one more global hop on a global link (R269). -/
def State.transitFlit (s : State) (x : Nat) (f : Flit) : TxFlit :=
  let gh := hdr f 6 2
  let sop := hdr f 8 1 == 1
  let hop := isGlobal x && (s.link x).foundDevice == 1
  ⟨0, hdr f 4 2, if hop then min 2 (gh + 1) else gh, sop, hdr f 9 1 == 1,
    if sop && hop then f.payload.set 1 (BitVec.ofNat 8 (hopFlags (fieldAt f.payload 1 1))) else f.payload⟩

/-- A flit of a transit packet goes on by a port at once, and frees its place; when the port is lost, so is the flit
(R270, R283). An error in the receive buffer takes the port of arrival DOWN (R291). -/
def State.transit (s : State) (l x : Nat) (f : Flit) : State :=
  if s.parity.contains (.linkBuffer l) then s.bufferFault l
  else
    let vc := hdr f 4 2
    let pool := 3 * vc + hdr f 6 2
    let eop := hdr f 9 1 == 1
    let s1 := s.modLink l fun k => { k with
      freed := Tbl.set 0 k.freed pool (Tbl.get 0 k.freed pool + 1)
      cut := Tbl.set none k.cut vc (if eop then none else some x) }
    if (s1.link x).carries then
      let s2 := (s1.modLink x fun k => { k with txQueue := k.txQueue ++ [s1.transitFlit x f] }).pumpAll x
      if eop then s2.releaseHeld x vc else s2
    else s1

/-- A data flit in sequence that stays here joins its packet; a whole packet waits to be forwarded or delivered. -/
def State.keepData (s : State) (l : Nat) (f : Flit) : State :=
  let vc := hdr f 4 2
  let pool := 3 * vc + hdr f 6 2
  let eop := hdr f 9 1 == 1
  s.modLink l fun k =>
    let part := (if hdr f 8 1 = 1 then [] else Tbl.get [] k.rxParts vc) ++ f.payload
    { k with
      occupied := Tbl.set 0 k.occupied pool (Tbl.get 0 k.occupied pool + 1)
      rxParts := Tbl.set [] k.rxParts vc (if eop then [] else part)
      assembled := if eop then k.assembled ++ [packetOf part] else k.assembled }

/-- A new packet begins on a VC: one in transit whose end never came ends there. -/
def State.endCut (s : State) (l vc : Nat) : State :=
  match Tbl.get none (s.link l).cut vc with
  | none => s
  | some x => (s.modLink l fun k => { k with cut := Tbl.set none k.cut vc none }).releaseHeld x vc

/-- A data flit in sequence goes on with its packet or stays with it (R266, R270, R283). -/
def State.takeData (s : State) (l : Nat) (f : Flit) : State :=
  let k := s.link l
  let seq := hdr f 10 12
  let vc := hdr f 4 2
  let pool := 3 * vc + hdr f 6 2
  if seq ≠ (k.rxSeq + 1) % 4096 then s.gap l
  else if ownPool pool ≤ Tbl.get 0 k.occupied pool then s.protocolError l seq
  else
    let s1 := s.setLink l { k with rxSeq := seq, nakSent := false }
    let s2 := if hdr f 8 1 = 1 then s1.endCut l vc else s1
    match (if hdr f 8 1 = 1 then s2.cutThrough l vc f.payload else Tbl.get none (s2.link l).cut vc) with
    | some x => s2.transit l x f
    | none => s2.keepData l f

/-- A maintenance flit: round trip, probe, keepalive word; an advanced heartbeat ends a suspicion (R284, R363, R364,
R367). -/
def State.takeMaintenance (s : State) (l : Nat) (b : List Byte) : State :=
  let echo := fieldAt b 8 8
  let w := BitVec.ofNat 32 (fieldAt b 24 4)
  let s1 := s.modLink l fun k => { k with
    rtt := if echo = 0 then k.rtt else min 0xFF ((s.suTime - echo) / 10), probe := BitVec.ofNat 64 (fieldAt b 0 8)
    kaWord := w }
  let fresh := fld (s.link l).kaWord 0 16 != fld w 0 16
  if s.err.restarting.contains .fab then s1
  else
    let s2 := if fresh && decide (l < 31) then s1.withdraw ((s.ownSlot + l + 1) % 32) else s1
    if flag w 31 then s2.selfFence else s2

/-- A flit's report and contents are taken; a partner that still negotiates is answered (R261). -/
def State.takeFlit (s : State) (l : Nat) (f : Flit) : State :=
  if !flitGood f then (s.flitDropped l (hdr f 10 12)).gap l
  else if !headerOk f then s.protocolError l (hdr f 10 12)
  else match s.takeReport l f with
    | none => s.protocolError l (hdr f 10 12)
    | some s1 =>
      if !(s1.link l).carries then s1
      else match hdr f 0 4 with
        | 1 => s1.takeData l f
        | 2 => s1.takeMaintenance l f.payload
        | 3 => s1.sendNegotiation l
        | _ => s1

/-- The port goes on sending: data that can go, or the next slot alone. -/
def State.answerFlit (s : State) (l : Nat) : State :=
  if !(s.link l).carries then s else if (s.nextData l).isSome then s.pumpAll l else s.fillSlot l

/-- A flit arrives on a port: an admitted one takes it and sends on; one that is training or HELD uses only what R261,
R263 and R264 say of every flit. -/
def State.recvFlit (s : State) (l : Nat) (f : Flit) : State :=
  if !(s.link l).carries then s.negotiate l f
  else
    let s1 := s.takeCodewords l f
    if (s1.link l).carries then (s1.takeFlit l f).answerFlit l else s1

/-- FLIT_RECEIVE (R263–R270). -/
def execFlitReceive (link : Nat) (flit : Flit) (s : State) : Host.Outcome State Fault Refusal :=
  inRange (linkOk link) (s.recvFlit link flit)

/-- MAINTENANCE_FLIT_SEND (R265): the slots up to the next 58th one go by, and that one carries the maintenance flit. -/
def execMaintenanceFlitSend (link : Nat) (s : State) : Host.Outcome State Fault Refusal :=
  inRange (linkOk link) (if (s.link link).carries then s.fillRound link 58 else s)

/-- REPLAY_TIMEOUT (R267). -/
def execReplayTimeout (link : Nat) (s : State) : Host.Outcome State Fault Refusal :=
  inRange (linkOk link) (if (s.link link).replay.isEmpty then s
    else ((s.report (codeAt Code.lkReplayTimer link)
        { info := ((s.link link).replay.head?.map (·.seq)).getD 0 }).modLink link fun q => { q with
      errCnt := setFld q.errCnt 0 16 (satAdd 16 (fld q.errCnt 0 16) 1) }).replayAll link)

/-! ### Forwarding (R297–R300) -/

/-- The path held for a class-3 packet that originates here (R277). -/
def State.class3Of (s : State) (p : Packet) : Option Class3 :=
  s.fab.class3.find? fun e =>
    e.job == p.jobTag.toNat && e.lcore == p.srcLcore.toNat && e.chip == p.dst && e.epoch == epKey p.epochOf

/-- A request of this module is still unanswered: a read without its data, a copy's or the unit's remote signal without
its acknowledgement (R159, R161, R184). -/
def State.tagOpen (s : State) (t : Nat) : Bool :=
  if 0x8000 ≤ t then s.cores.any fun (_, k) => k.ce.any fun e => match e.wait with
    | .remoteRead _ reqs got => (reqs.any fun r => r.1 == t) && !(got.any fun g => g.1 == t)
    | _ => false
  else if 0x4000 ≤ t then s.cores.any fun (_, k) => k.rsigOut.contains t
  else 0x100 ≤ t && decide (t < 0x1C0) && (s.core (t - 0x100)).suWait.isSome

/-- Bytes of a class-3 path that are acknowledged. -/
def State.class3Acked (s : State) (e : Class3) : Nat :=
  match (s.jobCtx e.job).bind fun c => s.physCore c e.lcore with
  | some q => countOf (s.core q).ackedBytes e.chip 3 e.epoch
  | none => 0

/-- A packet of a logical core of this module that class 3 confines to one path: answers of the die hub come from no
logical core (R274, R277). -/
def confined (arrival : Option Nat) (p : Packet) : Bool := arrival.isNone && p.cls == 3 && p.srcLcore != 0xFF

/-- A class-3 packet keeps to its path; when that has failed it waits until everything sent is acknowledged (R277); a
signal whose tag is its core's waits for the earlier ones, which its core has awaited. One for a fenced chip is discarded
(R300). -/
def State.route3 (s : State) (p : Packet) : Route :=
  match s.class3Of p with
  | none => s.route none p
  | some e =>
    if s.fencedChip p.dst || s.fencedChip p.src then .discard
    else if (s.link e.link).carries then .out e.link
    else if e.bytes ≤ s.class3Acked e ∧ e.tags.all (fun t => t == p.tag.toNat || !s.tagOpen t) then s.route none p
    else .wait

/-- The path of a class-3 packet is noted. -/
def State.noteClass3 (s : State) (p : Packet) (l : Nat) : State :=
  let old := s.class3Of p
  let sent := ((old.map (·.tags)).getD []).filter fun t => t != p.tag.toNat && s.tagOpen t
  let tags := sent ++ (if p.op = 1 then [] else [p.tag.toNat])
  let e : Class3 :=
    ⟨p.jobTag.toNat, p.srcLcore.toNat, p.dst, epKey p.epochOf, l, (old.map (·.bytes)).getD 0 + p.data.length, tags⟩
  { s with fab := { s.fab with class3 := (s.fab.class3.filter fun q => some q != old) ++ [e] } }

/-- The packet leaves the receive buffer of its port: its flits are freed (R270). -/
def State.freeFlits (s : State) (arrival : Option Nat) (p : Packet) : State :=
  match arrival with
  | none => s
  | some l => s.modLink l fun k =>
      if k.assembled.contains p then
        let pool := 3 * vcOf p.op.toNat + (if k.version = 1 then 0 else p.gh)
        { k with
          assembled := k.assembled.erase p, freed := Tbl.set 0 k.freed pool (Tbl.get 0 k.freed pool + flitCount p)
          occupied := Tbl.set 0 k.occupied pool (Tbl.get 0 k.occupied pool - flitCount p) }
      else k

/-- A packet is delivered to its own row. It is noted with the port it came by; one that no row takes (an invalid
operation or chip number, or a CONTROL packet whose header breaks R274) is refused with reason 7 (R274, R280). -/
def State.deliver (s : State) (arrival : Option Nat) (p : Packet) : State :=
  let s1 := match arrival with
    | some l => s.modLink l fun k => { k with delivered := k.delivered ++ [p] }
    | none => s
  if p.op = 0 ∨ 9 < p.op.toNat ∨ 2 ^ 14 ≤ p.dst ∨ (p.op = 9 ∧ !goodHeader p) then (s1.refuse p 7).taken p
  else if p.op = 9 then s1.taken p
  else s1

/-- PACKET_FORWARD: the packet is delivered to its own row, sent on, kept waiting at its source, or discarded. -/
def State.routePacket (s : State) (arrival : Option Nat) (p : Packet) : State :=
  let own3 := confined arrival p
  match (if own3 then s.route3 p else s.route arrival p) with
  | .deliver => (s.freeFlits arrival p).deliver arrival p
  | .wait => s
  | .discard => (s.freeFlits arrival p).discard arrival
  | .out l =>
    let s1 := (s.freeFlits arrival p).sendOn l (if (s.link l).foundDevice = 1 then hopped p l else p)
    if own3 then s1.noteClass3 p l else s1

/-- An uncorrectable error in the receive buffer takes the port DOWN with its packets (R291). -/
def State.forward (s : State) (arrival : Option Nat) (p : Packet) : State :=
  match arrival with
  | some l => if s.parity.contains (.linkBuffer l) then s.bufferFault l else s.routePacket arrival p
  | none => s.routePacket arrival p

/-- PACKET_FORWARD (R297–R300). -/
def execPacketForward (arrival : Option Nat) (pkt : Packet) (s : State) : Host.Outcome State Fault Refusal :=
  inRange (match arrival with
    | some l => linkOk l
    | none => true) (s.forward arrival pkt)

end Sys2Proof.Machine
end

