-- ==== Sys2Proof/Machine/Load.lean ====
section
/-! DEFINITION. The load of a recovery target (R376–R378): creation from a record (R361), the areas a source sends and
their slices, relays, and the target's side. -/

namespace Sys2Proof.Machine

/-! ### Creation records (R361) -/

/-- The registers of a creation record. -/
def CtxRegs.fromCreation (r : CtxRegs) (b : List Byte) : CtxRegs :=
  let w (i : Nat) : Word := BitVec.ofNat 32 (fieldAt b (0x258 + 4 * i) 4)
  { r with
    stCfg := putStCfg (w 0), stSkein := putStSkein (w 1), stPersist := lowBits (w 2) 16, stTree := putStTree (w 3)
    stShardOwn := w 4, stShardMir := w 5, stPeer0 := putStPeer (w 6), stPeer1 := putStPeer (w 7)
    stPeer2 := putStPeer (w 8), stPeer3 := putStPeer (w 9), stTrace := putStTrace (w 10), stPair := putStPair (w 11)
    stRegmap := w 12, stRecov := putStRecov (w 13), tsLsConfig := putLsConfig (w 14), tsLsRange := putLsRange (w 15)
    lkJob := lowBits (w 16) 16 }

/-- The regions of a creation record: number, base, bytes, mode, set. -/
def recordRegions (b : List Byte) : List (Nat × Region) :=
  (List.range 16).filterMap fun i =>
    let e := b.drop (0x40 + 32 * i)
    if fieldAt e 0x12 1 = 1 then some (i, ⟨fieldAt e 0 8, fieldAt e 8 8, fieldAt e 0x10 1, fieldAt e 0x11 1⟩) else none

/-- The context that a creation record describes, as far as its regions and registers go. -/
def recordCtx (b : List Byte) : Ctx :=
  { Ctx.reset with
    regions := recordRegions b |>.map fun e => (e.1, some e.2)
    regs := CtxRegs.reset.fromCreation b
    desc := { Ctx.reset.desc with coreCount := fieldAt b 4 2, flags := BitVec.ofNat 32 (fieldAt b 8 4) } }

/-- Map the regions at their recorded bases; none when one cannot be mapped. -/
def State.mapRegions (s : State) (c : Nat) : List (Nat × Region) → Option State
  | [] => some s
  | (i, r) :: rest =>
    match s.chooseRun r.base (r.bytes / 2 ^ 26) with
    | none => none
    | some g =>
      match s.mapGranules c r.mode r.set ((List.range (r.bytes / 2 ^ 26)).map (· + g)) with
      | none => none
      | some t => (t.modCtx c fun y => { y with regions := Tbl.set none y.regions i (some r) }).mapRegions c rest

/-- A context from a creation record, PAUSED, with every region, lid mode and register value; its slot. -/
def State.createFrom (s : State) (b : List Byte) : Option (Nat × State) :=
  let raw := patch (slice b 0 64) 0x20 (slice (b.drop 0x40) 0 8)
  let port := fieldAt b 2 1
  if !ctxDescOk raw port then none
  else match s.grant raw with
    | none => none
    | some g =>
      match s.build raw port g with
      | none => none
      | some t =>
        match t.mapRegions g.slot ((recordRegions b).filter fun e => e.1 != 0) with
        | none => none
        | some u =>
          let m := fieldAt b 0x240 16
          let l := (List.range g.lid.length).zip g.lid |>.map fun (i, k) => (k, bitAt m i)
          let v := (scratchNumbers l).foldl (fun t (k, ca, n) => t.setLidUnit k { t.lidUnit k with cache := ca, logical := n }) u
          some (g.slot, v.modCtx g.slot fun y => { y with
            st := .paused, lid := l, streamTable := fieldAt b 0x250 8, startTable := fieldAt b 0x250 8
            regs := y.regs.fromCreation b, startRegs := y.regs.fromCreation b
            desc := { y.desc with raw := slice b 0 64 } })

/-- The slot's context goes, its registers kept. -/
def State.clearSlot (s : State) (c : Nat) : State :=
  let t := s.freeCtx c
  t.modCtx c fun _ => { Ctx.reset with regs := (t.ctx c).regs }

/-! ### What a source sends (R376, R377) -/

/-- Classes of regions that a load matches by rank: own persistent, mirror, static. -/
def Ctx.ownRegions (x : Ctx) : List Nat := (bitList 16 x.persist).filter fun r => !bitAt x.mirrorMask r
def Ctx.mirrorRegions (x : Ctx) : List Nat := bitList 16 x.mirrorMask
def Ctx.staticRegions (x : Ctx) : List Nat := bitList 16 x.staticMask

/-- A range to copy: its address on the source, on the target, and its length. -/
structure LoadArea where
  src : Nat
  dst : Nat
  len : Nat
  deriving DecidableEq, Repr

/-- Matched regions of a source and a target. -/
def matched (x : Ctx) (from' : List Nat) (y : Ctx) (to' : List Nat) : List LoadArea :=
  List.zipWith (fun a b => ⟨x.regionBase a, y.regionBase b, y.regionBytes b⟩) from' to'

/-- The source's regions that hold a shard: its own ones, or its mirror (R382). -/
def Ctx.holding (x : Ctx) (shard : Word) : List Nat :=
  if x.regs.stShardOwn = shard then x.ownRegions else x.mirrorRegions

/-- The creation record of a target: in the pair area of its partner, else as the order's data bring it (R360). -/
def State.recordOf (s : State) (c target : Nat) (d : LoadData) : List Byte :=
  match (s.ctx c).pair with
  | some (base, chip) => if chip = target then s.peek (.mem c) base 0x8000 else d.creation
  | none => d.creation

/-- Areas that a source sends: for the target's own shard, its mirror shard, and, as its partner, the rest of R376's
table: static images, the records of R into the target's slot, and this module's own slot copies and images into the
target's pair area (R362). -/
def State.loadAreas (s : State) (c : Nat) (y : Ctx) (own mirror partner : Bool) : List LoadArea :=
  let x := s.ctx c
  let r := (x.recov.stepR).getD 0
  let a := if own then matched x (x.holding y.regs.stShardOwn) y y.ownRegions else []
  let b := if mirror then matched x (x.holding y.regs.stShardMir) y y.mirrorRegions else []
  let e := match x.pair, y.pair, x.skein, y.skein with
    | some (base, _), some (ybase, _), some k, some j =>
      (imagesAt base (y.staticRegions.map y.regionBytes)).zipWith (fun p q => ⟨p, y.regionBase q, y.regionBytes q⟩)
          y.staticRegions ++
        [⟨0x10000 + base + r % j.slots * 2 ^ 21, j.slotBase r, 2 ^ 21⟩] ++
        ((List.range k.slots).map fun i => ⟨k.slotBase i, 0x10000 + ybase + i * 2 ^ 21, 2 ^ 21⟩) ++
        (imagesAt ybase (x.staticRegions.map x.regionBytes)).zipWith (fun p q => ⟨x.regionBase q, p, x.regionBytes q⟩)
          x.staticRegions
    | _, _, _, _ => []
  a ++ b ++ if partner then e else []

/-- Slices of 64 MiB. -/
def LoadArea.slices (a : LoadArea) : List LoadArea :=
  (cutFrom (a.len / 2 ^ 26 + 2) (2 ^ 26) 0 a.len).map fun (o, n) => ⟨a.src + o, a.dst + o, n⟩

/-- A slice goes to the target, or to a relay's scratchpad (R377). -/
def State.sendSlice (s : State) (c p target : Nat) (d : LoadData) (i : Nat) (a : LoadArea) : State :=
  match d.via.find? fun v => v.slice == i with
  | none => s.pairSend p target none a.src a.dst a.len
  | some v => (s.pairSend p v.chip none a.src v.off a.len).modCtx c fun x => { x with recov := { x.recov with
      relayed := x.recov.relayed ++ [⟨i, v.chip, a.src, a.dst, a.len, target⟩] } }

/-- Areas go out in slices, numbered in turn. -/
def State.sendAreas (s : State) (c p target : Nat) (d : LoadData) (l : List LoadArea) : State :=
  let sl := l.flatMap LoadArea.slices
  ((List.range sl.length).zip sl).foldl (fun t e => t.sendSlice c p target d e.1 e.2) s

/-- This module's creation record goes into the pair area of a target's context `y`. -/
def State.sendRecord (s : State) (c p target : Nat) (y : Ctx) : State :=
  match y.pair with
  | some e => s.sendPuts p target 0 none [⟨e.1, (s.ctx c).creation, []⟩]
  | none => s

/-- A source sends its part of a target's load: regions in slices, and as the partner its own creation record. -/
def State.sendLoad (s : State) (c target : Nat) (own mirror : Bool) (d : LoadData) : State :=
  let y := recordCtx (s.recordOf c target d)
  let partner := (s.ctx c).pair.any fun e => e.2 == target
  match (s.ctx c).cores with
  | [] => s
  | p :: _ =>
    let s0 := (s.touchPair c).modCtx c fun x => { x with recov := { x.recov with
      spareVia := x.recov.spareVia ++ d.spareVia } }
    let s1 := s0.sendAreas c p target d (s.loadAreas c y own mirror partner)
    if partner then s1.sendRecord c p target y else s1

/-- A slice of a lost relay goes through the relay that takes it over, else straight to its target (R382). -/
def State.resendSlice (s : State) (c p : Nat) (e : Relayed) : State :=
  match (s.ctx c).recov.spareVia.find? fun v => v.1 == e.relay && v.2.slice == e.slice && !s.fencedChip v.2.chip with
  | none => s.pairSend p e.target none e.src e.dst e.len
  | some v => (s.pairSend p v.2.chip none e.src v.2.off e.len).modCtx c fun x => { x with recov := { x.recov with
      relayed := x.recov.relayed ++ [{ e with relay := v.2.chip }] } }

/-- A relay is lost: the slices sent through it go through the remaining relays, which stage them (R382). -/
def State.relayLost (s : State) (c chip : Nat) : State :=
  let r := (s.ctx c).recov
  let s1 := s.modCtx c fun y => { y with recov := { y.recov with
    relayed := y.recov.relayed.filter fun e => e.relay != chip
    staged := y.recov.staged ++ (r.spareStaged.filter fun e => e.1 == chip).map (·.2)
    spareStaged := y.recov.spareStaged.filter fun e => e.1 != chip } }
  let s2 := if r.spareStaged.any (fun e => e.1 == chip) && r.rstate == 5 then
    s1.modCtx c fun y => { y with recov := { y.recov with rstate := 4 } } else s1
  match (s.ctx c).cores with
  | [] => s2
  | p :: _ => (r.relayed.filter fun e => e.relay == chip).foldl (fun t e => t.resendSlice c p e) s2

/-! ### Relays (R377) -/

/-- A member that relays slices of a load. -/
def State.beginRelay (s : State) (c target : Nat) (d : LoadData) : State :=
  if d.staged.isEmpty then s
  else s.modCtx c fun x => { x with recov := { x.recov with
    rstate := 4, staged := x.recov.staged ++ d.staged, target := target
    spareStaged := x.recov.spareStaged ++ d.spareStaged } }

/-- Bytes that have landed in a staged slice are written on to the target; the last of them ends the relaying. -/
def State.passSlice (s : State) (c a : Nat) (b : List Byte) (po : List Bool) : State :=
  let x := s.ctx c
  match x.recov.staged.find? (fun g => within a b.length g.off g.len), x.cores with
  | some g, p :: _ =>
    let rest := x.recov.staged.filter fun h => h != g
    let left := if a + b.length = g.off + g.len then rest else x.recov.staged
    (s.sendPuts p x.recov.target 0 none [⟨g.dst + (a - g.off), b, po⟩]).modCtx c fun y => { y with recov := { y.recov with
      staged := left, rstate := if left.isEmpty then 5 else y.recov.rstate } }
  | _, _ => s

/-! ### The target (R376, R378, R384) -/

/-- Loss scaling as the source's TS_LS_STATE gives it before step R (R145, R153, R376). -/
def LossScale.fromState (l : LossScale) (w : Word) (r : Nat) : LossScale :=
  let e := signed 8 (fld w 0 8)
  let l1 := if r = 0 then l else
    ((l.setExp (r - 1) e).setRaise (r - 1) (flag w 24))
  let l2 := if r < 2 then l1 else { l1 with raises := l1.raises ++ [(r - 2, flag w 25)] }
  { l2 with clean := fld w 8 16, state := w, first := none }

/-- Each core takes counters and sequencer from its record of R in the skein; one without a record has ended. -/
def State.loadCores (s : State) (c r : Nat) : State :=
  let cores := (s.ctx c).cores
  ((List.range cores.length).zip cores).foldl (fun u (l, p) =>
    match (u.ctx c).skein with
    | none => u
    | some k =>
      let t := u.touch (.mem c) (k.recBase r l + 0x1000) 512
      if (Seq.parse (slice (t.peek (.mem c) (k.recBase r l + 0x1000) 512) 0 512)).1.lastStep = some r then t.loadRecord c p l r
      else t.modCore p fun x => { x with seq := { x.seq with ended := true } }) s

/-- A range joins the ranges landed so far, ascending and disjoint. -/
def coverInsert (a b : Nat) : List (Nat × Nat) → List (Nat × Nat)
  | [] => [(a, b)]
  | (x, y) :: r =>
    if b < x then (a, b) :: (x, y) :: r
    else if y < a then (x, y) :: coverInsert a b r
    else coverInsert (min a x) (max b y) r

/-- Everything has landed: step R is due, and the target reports to the leader (R376, R379). What arrives of R before
RESUME is discarded, as on the members that rolled back (R198, R341). -/
def State.finishLoad (s : State) (c : Nat) (d : LoadData) : State :=
  let r := d.stepR
  let s2 := (s.skeinHeader c).modCtx c fun y => { y with
    ls := { (y.regs.lsCapture LossScale.reset).fromState d.lsState r with first := if r = 0 then none else some 0 }
    step := { StepSt.reset with
      first := some r, declared := some r, committed := if r = 0 then none else some (r - 1)
      gateClosed := true, rerunDue := true, discardFrom := some r }
    recov := { y.recov with rstate := 5, stepR := some r, load := none, landed := [], loaded := true } }
  let s3 := s2.loadCores c r
  let s4 := (s3.emptyBank c r ((s3.ctx c).curExp r)).writeSlot c r 1
  (s4.report (codeAt Code.rcAdmitted c) { ctx := some c, step := some r }).sendRc c (s4.ctx c).recov.leader msgReady
    { chipA := s4.ownChip, action := 1 }

/-- Bytes of a load land on the target. -/
def State.loadLanded (s : State) (c a n : Nat) (d : LoadData) : State :=
  let cov := coverInsert a (a + n) (s.ctx c).recov.landed
  let s1 := s.modCtx c fun x => { x with recov := { x.recov with landed := cov } }
  if d.bytes ≤ (cov.map fun e => e.2 - e.1).sum then s1.finishLoad c d else s1

/-- What a WRITE without an epoch means to a load: it lands on the target, or is passed on by a relay. -/
def State.loadWrite (s : State) (c a : Nat) (b : List Byte) (po : List Bool) : State :=
  match (s.ctx c).recov.load with
  | some d => s.loadLanded c a b.length d
  | none => s.passSlice c a b po

/-- A RC_ message to the sender of a packet, under its job tag and world (R370). -/
def State.replyRc (s : State) (p : Packet) (type : Nat) (m : RcMsg) : State :=
  let (n, t) := s.takeSeq type
  t.emit (.packet (t.packet 9 p.src 0xFF 0 0 p.jobTag.toNat (pktFlags 0 p.secure none) none 0 0 type (m.bytes n)))

/-- A load that fails (R376, R382). -/
def State.loadFailed (s : State) (p : Packet) (code : Word) : State :=
  (s.report code).replyRc p msgReady { chipA := s.ownChip, action := 2, code := code }

/-- Matched regions are equal in size (R376). -/
def Ctx.sizesMatch (x : Ctx) (d : LoadData) : Bool :=
  x.ownRegions.map x.regionBytes == d.ownSizes && x.mirrorRegions.map x.regionBytes == d.mirrorSizes &&
    x.staticRegions.map x.regionBytes == d.staticSizes

/-- The context of a target: that of REBUILD or of a load that starts again, if the kernels found no bad part; else one
from the creation record. -/
def State.targetCtx (s : State) (c : Option Nat) (d : LoadData) : Option (Nat × State) :=
  match c with
  | some k =>
    if (s.ctx k).recov.rstate ≠ 3 then none
    else if kakAny d.kernels then ((s.destroyCtx k).clearSlot k).createFrom d.creation
    else some (k, s)
  | none => s.createFrom d.creation

/-- LOAD on its target: the kernels, its context, and the wait for its state (R376, R384). -/
def State.loadHere (s : State) (p : Packet) (c : Option Nat) (d : LoadData) : State :=
  let s0 := s.kakFailed d.kernels
  match s0.targetCtx c d with
  | none => if kakAny d.kernels then (s0.replyRc p msgReady
      { chipA := s.ownChip, action := 2, code := codeAt Code.rcKakFail 0xFF })
    else s0.loadFailed p (codeAt Code.rcLoadFail (c.getD 0xFF))
  | some (k, t) =>
    if !(t.ctx k).sizesMatch d then (t.clearSlot k).loadFailed p (codeAt Code.rcLoadFail k)
    else
      let u := t.modCtx k fun y => { y with
        recov := { y.recov with rstate := 3, leader := p.src, load := some d, landed := [] }
        step := { y.step with discardFrom := some d.stepR } }
      if d.bytes = 0 then u.finishLoad k d else u

/-- LOAD on a module of the job: target, source of the own or of the mirror shard, or a relay in a source's group
(R376, R377). -/
def State.orderLoad' (s : State) (p : Packet) (m : RcMsg) (c : Option Nat) (d : LoadData) : State :=
  let mirSrc := bits m.value 0 14
  if m.chipA = s.ownChip then s.loadHere p c d
  else match c with
    | none => s
    | some k =>
      if m.chipB = s.ownChip ∨ mirSrc = s.ownChip then
        s.sendLoad k m.chipA (m.chipB == s.ownChip) (mirSrc == s.ownChip) d
      else if chipGroup (s.chipEntry m.chipB) = s.ownGroup ∨ chipGroup (s.chipEntry mirSrc) = s.ownGroup then
        s.beginRelay k m.chipA d
      else s

end Sys2Proof.Machine
end

