-- ==== Sys2Proof/Machine/Recovery.lean ====
section
/-! DEFINITION. Step timeouts and probes (R368, R369), and recovery of a job: statuses, orders, loads and re-admission
(R372–R382, R310). -/

namespace Sys2Proof.Machine

/-! ### Step timeouts (R368, R369) -/

/-- The node waits for its children's votes, or for their rollbacks. -/
def Ctx.waitsVotes (x : Ctx) : Bool :=
  x.stEn && x.step.decision.isNone && !x.step.voted && (x.step.complete || x.gone) &&
    decide (x.step.voters.length < x.childCount)
def Ctx.waitsRolled (x : Ctx) : Bool :=
  x.stEn && x.step.decision.isSome && x.step.rolledSelf && decide (x.step.rolledFrom.length < x.childCount)

/-- Children that have not answered. -/
def Ctx.silent (x : Ctx) : List Nat :=
  x.childChips.filter fun ch =>
    if x.waitsRolled then !x.step.rolledFrom.contains ch else x.waitsVotes && !x.step.voters.contains ch

/-- The step a wait is about. -/
def StepSt.waitStep (st : StepSt) : Nat := match st.decision with
  | some d => d.step
  | none => st.voteStep

/-- What a child answers: 1 running, 2 complete and awaiting its own children, 3 voted, 4 paused or faulted (R371). -/
def Ctx.probeState (x : Ctx) (n : Nat) : Nat :=
  if x.gone || x.st == .paused then 4
  else if decide (n < x.step.voteStep) || x.step.voted then 3
  else if x.step.complete then 2
  else 1

/-- A probe is answered; a child that has voted sends its vote again (R369). -/
def State.recvProbe (s : State) (p : Packet) : State :=
  if !s.ctlHere p msgProbe then s
  else match s.stepCtx p with
    | none => s
    | some c =>
      let x := s.ctx c
      let n := fieldAt p.data 0 8
      let a := x.probeState n
      let s1 := s.sendRc c p.src msgProbeReply { step := n, action := a, code := if a = 4 then x.faultCode else 0 }
      match x.step.merged with
      | some v =>
        if a = 3 ∧ x.step.voted ∧ n = x.step.voteStep then
          s1.sendCtl c x.parent msgVote (some n) (v.bytes n x.step.attempt) else s1
      | none => s1

/-- RC_PROBE (R368). -/
def execRcProbe (pkt : Packet) (s : State) : Host.Outcome State Fault Refusal :=
  .next (s.viaFab (.rcProbe pkt) fun t => t.recvProbe pkt)

/-- The node acts in a child's place, with a code (R369). -/
def State.substituteChild (s : State) (c ch : Nat) (code : Word) : State :=
  let x := s.ctx c
  let n := x.step.waitStep
  let s0 := s.modCtx c fun y => { y with recov := { y.recov with
    probed := y.recov.probed.filter (· != ch)
    timeouts := (y.recov.timeouts.filter fun e => e != (ch, n, x.step.attempt)) ++ [(ch, n, x.step.attempt)] } }
  if x.waitsRolled then
    (s0.modStep c fun t => { t with
      rolledFrom := keyInsert ch t.rolledFrom, rolledCovered := t.rolledCovered + 1, lostAny := true }).rolledCheck c
  else if x.waitsVotes then
    let e := x.curExp n
    let sev := severityOf code
    let v : Vote := {
      covered := 1, allOk := false, faultedAny := decide (3 ≤ sev) && decide (sev ≤ 4), overflow := false
      digestBad := false, quarantineAny := false, xMin := e, xMax := e, nonfiniteAll := 0, nonfiniteWatched := 0
      failChip := ch, failCode := code }
    let s1 := s0.modStep c fun t => { t with voters := keyInsert ch t.voters, merged := t.join v }
    if s1.coordinator c then s1.voteRow c else s1
  else s0

/-- A wait ends: silent children are probed; one that is fenced is substituted for, with RC_FENCED (R368, R397). -/
def State.stepTimeout (s0 : State) (c : Nat) : State :=
  let s := ((s0.ctx c).silent.filter fun ch => s0.fencedChip ch).foldl (fun t ch =>
    t.substituteChild c ch (codeAt Code.rcFenced c)) s0
  let x := s.ctx c
  let l := x.silent.filter fun ch => !s.fencedChip ch
  l.foldl (fun t ch => t.sendRc c ch msgProbe { step := x.step.waitStep, chipA := ch })
    (s.modCtx c fun y => { y with recov := { y.recov with probed := l.foldl (fun q ch => keyInsert ch q) y.recov.probed } })

/-- STEP_TIMEOUT (R368). -/
def execStepTimeout (ctx : Nat) (s : State) : Host.Outcome State Fault Refusal :=
  inRange (ctxOk ctx) (if s.fabRuns then s.stepTimeout ctx else s)

/-- A child's answer; one that still runs on a later timed-out attempt of the step is fenced (R369). -/
def State.recvProbeReply (s : State) (p : Packet) : State :=
  if !s.ctlHere p msgProbeReply then s
  else match s.stepCtx p with
    | none => s
    | some c =>
      let x := s.ctx c
      let m := RcMsg.parse p.data
      if !x.recov.probed.contains p.src ∨ !x.silent.contains p.src ∨ m.step ≠ x.step.waitStep then s
      else
        let waits := s.modCtx c fun y => { y with recov := { y.recov with probed := y.recov.probed.filter (· != p.src) } }
        let w : Where := { ctx := some c, step := some m.step }
        match m.action with
        | 1 =>
          if x.recov.timeouts.any fun e => e.1 == p.src && e.2.1 == m.step && e.2.2 != x.step.attempt then
            let k := codeAt Code.rcNoProgress c
            ((s.report k w).sendFenceReq c p.src k).substituteChild c p.src k
          else
            let k := codeAt Code.rcStepTimeout c
            (s.report k w).substituteChild c p.src k
        | 4 => s.substituteChild c p.src m.code
        | _ => waits

/-- RC_PROBE_REPLY (R369). -/
def execRcProbeReply (pkt : Packet) (s : State) : Host.Outcome State Fault Refusal :=
  .next (s.viaFab (.rcProbeReply pkt) fun t => t.recvProbeReply pkt)

/-- No answer within 1 ms (R369). -/
def State.probeOver (s : State) (c ch : Nat) : State :=
  let x := s.ctx c
  if !x.recov.probed.contains ch ∨ !x.silent.contains ch then s
  else
    let k := codeAt Code.rcChildLost c
    ((s.report k { ctx := some c, step := some x.step.waitStep }).sendFenceReq c ch k).substituteChild c ch k

/-- PROBE_TIMEOUT (R369). -/
def execProbeTimeout (ctx child : Nat) (s : State) : Host.Outcome State Fault Refusal :=
  inRange (ctxOk ctx) (if s.fabRuns then s.probeOver ctx child else s)

/-! ### Members, leader and statuses (R372) -/

/-- Member chips, by the bitmap in the pair area (R360). -/
def State.members (s : State) (c : Nat) : List Nat :=
  match (s.ctx c).pair with
  | none => []
  | some (base, _) =>
    let b := s.peek (.mem c) (base + 0x8000) 1028
    (List.range 8224).filter fun i => bitAt (fieldAt b (i / 8) 1) (i % 8)

def State.liveMembers (s : State) (c : Nat) : List Nat := (s.members c).filter fun m => chipKind (s.chipEntry m) == 1

/-- The lowest member chip of kind 1. -/
def State.leaderOf (s : State) (c : Nat) : Nat := ((s.liveMembers c).head?).getD s.ownChip

/-- Enough free parts remain for a new context with the same descriptor, once this one is gone. -/
def State.rebuildOk (s : State) (c : Nat) : Bool := ((s.freeCtx c).grant (s.ctx c).desc.raw).isSome

/-- RC_STATUS to the leader (R371, R372). -/
def State.sendStatus (s : State) (c : Nat) : State :=
  let x := s.ctx c
  s.sendRc c x.recov.leader msgStatus {
    step := x.step.committed.getD (2 ^ 64 - 1), chipA := s.ownChip, action := x.recov.rstate
    flags := b2n (s.rebuildOk c), attempt := x.step.attempt
    code := if x.st = .faulted then x.faultCode else 0
    value := x.regs.stShardOwn.toNat + x.regs.stShardMir.toNat * 2 ^ 32 }

/-- Recovery starts, or has a new leader: the member's status goes to the leader, and a new leader starts afresh. -/
def State.recovBegin (s0 : State) (c rstate : Nat) : State :=
  let s := s0.touchPair c
  let l := s.leaderOf c
  (s.modCtx c fun x => { x with recov := { x.recov with
    rstate := max x.recov.rstate rstate, leader := l, statuses := [], awaiting := [], ready := [] } }).sendStatus c

/-- FD_FENCE for a member: RC_FENCED is raised without faulting this module's context, which stops as in step 1 of R341,
and its status goes to the leader (R372, R397). Loads that the chip was a source of start again, and slices relayed
through it go on without it (R382). -/
def State.memberFenced (s : State) (c chip : Nat) : State :=
  let x := s.ctx c
  if x.st = .free ∨ x.zeroing ∨ !(s.members c).contains chip then s
  else
    let cut := (x.recov.sources.filter fun e => e.2.1 == chip || e.2.2 == chip).map (·.1)
    let s0 := (s.touchPair c).modCtx c fun y => { y with recov := { y.recov with
      lost := keyInsert chip y.recov.lost, statuses := y.recov.statuses.filter fun m => m.chip != chip
      awaiting := y.recov.awaiting.filter fun t => t != chip && !cut.contains t
      ready := y.recov.ready.filter (· != chip)
      reload := (cut.filter fun t => x.recov.awaiting.contains t && t != chip).foldl (fun l t => keyInsert t l)
        (y.recov.reload.filter (· != chip))
      sources := y.recov.sources.filter fun e => e.1 != chip && e.2.1 != chip && e.2.2 != chip } }
    let s1 := (s0.report (codeAt Code.rcFenced c) { ctx := some c, step := some x.step.current }).relayLost c chip
    if x.recov.rstate = 0 ∨ x.recov.rstate = 6 then
      let s2 := (x.cores.foldl (fun t p => t.modCore p Core.stop) s1).modStep c fun st => { st with
        decision := none, discardFrom := some st.current }
      (s2.modCtx c fun y => { y with recov := { y.recov with rstate := 0 } }).recovBegin c 1
    else if x.recov.leader ≠ s1.leaderOf c then s1.recovBegin c x.recov.rstate
    else s1

/-- ST_GO HOLD; a PAUSE for reason 1 begins recovery before its step, which is R (R341, R372). -/
def execStGoHold (pkt : Packet) (s : State) : Host.Outcome State Fault Refusal :=
  .next (s.viaFab (.stGoHold pkt) fun t => t.withGo pkt 2 fun c d u =>
    let v := u.hold c d
    if d.kind = 3 ∧ d.reason = 1 ∧ (v.ctx c).pair.isSome ∧ (v.ctx c).st ≠ .free then
      (v.modCtx c fun x => { x with recov := { x.recov with stepR := some d.step } }).recovBegin c 2
    else v)

/-! ### The leader (R373, R374, R379, R380, R382) -/

/-- The leader floods an order of the job; it takes it itself as every module does. -/
def State.order (s : State) (c : Nat) (m : RcMsg) : State :=
  let (n, s1) := s.takeSeq msgOrder
  let x := s1.ctx c
  s1.flood (s1.packet 9 0 0xFF 0 0 (fld x.regs.lkJob 0 16) (pktFlags 0 x.desc.secure none) none 0 0 msgOrder (m.bytes n))

/-- A member that holds a shard as its own, or failing that as its mirror (R382). -/
def Recov.holder (r : Recov) (shard : Word) (but : Nat) : Option Nat :=
  let own := r.statuses.find? fun m => m.chip != but && m.shardOwn == shard
  let mir := r.statuses.find? fun m => m.chip != but && m.shardMir == shard
  (own.orElse fun _ => mir).map (·.chip)

/-- Members whose mirrored shard no reporting member owns: the partners of the lost chips. -/
def Recov.orphans (r : Recov) : List Member :=
  r.statuses.filter fun m => m.shardMir != 0 && !(r.statuses.any fun q => q.shardOwn == m.shardMir)

/-- The shard ids of a target, own and mirror: from any status it sent in this recovery; for the leader's own partner
from its creation record; else from the only member whose mirror shard nobody owns, if only this chip never reported.
Where several did not, no message says whose shards are whose: a free value (R359, R371, DESIGN CHOICE, log 90). -/
def State.shardsOf (s : State) (c target : Nat) : Option (Word × Word) :=
  let x := s.ctx c
  let r := x.recov
  match r.known.find? (fun m => m.chip == target) with
  | some m => some (m.shardOwn, m.shardMir)
  | none =>
    if x.pair.any fun e => e.2 == target then
      let y := recordCtx (s.recordOf c target ⟨⟨[], [], [], []⟩, [], [], [], [], 0, 0, 0, [], [], [], []⟩)
      some (y.regs.stShardOwn, y.regs.stShardMir)
    else
      match (s.members c).filter (fun k => !(r.known.any fun q => q.chip == k)), r.orphans with
      | [_], [m] => some (m.shardMir, m.shardOwn)
      | _, _ => some (Config.shardsOf target)

/-- The sources of a target's own shard and mirror shard: its partner for both, else a member that holds the shard as its
own, or failing that as its mirror (R376, R382). -/
def State.sourcesOf (s : State) (c target : Nat) : Option (Nat × Nat) :=
  let r := (s.ctx c).recov
  match s.shardsOf c target with
  | none => none
  | some (own, mir) =>
    match r.statuses.find? fun m => m.chip != target && m.shardOwn == mir && m.shardMir == own with
    | some m => some (m.chip, m.chip)
    | none => match r.holder own target, r.holder mir target with
      | some a, some b => some (a, b)
      | _, _ => none

/-- The job is held for its host. -/
def State.orderHold (s : State) (c code : Nat) : State := s.order c { action := 6, code := codeAt code c }

/-- LOAD for a target, or HOLD when no member holds a shard (R374, R382). -/
def State.orderLoad (s : State) (c target : Nat) : Bool × State :=
  match s.sourcesOf c target with
  | none => (false, s.orderHold c Code.rcCkptRequired)
  | some (a, b) =>
    (true, (s.order c { action := 4, chipA := target, chipB := a, value := b }).modCtx c fun x => { x with
      recov := { x.recov with
        awaiting := keyInsert target x.recov.awaiting, reload := x.recov.reload.filter (· != target)
        sources := (x.recov.sources.filter fun e => e.1 != target) ++ [(target, a, b)] } })

/-- The order for a lost chip, with the next stake of its group that has not been ordered; false when the job is held
(R374, R375). -/
def State.orderLost (s : State) (c chip : Nat) : Bool × State :=
  let policy := fld (s.ctx c).regs.stRecov 0 2
  let used := (s.ctx c).recov.used
  let g := chipGroup (s.chipEntry chip)
  let stake := (List.range 32).findSome? fun t => match s.chipAt (g * 32 + t) with
    | some k => if chipKind (s.chipEntry k) = 2 ∧ !used.contains k then some k else none
    | none => none
  if policy = 1 then (false, s.orderHold c Code.rcShrink)
  else match stake with
    | none => (false, s.orderHold c (if policy = 0 then Code.rcNoStake else Code.rcShrink))
    | some k =>
      ((s.modCtx c fun x => { x with recov := { x.recov with used := k :: x.recov.used } }).order c
        { action := 2, chipA := chip, chipB := k }).orderLoad c chip

/-- What the leader owes a chip: replacement of a lost one, rebuilding of a faulted one, its fence where it cannot be
rebuilt, or a load that starts again (R374, R382). -/
inductive Due where
  | lost | rebuild | fence | load
  deriving DecidableEq, Repr

/-- Orders in ascending order of chips, until one holds the job (R374). -/
def State.orderAll (s : State) (c : Nat) : List (Nat × Due) → State
  | [] => s
  | (chip, due) :: rest =>
    match due with
    | .lost => let (ok, t) := s.orderLost c chip; if ok then t.orderAll c rest else t
    | .rebuild =>
      let (ok, t) := (s.order c { action := 3, chipA := chip }).orderLoad c chip
      if ok then t.orderAll c rest else t
    | .load => let (ok, t) := s.orderLoad c chip; if ok then t.orderAll c rest else t
    | .fence => (s.sendFenceReq c chip (codeAt Code.rcFenced 0xFF)).orderAll c rest

/-- Chips that are owed an order. -/
def State.toOrder (s : State) (c : Nat) : List (Nat × Due) :=
  let r := (s.ctx c).recov
  (s.members c).filterMap fun m =>
    if r.awaiting.contains m ∨ r.ready.contains m then none
    else if s.fencedChip m then some (m, .lost)
    else if r.reload.contains m then some (m, .load)
    else match r.statuses.find? (fun q => q.chip == m) with
      | some q => if q.code ≠ 0 then some (m, if q.rebuildOk then .rebuild else .fence) else none
      | none => none

/-- The leader acts once it has a status from every unfenced member, or its targets are ready (R373, R374, R379). -/
def State.leaderActs (s : State) (c : Nat) : State :=
  let x := s.ctx c
  let r := x.recov
  let done := r.awaiting ++ r.ready ++ r.reload
  let all := (s.liveMembers c).all fun m => done.contains m || r.statuses.any fun q => q.chip == m
  if !all then s
  else if r.statuses.any fun q => q.rstate == 1 then
    let steps := r.statuses.filterMap fun q => if q.lastCommitted = 2 ^ 64 - 1 then none else some (q.lastCommitted + 1)
    let n := match steps.max? with
      | some k => k
      | none => x.step.first.getD 0
    (s.order c { action := 1, step := n }).modCtx c fun y => { y with recov := { y.recov with
      statuses := [], stepR := some n } }
  else
    match s.toOrder c with
    | [] =>
      if r.awaiting.isEmpty then
        let top := ((r.statuses.map (·.attempt)).max?).getD 0
        s.order c { action := 5, step := r.stepR.getD x.step.current, attempt := top + 1 }
      else s
    | l => s.orderAll c l

/-- A module that leads a recovery reads the member bitmap and acts (R221, R372). -/
def State.leaderCheck (s : State) (c : Nat) : State :=
  let r := (s.ctx c).recov
  if r.rstate = 0 ∨ r.rstate = 6 ∨ r.leader ≠ s.ownChip then s else (s.touchPair c).leaderActs c

/-- A member's status reaches the leader; one that loads is a target that a leader before it named (R372). -/
def State.recvStatus (s : State) (p : Packet) : State :=
  if !s.ctlHere p msgStatus then s
  else match s.jobCtx p.jobTag.toNat with
    | none => s
    | some c =>
      let m := RcMsg.parse p.data
      let e : Member := {
        chip := m.chipA, lastCommitted := m.step, rstate := m.action, rebuildOk := bitAt m.flags 0, code := m.code
        shardOwn := BitVec.ofNat 32 m.value, shardMir := BitVec.ofNat 32 (m.value / 2 ^ 32), attempt := m.attempt }
      (s.modCtx c fun x => { x with recov := { x.recov with
        statuses := (x.recov.statuses.filter fun q => q.chip != e.chip) ++ [e]
        known := (x.recov.known.filter fun q => q.chip != e.chip) ++ [e]
        awaiting := if e.rstate = 3 then keyInsert e.chip x.recov.awaiting else x.recov.awaiting } }).leaderCheck c

/-- RC_STATUS (R372–R374). -/
def execRcStatus (pkt : Packet) (s : State) : Host.Outcome State Fault Refusal :=
  .next (s.viaFab (.rcStatus pkt) fun t => t.recvStatus pkt)

/-- A fenced child of a context that is not in recovery is voted for in its place, with RC_FENCED (R369, R397). -/
def State.childFenced (s : State) (c chip : Nat) : State :=
  if (s.ctx c).recov.rstate = 0 ∧ (s.ctx c).silent.contains chip then s.substituteChild c chip (codeAt Code.rcFenced c)
  else s

/-- FD_FENCE: the chip is fenced, its suspicions go, and its jobs recover (R364, R365, R372). -/
def State.recvFence (s : State) (p : Packet) : State :=
  if !s.ctlHere p msgFence then s
  else match s.firstOf p with
    | none => s
    | some s0 =>
      let chip := (RcMsg.parse p.data).chipA
      let w := s0.chipEntry chip
      let s1 := s0.fenceEntry chip
      let s2 : State := if chipGroup w ≠ s0.ownGroup then s1 else { s1 with fab := { s1.fab with
        suspicions := s1.fab.suspicions.filter fun k => k.2 != chipSlot w } }
      ctxNums.foldl (fun t c => ((t.memberFenced c chip).childFenced c chip).leaderCheck c) s2

/-- FD_FENCE (R365, R372). -/
def execFdFence (pkt : Packet) (s : State) : Host.Outcome State Fault Refusal :=
  .next (s.viaFab (.fdFence pkt) fun t => t.recvFence pkt)

/-! ### Orders (R373–R381) -/

/-- An order of one action, acted on once for each sender and seq; the message and its context, if the job has one
here. -/
def State.withOrder (s : State) (p : Packet) (action : Nat) (f : RcMsg → Option Nat → State → State) : State :=
  let m := RcMsg.parse p.data
  if !s.ctlHere p msgOrder ∨ m.action ≠ action then s
  else match s.firstOf p with
    | none => s
    | some t => f m (t.jobCtx p.jobTag.toNat) t

/-- ROLLBACK to R: a held step R − 1 commits, R and later steps are rolled back, and the context is PAUSED (R373). -/
def State.orderRollback (s : State) (c r : Nat) : State :=
  let x := s.ctx c
  let s1 := if x.step.current + 1 = r ∧ x.step.declared.isSome ∧ !x.gone then s.commitStep c x.step.current else s
  let s2 := if x.gone then s1 else s1.rollback c r false
  let s3 := s2.modCtx c fun y => { y with
    recov := { y.recov with rstate := 2, stepR := some r }
    step := { y.step.newAttempt with
      decision := none, discardFrom := some r, rerunDue := true, gateClosed := true, rolledSelf := false } }
  let s4 := if (s3.ctx c).st = .running then s3.enterPaused c (codeAt Code.rcFenced c) else s3
  s4.sendStatus c

/-- RC_ORDER ROLLBACK (R373). -/
def execRcOrderRollback (pkt : Packet) (s : State) : Host.Outcome State Fault Refusal :=
  .next (s.viaFab (.rcOrderRollback pkt) fun t => t.withOrder pkt 1 fun m c u => match c with
    | some k => if (u.ctx k).recov.rstate = 0 then u else u.orderRollback k m.step
    | none => u)

/-- Adoption rewrites two chip table entries and ends the lost chip's fence, or is refused to its sender under the
order's job tag (R310, R365, R370, R375). -/
def State.adopt (s : State) (p : Packet) (lost stake : Nat) : State :=
  let a := s.chipEntry lost
  let b := s.chipEntry stake
  if (chipKind a = 1 ∨ chipKind a = 3) ∧ chipKind b = 2 ∧ chipGroup a = chipGroup b then
    let t := Tbl.set 0 s.fab.chipTable lost (chipWord 1 (chipGroup b) (chipSlot b) 0)
    ({ s with fab := { s.fab with chipTable := Tbl.set 0 t stake 0 } } : State).markFenced
      (chipGroup a * 32 + chipSlot a) false
  else
    (s.report (codeAt Code.tpAdoptRefused 0xFF)).replyRc p msgReady
      { chipA := lost, action := 2, code := codeAt Code.tpAdoptRefused 0xFF }

/-- RC_ORDER ADOPT (R310, R375). -/
def execRcOrderAdopt (pkt : Packet) (s : State) : Host.Outcome State Fault Refusal :=
  .next (s.viaFab (.rcOrderAdopt pkt) fun t => t.withOrder pkt 2 fun m _ u => u.adopt pkt m.chipA m.chipB)

/-- World-table writes wait for SEC, and a load's kernels for HLT: such an order is held while either restarts (R441). -/
def State.whenFree (s : State) (i : Instr) (f : State → State) : State :=
  if s.err.restarting.contains .sec || s.err.restarting.contains .hlt then
    { s with err := { s.err with heldOrders := s.err.heldOrders ++ [i] } }
  else f s

/-- REBUILD on the faulted module: its context is destroyed and created anew from the record (R374). -/
def State.rebuild (s : State) (c : Nat) (creation : List Byte) : State :=
  let r := (s.ctx c).recov
  let s2 := (s.destroyCtx c).clearSlot c
  match s2.createFrom creation with
  | some (k, t) => t.modCtx k fun y => { y with recov := { r with rstate := 3 }, step := { y.step with discardFrom := some 0 } }
  | none => s2

/-- RC_ORDER REBUILD (R374). -/
def execRcOrderRebuild (pkt : Packet) (creation : List Byte) (s : State) : Host.Outcome State Fault Refusal :=
  .next (s.viaFab (.rcOrderRebuild pkt creation) fun t => t.whenFree (.rcOrderRebuild pkt creation) fun v =>
    v.withOrder pkt 3 fun m c u => match c with
    | some k => if m.chipA = u.ownChip then u.rebuild k creation else u
    | none => u)

/-! ### LOAD, RESUME and HOLD -/

/-- RC_ORDER LOAD (R376, R377, R384). -/
def execRcOrderLoad (pkt : Packet) (load : LoadData) (s : State) : Host.Outcome State Fault Refusal :=
  inRange (kakInRange load.kernels) (s.viaFab (.rcOrderLoad pkt load) fun t => t.whenFree (.rcOrderLoad pkt load) fun v =>
    v.withOrder pkt 4 fun m c u => u.orderLoad' pkt m c load)

/-- RESUME: the member reruns R; a target's first attempt reads its input from the source (R378, R379). -/
def State.orderResume (s : State) (c attempt : Nat) : State :=
  let x := s.ctx c
  if x.st ≠ .paused ∨ x.recov.rstate = 0 then s
  else
    let s1 := (s.setCtx c { x with st := .running, recov := Recov.reset }).rerunStep c attempt
    if x.recov.loaded then s1.modStep c fun st => { st with rerun := false } else s1

/-- RC_ORDER RESUME (R379). -/
def execRcOrderResume (pkt : Packet) (s : State) : Host.Outcome State Fault Refusal :=
  .next (s.viaFab (.rcOrderResume pkt) fun t => t.withOrder pkt 5 fun m c u => match c with
    | some k => u.orderResume k m.attempt
    | none => u)

/-- dp_part of the lost chip, from its creation record, which the device reads: this module's pair area holds it for
the partner; the order's data bring it to every other member (R361, R380, R390). -/
def State.shrinkPart (s : State) (c : Nat) (creation : List Byte) : Nat :=
  let x := s.ctx c
  let b := match x.pair with
    | some (base, chip) => if x.recov.lost.contains chip then s.peek (.mem c) base 0x8000 else creation
    | none => creation
  fld (recordCtx b).regs.stRecov 24 8

/-- HOLD: the member stays PAUSED for its host (R374, R380). -/
def State.orderHoldHere (s : State) (c : Nat) (code : Word) (creation : List Byte) : State :=
  let s0 := if code.toNat % 4096 = 8 then s.touchPair c else s
  let s1 := s0.report (codeAt (code.toNat - code.toNat / 4096 % 256 * 4096) c) { ctx := some c }
  let part := if code.toNat % 4096 = 8 then s1.shrinkPart c creation else 0
  s1.modCtx c fun y => { y with recov := { y.recov with rstate := 6, shrinkPart := part } }

/-- RC_ORDER HOLD (R380). -/
def execRcOrderHold (order : HoldOrder) (s : State) : Host.Outcome State Fault Refusal :=
  .next (s.viaFab (.rcOrderHold order) fun t => t.withOrder order.pkt 6 fun m c u => match c with
    | some k => if (u.ctx k).recov.rstate = 0 then u else u.orderHoldHere k m.code order.creation
    | none => u)

/-- A stake at a position: any fenced entry there becomes unassigned (R365, R367, R381). -/
def State.stakeAt (s : State) (chip pos : Nat) : State :=
  let keep (e : Nat × Word) : Bool := !(chipKind e.2 == 3 && chipGroup e.2 * 32 + chipSlot e.2 == pos)
  let t := s.fab.chipTable.filter keep
  let s1 : State := { s with fab := { s.fab with
    chipTable := Tbl.set 0 t chip (chipWord 2 (pos / 32) (pos % 32) 0)
    selfFenced := s.fab.selfFenced && pos != s.position
    mySuspects := if pos / 32 = s.ownGroup then s.fab.mySuspects.filter (· != pos % 32) else s.fab.mySuspects
    suspicions := if pos / 32 = s.ownGroup then s.fab.suspicions.filter (fun k => k.1 != pos % 32) else s.fab.suspicions
    requested := if pos / 32 = s.ownGroup then s.fab.requested.filter (fun k => k.1 != pos % 32) else s.fab.requested
    causes := if pos / 32 = s.ownGroup then Tbl.set 0 s.fab.causes (pos % 32) 0 else s.fab.causes } }
  s1.markFenced pos false

/-- STAKE_ADD arrives; the module at the position takes it under the number it names. -/
def State.recvStakeAdd (s : State) (p : Packet) : State :=
  let m := RcMsg.parse p.data
  let here := s.ctlHere p msgOrder || (p.op.toNat == 9 && p.arg.toNat == msgOrder && m.value == s.position && p.dst == m.chipB)
  if !here ∨ m.action ≠ 7 then s
  else match s.firstOf p with
    | none => s
    | some t => t.stakeAt m.chipB m.value

/-- RC_ORDER STAKE_ADD (R381). -/
def execRcOrderStakeAdd (pkt : Packet) (s : State) : Host.Outcome State Fault Refusal :=
  .next (s.viaFab (.rcOrderStakeAdd pkt) fun t => t.recvStakeAdd pkt)

/-- The host command STAKE_ADD (R381, R492): checked, applied here, and flooded. -/
def State.stakeAddCmd (s : State) (c : Nat) (h : HostCmd) : State :=
  let pos := fieldAt h.payload 0 2
  let chip := fieldAt h.payload 2 2
  let taken : Bool := match s.chipAt pos with
    | some k => chipKind (s.chipEntry k) == 1 || chipKind (s.chipEntry k) == 2
    | none => false
  if !flag (s.ctx c).desc.flags 0 then s.finish h 1
  else if !allZero (slice h.payload 4 4) ∨ 8224 ≤ pos ∨ 8224 ≤ chip ∨ chipKind (s.chipEntry chip) ≠ 0 ∨ taken = true then
    s.finish h 3
  else ((s.stakeAt chip pos).order c { action := 7, chipB := chip, value := pos }).finish h 0

/-- STAKE_ADD (R381, R492). -/
def execStakeAdd (ctx : Nat) (s : State) : Host.Outcome State Fault Refusal :=
  inRange (ctxOk ctx) (s.ctxCmd ctx 0x42 fun h t => t.stakeAddCmd ctx h)

/-! ### RC_READY (R375, R379, R382) -/

/-- A target reports to the leader. -/
def State.recvReady (s : State) (p : Packet) : State :=
  if !s.ctlHere p msgReady then s
  else match s.jobCtx p.jobTag.toNat with
    | none => s
    | some c =>
      let m := RcMsg.parse p.data
      let r := (s.ctx c).recov
      if !r.awaiting.contains m.chipA then s
      else
        let s1 := s.modCtx c fun x => { x with recov := { x.recov with
          awaiting := x.recov.awaiting.filter (· != m.chipA)
          ready := if m.action = 1 then keyInsert m.chipA x.recov.ready else x.recov.ready } }
        if m.action = 1 then s1.leaderCheck c
        else if unitOf m.code = 0x0E then (s1.orderLost c m.chipA).2
        else s1.sendFenceReq c m.chipA m.code

/-- RC_READY (R375, R379, R382). -/
def execRcReady (pkt : Packet) (s : State) : Host.Outcome State Fault Refusal :=
  .next (s.viaFab (.rcReady pkt) fun t => t.recvReady pkt)

end Sys2Proof.Machine
end

