-- ==== Sys2Proof/Machine/Reset.lean ====
section
/-! DEFINITION. Fatal errors and resets (R436–R440, R548), host loss (R438, R499–R501), suspects (R435), watchdogs and
hangs (R433, R434), monitors (R431, R432), and one tick of the management clock. -/

namespace Sys2Proof.Machine

/-! ### The kept code (R439) -/

/-- The first cause after the last reset is kept. -/
def State.keep (s : State) (code : Word) : State :=
  if s.err.causeWritten then s else { s with err := { s.err with resetCause := code, causeWritten := true } }

/-- KEPT_CODE_COPY: SEC copies the register to flash (R439). -/
def execKeptCodeCopy (s : State) : Host.Outcome State Fault Refusal :=
  .next (if s.err.resetCause = 0 ∨ s.err.restarting.contains .sec ∨ !s.board.powered then s
    else { s with boot := { s.boot with keptCode := some s.err.resetCause } })

/-! ### Resets (R437, R438) -/

/-- What cold reset leaves: fuses (a due lifecycle change taken), flash, the kept code, the start's attempt count, the
pins, and what has left the module. -/
def State.coldCore (s : State) (kind : Nat) : State :=
  let b := s.boot
  { State.reset with
    pending := s.pending, out := s.out, freeCount := s.freeCount
    fuses := { s.fuses with lifecycle := b.nextLifecycle.getD s.fuses.lifecycle }
    err := { Errors.reset with
      resetCause := s.err.resetCause, causeWritten := s.err.causeWritten, resetKind := kind
      fromFlash := s.err.fromFlash && !s.err.causeWritten }
    boot := { Boot.reset with
      attempt := b.attempt, flash := b.flash, erased := b.erased, keptCode := b.keptCode, repairs := b.repairs
      journal := b.journal, lmsNext := b.lmsNext, startDue := s.board.railsGood }
    board := { s.board with tap := .idcode } }

/-- A cold reset; the state sensor's change is sent (R552). A rail that is not up keeps the module in reset (R554). -/
def State.coldReset (s : State) (kind : Nat) : State := (s.coldCore kind).tell s.stat

/-- Warm reset, steps 1 and 2: every context is destroyed, each job's step messages are answered with ST_CTX_GONE, and
BAR0 writes are dropped until the end (R440). -/
def State.warmStart (s : State) : State :=
  let s1 : State := { s with err := { s.err with warmReset := true, fatalCode := none }, sch := [] }
  let s2 := ctxNums.foldl (fun t c => if (t.ctx c).st = .free ∨ (t.ctx c).zeroing then t else t.destroyCtx c) (s1.tell s.stat)
  ctxNums.foldl (fun t c => if (t.ctx c).st != .free && (t.ctx c).stEn then
    t.modStep c fun st => { st with failCode := codeAt Code.stCtxGone c } else t) s2

/-- A fatal code that a warm reset does not reach: one of SEC, FAB or a link core (R436). -/
def needsCold (code : Word) : Bool := unitOf code == 0x13 && (locOf code == 0 || locOf code == 2) || unitOf code == 0x0D

/-- Every sensor reads below 95 °C (R464). -/
def State.cool (s : State) : Bool :=
  ((List.range 16).all fun c => decide ((s.cluster c).temp < 95 * 16)) &&
    (List.range 8).all fun i => decide (Tbl.get 0 s.pw.stackTemps i < 95 * 16)

/-- The reset that a fatal report orders starts; after a thermal trip only once every sensor is cool (R436, R464). -/
def State.fatalReset (s : State) : State :=
  match s.err.fatalCode with
  | none => s
  | some code =>
    if s.err.fatalAction = 0 ∨ (s.pw.tripped ∧ !s.cool) then s
    else if s.err.fatalAction = 2 ∨ needsCold code then s.coldReset 1
    else s.warmStart

/-- A severity-4 report: kept code, ALERT, both host ports, every context FAULTED, then fatal_action; a further one
before the reset is only logged (R436). -/
def State.fatal (s : State) (code : Word) (w : Where := {}) : State :=
  let s1 := s.report code w
  if s.err.fatalCode.isSome then s1
  else
    let s2 : State := { s1.keep code with board := { s1.board with alert := true } }
    let s3 := ctxNums.foldl (fun t c => t.faultCtx c code) s2
    let s4 : State := { s3 with err := { s3.err with fatalCode := some code, fatalHold := s3.err.fatalAction == 0 } }
    (s4.tell s.stat).fatalReset

/-- FATAL_REPORT: only a code that a cause table gives severity 4 is one (R424–R426, R436). -/
def execFatalReport (code : Word) (s : State) : Host.Outcome State Fault Refusal :=
  .next (if isFatal code then s.fatal code else s)

/-- A warm reset is requested by port A, port B or the sideband (R437, R439, R452). -/
def State.requestWarm (s : State) (by' : Nat) : State :=
  ((s.report (codeAt Code.elResetWarm by')).keep (codeAt Code.elResetWarm by')).warmStart

/-- A cold reset is requested. -/
def State.requestCold (s : State) (by' : Nat) : State :=
  ((s.report (codeAt Code.elResetCold by')).keep (codeAt Code.elResetCold by')).coldReset 1

/-- RESET_WARM: no record is written (R440, R489). -/
def execResetWarm (s : State) : Host.Outcome State Fault Refusal :=
  .next (s.moduleCmd 0x60 fun h t => t.requestWarm h.port)

/-- What a port keeps over a warm reset: its PCIe state and its MS_ counters (R438, R440, R486, R494). -/
def Port.warm (p : Port) : Port := { Port.reset with msix := p.msix, linkUp := p.linkUp, latBins := p.latBins }

/-! ### Operating points and rails (R454, R456) -/

/-- Frequency of a step in MHz, and its nominal voltage in mV (R454). -/
def stepMHz (n : Nat) : Nat := 400 + 36 * n
def stepNominal (n : Nat) : Nat := 620 + 12 * n

/-- The regulator interface's clamp of a voltage command, in mV (R456). -/
def clampVolt (v : Nat) : Nat := min v 840

/-- The voltage of a step: nominal in uniform mode, else with the part's trim, within 40 mV of nominal (R454, R467). -/
def Fuses.stepVolt (f : Fuses) (uni : Bool) (n : Nat) : Nat :=
  clampVolt (if uni then stepNominal n else ((stepNominal n : Int) + max (-40) (min 40 (f.trim.getD n 0))).toNat)

def State.stepVolt (s : State) (n : Nat) : Nat := s.fuses.stepVolt s.pw.uniformActive n

/-- A change to every cluster. -/
def Power.eachCluster (p : Power) (f : Cluster → Cluster) : Power :=
  let put (t : Tbl Cluster) (c : Nat) : Tbl Cluster := Tbl.set Cluster.reset t c (f (Tbl.get Cluster.reset t c))
  { p with clusters := (List.range 16).foldl put p.clusters }

/-- A cluster that no change waits in and no ramp runs in, at step 0 and a voltage. -/
def Cluster.settle (k : Cluster) (v : Nat) : Cluster :=
  { k with step := 0, pending := none, due := false, rampTo := none, stretched := false, volt := v }

/-- Every cluster rail is up at step 0 (R469, R513). -/
def State.railsUp (s : State) : State :=
  { s with pw := { s.pw.eachCluster fun k => k.settle (s.stepVolt 0) with clustersOn := true } }

/-- Every cluster rail is off. -/
def State.railsOff (s : State) : State :=
  { s with pw := { s.pw.eachCluster fun k => k.settle 0 with clustersOn := false } }

/-- The end of a warm reset: zeroing done, clusters, die network, hubs, SCH, PWC and HLT restarted (R440). -/
def State.warmDone (s : State) : State :=
  if !s.err.warmReset then s
  else
    let s1 := ctxNums.foldl (fun t c => if (t.ctx c).zeroing then t.freeCtx c else t) s
    let s2 : State := { s1 with
      hub := [], fences := [], snapWaiting := [], kakCmd := none, mapoutCmds := [], resumeWaits := []
      ports := [0, 1].foldl (fun t i => Tbl.set Port.reset t i (s1.port i).warm) []
      pw := { Power.reset with
        clusters := s1.pw.clusters.filterMap fun (k, c) =>
          let d := { Cluster.reset with temp := c.temp, lidTemp := c.lidTemp, droops := c.droops, lidErr := c.lidErr }
          if d = Cluster.reset then none else some (k, d)
        idleEnergy := s1.pw.idleEnergy, idleEnergyHi := s1.pw.idleEnergyHi, hotStacks := s1.pw.hotStacks, stackTemps := s1.pw.stackTemps, boardCap := s1.pw.boardCap }
      err := { s1.err with
        warmReset := false, fatalHold := false, fatalCode := none, causeWritten := false, resetKind := 2
        fromFlash := false, suspects := none, wdWaited := [], heldWrites := [], heldOrders := []
        restarting := s1.err.restarting.filter fun m => m == .sec || m == .fab }
      board := { s1.board with alert := s1.board.leakWet } }
    s2.railsUp.tell s.stat

/-- WARM_RESET_DONE (R440). -/
def execWarmResetDone (s : State) : Host.Outcome State Fault Refusal := .next s.warmDone

/-! ### Host loss (R438, R499–R501) -/

/-- A context is to pause for a host's loss: at its next step boundary, or at once without a STEP. A pause of the memory
service, pending or in force, becomes this one (R500). -/
def State.lossPause (s : State) (c : Nat) (code : Word) : State :=
  let x := s.ctx c
  let pend (st : StepSt) : Word := match st.pausePending with
    | some k => if st.pausedByMemory then code else k
    | none => code
  if x.st = .paused ∧ x.step.pausedByMemory then (s.modStep c fun st => { st with pausedByMemory := false }).event c 2 code
  else if x.st ≠ .running then s
  else if x.noStep then s.enterPaused c code
  else s.modStep c fun st => { st with pausePending := some (pend st), pausedByMemory := false }

/-- A record that waits for space is a NOTIFY or event record of a context (R493, R495). -/
def ownRecord (c : Nat) (e : List Byte × Nat × Bool) : Bool := fieldAt e.1 0x0C 1 != 0 && fieldAt e.1 0x0D 1 == c

/-- Revoke every window of a context (R497). -/
def Ctx.revokeAll (x : Ctx) : Ctx :=
  { x with windows := x.windows.map fun (k, w) => (k, w.map fun v => { v with revoked := true }) }

/-- Ownership moves to port B: windows are revoked, and the context's records that still wait for A's buffer follow
HANDED_OVER into B's (R493, R497, R501). -/
def State.handOver (s : State) (c : Nat) : State :=
  let code := codeAt Code.hxHandover 0
  let held := (s.port 0).waiting.filter (ownRecord c)
  let s1 := ((s.report code { ctx := some c }).modCtx c fun x =>
    { x.revokeAll with owner := 1, handedOver := true, handoverDue := false }).event c 4 code
  held.foldl (fun t e => t.postRecord 1 e.1 e.2.2)
    (s1.modPort 0 fun p => { p with waiting := p.waiting.filter fun e => !ownRecord c e })

/-- A command for the context is in progress (R29, R501). -/
def State.cmdRuns (s : State) (c : Nat) : Bool :=
  (s.ctx c).busy.isSome || (s.ctx c).ck.cmd.isSome || s.resumeWaits.any fun e => e.2.1 == c

/-- A context's policy at the loss of its port's host (R500). -/
def State.lossPolicy (s : State) (c port : Nat) : State :=
  let x := s.ctx c
  let code := codeAt Code.hxHostLost port
  match x.desc.lossPolicy with
  | 0 => s
  | 2 =>
    if port = 0 ∧ (s.port 1).selected ≠ 0 ∧ !(s.port 1).hostLost then
      if s.cmdRuns c then s.modCtx c fun y => { y with handoverDue := true } else s.handOver c
    else s.lossPause c code
  | _ => s.lossPause c code

/-- A port's posts that have not started are discarded (R487, R498, R499). -/
def State.discardPosts (s : State) (port : Nat) : State :=
  let p := s.port port
  let s1 : State := { s with sch := s.sch.filter fun h => h.port != port }
  if p.queue.isEmpty ∧ !s.sch.any fun h => h.port == port then s1
  else s1.setPort port { p with queue := [], discarded := true, irqStatus := p.irqStatus ||| at32 3 1 }

/-- A port's host is lost: windows revoked, posts not started discarded, policies applied (R499). -/
def State.hostLoss (s : State) (port : Nat) : State :=
  let s1 := (s.modPort port fun p => { p with hostLost := true }).report (codeAt Code.hxHostLost port)
  let mine := ctxNums.filter fun c => (s1.ctx c).st != .free && (s1.ctx c).owner == port
  let s2 := mine.foldl (fun t c => t.modCtx c Ctx.revokeAll) (s1.discardPosts port)
  mine.foldl (fun t c => t.lossPolicy c port) s2

/-- HOST_BEAT_TIMEOUT (R499). -/
def execHostBeatTimeout (port : Nat) (s : State) : Host.Outcome State Fault Refusal :=
  let p := s.port port
  inRange (decide (port < 2)) (if !s.schRuns || fld p.hostCfg 0 16 == 0 || p.hostLost then s else s.hostLoss port)

/-- A port reset clears the port's PCIe state and its selection registers (R438). -/
def Port.hotReset (p : Port) : Port :=
  { p with suCtrSel := 0, granSel := 0, retireSel := 0, latSel := 0x500, tblSel := 0, logSel := 0,
           bar2Cfg := 0, msix := [], linkUp := false }

/-- A port is reset, by its host or because its link is lost, and its host counts as lost (R437, R438, R499). -/
def State.resetPort (s : State) (port : Nat) : State := (s.modPort port Port.hotReset).hostLoss port

/-- PERSTx_L is asserted: the port's link stays down until it is deasserted (R545, R554). -/
def State.assertPerst (s : State) (port : Nat) : State :=
  { s with board := { s.board with perstHigh := s.board.perstHigh.filter (· != port) } }

/-- HOST_LINK_DOWN (R437, R499). -/
def execHostLinkDown (port : Nat) (s : State) : Host.Outcome State Fault Refusal :=
  inRange (decide (port < 2)) (s.resetPort port)

/-- PORT_RESET: a PCIe hot reset, after which the link trains again, or PERSTx_L asserted (R437, R438, R545). -/
def execPortReset (r : PortResetBy) (s : State) : Host.Outcome State Fault Refusal :=
  let t := s.resetPort r.port
  inRange (decide (r.port < 2)) (if r.perst then t.assertPerst r.port
    else t.modPort r.port fun p => { p with linkUp := (s.port r.port).linkUp })

/-- IRQ_HOLDOFF_EXPIRY (R498). -/
def execIrqHoldoffExpiry (port vec : Nat) (s : State) : Host.Outcome State Fault Refusal :=
  let p := s.port port
  inRange (decide (port < 2) && decide (1 ≤ vec) && decide (vec ≤ 9))
    (if Tbl.get 0 p.irqPending vec = 0 then s
     else (s.setPort port { p with irqPending := Tbl.set 0 p.irqPending vec 0 }).emit (.msix port vec))

/-! ### Suspects (R435) -/

/-- Location of a shared buffer (R452). -/
def bufLoc : SharedBuf → Nat
  | .router c => c
  | .clusterHub c => 0x40 + c
  | .dieHub => 0xC0

/-- A suspect has left, or its step has committed. -/
def State.suspectDone (s : State) (e : Nat × Nat) : Bool :=
  let x := s.ctx e.1
  !(x.st == .running || x.st == .paused) || (x.st == .paused && x.step.rerunDue) || (match x.step.committed with
    | some k => decide (e.2 ≤ k)
    | none => false)

/-- Gates of members other than the suspect that reruns are held; a gate let go may open. -/
def State.setGates (s : State) (members : List Nat) (head : Option Nat) (all : Bool) : State :=
  members.foldl (fun t c =>
    let h := !all && head != some c
    (t.modStep c fun st => { st with gateHeld := h }) |> fun u => if h then u else u.openGate c) s

/-- A resolution begins: contexts without the step protocol are FAULTED, and the others' oldest unvoted step takes the
code EL_SUSPECT. -/
def State.startResolve (s : State) (buf : SharedBuf) (l : List Nat) (queued : List (SharedBuf × List Nat)) : State :=
  let live := l.filter fun c => (s.ctx c).st == .running || (s.ctx c).st == .paused
  let s1 := (live.filter fun c => !(s.ctx c).stEn).foldl (fun t c =>
    t.raise (codeAt Code.elSuspectFault c) { ctx := some c }) s
  let steps := live.filter fun c => (s.ctx c).stEn
  let s2 := steps.foldl (fun t c =>
    (t.report (codeAt Code.elSuspect c) { ctx := some c }).modStep c fun st =>
      if st.voted then { st with suspectNext := true }
      else { st with failCode := if st.failCode = 0 then codeAt Code.elSuspect c else st.failCode }) s1
  let todo := steps.map fun c =>
    let st := (s.ctx c).step
    (c, st.current + b2n st.voted)
  ({ s2 with err := { s2.err with suspects := some ⟨buf, todo, steps, queued⟩ } } : State).setGates steps
    (todo.head?.map (·.1)) false

/-- HLT goes on with a resolution: the next suspect reruns, or every gate is released and a queued report is taken. -/
def State.resolveStep (s : State) : State :=
  match s.err.suspects with
  | none => s
  | some r =>
    match r.todo with
    | e :: rest =>
      if s.suspectDone e then
        ({ s with err := { s.err with suspects := some { r with todo := rest } } } : State).setGates r.members
          (rest.head?.map (·.1)) rest.isEmpty
      else s
    | [] =>
      let s1 := ({ s with err := { s.err with suspects := none } } : State).setGates r.members none true
      match r.queued with
      | (b, l) :: q => s1.startResolve b l q
      | [] => s1

/-- An uncorrectable error in a shared queue buffer; `recent` are the contexts that issued a command in the last 1 ms. -/
def State.sharedUe (s : State) (buf : SharedBuf) (recent : List Nat) : State :=
  let s1 := s.report (codeAt Code.elSharedUe (bufLoc buf))
  let l := ctxNums.filter fun c =>
    recent.contains c && ((s.ctx c).st == .running || (s.ctx c).st == .paused) && (match buf with
      | .clusterHub k => (s.ctx c).cores.any fun p => p / 12 == k
      | _ => true)
  match s.err.suspects with
  | none => s1.startResolve buf l []
  | some r =>
    match r.todo with
    | e :: _ =>
      if buf = r.buf ∧ !s.suspectDone e then s1.raise (codeAt Code.elSuspectFault e.1) { ctx := some e.1 }
      else { s1 with err := { s1.err with suspects := some { r with queued := r.queued ++ [(buf, l)] } } }
    | [] => { s1 with err := { s1.err with suspects := some { r with queued := r.queued ++ [(buf, l)] } } }

/-- The buffer exists. -/
def bufOk : SharedBuf → Bool
  | .router c | .clusterHub c => decide (c < 16)
  | .dieHub => true

/-- EL_SHARED_UE (R435). -/
def execElSharedUe (buf : SharedBuf) (recent : List Nat) (s : State) : Host.Outcome State Fault Refusal :=
  inRange (bufOk buf) (s.sharedUe buf recent)

/-! ### Watchdogs and hangs (R433, R434) -/

/-- The context's watchdogs count: RUNNING, with the gate of its latest step open when st_en is 1. -/
def Ctx.watched (x : Ctx) : Bool := x.st == .running && (!x.stEn || !x.step.gateClosed)

/-- The command held by wait_en at an engine's head: its number, if there is one. -/
def State.heldAt (s : State) (p : Nat) (e : Eng) : Option (Nat × Nat) :=
  let k := s.core p
  match e with
  | .seq =>
    let b := s.peek (s.streamTarget p) k.seq.pos 32
    if k.seq.running && !k.seq.ended && slotEng b == 0 && !k.waitMet b then some (k.seq.seqno, k.seq.pos) else none
  | _ => match k.queue e with
    | q :: _ => if k.waitMet q.slot then none else some (q.seqno, q.addr)
    | [] => none

/-- A wait stall is reported once for each held command. -/
def State.wdWait (s : State) (p : Nat) (e : Eng) : State :=
  match s.coreOwner p, s.heldAt p e with
  | some (c, _), some (n, a) =>
    if fld s.err.wdCfg 16 16 = 0 ∨ !(s.ctx c).watched ∨ s.err.wdWaited.contains (p, e, n) then s
    else
      let s1 := s.report (codeAt Code.elWdWait p) ((s.core p).whereOf (some c) a)
      { s1 with err := { s1.err with wdWaited := s1.err.wdWaited ++ [(p, e, n)] } }
  | _, _ => s

/-- EL_WD_WAIT (R433). -/
def execElWdWait (core : Nat) (eng : Eng) (s : State) : Host.Outcome State Fault Refusal :=
  inRange (coreOk core) (s.wdWait core eng)

/-- The sequencer waits at the slot at its position: for the slot's counter, for a full engine queue, or for what END,
STEP, FENCE and NOTIFY wait for (R34, R37). -/
def State.seqWaits (s : State) (p : Nat) : Bool :=
  let k := s.core p
  let b := s.peek (s.streamTarget p) k.seq.pos 32
  if slotEng b = 0 then !k.waitMet b || s.seqStalls p b else (enginesOf b).any fun e => decide (16 ≤ (k.queue e).length)

/-- The engine is busy, and does not only wait for a remote party or another engine: a command of it has started, or the
sequencer has a slot that it can act on. -/
def State.engBusy (s : State) (p : Nat) (e : Eng) : Bool :=
  let k := s.core p
  match e with
  | .seq => k.seq.running && !k.seq.ended && !s.seqWaits p
  | .sync => (k.started.any fun q => (enginesOf q.slot).contains e) &&
    (k.suWait.isNone || s.hub.any fun m => m.origin == some p)
  | .copy => (k.started.any fun q => (enginesOf q.slot).contains e) && !(!k.ce.isEmpty && k.ce.all CeCmd.awaitsRemote)
  | _ => k.started.any fun q => (enginesOf q.slot).contains e

/-- An execution stall faults the context; the core needs the kernels before it is placed again. -/
def State.wdExec (s : State) (p : Nat) (e : Eng) : State :=
  match s.coreOwner p with
  | some (c, _) =>
    if !(s.ctx c).watched ∨ !s.engBusy p e then s
    else (s.modCore p fun k => { k with needsKernels := true }).raise (codeAt Code.elWdExec p)
      ((s.core p).whereOf (some c) 0)
  | none => s

/-- EL_WD_EXEC (R433). -/
def execElWdExec (core : Nat) (eng : Eng) (s : State) : Host.Outcome State Fault Refusal :=
  inRange (coreOk core) (s.wdExec core eng)

/-- EL_NET_HANG (R434, R436). -/
def execElNetHang (cl : Nat) (s : State) : Host.Outcome State Fault Refusal :=
  inRange (decide (cl < 16)) (s.fatal (codeAt Code.elNetHang cl))

/-- LINK_CORE_HANG: the port goes DOWN and retrains (R434). -/
def execLinkCoreHang (link : Nat) (s : State) : Host.Outcome State Fault Refusal :=
  inRange (linkOk link) (if (s.link link).carries then s.portDown link else s)

/-! ### Monitors (R431, R432, R451) -/

/-- The param names an instance of the source. -/
def monParamOk (source param : Nat) : Bool :=
  match source with
  | 1 | 2 | 6 | 9 => decide (param < 16)
  | 3 => decide (param < 8)
  | 4 => decide (param < 256)
  | 5 => decide (param < 40)
  | 7 | 8 => decide (param < 192)
  | _ => false

def s32 (w : Word) : Int := signed 32 w.toNat
def w32 (x : Int) : Word := BitVec.ofNat 32 (unsigned 32 x)

/-- What a sample of a monitor reads: the quantities that State holds, and `v` for the others (R431). -/
def State.sampled (s : State) (m : Monitor) (v : Int) : Int :=
  let n := fld m.cfg 8 8
  if !monParamOk (fld m.cfg 0 8) n then 0
  else match fld m.cfg 0 8 with
    | 1 => (s.cluster n).temp
    | 2 => (s.cluster n).lidTemp
    | 3 => Tbl.get 0 s.pw.stackTemps n
    | 5 => ((s.link n).rtt * 10 : Nat)
    | 7 => ((s.core n).ce.length : Nat)
    | 9 => (m.stretches : Nat)
    | _ => v

/-- A sample updates a monitor; whether it crossed the high and the low threshold. -/
def monSample (m : Monitor) (v : Int) : Monitor × Bool × Bool :=
  let d := (v - s32 m.base) / (2 ^ fld m.cfg 20 4 : Int)
  let bin := if d < 0 then 0 else min 15 d.toNat
  let high := decide (s32 m.thrHi < v)
  let low := decide (v < s32 m.thrLo)
  ({ m with
    min := w32 (min (s32 m.min) v), max := w32 (max (s32 m.max) v), count := satInc m.count
    bins := Tbl.set 0 m.bins bin (satInc (Tbl.get 0 m.bins bin)), wasHigh := high, wasLow := low, stretches := 0 },
   high && !m.wasHigh, low && !m.wasLow)

def State.monitor (s : State) (i : Nat) : Monitor := Tbl.get Monitor.reset s.err.monitors i
def State.setMonitor (s : State) (i : Nat) (m : Monitor) : State :=
  { s with err := { s.err with monitors := Tbl.set Monitor.reset s.err.monitors i m } }

/-- A monitor takes a sample: zero where its source or param names nothing. -/
def State.takeSample (s : State) (i : Nat) (v : Int) : State :=
  let m := s.monitor i
  if !flag m.cfg 31 ∨ fld m.cfg 0 8 = 0 then s
  else
    let (m', hi, lo) := monSample m (s.sampled m v)
    let s1 := s.setMonitor i m'
    let s2 := if hi then s1.report (codeAt Code.elMonHigh i) else s1
    if lo then s2.report (codeAt Code.elMonLow i) else s2

/-- MONITOR_SAMPLE (R432). -/
def execMonitorSample (mon : Nat) (sample : Int) (s : State) : Host.Outcome State Fault Refusal :=
  inRange (decide (mon < 16)) (s.takeSample mon sample)

/-- A clock stretch of a cluster is counted by the monitors that sample it (R431, R463). -/
def State.noteStretch (s : State) (cl : Nat) : State :=
  (List.range 16).foldl (fun t i =>
    let m := t.monitor i
    if flag m.cfg 31 ∧ fld m.cfg 0 8 = 9 ∧ fld m.cfg 8 8 = cl then t.setMonitor i { m with stretches := m.stretches + 1 }
    else t) s

/-- EL_MON_CFG is written: statistics start afresh (R432, R451). -/
def State.monCfg (s : State) (i : Nat) (v : Word) : State :=
  let m := s.monitor i
  s.setMonitor i { m with
    cfg := keepFields v [(31, 1), (0, 24)], min := 0x7FFFFFFF, max := 0x80000000, count := 0, bins := []
    wasHigh := false, wasLow := false, stretches := 0 }

/-- EL_MON_CFG_WRITE (R432). -/
def execElMonCfgWrite (port mon : Nat) (v : Word) (s : State) : Host.Outcome State Fault Refusal :=
  inRange (decide (port < 2) && decide (mon < 16)) (s.bar0 (.elMonCfgWrite port mon v) fun t => t.monCfg mon v)

/-! ### Handovers (R501) -/

/-- Handovers whose command has completed take place (R501). -/
def State.dueHandovers (s : State) : State :=
  ctxNums.foldl (fun t c => if (t.ctx c).handoverDue && !t.cmdRuns c && (t.ctx c).st != .free then t.handOver c
    else t) s

end Sys2Proof.Machine
end

