-- ==== Sys2Proof/Machine/Power.lean ====
section
/-! DEFINITION. Power and thermal control (R454–R469): the cap, the choice of steps, the meter and its limiter, droop,
throttle and trip, and retention standby. -/

namespace Sys2Proof.Machine

/-! ### The cap (R457) -/

/-- A request as stored: 0 is no request, and the others lie between 600 W and the lesser of 1,900 W and the record's
limit. -/
def State.storedCap (s : State) (w : Nat) : Nat :=
  if w = 0 then 0 else min (max w 600) (min 1900 (s.recField 0x01C 2))

/-- PW_STATUS.eff_cap: the least of the record's limit and the requests made. -/
def State.effCap (s : State) : Nat :=
  ([(s.port 0).pwCap.toNat, (s.port 1).pwCap.toNat, s.pw.boardCap].filter (· != 0)).foldl min (s.recField 0x01C 2)

/-- PW_CAP_WRITE (R457, R470). -/
def execPwCapWrite (port : Nat) (v : Word) (s : State) : Host.Outcome State Fault Refusal :=
  inRange (decide (port < 2)) (s.bar0 (.pwCapWrite port v) fun t =>
    t.modPort port fun p => { p with pwCap := BitVec.ofNat 32 (t.storedCap (fld v 0 12)) })

/-! ### The choice of steps (R459–R462, R467, R468) -/

/-- PWC runs (R441, R464, R469). -/
def State.pwcRuns (s : State) : Bool :=
  s.board.powered && !s.board.resetLow && s.boot.stage == stageReady && !s.err.warmReset && s.pw.standby == 0 &&
    !s.err.restarting.contains .pwc

/-- PW_POWER.avg_w. -/
def Power.mean (p : Power) : Nat := p.samples.sum / max 1 p.samples.length

/-- The mean of the samples exceeds a cap. -/
def Power.exceeds (p : Power) (cap : Nat) : Bool := decide (cap * p.samples.length < p.samples.sum)

/-- The context to lower: the highest step, then the highest predicted share, then the lowest number. -/
def lowered (share : Nat → Nat) (steps : List Nat) (xs : List Nat) : Option Nat :=
  let key := fun x => (steps.getD x 0, share x)
  xs.foldl (fun best x =>
    if steps.getD x 0 = 0 then best
    else match best with
      | none => some x
      | some y =>
        if (key y).1 < (key x).1 || (key y).1 == (key x).1 && decide ((key y).2 < (key x).2) then some x else some y) none

/-- The loop of R459: steps of the contexts 0–7. -/
def chooseSteps (tooMuch : List Nat → Bool) (share : List Nat → Nat → Nat) (xs : List Nat) : Nat → List Nat → List Nat
  | 0, st => st
  | n + 1, st =>
    if tooMuch st then
      match lowered (share st) st xs with
      | some x => chooseSteps tooMuch share xs n (st.set x (st.getD x 0 - 1))
      | none => st
    else st

/-- The gate of R460 after a choice: `meets g` says that the prediction with gate g meets the budget; the gate is lowered
only when the choice leaves every context at step 0. -/
def nextGate (meets : Nat → Bool) (floor : Bool) (g : Nat) : Nat :=
  if floor && !meets g then max 1 (g - 1) else if g < 16 ∧ meets (g + 1) then g + 1 else g

/-- The cluster holds no core of a RUNNING context: its arrays are clock-gated (R459). -/
def State.clockGated (s : State) (cl : Nat) : Bool :=
  !ctxNums.any fun c => (s.ctx c).st == .running && (s.ctx c).cores.any fun p => p / 12 == cl

/-- The step that a choice gives a cluster (R459). -/
def State.clusterStep (s : State) (steps : List Nat) (cl : Nat) : Nat :=
  let xs := ctxNums.filter fun c => (s.ctx c).cores.any fun p => p / 12 == cl
  if s.clockGated cl then 0 else min (xs.foldl (fun m c => min m (steps.getD c 0)) 15) (s.cluster cl).limit

/-- A cluster is to change to a step: the newer choice replaces a pending one; at the present step the rail goes to that
step's voltage, which changes with the mode, and a ramp up that has nothing to serve any more turns back (R455, R465,
R467). -/
def State.wantStep (s : State) (cl v : Nat) : State :=
  let k := s.cluster cl
  let mv := s.stepVolt v
  s.setCluster cl (if v = k.step then
      { k with pending := none, due := false, rampTo := if !s.pw.clustersOn ∨ k.volt = mv then none else some mv }
    else { k with pending := some v })

/-- corr of R459: the mean of measured minus predicted power over the last 20 ms, rounded down, in mW. -/
def Power.corr (p : Power) : Int := p.diffs.sum / (max 1 p.diffs.length : Nat)

/-- The module stands at its floor: gate 1 and every context at step 0 (R461). -/
def Power.atFloor (p : Power) : Bool := p.gate == 1 && p.chosen.all (· == 0)

/-- PWC chooses steps, and at a control period takes the cap and chooses the gate; at the floor with the mean above the
cap it holds the floor (R457, R459–R461). -/
def State.chooseAll (s : State) (period : Bool) : State :=
  let (d, s1) := s.draw
  let uni := if period then s.pw.uniform else s.pw.uniformActive
  let cap := if period then s.effCap else s.pw.cap.getD s.effCap
  let corr : Int := if uni ∧ !s.pw.exceeds cap then 0 else s.pw.corr
  let budget : Int := (cap : Int) * 1000 - 20000 - corr
  let hold := s.pw.atFloor && s.pw.exceeds cap
  let above := fun g st => hold || decide (budget < (Config.predictedPower d uni g st : Int))
  let xs := ctxNums.filter fun c => !(s.ctx c).cores.isEmpty
  let start := ctxNums.map fun c => if xs.contains c then 15 else 0
  let steps := chooseSteps (above 16) (fun st x => Config.predictedShare d x st) xs 121 start
  let g := if period then nextGate (fun k => !above k steps) (steps.all (· == 0)) s.pw.gate else s.pw.gate
  let s2 : State := { s1 with pw := { s1.pw with
    chosen := steps, predicted := Config.predictedPower d uni g steps, gate := g, uniformActive := uni
    cap := if period then some cap else s.pw.cap } }
  let s3 := (List.range 16).foldl (fun t cl => t.wantStep cl (s.clusterStep steps cl)) s2
  if period then
    let floor := s3.pw.atFloor && s.pw.exceeds cap
    let unmet := floor || (s.pw.capUnmet && decide (s.pw.okSamples < 2000))
    let s4 : State := { s3 with pw := { s3.pw with capUnmet := unmet } }
    if floor && !s.pw.capUnmet then s4.report (codeAt Code.pwCapUnmet 0xFF) else s4
  else s3

/-- What a context is charged with before regulator loss: activity, scaled by (V / 0.80)² of each cluster, and leakage
of its cores, and its bytes and flits; `d` stands for the activity counters (R468). -/
def State.charge (s : State) (d c : Nat) : Nat :=
  ((s.ctx c).cores.map fun p =>
    let v := (s.cluster (p / 12)).volt
    Config.coreActivity d p * v ^ 2 / 800 ^ 2 + Config.coreLeakage p v).sum + Config.trafficEnergy d c

/-- PWC attributes the period's energy: each context its charge and its share of regulator loss in proportion, all other
energy to PW_IDLE_ENERGY (R468). -/
def State.shareOut (s : State) : State :=
  let (d, s1) := s.draw
  let xs := ctxNums.filter fun c => (s.ctx c).st != .free
  let total := (xs.map (s.charge d)).sum
  let loss := Config.regulatorLoss d total
  let s2 := xs.foldl (fun t c => t.modRegs c fun r => { r with
    pwEnergy := r.pwEnergy + BitVec.ofNat 64 (s.charge d c + loss * s.charge d c / max 1 total) }) s1
  { s2 with pw := { s2.pw with idleEnergy := s2.pw.idleEnergy + BitVec.ofNat 64 (Config.otherEnergy d) } }

/-- PHASE_RECEIVED: PWC takes the oldest phase id that a core has sent, and chooses steps (R39, R459). -/
def execPhaseReceived (core : Nat) (phaseId : Byte) (s : State) : Host.Outcome State Fault Refusal :=
  inRange (coreOk core) (if !s.pwcRuns || (s.core core).phaseSent.head? != some phaseId.toNat then s
    else
      let s1 := s.modCore core fun k => { k with phaseSent := k.phaseSent.drop 1 }
      ({ s1 with pw := { s1.pw with phases := Tbl.set 255 s1.pw.phases core phaseId.toNat } } : State).chooseAll false)

/-- CONTROL_PERIOD (R459–R462, R467, R468). -/
def execControlPeriod (s : State) : Host.Outcome State Fault Refusal :=
  .next (if s.pwcRuns then (s.chooseAll true).shareOut else s)

/-- A change that has begun goes on: to a higher step the voltage ramps first and the frequency switches when the rail is
there; to a lower step the frequency switches first. A switch waits while the clock is stretched (R455, R465). -/
def State.advance (s : State) (cl : Nat) : State :=
  let k := s.cluster cl
  match k.due, k.pending with
  | true, some w =>
    let v := min w k.limit
    let target := s.stepVolt v
    if k.step < v ∧ k.volt < target then s.setCluster cl { k with rampTo := some target }
    else if k.stretched then s
    else s.setCluster cl { k with
      step := v, pending := none, due := false, rampTo := if k.volt = target then none else some target }
  | _, _ => s

/-- A pending change begins. -/
def State.beginChange (s : State) (cl : Nat) : State :=
  let k := s.cluster cl
  if k.pending.isNone then s else (s.setCluster cl { k with due := true }).advance cl

/-- OPERATING_POINT_CHANGE: a pending change begins, unless PWC's clamp is in force (R441, R455, R465). -/
def State.pointChange (s : State) (cl : Nat) : State :=
  if s.pw.clamp ∨ !s.pw.clustersOn then s else s.beginChange cl

def execOperatingPointChange (cl : Nat) (s : State) : Host.Outcome State Fault Refusal :=
  inRange (decide (cl < 16)) (s.pointChange cl)

/-- The rail moves 1 mV towards the ramp's end; a ramp down pauses while the clock is stretched (R455, R465). -/
def Cluster.ramp (k : Cluster) : Cluster :=
  match k.rampTo with
  | none => k
  | some t =>
    if k.volt < t then { k with volt := k.volt + 1, rampTo := if k.volt + 1 = t then none else some t }
    else if k.stretched then k
    else { k with volt := k.volt - 1, rampTo := if k.volt - 1 ≤ t then none else some t }

/-- Rails ramp by 1 mV in each 100 ns, which is 10 mV/µs (R455). -/
def State.rampTick (s : State) : State :=
  if s.suTime % 100 ≠ 0 ∨ !s.pw.clustersOn then s
  else (List.range 16).foldl (fun t cl =>
    if (t.cluster cl).rampTo.isNone then t else (t.setCluster cl (t.cluster cl).ramp).advance cl) s

/-- The clock of a cluster's array and core domain, in MHz: half the step's frequency while it is stretched (R454,
R463). -/
def State.clusterMHz (s : State) (cl : Nat) : Nat :=
  let k := s.cluster cl
  if !s.pw.clustersOn then 0 else if k.stretched then stepMHz k.step / 2 else stepMHz k.step

/-! ### The meter (R458) -/

/-- The highest junction temperature, in 1/16 °C. -/
def State.hottest (s : State) : Int := (List.range 16).foldl (fun m c => max m (s.cluster c).temp) (s.cluster 0).temp

/-- The highest stack temperature, in 1/16 °C. -/
def State.hottestStack (s : State) : Int :=
  (List.range 8).foldl (fun m i => max m (Tbl.get 0 s.pw.stackTemps i)) (Tbl.get 0 s.pw.stackTemps 0)

/-- What the board reads of a sensor of the PLDM repository (R552). -/
def State.sensor (s : State) (id : Nat) : Int :=
  match id with
  | 1 => (s.pw.mean : Nat)
  | 2 => (min s.board.blade1 s.board.blade2 : Nat)
  | 3 => (s.board.milliamps : Nat)
  | 4 => s.board.inlet
  | 5 => s.board.outlet
  | 6 => s.hottest * 10 / 16
  | 7 => s.hottestStack * 10 / 16
  | 8 => (s.effCap : Nat)
  | 0x10 => (s.stat : Nat)
  | _ => 0

/-- Warning and critical thresholds of a sensor (R552). -/
def sensorThresholds (id : Nat) : List Int :=
  match id with
  | 1 => [1900, 2150]
  | 2 => [44000, 47000, 55000, 57000]
  | 3 => [40000, 45000]
  | 4 => [450, 500]
  | 6 => [1000, 1150]
  | 7 => [950]
  | _ => []

/-- A value crosses a threshold in either direction. -/
def crosses (old new : Int) (l : List Int) : Bool := l.any fun t => decide (old < t) != decide (new < t)

/-- Threshold crossings of a sensor since `old` are sent as an event (R552). -/
def State.sensed (s old : State) (id : Nat) : State :=
  if crosses (old.sensor id) (s.sensor id) (sensorThresholds id) then s.platformEvent id (s.sensor id) else s

/-- The board keeps what its sensors read; an excursion of a blade ends with a reading inside the warnings (R541). -/
def Board.take (b : Board) (r : MeterReading) : Board :=
  let mv := fun k => if k = 1 then r.blade1 else r.blade2
  { b with
    milliamps := r.milliamps, blade1 := r.blade1, blade2 := r.blade2, inlet := r.inlet, outlet := r.outlet
    lowTold := b.lowTold.filter fun k => decide (mv k < 47000), highTold := b.highTold.filter fun k => decide (55000 < mv k) }

/-- METER_SAMPLE: the meter's sample of input power, with what the board's sensors read then (R458, R552). -/
def State.meter (s : State) (r : MeterReading) : State :=
  let w := r.watts
  let p := { s.pw with
    samples := (w :: s.pw.samples).take 2000
    diffs := ((((w * 1000 : Nat) : Int) - (s.pw.predicted : Int)) :: s.pw.diffs).take 2000 }
  let s1 : State := { s with
    board := s.board.take r
    pw := { p with
      okSamples := if p.exceeds s.effCap then 0 else s.pw.okSamples + 1, excursion := s.pw.excursion || decide (2150 < w) } }
  let s2 := if 2150 < w ∧ !s.pw.excursion then s1.report (codeAt Code.pwExcursion 0xFF) else s1
  [1, 2, 3, 4].foldl (fun t i => t.sensed s i) s2

def execMeterSample (r : MeterReading) (s : State) : Host.Outcome State Fault Refusal :=
  .next (if s.board.powered then s.meter r else s)

/-- EXCURSION_GATE_EXPIRY (R458). -/
def execExcursionGateExpiry (s : State) : Host.Outcome State Fault Refusal :=
  .next { s with pw := { s.pw with excursion := false } }

/-- The gate in force in a cluster: the lowest of PWC's, the throttle's and the limiter's (R465). -/
def State.clusterGate (s : State) (cl : Nat) : Nat :=
  min (min s.pw.gate (s.cluster cl).gate) (if s.pw.excursion then 8 else 16)

/-! ### Droop and heat (R463, R464) -/

/-- DROOP_DETECT (R463). -/
def execDroopDetect (cl : Nat) (s : State) : Host.Outcome State Fault Refusal :=
  let k := s.cluster cl
  inRange (decide (cl < 16)) (if k.stretched ∨ !s.pw.clustersOn then s
    else (s.setCluster cl { k with stretched := true, droops := satInc k.droops }).noteStretch cl)

/-- DROOP_END: a frequency switch that waited takes place (R463, R465). -/
def execDroopEnd (cl : Nat) (s : State) : Host.Outcome State Fault Refusal :=
  inRange (decide (cl < 16)) ((s.setCluster cl { s.cluster cl with stretched := false }).advance cl)

/-- A junction temperature is read: the sensor's thresholds are watched (R552). -/
def State.readTemp (s : State) (cl : Nat) (temp : Int) : State :=
  (s.setCluster cl { s.cluster cl with temp := temp }).sensed s 6

/-- The thermal limit and gate of a cluster one tick on (R464). -/
def Cluster.throttle (k : Cluster) (temp : Int) : Cluster :=
  if 100 * 16 ≤ temp then
    let k1 := if 0 < k.limit then { k with limit := k.limit - 1 } else { k with gate := max 1 (k.gate - 1) }
    let want := if k1.pending.getD k1.step ≤ k1.limit then k1.pending
      else if k1.limit = k1.step then none else some k1.limit
    { k1 with throttled := true, pending := want, due := k1.due && want.isSome }
  else if temp < 97 * 16 then
    let k1 := if k.gate < 16 then { k with gate := k.gate + 1 } else { k with limit := min 15 (k.limit + 1) }
    { k1 with throttled := k.throttled && !(k1.gate == 16 && k1.limit == 15) }
  else k

/-- PW_THERM_TRIP: every cluster's domain is cut, and the report is fatal (R464). -/
def State.thermTrip (s : State) (cl : Nat) : State :=
  let s1 := s.readTemp cl (max (s.cluster cl).temp (115 * 16))
  (({ s1.railsOff with pw := { s1.railsOff.pw with tripped := true } } : State).tell s1.stat).fatal
    (codeAt Code.pwThermTrip cl)

def execPwThermTrip (cl : Nat) (s : State) : Host.Outcome State Fault Refusal :=
  inRange (decide (cl < 16)) (if s.board.powered then s.thermTrip cl else s)

/-- Junction temperature: the highest reading of a cluster's four die sensors and its lid slice (R464). -/
def junction (r : Readings) : Int := max (max (max r.die0 r.die1) (max r.die2 r.die3)) r.lid

/-- One tick of a cluster's thermal limits: throttle, or a trip at 115 °C; a reset that waited for the sensors to cool
may start (R464). -/
def State.throttleTick (s : State) (cl : Nat) (temp : Int) : State :=
  if 115 * 16 ≤ temp ∧ !s.pw.tripped then (s.readTemp cl temp).thermTrip cl
  else
    let s1 := s.readTemp cl temp
    let k := s1.cluster cl
    let k' := k.throttle temp
    let s2 := s1.setCluster cl k'
    let s3 := if k'.throttled && !k.throttled then s2.report (codeAt Code.pwThrottle cl) else s2
    if s3.pw.tripped then s3.fatalReset else s3

/-- THROTTLE_TICK: the cluster's five readings (R464). -/
def execThrottleTick (cl : Nat) (r : Readings) (s : State) : Host.Outcome State Fault Refusal :=
  inRange (decide (cl < 16)) (if s.board.powered then
      (s.setCluster cl { s.cluster cl with lidTemp := r.lid }).throttleTick cl (junction r)
    else s)

/-- PW_HBM_HOT: a stack's temperature is read; at 95 °C or more it is hot until it reads below 90 °C (R464). -/
def State.stackTemp (s : State) (stack : Nat) (temp : Int) : State :=
  let hot := s.pw.hotStacks.contains stack
  let enter := decide (95 * 16 ≤ temp) && !hot
  let l := if enter then keyInsert stack s.pw.hotStacks
    else if temp < 90 * 16 then keyRemoveRun stack 1 s.pw.hotStacks else s.pw.hotStacks
  let s1 : State := { s with pw := { s.pw with hotStacks := l, stackTemps := Tbl.set 0 s.pw.stackTemps stack temp } }
  let s2 := s1.sensed s 7
  let s3 := if enter then s2.report (codeAt Code.pwHbmHot (0x20 + stack)) else s2
  if s3.pw.tripped then s3.fatalReset else s3

def execPwHbmHot (stack : Nat) (temp : Int) (s : State) : Host.Outcome State Fault Refusal :=
  inRange (decide (stack < 8)) (if s.board.powered then s.stackTemp stack temp else s)

/-- PW_REG_FAULT: of a cluster, or of a shared rail at 0xFF (R436, R479). -/
def execPwRegFault (loc : Nat) (s : State) : Host.Outcome State Fault Refusal :=
  inRange (decide (loc < 16) || loc == 0xFF) (if s.board.powered then s.fatal (codeAt Code.pwRegFault loc) else s)

/-! ### Retention standby (R247, R469) -/

/-- A table of free values. -/
def freeTbl {α : Type} [DecidableEq α] (d : α) (n : Nat) (f : Nat → α) : Tbl α :=
  ((List.range n).map fun i => (i, f i)).filter fun e => decide (e.2 ≠ d)

/-- The banks of an array as free contents. -/
def Array.lose (a : Array) (d k : Nat) : Array :=
  let at_ := fun b i => Config.lostWord d (((k * 2) + b) * 16384 + i)
  { a with
    bank0 := freeTbl 0 16384 fun i => BitVec.ofNat 48 (at_ 0 i)
    bank1 := freeTbl 0 16384 fun i => BitVec.ofNat 48 (at_ 1 i)
    poison0 := (List.range 16384).filter fun i => Config.lostMark d (2 ^ 26 + (k * 2) * 16384 + i)
    poison1 := (List.range 16384).filter fun i => Config.lostMark d (2 ^ 26 + (k * 2 + 1) * 16384 + i) }

/-- A core loses its store, banks, tables and counters. The banks, tables and counters of a core that no context holds
are set when it is next assigned (R30, R126, R182). -/
def Core.lose (k : Core) (d p : Nat) (held : Bool) : Core :=
  let f := { k.fresh with lost := some d }
  if held then
    { f with
      warp := f.warp.lose d (2 * p), weft := f.weft.lose d (2 * p + 1)
      counters := freeTbl 0 1024 fun i => BitVec.ofNat 32 (Config.lostWord d (2 ^ 24 + p * 1024 + i))
      tables := freeTbl VTable.reset 8 fun t =>
        ⟨freeTbl 0 2064 fun i => Config.lostByte d (2 ^ 30 + (p * 8 + t) * 4096 + i),
         Config.lostMark d (2 ^ 28 + p * 8 + t)⟩ }
  else f

/-- The modules' parts without power in standby lose their state. -/
def State.loseCores (s : State) : State :=
  let (d, s1) := s.draw
  { (List.range 192).foldl (fun t p => t.modCore p fun k => k.lose d p (s.coreOwner p).isSome) s1 with
    store := Memory.reset, hub := [] }

/-- The dirty lines of a set are written back, its tags read before (R217, R222). -/
def State.flushSet (s : State) (key : Nat) : State :=
  let t := s.checkTags key 0
  ((Tbl.get CacheSet.reset t.cache key).ways.filterMap fun w => w.2.bind fun l => if l.2 then some l.1 else none).foldl
    State.writeBack t

/-- Lid cache lines are written back and leave the cache. -/
def State.flushCache (s : State) : State :=
  { s.cache.foldl (fun t e => t.flushSet e.1) s with cache := [], lines := Memory.reset }

/-- Standby is asked for: refused while a context is RUNNING, PAUSED or FINISHED; else step 1 of entering, ports DOWN,
write buffers drained and lid lines written back. While standby is being left the request waits (R469, R477). -/
def State.enterStandby (s : State) : State :=
  if s.pw.standby = 3 then { s with pw := { s.pw with enterReq := true } }
  else if s.pw.standby ≠ 0 then s
  else if ctxNums.any fun c => (s.ctx c).st == .running || (s.ctx c).st == .paused || (s.ctx c).st == .finished then
    s.report (codeAt Code.pwStandbyRefused 0xFF)
  else
    let s1 := (List.range 40).foldl (fun t l => if (t.link l).state = 0 then t else t.portLost l) s
    let s2 := s1.flushCache
    let s3 := s2.chans.foldl (fun t e => t.turnBus e.1) s2
    State.tell { s3 with pw := { s3.pw with standby := 1 } } s.stat

/-- Standby is left: step 1, cluster rails up at step 0, then PWC, FAB and SCH restart (R469). -/
def State.leaveStandby (s : State) : State :=
  if s.pw.standby = 1 then { s with pw := { s.pw with exitReq := true } }
  else if s.pw.standby ≠ 2 then s
  else
    let s1 := s.railsUp
    State.tell { s1 with
      pw := { s1.pw with standby := 3, exitReq := false }
      err := { s1.err with restarting := s1.err.restarting ++ [.pwc, .fab, .sch] } } s.stat

/-- Steps 2 and 3 of entering: clusters, PWC, FAB and SCH lose power; an exit that waited follows (R469). -/
def State.standbyTick (s : State) : State :=
  if s.pw.standby ≠ 1 then s
  else
    let s1 := s.loseCores.railsOff
    let s2 := State.tell { s1 with
      pw := { s1.pw with standby := 2, gate := 16, uniformActive := false, clamp := false, phases := [] }
      err := { s1.err with
        restarting := s1.err.restarting.filter fun m => m == .sec || m == .hlt, heldControl := [], heldWrites := [], heldOrders := [] } }
      s.stat
    if s2.pw.exitReq then s2.leaveStandby else s2

/-- Step 3 of leaving, once PWC, FAB and SCH are back: one pass over the lid corrects or poisons what it finds, and the
module is ACTIVE; an entry that waited follows (R247, R469). -/
def State.standbyDone (s : State) : State :=
  if s.pw.standby ≠ 3 ∨ s.err.restarting.any (fun m => m == .pwc || m == .fab || m == .sch) then s
  else
    let s1 := s.lid.errs.foldl (fun t e => t.discover 1 (e.1 * 64) (lidBase + e.1 * 64)) s
    let s2 := State.tell { s1 with pw := { s1.pw with standby := 0, enterReq := false } } s.stat
    if s.pw.enterReq then s2.enterStandby else s2

/-- A write that only HLT has to serve takes effect: the module has started, and no warm reset is in progress (R469,
R484). -/
def State.hltServes (s : State) : Bool :=
  s.board.powered && !s.board.resetLow && s.boot.stage == stageReady && !s.err.warmReset

/-- PW_STANDBY.enter is written: as any BAR0 write, but HLT serves it while standby is entered, held or left. -/
def State.askStandby (s : State) (i : Instr) : State :=
  if s.pw.standby = 0 then s.bar0 i State.enterStandby else if s.hltServes then s.enterStandby else s

/-- STANDBY_ENTER (R469, R477). -/
def execStandbyEnter (port : Nat) (s : State) : Host.Outcome State Fault Refusal :=
  inRange (decide (port < 2)) (s.askStandby (.standbyEnter port))

/-- STANDBY_EXIT: HLT serves the write (R469, R477, R484). -/
def execStandbyExit (port : Nat) (s : State) : Host.Outcome State Fault Refusal :=
  inRange (decide (port < 2)) (if s.hltServes then s.leaveStandby else s)

end Sys2Proof.Machine
end

