-- ==== Sys2Proof/Machine/RegRead.lean ====
section
/-! DEFINITION. What a BAR0 read returns, register by register (R482–R484), and the reads that latch (R205, R232, R314,
R446, R448, R476). -/

namespace Sys2Proof.Machine

/-! ### Places (R482) -/

/-- Index of the register at a byte offset of a block. -/
def regIx (off base : Nat) : Nat := (off - base) / 4

/-- A block of `n` instances with a stride: the instance and the register's index in it. -/
def inBlock (off base stride n : Nat) : Option (Nat × Nat) :=
  if base ≤ off ∧ off < base + stride * n then some ((off - base) / stride, (off - base) % stride / 4) else none

/-- The port reads a context's instances. -/
def nth (l : List Word) (i : Nat) : Word := l.getD i 0

def word (n : Nat) : Word := BitVec.ofNat 32 n
def lo32 (n : Nat) : Word := BitVec.ofNat 32 n
def hi32 (n : Nat) : Word := BitVec.ofNat 32 (n / 2 ^ 32)
def bit32 (i : Nat) (b : Bool) : Word := at32 i (b2n b)

/-! ### Host block (R485–R487, R494, R498, R502–R504) -/

/-- HX_VERSION; dev_min and dev_max are 1. -/
def State.hxVersion (s : State) (p : Port) : Word :=
  at32 20 (fieldAt s.boot.imageMsg 8 2) ||| at32 16 p.selected ||| at32 12 1 ||| at32 8 1 ||| at32 4 p.hostMax |||
    at32 0 p.hostMin

def State.hxPortStatus (s : State) (port : Nat) : Word :=
  let perm := s.recField 0x024 1
  bit32 31 s.err.fatalHold ||| bit32 8 (s.port port).hostLost ||| bit32 7 (bitAt perm (2 * port + 1)) |||
    bit32 6 (bitAt perm (2 * port)) ||| bit32 1 ((s.port port).selected != 0) ||| at32 0 port

def State.hostBlock (s : State) (port i : Nat) : Word :=
  let p := s.port port
  nth [s.hxVersion p, s.hxPortStatus port, p.postLo, p.postHi,
    bit32 8 ((s.sch ++ s.inProgress).any fun h => h.port == port) ||| bit32 7 p.discarded ||| at32 0 (64 - p.queue.length),
    p.cplProd, p.cplCons, p.cplDrop, p.beat, p.hostCfg, p.irqCfg, p.irqStatus, p.bar2Cfg,
    at32 16 (min s.boot.attempt 0xFFFF) ||| at32 0 s.boot.stage, s.boot.err] i

/-! ### Synchronisation and memory service (R202–R205, R231, R249–R255) -/

/-- SU_CTR_VAL (R202, R203). -/
def State.suCtrVal (s : State) (port : Nat) : Word :=
  let sel := (s.port port).suCtrSel
  let core := fld sel 10 8
  if core < 192 ∧ s.ownsCore port core then Tbl.get 0 (s.core core).counters (fld sel 0 10) else 0

def State.fenceStatus (s : State) : Word :=
  bit32 31 s.fenceFull ||| at32 17 (s.fences.map fun f => f.held.length).sum ||| at32 0 s.fences.length

def State.suBlock (s : State) (port i : Nat) : Word :=
  nth [(s.port port).suCtrSel, s.suCtrVal port, s.fenceStatus, lo32 s.suTime, s.suTimeHi] i

/-- The granule-table entry a port has selected: zero beyond the table and for a granule of the other port (R231). -/
def State.selGranule (s : State) (port : Nat) : DWord :=
  let g := fld (s.port port).granSel 0 14
  let hidden := match s.granOwnerOf g with
    | some c => !s.owns port c
    | none => false
  if g < 9216 ∧ !hidden then Tbl.get 0 s.granules g else 0

/-- MS_CAPACITY (R253). -/
def State.capacity (s : State) : Word := at32 16 s.freeGranules.length ||| at32 0 (9216 - 36 * s.mappedOut)

/-- MS_RETIRE_ENTRY (R250, R251). -/
def State.retireEntry (s : State) (port : Nat) : Word :=
  let sel := (s.port port).retireSel
  match (s.chan (fld sel 6 8)).retired[fld sel 0 6]? with
  | some page => bit32 31 true ||| at32 0 page
  | none => 0

def State.memBlock (s : State) (port i : Nat) : Word :=
  let p := s.port port
  nth ([s.hbmCfg, s.capacity, p.granSel, lo32 (s.selGranule port).toNat, p.granHi, p.retireSel, s.retireEntry port,
    p.latSel] ++ Tbl.getRun 0 p.latBins 0 16) i

/-! ### Link and topology (R289, R312–R317, R395, R396) -/

/-- TP_STATUS. -/
def State.tpStatus (s : State) : Word :=
  let held := (List.range 40).filter fun l => (s.link l).state == 4 || (s.link l).outcome == 4
  bit32 24 s.fab.ovrRefused ||| at32 15 s.ownGroup ||| at32 10 s.ownSlot ||| at32 2 held.length ||| at32 0 s.fab.topo

/-- The table entry a port has selected (R314): chip-table entries have 32 bits. -/
def State.selTable (s : State) (port : Nat) : DWord :=
  let sel := (s.port port).tblSel
  let i := fld sel 0 14
  match fld sel 14 2 with
  | 0 => BitVec.ofNat 64 (Tbl.get 0 s.fab.chipTable i).toNat
  | 1 => if i < 257 then Tbl.get 0 s.fab.exitTable i else 0
  | 2 => if i < 257 then Tbl.get 0 s.fab.routeTable i else 0
  | _ => 0

def State.topoBlock (s : State) (port i : Nat) : Word :=
  let p := s.port port
  nth ([s.fab.lkCfg, s.tpStatus, p.tblSel, lo32 (s.selTable port).toNat, p.tblHi, s.fab.dropCnt, s.fab.fdCfg,
    word (maskOf s.fab.mySuspects)] ++ Tbl.getRun 0 s.fab.tpOvr 0 8) i

/-! ### Error log (R427, R430, R443–R451) -/

/-- The 32 bytes of a log entry (R427). -/
def LogEntry.bytes (e : LogEntry) : List Byte :=
  leBytes 4 e.code.toNat ++ leBytes 1 e.ctx ++ [e.flags] ++ zeros 2 ++ leBytes 8 e.time ++ leBytes 8 e.step.toNat ++
    leBytes 8 e.info.toNat

/-- The entry a port has selected; its info reads zero when the context is the other port's (R430, R445, R446). -/
def State.selEntry (s : State) (port : Nat) : List Byte :=
  let sel := (s.port port).logSel
  let cls := fld sel 8 8
  let slot := fld sel 0 4
  let e := Tbl.get ErrClass.reset s.err.classes cls
  match (if 1 ≤ cls ∧ cls ≤ 0x17 then (if slot < 8 then e.first[slot]? else e.last[slot - 8]?) else none) with
  | some l =>
    let other := decide (l.ctx < 8) && (s.ctx l.ctx).st != .free && (s.ctx l.ctx).owner != port
    (if other then { l with info := 0 } else l).bytes
  | none => zeros 32

/-- The class a port has selected. -/
def State.selClass (s : State) (port : Nat) : ErrClass :=
  let cls := fld (s.port port).logSel 8 8
  if 1 ≤ cls ∧ cls ≤ 0x17 then Tbl.get ErrClass.reset s.err.classes cls else ErrClass.reset

/-- EL_STATUS (R443). -/
def State.elStatus (s : State) : Word :=
  bit32 5 s.err.fatalHold ||| bit32 4 s.err.suspects.isSome ||| at32 0 s.err.seen.toNat

def State.errBlock (s : State) (port i : Nat) : Word :=
  let p := s.port port
  let c := s.selClass port
  nth ([s.elStatus, at32 0 s.err.fatalAction, p.logSel, word (fieldAt (s.selEntry port) 0 4)] ++
    Tbl.getRun 0 p.logData 1 7 ++
    [bit32 8 c.overflow ||| at32 4 c.last.length ||| at32 0 c.first.length, lo32 c.count, p.classCntHi, s.err.resetCause,
     bit32 2 s.err.fromFlash ||| at32 0 s.err.resetKind, s.err.wdCfg]) i

def Monitor.word (m : Monitor) (i : Nat) : Word :=
  nth ([m.cfg, m.base, m.thrHi, m.thrLo, m.min, m.max, m.count] ++ Tbl.getRun 0 m.bins 0 16) i

/-! ### Power (R470–R478) -/

/-- PW_STATUS (R472). -/
def State.pwStatus (s : State) : Word :=
  at32 16 s.effCap ||| at32 8 (s.pw.gate - 1) ||| bit32 4 s.pw.excursion ||| bit32 3 s.pw.clamp |||
    bit32 2 (s.pw.clusters.any fun e => e.2.throttled) ||| bit32 1 s.pw.capUnmet ||| bit32 0 s.pw.uniformActive

/-- PW_STANDBY as it reads (R477). -/
def Power.standbyWord (p : Power) : Word :=
  at32 2 p.standby ||| bit32 1 (p.standby == 3 || p.exitReq) ||| bit32 0 (p.standby == 1 || p.enterReq)

def State.powerBlock (s : State) (port i : Nat) : Word :=
  let p := s.port port
  nth [p.pwCap, bit32 0 s.pw.uniform, s.pwStatus, at32 16 s.pw.mean ||| at32 0 (s.pw.samples.headD 0),
    lo32 s.pw.idleEnergy.toNat, s.pw.idleEnergyHi, s.pw.standbyWord,
    at32 24 115 ||| at32 16 100 ||| at32 8 84 ||| at32 0 94] i

/-- PW_CL_STATE (R474), PW_DROOP_CNT and MS_LID_ERR of a cluster. -/
def State.clusterWord (s : State) (cl i : Nat) : Word :=
  let k := s.cluster cl
  nth [at32 16 (unsigned 12 k.temp) ||| at32 12 k.step ||| at32 8 k.limit ||| at32 4 (s.clusterGate cl - 1) |||
    bit32 3 k.stretched ||| bit32 2 k.throttled ||| bit32 1 (k.stretched && k.pending.isSome), k.droops, k.lidErr] i

/-! ### Boot (R530–R536) -/

/-- State of a key slot: blank, programmed, revoked. -/
def Fuses.slotState (f : Fuses) (i : Nat) : Nat :=
  let k := [f.vendor0, f.vendor1, f.owner0, f.owner1].getD i none
  if f.revoke.toNat / 2 ^ i % 2 = 1 then 2 else if k.isSome then 1 else 0

/-- BT_STATUS.approved (R529). -/
def State.approved (s : State) : Bool :=
  bitAt (fieldAt s.boot.imageMsg 7 1) 1 && s.fuses.lifecycle == 1 && s.boot.selfTests

def State.bootBlock (s : State) (i : Nat) : Word :=
  let b := s.boot
  nth ([at32 8 0x48 ||| at32 0 s.fuses.stepping.toNat,
    bit32 6 b.lmsExhausted ||| bit32 5 b.lmsLow ||| bit32 4 b.recovered ||| bit32 3 b.updPending |||
      bit32 2 s.approved ||| at32 0 s.fuses.lifecycle.toNat,
    at32 8 (fieldAt b.imageMsg 0x0A 1) ||| at32 0 s.fuses.svn,
    at32 8 b.imgSlot ||| at32 0 (((List.range 4).map fun i => s.fuses.slotState i * 4 ^ i).sum),
    word (2 ^ 20 - b.lmsNext), at32 8 b.updSource ||| at32 0 b.updState, b.updCode] ++
    (List.range 12).map fun k => word (fieldAt b.identity (4 * k) 4)) i

/-! ### Links (R284–R288, R313), channels (R227, R249), cores (R99, R100, R129, R179, R201, R228) -/

def State.linkWord (s : State) (l i : Nat) : Word :=
  let k := s.link l
  nth [at32 24 k.rtt ||| at32 16 k.version ||| bit32 8 k.rate ||| bit32 7 k.quar1 ||| bit32 6 k.quar0 |||
      bit32 5 k.up1 ||| bit32 4 k.up0 ||| at32 0 k.state,
    bit32 0 k.disable, k.errCnt,
    at32 8 (min 5 (recentDowns s.suTime k.downs1).length) ||| at32 0 (min 5 (recentDowns s.suTime k.downs0).length),
    at32 29 k.outcome ||| at32 27 k.foundDevice ||| at32 21 k.foundPort ||| at32 0 k.foundChip, k.fec0, k.fec1] i

def State.chanWord (s : State) (ch i : Nat) : Word :=
  let c := s.chan ch
  nth [c.err,
    at32 24 c.retired.length ||| at32 16 (min 0xFF c.remaps) ||| at32 8 (min 0xFF c.sparesBad) ||| bit32 3 c.pending |||
      bit32 2 (s.moving ch) ||| bit32 1 c.mappedOut ||| bit32 0 c.faulted] i

/-- The vector engine executes a command whose opcode satisfies `f` (R129). A vector command runs whole in the step that
starts it, so none is found here between steps (log 118). -/
def Core.vecActive (k : Core) (f : Nat → Bool) : Bool := k.started.any fun q => slotEng q.slot == 4 && f (slotOp q.slot)

def State.coreWord (s : State) (p i : Nat) : Word :=
  let k := s.core p
  nth [bit32 8 k.weft.quarantined ||| bit32 7 k.warp.quarantined |||
      bit32 6 (k.warp.recheck.isSome || k.weft.recheck.isSome) ||| bit32 5 (!k.weft.drains.isEmpty) |||
      bit32 4 (!k.warp.drains.isEmpty) ||| bit32 3 k.weft.bank ||| bit32 2 k.warp.bank |||
      bit32 1 (k.arrBusy .weft) ||| bit32 0 (k.arrBusy .warp),
    at32 16 k.weft.mismatches.toNat ||| at32 0 k.warp.mismatches.toNat,
    at32 8 (maskOf ((List.range 8).filter fun t => (Tbl.get VTable.reset k.tables t).loaded)) |||
      bit32 2 (k.vecActive fun op => op == 3) ||| bit32 1 (k.vecActive fun op => op == 2) |||
      bit32 0 (k.vecActive fun _ => true),
    at32 8 k.ce.length ||| bit32 3 k.hazardHold ||| bit32 2 (k.ce.any CeCmd.awaitsRemote) |||
      bit32 1 (k.ce.any fun x => slotOp x.cmd.slot == 11) ||| bit32 0 (!k.ce.isEmpty),
    at32 8 k.watches.length ||| bit32 1 (match k.qSync with
      | q :: _ => !k.waitMet q.slot
      | [] => false) ||| bit32 0 k.suWait.isSome,
    k.msCsErr] i

def State.lidUnitWord (s : State) (u : Nat) : Word :=
  let k := s.lidUnit u
  at32 8 (if k.cache then 0 else k.logical) ||| bit32 5 k.cache ||| bit32 4 k.secure ||| bit32 3 k.owner.isSome |||
    at32 0 (k.owner.getD 0)

/-! ### Contexts (R70, R71, R148–R153, R180, R230, R290, R349–R357, R388–R394, R419–R422, R476, R505) -/

/-- ST_CTX_STATUS.phase. -/
def Ctx.phase (x : Ctx) : Nat :=
  let st := x.step
  if x.st == .free then 0
  else if x.st == .paused then 6
  else if st.rolledSelf then 5
  else if (match st.decision with
    | some d => d.kind == 2 || d.kind == 3 || d.kind == 4
    | none => false) then 4
  else if st.voted then 3
  else if st.complete then 2
  else if st.declared.isSome && st.declared != st.committed then 1
  else 0

def Ctx.tsStatus (x : Ctx) : Word :=
  let r := x.regs
  bit32 5 r.tsLsMismatch ||| bit32 4 r.tsNfPaused ||| bit32 3 r.tsLsFloor ||| bit32 2 r.tsAccSat |||
    bit32 1 (!r.tsPublishing.isEmpty) ||| bit32 0 r.tsPubValid

def Ctx.stStatus (x : Ctx) : Word :=
  let st := x.step
  at32 16 st.window.length ||| at32 8 (min 0xFF st.failReplays) ||| bit32 7 x.regs.stWindowDrop ||| bit32 6 x.regs.stDigestBad |||
    bit32 5 st.diagRunning ||| bit32 4 st.gateClosed ||| at32 0 x.phase

/-- Live dirty bits set, outside a frozen D (R402, R422). -/
def Ctx.dirtyPages (x : Ctx) : Nat :=
  let d := if x.ck.allDirty then x.pagesIn x.ckSet else x.ck.dirty
  (d.filter fun k => !x.ck.frozen.contains k).length + x.ck.live.length

def Ctx.ckStatus (x : Ctx) : Word :=
  at32 24 (min 0xFF x.ck.deltas) ||| bit32 10 x.ck.snapWait ||| bit32 9 x.ck.baseValid ||| bit32 8 x.ck.promoted |||
    at32 0 x.ck.state

/-- HX_CTX_STATE (R505). -/
def Ctx.hxState (x : Ctx) : Word :=
  at32 26 x.desc.lossPolicy ||| bit32 25 x.desc.secure ||| at32 24 x.owner ||| at32 16 x.desc.coreCount |||
    bit32 3 x.handedOver ||| at32 0 x.st.num

/-- The registers of a context, those of the owner only, in the order of R482. -/
def State.ctxWords (s : State) (port c : Nat) : List Word :=
  let x := s.ctx c
  let r := x.regs
  let commit := x.step.committed.getD (2 ^ 64 - 1)
  [at32 0 r.tsFlags.toNat, r.tsEscOvfCnt, r.tsT2InvCnt, word (r.tsArea / 2 ^ 20), lo32 r.tsPubStep.toNat,
    hi32 r.tsPubStep.toNat, x.tsStatus, r.tsLsConfig, r.tsLsRange, x.ls.state, r.ceWinDrop, r.msPoison, r.lkJob,
    if flag x.desc.flags 3 then r.stCfg else setFld r.stCfg 5 5 0, r.stSkein, r.stPersist, r.stTree, r.stShardOwn,
    r.stShardMir, r.stPeer0, r.stPeer1, r.stPeer2, r.stPeer3, r.stTrace, x.stStatus, lo32 commit, hi32 commit,
    r.stReplays, r.stPair, r.stRegmap, r.stRecov,
    at32 28 x.recov.rstate ||| at32 14 x.recov.shrinkPart ||| at32 0 x.recov.leader, r.stTiming, r.stHistCfg] ++
    Tbl.getRun 0 r.stHistBins 0 16 ++
    [r.msCkptCfg, x.ckStatus, word (min 0xFFFFFFFF x.ck.left.length), word (min 0xFFFFFFFF x.dirtyPages),
     lo32 r.pwEnergy.toNat, r.pwEnergyHi]

/-- A context's register: HX_CTX_STATE and HX_CTX_CORES0–5 both ports read, the others the owner (R483). -/
def State.ctxWord (s : State) (port c i : Nat) : Word :=
  if i < 56 then (if s.owns port c then nth (s.ctxWords port c) i else 0)
  else
    let m := maskOf (s.ctx c).cores
    nth ((s.ctx c).hxState :: (List.range 6).map fun k => word (m / 2 ^ (32 * k))) (i - 56)

/-! ### A read -/

/-- PW_ and EL_ registers, which HLT serves in standby (R469). -/
def servedInStandby (off : Nat) : Bool :=
  (decide (0x1000 ≤ off) && decide (off < 0x1800)) || (decide (0x2000 ≤ off) && decide (off < 0x2800)) ||
    (decide (0x4000 ≤ off) && decide (off < 0x4100) && decide (off % 16 < 8)) ||
    (decide (0x10000 ≤ off) && decide (off < 0x12000) && (off % 0x400 == 54 * 4 || off % 0x400 == 55 * 4))

/-- HX_BOOT_STAGE, HX_BOOT_ERR and the BT_ registers, which are served during every start (R484). -/
def servedAtStart (off : Nat) : Bool :=
  off == 0x34 || off == 0x38 || (decide (0x1800 ≤ off) && decide (off < 0x1C00))

/-- The value of the register at an offset, for a port. -/
def State.regValue (s : State) (port off : Nat) : Word :=
  if off < 0x400 then s.hostBlock port (off / 4)
  else if off < 0x800 then s.suBlock port (regIx off 0x400)
  else if off < 0xC00 then s.memBlock port (regIx off 0x800)
  else if off < 0x1000 then s.topoBlock port (regIx off 0xC00)
  else if off < 0x1400 then s.errBlock port (regIx off 0x1000)
  else if off < 0x1800 then s.powerBlock port (regIx off 0x1400)
  else if off < 0x2000 then s.bootBlock (regIx off 0x1800)
  else match inBlock off 0x2000 0x80 16 with
  | some (i, r) => (s.monitor i).word r
  | none => match inBlock off 0x4000 0x10 16 with
  | some (i, r) => s.clusterWord i r
  | none => match inBlock off 0x4200 4 128 with
  | some (i, _) => s.lidUnitWord i
  | none => match inBlock off 0x5000 0x20 40 with
  | some (i, r) => s.linkWord i r
  | none => match inBlock off 0x6000 0x10 256 with
  | some (i, r) => s.chanWord i r
  | none => match inBlock off 0x8000 0x20 192 with
  | some (i, r) => if s.ownsCore port i then s.coreWord i r else 0
  | none => match inBlock off 0x10000 0x400 8 with
  | some (i, r) => s.ctxWord port i r
  | none => match inBlock off 0xFE000 4 1024 with
  | some (i, _) => Tbl.get 0 (s.port port).msix i
  | none => match inBlock off 0x100000 48 65536 with
  | some (i, r) => word (fieldAt (Tbl.get [] (s.port port).records i) (4 * r) 4)
  | none => 0

/-- A BAR0 read of an aligned offset (R482–R484). -/
def State.regRead (s : State) (port off : Nat) : Word :=
  if !s.board.powered ∨ s.board.resetLow then 0
  else if s.boot.stage ≠ stageReady then (if servedAtStart off then s.regValue port off else 0)
  else if s.pw.standby ≠ 0 then (if servedInStandby off then s.regValue port off else 0)
  else s.regValue port off

/-! ### Reads that latch -/

/-- The register answers, and latches what it latches (R469, R484). -/
def State.serves (s : State) (off : Nat) : Bool :=
  s.board.powered && !s.board.resetLow && s.boot.stage == stageReady && (s.pw.standby == 0 || servedInStandby off)

/-- A read returns a value, which the port keeps. -/
def State.answerRead (s : State) (port off : Nat) : State := s.modPort port fun p => { p with lastRead := s.regRead port off }

/-- A read returns a value and latches; nothing latches where the register reads as zero (R484). -/
def State.readLatch (s : State) (port off : Nat) (f : Port → Port) : State :=
  s.modPort port fun p => { (if s.serves off then f p else p) with lastRead := s.regRead port off }

/-- SU_TIME_LO_READ: one latch for the module (R205). -/
def execSuTimeLoRead (port : Nat) (s : State) : Host.Outcome State Fault Refusal :=
  let t := s.answerRead port 0x40C
  inRange (decide (port < 2)) (if s.serves 0x40C then { t with suTimeHi := hi32 s.suTime } else t)

/-- MS_GRAN_LO_READ (R232). -/
def execMsGranLoRead (port : Nat) (s : State) : Host.Outcome State Fault Refusal :=
  inRange (decide (port < 2)) (s.readLatch port 0x80C fun p => { p with granHi := hi32 (s.selGranule port).toNat })

/-- TP_TBL_LO_READ (R314, R315). -/
def execTpTblLoRead (port : Nat) (s : State) : Host.Outcome State Fault Refusal :=
  inRange (decide (port < 2)) (s.readLatch port 0xC0C fun p => { p with tblHi := hi32 (s.selTable port).toNat })

/-- EL_LOG_DATA0_READ (R446). -/
def execElLogData0Read (port : Nat) (s : State) : Host.Outcome State Fault Refusal :=
  inRange (decide (port < 2)) (s.readLatch port 0x100C fun p => { p with
    logData := Tbl.setRun 0 [] 1 ((List.range 7).map fun i => word (fieldAt (s.selEntry port) (4 * i + 4) 4)) })

/-- EL_CLASS_CNT_LO_READ (R448). -/
def execElClassCntLoRead (port : Nat) (s : State) : Host.Outcome State Fault Refusal :=
  inRange (decide (port < 2)) (s.readLatch port 0x1030 fun p => { p with classCntHi := hi32 (s.selClass port).count })

/-- PW_CTX_ENERGY_LO_READ: one latch for the context, which only the owner's read sets (R476, R483). -/
def execPwCtxEnergyLoRead (port ctx : Nat) (s : State) : Host.Outcome State Fault Refusal :=
  let off := 0x10000 + 0x400 * ctx + 4 * 54
  let t := s.answerRead port off
  inRange (decide (port < 2) && ctxOk ctx) (if s.serves off && s.owns port ctx then
    t.modRegs ctx fun r => { r with pwEnergyHi := hi32 r.pwEnergy.toNat } else t)

/-- PW_IDLE_ENERGY_LO_READ: one latch for the module (R476). -/
def execPwIdleEnergyLoRead (port : Nat) (s : State) : Host.Outcome State Fault Refusal :=
  let t := s.answerRead port 0x1410
  inRange (decide (port < 2)) (if s.serves 0x1410 then
    { t with pw := { t.pw with idleEnergyHi := hi32 s.pw.idleEnergy.toNat } } else t)

end Sys2Proof.Machine
end

