-- ==== Sys2Proof/Machine/RegWrite.lean ====
section
/-! DEFINITION. What a BAR0 write does, register by register (R6, R482–R484). -/

namespace Sys2Proof.Machine

/-! ### Effects with a row of their own -/

/-- HX_VERSION is written: the highest common version with the device's range 1–1 (R486). -/
def State.versionWrite (s : State) (port : Nat) (v : Word) : State :=
  let lo := fld v 0 4
  let hi := fld v 4 4
  let sel := if lo ≤ 1 ∧ 1 ≤ hi then 1 else 0
  let p := s.port port
  if (ctxNums.any fun c => s.owns port c) ∧ sel ≠ p.selected then s
  else s.setPort port { p with selected := sel, hostMax := hi, hostMin := lo }

/-- HX_VERSION_WRITE (R486). -/
def execHxVersionWrite (port : Nat) (v : Word) (s : State) : Host.Outcome State Fault Refusal :=
  inRange (decide (port < 2)) (s.bar0 (.hxVersionWrite port v) fun t => t.versionWrite port v)

/-- HX_CPL_CONS is written; records that waited for space follow (R494, R496). -/
def State.consWrite (s : State) (port : Nat) (v : Word) : State :=
  let p := s.port port
  if 65536 < (p.cplProd - v).toNat then s
  else (s.setPort port { p with cplCons := v }).drainWaiting port p.waiting

/-- HX_CPL_CONS_WRITE (R494). -/
def execHxCplConsWrite (port : Nat) (v : Word) (s : State) : Host.Outcome State Fault Refusal :=
  inRange (decide (port < 2)) (s.bar0 (.hxCplConsWrite port v) fun t => t.consWrite port v)

/-- HX_HOST_BEAT is written (R499, R503). -/
def State.beatWrite (s : State) (port : Nat) (v : Word) : State := s.modPort port fun p => { p with beat := v }

/-- HX_HOST_BEAT_WRITE (R503). -/
def execHxHostBeatWrite (port : Nat) (v : Word) (s : State) : Host.Outcome State Fault Refusal :=
  inRange (decide (port < 2)) (s.bar0 (.hxHostBeatWrite port v) fun t => t.beatWrite port v)

/-- MS_LAT_SEL is written: the bins are cleared (R248, R254). -/
def State.latSelWrite (s : State) (port : Nat) (v : Word) : State :=
  s.modPort port fun p => { p with latSel := putLatSel v, latBins := [] }

/-- MS_LAT_SEL_WRITE (R248). -/
def execMsLatSelWrite (port : Nat) (v : Word) (s : State) : Host.Outcome State Fault Refusal :=
  inRange (decide (port < 2)) (s.bar0 (.msLatSelWrite port v) fun t => t.latSelWrite port v)

/-- MS_HBM_CFG is written (R252). -/
def State.hbmCfgWrite (s : State) (v : Word) : State :=
  s.chans.foldl (fun t e => if t.wrBurst ≤ (t.chan e.1).buffered.length then t.turnBus e.1 else t)
    { s with hbmCfg := putHbmCfg s.hbmCfg v }

/-- MS_HBM_CFG_WRITE (R252). -/
def execMsHbmCfgWrite (port : Nat) (v : Word) (s : State) : Host.Outcome State Fault Refusal :=
  inRange (decide (port < 2)) (s.bar0 (.msHbmCfgWrite port v) fun t => t.hbmCfgWrite v)

/-- EL_LOG_STATE.clear: the selected class loses its entries and its overflow flag; its count stays (R429, R447). -/
def State.logClear (s : State) (port : Nat) : State :=
  let cls := fld (s.port port).logSel 8 8
  let e := Tbl.get ErrClass.reset s.err.classes cls
  if 1 ≤ cls ∧ cls ≤ 0x17 then
    { s with err := { s.err with
      classes := Tbl.set ErrClass.reset s.err.classes cls { e with first := [], last := [], overflow := false } } }
  else s

/-- EL_LOG_CLEAR (R429). -/
def execElLogClear (port : Nat) (s : State) : Host.Outcome State Fault Refusal :=
  inRange (decide (port < 2)) (s.bar0 (.elLogClear port) fun t => t.logClear port)

/-! ### The other registers -/

/-- Host block. -/
def State.writeHost (s : State) (port i : Nat) (v : Word) : State :=
  match i with
  | 0 => s.versionWrite port v
  | 1 => s.modPort port fun p => { p with hostLost := p.hostLost && !flag v 8 }
  | 2 => s.modPort port fun p => { p with postLo := v }
  | 3 => s.mbxPost port v
  | 4 => s.modPort port fun p => { p with discarded := p.discarded && !flag v 7 }
  | 6 => s.consWrite port v
  | 7 => s.modPort port fun p => { p with cplDrop := v }
  | 8 => s.beatWrite port v
  | 9 => s.modPort port fun p => { p with hostCfg := lowBits v 16 }
  | 10 => s.modPort port fun p => { p with irqCfg := putIrqCfg v }
  | 11 => s.modPort port fun p => { p with irqStatus := w1c p.irqStatus v 0xFF0F }
  | 12 => s.modPort port fun p => { p with bar2Cfg := keepFields v [(31, 1), (16, 3), (0, 12)] }
  | _ => s

/-- Synchronisation block. -/
def State.writeSu (s : State) (port i : Nat) (v : Word) : State :=
  match i with
  | 0 => s.modPort port fun p => { p with suCtrSel := lowBits v 18 }
  | 2 => { s with fenceFull := s.fenceFull && !flag v 31 }
  | _ => s

/-- Memory-service block. -/
def State.writeMem (s : State) (port i : Nat) (v : Word) : State :=
  match i with
  | 0 => s.hbmCfgWrite v
  | 2 => s.modPort port fun p => { p with granSel := lowBits v 14 }
  | 5 => s.modPort port fun p => { p with retireSel := lowBits v 14 }
  | 7 => s.latSelWrite port v
  | i => if 8 ≤ i ∧ i < 24 then s.modPort port fun p => { p with latBins := Tbl.set 0 p.latBins (i - 8) v } else s

/-- Link and topology block. -/
def State.writeTopo (s : State) (port i : Nat) (v : Word) : State :=
  match i with
  | 0 => { s with fab := { s.fab with lkCfg := putLkCfg v } }
  | 1 => { s with fab := { s.fab with ovrRefused := s.fab.ovrRefused && !flag v 24 } }
  | 2 => s.modPort port fun p => { p with tblSel := lowBits v 16 }
  | 5 => { s with fab := { s.fab with dropCnt := v } }
  | 6 => { s with fab := { s.fab with fdCfg := putFdCfg v } }
  | i => if 8 ≤ i ∧ i < 16 then s.ovrWrite (i - 8) v else s

/-- Error-log block. -/
def State.writeErr (s : State) (port i : Nat) (v : Word) : State :=
  match i with
  | 0 => { s with err := { s.err with seen := s.err.seen &&& ~~~(BitVec.ofNat 4 (fld v 0 4)) } }
  | 1 => { s with err := { s.err with fatalAction := putFatalAction v } }
  | 2 => s.modPort port fun p => { p with logSel := keepFields v [(8, 8), (0, 4)] }
  | 11 => if flag v 9 then s.logClear port else s
  | 16 => { s with err := { s.err with wdCfg := putWdCfg v } }
  | _ => s

/-- Power block, PW_STANDBY aside. -/
def State.writePower (s : State) (port i : Nat) (v : Word) : State :=
  match i with
  | 0 => s.modPort port fun p => { p with pwCap := BitVec.ofNat 32 (s.storedCap (fld v 0 12)) }
  | 1 => { s with pw := { s.pw with uniform := flag v 0 } }
  | _ => s

/-- A monitor. -/
def State.writeMon (s : State) (m i : Nat) (v : Word) : State :=
  let x := s.monitor m
  match i with
  | 0 => s.monCfg m v
  | 1 => s.setMonitor m { x with base := v }
  | 2 => s.setMonitor m { x with thrHi := v }
  | 3 => s.setMonitor m { x with thrLo := v }
  | _ => s

/-- A cluster or lid slice. -/
def State.writeCluster (s : State) (cl i : Nat) (v : Word) : State :=
  match i with
  | 1 => s.setCluster cl { s.cluster cl with droops := v }
  | 2 => s.setCluster cl { s.cluster cl with lidErr := v }
  | _ => s

/-- A link port. -/
def State.writeLink (s : State) (l i : Nat) (v : Word) : State :=
  match i with
  | 1 =>
    let s1 := s.portDisable l (flag v 0)
    let s2 := if flag v 1 then s1.laneRelease l 0 else s1
    if flag v 2 then s2.laneRelease l 1 else s2
  | 2 => s.modLink l fun k => { k with errCnt := v }
  | 5 => s.modLink l fun k => { k with fec0 := v }
  | 6 => s.modLink l fun k => { k with fec1 := v }
  | _ => s

/-- A physical core. -/
def State.writeCore (s : State) (p i : Nat) (v : Word) : State :=
  match i with
  | 1 => s.modCore p fun k => { k with
      warp := { k.warp with mismatches := BitVec.ofNat 16 (fld v 0 16) }
      weft := { k.weft with mismatches := BitVec.ofNat 16 (fld v 16 16) } }
  | 5 => s.modCore p fun k => { k with msCsErr := v }
  | _ => s

/-- Registers of a context that are written at any time, in the order of R482. -/
def CtxRegs.write (r : CtxRegs) (i : Nat) (v : Word) : CtxRegs :=
  match i with
  | 0 => { r with tsFlags := r.tsFlags &&& ~~~(BitVec.ofNat 6 (fld v 0 6)) }
  | 1 => { r with tsEscOvfCnt := v }
  | 2 => { r with tsT2InvCnt := v }
  | 6 => { r with tsAccSat := r.tsAccSat && !flag v 2 }
  | 7 => { r with tsLsConfig := putLsConfig v }
  | 8 => { r with tsLsRange := putLsRange v }
  | 10 => { r with ceWinDrop := v }
  | 11 => { r with msPoison := v }
  | 24 => { r with stWindowDrop := r.stWindowDrop && !flag v 7, stDigestBad := r.stDigestBad && !flag v 6 }
  | 27 => { r with stReplays := v }
  | 33 => { r with stHistCfg := putHistCfg r.stHistCfg v }
  | _ => r

/-- Registers of a context that are written only while it is CREATED or FINISHED (R290, R349–R354, R388–R390, R419). -/
def CtxRegs.writeSetUp (r : CtxRegs) (i : Nat) (v : Word) : CtxRegs :=
  match i with
  | 12 => { r with lkJob := lowBits v 16 }
  | 13 => { r with stCfg := putStCfg v }
  | 14 => { r with stSkein := putStSkein v }
  | 15 => { r with stPersist := lowBits v 16 }
  | 16 => { r with stTree := putStTree v }
  | 17 => { r with stShardOwn := v }
  | 18 => { r with stShardMir := v }
  | 19 => { r with stPeer0 := putStPeer v }
  | 20 => { r with stPeer1 := putStPeer v }
  | 21 => { r with stPeer2 := putStPeer v }
  | 22 => { r with stPeer3 := putStPeer v }
  | 23 => { r with stTrace := putStTrace v }
  | 28 => { r with stPair := putStPair v }
  | 29 => { r with stRegmap := v }
  | 30 => { r with stRecov := putStRecov v }
  | 50 => { r with msCkptCfg := putCkptCfg v }
  | _ => r

/-- A context's register. -/
def State.writeCtx (s : State) (c i : Nat) (v : Word) : State :=
  s.modCtx c fun x =>
    let r := x.regs.write i v
    { x with
      regs := if x.setUp then r.writeSetUp i v else r
      ck := if i = 51 then { x.ck with promoted := x.ck.promoted && !flag v 8 } else x.ck }

/-- A write at an offset, PW_STANDBY aside. Writes of read-only registers, and at offsets of none, are dropped. -/
def State.regWrite (s : State) (port off : Nat) (v : Word) : State :=
  if off < 0x400 then s.writeHost port (off / 4) v
  else if off < 0x800 then s.writeSu port (regIx off 0x400) v
  else if off < 0xC00 then s.writeMem port (regIx off 0x800) v
  else if off < 0x1000 then s.writeTopo port (regIx off 0xC00) v
  else if off < 0x1400 then s.writeErr port (regIx off 0x1000) v
  else if off < 0x1800 then s.writePower port (regIx off 0x1400) v
  else match inBlock off 0x2000 0x80 16 with
  | some (i, r) => s.writeMon i r v
  | none => match inBlock off 0x4000 0x10 16 with
  | some (i, r) => s.writeCluster i r v
  | none => match inBlock off 0x5000 0x20 40 with
  | some (i, r) => s.writeLink i r v
  | none => match inBlock off 0x6000 0x10 256 with
  | some (i, r) => if r = 0 then s.modChan i fun c => { c with err := v } else s
  | none => match inBlock off 0x8000 0x20 192 with
  | some (i, r) => if s.ownsCore port i then s.writeCore i r v else s
  | none => match inBlock off 0x10000 0x400 8 with
  | some (i, r) => if s.owns port i then s.writeCtx i r v else s
  | none => match inBlock off 0xFE000 4 128 with
  | some (i, _) => s.modPort port fun p => { p with msix := Tbl.set 0 p.msix i v }
  | none => s

/-- PW_STANDBY is written (R477): entry as any write, exit served by HLT. -/
def State.standbyWrite (s : State) (port : Nat) (v : Word) : State :=
  let s1 := if flag v 0 then s.askStandby (.standbyEnter port) else s
  if flag v 1 ∧ s.hltServes then s1.leaveStandby else s1

/-- REGISTER_WRITE (R6, R482–R484). -/
def execRegisterWrite (port offset : Nat) (v : Word) (s : State) : Host.Outcome State Fault Refusal :=
  inRange (decide (port < 2) && decide (offset < 0x400000) && decide (offset % 4 = 0))
    (if offset = 0x1418 then s.standbyWrite port v
     else s.bar0 (.registerWrite port offset v) fun t => t.regWrite port offset v)

end Sys2Proof.Machine
end

