-- ==== Sys2Proof/Machine/Boot.lean ====
section
/-! DEFINITION. Starting (R507–R517), the resets that lead to a start (R437–R439, R548, R554), and verification of images
and records (R508–R511, R516). -/

namespace Sys2Proof.Machine

/-! ### Flash (R507) -/

/-- Places and sizes of the image's and the record's area (R507). -/
def imageArea : Nat := 0
def imageSize : Nat := 2 ^ 24
def recordArea : Nat := 0x01000000
def recordSpace : Nat := 2 ^ 18
def recordBytesUsed : Nat := 0x1600
def identityArea : Nat := 0x01110000

/-- The byte lies in an area that has been erased. -/
def Boot.isErased (b : Boot) (k : Nat) : Bool :=
  decide (k < imageSize) && b.erased.contains imageArea ||
    decide (recordArea ≤ k) && decide (k < recordArea + recordSpace) && b.erased.contains recordArea

/-- A byte of flash: as written, 0xFF where erased since, or as manufactured. -/
def Boot.flashByte (b : Boot) (k : Nat) : Byte :=
  (Tbl.get none b.flash k).getD (if b.isErased k then 0xFF else Config.factoryByte k)

def Boot.flashRead (b : Boot) (a n : Nat) : List Byte := (List.range n).map fun i => b.flashByte (a + i)

def Boot.flashWrite (b : Boot) (a : Nat) (bs : List Byte) : Boot := { b with flash := Tbl.setRun none b.flash a (bs.map some) }

/-- The image's or the record's area is erased whole (R520). -/
def Boot.eraseArea (b : Boot) (kind : Nat) : Boot :=
  let area := if kind = 2 then recordArea else imageArea
  { b with
    flash := Tbl.clearRun b.flash area (if kind = 2 then recordSpace else imageSize), erased := keyInsert area b.erased }

/-- The staged bytes. -/
def Boot.staged' (b : Boot) (a n : Nat) : List Byte := Tbl.getRun 0 b.staging a n

/-! ### Signature blocks (R509, R510) -/

/-- The padding of a signature block is zero. -/
def sigPadOk (g : List Byte) : Bool := allZero (slice g 0x61 7) && allZero (slice g 0x56C 4)

/-- A signature block over a message, against two slots (key hashes, and whether revoked): the slot, or the cause of
the failure. -/
def verifySig (g msg : List Byte) (slots : List (Option (List Byte × List Byte) × Bool)) : Except Nat Nat :=
  let key := slice g 0 97
  let lms := slice g 0xC8 48
  let fits := fun i => match slots.getD i (none, true) with
    | (some (e, l), false) => decide (sha384 key = e) && decide (sha384 lms = l)
    | _ => false
  match [0, 1].find? fits with
  | none => .error Code.btImgKey
  | some i =>
    if !Config.ecdsaOk key (sha384 msg) (slice g 0x68 96) then .error Code.btImgEcdsa
    else if !Config.lmsOk lms msg (slice g 0xF8 1140) then .error Code.btImgLms
    else .ok i

def Fuses.revoked (f : Fuses) (i : Nat) : Bool := bitAt f.revoke.toNat i
def Fuses.vendors (f : Fuses) : List (Option (List Byte × List Byte) × Bool) :=
  [(f.vendor0, f.revoked 0), (f.vendor1, f.revoked 1)]
def Fuses.owners (f : Fuses) : List (Option (List Byte × List Byte) × Bool) :=
  [(f.owner0, f.revoked 2), (f.owner1, f.revoked 3)]

/-! ### The image (R508, R510, R511) -/

/-- Section entry k of a header: type, offset, bytes, digest. -/
structure Section' where
  type : Nat
  off : Nat
  bytes : Nat
  digest : List Byte
  deriving DecidableEq, Repr

def sectionAt (h : List Byte) (k : Nat) : Section' :=
  let e := slice h (0x20 + 80 * k) 80
  ⟨fieldAt e 0 1, fieldAt e 8 8, fieldAt e 16 8, slice e 24 48⟩

/-- The header's fields lie within R508. -/
def imageHeaderOk (h : List Byte) : Bool :=
  let size := fieldAt h 0x10 8
  let ss := (List.range 6).map (sectionAt h)
  fieldAt h 0 4 == 0x44454C47 && fieldAt h 4 2 == 1 && fieldAt h 6 1 == 6 && decide (fieldAt h 7 1 < 4) &&
  decide (1 ≤ fieldAt h 8 2) && decide (fieldAt h 8 2 ≤ 4095) && decide (fieldAt h 0x0A 1 ≤ 64) &&
  allZero (slice h 0x0B 5) && decide (0x1000 ≤ size) && decide (size ≤ 2 ^ 24) && allZero (slice h 0x18 8) &&
  ((List.range 6).all fun k =>
    let e := slice h (0x20 + 80 * k) 80
    allZero (slice e 1 7) && allZero (slice e 72 8)) &&
  ([1, 2, 3, 4, 5, 6].all fun t => (ss.filter fun x => x.type == t).length == 1) &&
  (ss.all fun x => aligned x.off 4096 && decide (0x1000 ≤ x.off) && decide (x.off + x.bytes ≤ size)) &&
  ((List.range 6).all fun i => (List.range i).all fun j =>
    !overlaps (ss.getD i ⟨0, 0, 0, []⟩).off (ss.getD i ⟨0, 0, 0, []⟩).bytes (ss.getD j ⟨0, 0, 0, []⟩).off
      (ss.getD j ⟨0, 0, 0, []⟩).bytes) &&
  allZero (slice h (0x20 + 480) 160) && allZero (slice h 0x2A0 96) && sigPadOk (slice h 0x300 0x570) &&
  allZero (slice h 0x870 1936)

/-- Verify an image read by `rd`: the slot, or the stage and the cause of the failure. -/
def Fuses.verifyImage (f : Fuses) (rd : Nat → Nat → List Byte) : Except (Nat × Nat) Nat :=
  let h := rd 0 0x1000
  if !imageHeaderOk h then .error (3, Code.btImgHeader)
  else match verifySig (slice h 0x300 0x570) (slice h 0 0x300) f.vendors with
  | .error c => .error (4, c)
  | .ok i =>
    if fieldAt h 0x0A 1 < f.svn then .error (4, Code.btImgRollback)
    else if (List.range 6).all fun k =>
        let x := sectionAt h k
        decide (sha384 (rd x.off x.bytes) = x.digest) then .ok i
    else .error (5, Code.btImgSection)

/-! ### The configuration record (R294, R305, R516) -/

/-- What the key ladder derives from: the fused secret, or in lifecycle RMA the fixed value (R522). -/
def Fuses.secret (f : Fuses) : BitVec 384 := if f.lifecycle = 3 then Config.rmaUds else f.uds

/-- The module's own id (R522). -/
def Fuses.moduleId (f : Fuses) : List Byte := (Config.identity f.secret).take 8

/-- Entry l of a record's neighbour plan is valid; a group port's agrees with R293. -/
def planEntryOk (r : List Byte) (l : Nat) : Bool :=
  let e := slice r (0x40 + 16 * l) 16
  let ex := fieldAt e 0 1
  let fl := fieldAt e 1 1
  let pos := fieldAt r 0x018 2
  let peer := fieldAt e 2 2
  decide (ex ≤ 3) && decide (fl < 4) && (!bitAt fl 1 || isGlobal l) && allZero (slice e 5 3) &&
  (match ex with
    | 0 => peer == 0
    | 1 => decide (peer ≤ 8223)
    | _ => decide (12288 ≤ peer) && decide (peer ≤ 16383)) &&
  decide (fieldAt e 4 1 < 40) &&
  (decide (31 ≤ l) || (ex == 1 && peer == pos / 32 * 32 + (pos % 32 + l + 1) % 32 && fieldAt e 4 1 == 30 - l))

/-- Every rule of the record's fields holds. -/
def cfgRecordOk (f : Fuses) (r : List Byte) : Bool :=
  let pos := fieldAt r 0x018 2
  let n := fieldAt r 0x01A 2
  let part := fieldAt r 0x026 2
  let lanes := (List.range 80).map fun k => slice r (0x2C0 + 4 * k) 4
  fieldAt r 0 4 == 0x47464E43 && fieldAt r 4 2 == 1 && fieldAt r 6 2 == 0 && fieldAt r 8 8 != 0 &&
  decide (slice r 0x010 8 = f.moduleId) && decide (pos ≤ 8223) && decide (1 ≤ n) && decide (n ≤ 257) &&
  decide (pos / 32 < n) && decide (600 ≤ fieldAt r 0x01C 2) && decide (fieldAt r 0x01C 2 ≤ 1900) &&
  fieldAt r 0x01E 2 == 0 && fieldAt r 0x020 4 != 0 && profileOk (fieldAt r 0x020 4) && decide (fieldAt r 0x024 1 < 16) &&
  decide (fieldAt r 0x025 1 ≤ 2) && (part == 0xFFFF || (decide (part ≤ 8223) && part / 32 != pos / 32)) &&
  decide (fieldAt r 0x028 8 < 2 ^ 40) && allZero (slice r 0x030 16) && ((List.range 40).all (planEntryOk r)) &&
  (lanes.all fun e => decide (fieldAt e 0 1 < 80) && decide (fieldAt e 1 1 < 4) && fieldAt e 2 2 == 0) &&
  (lanes.map fun e => fieldAt e 0 1).dedup.length == 80 &&
  ((List.range 257).all fun g =>
    let m := fieldAt r (0x400 + 4 * g) 4
    decide (popcount 32 m ≤ 4) && (decide (g < n) || m == 0)) &&
  allZero (slice r 0x804 2044) && allZero (slice r 0x1570 144)

/-- Verify a record's signatures: any failure is the one cause. -/
def Fuses.recordSigned (f : Fuses) (r : List Byte) : Bool :=
  sigPadOk (slice r 0x1000 0x570) && (match verifySig (slice r 0x1000 0x570) (slice r 0 0x1000) f.owners with
    | .ok _ => true
    | .error _ => false)

/-! ### A start (R513–R517) -/

/-- A start fails at a stage: WAIT, with the code; the log holds it once HLT runs (R514, R537). -/
def State.bootFail (s : State) (stage code : Nat) : State :=
  let w := codeAt code stage
  let s1 : State := { s with boot := { s.boot with stage := 0xE0, err := w, startDue := false } }
  if 9 < stage then s1.report w else s1

/-- Repair records are re-applied (R242). -/
def State.applyRepair (s : State) (r : Repair) : State :=
  match r with
  | .remap ch bank row spare => s.modChan ch fun c =>
    { c with remapped := (c.remapped.filter fun r => !(r.1 == bank && r.2.1 == row)) ++ [(bank, row, spare)] }
  | .badSpare ch bank spare => s.modChan ch fun c =>
    { c with badSpares := c.badSpares ++ [(bank, spare)], sparesBad := c.sparesBad + 1 }
  | .retired ch page => s.modChan ch fun c => { c with retired := c.retired ++ [page] }
  | .mapOut ch => s.modChan ch fun c => { c with mappedOut := true }

/-- The chip table at start: positions of every group, stakes among them (R296, R301). -/
def chipsAtStart (r : List Byte) : Tbl Word :=
  (List.range (fieldAt r 0x01A 2)).flatMap fun g => (List.range 32).map fun k =>
    (g * 32 + k, chipWord (if bitAt (fieldAt r (0x400 + 4 * g) 4) k then 2 else 1) g k 0)

/-- What SEC sets from the record (R517): port enables and the chip table; the other values are read from it. -/
def State.fromRecord (s : State) (r : List Byte) : State :=
  let s1 : State := { s with boot := { s.boot with record := r }, fab := { s.fab with chipTable := chipsAtStart r } }
  (List.range 40).foldl (fun t l => t.modLink l fun k => { k with disable := !bitAt (fieldAt r 0x028 8) l }) s1

/-- The next LMS index, when SEC starts: J of a journal that reads correctly, else the checkpoint; a journal that does
not counts as reaching no further (R523). -/
def State.lmsStart (s : State) (journalOk : Bool) : State :=
  let q := if journalOk then s.boot.journal else s.fuses.lmsCkpt * 16384
  { s with boot := { s.boot with
    lmsNext := q, journal := q, journalBad := !journalOk, lmsLow := decide (2 ^ 20 - q < 16384)
    lmsExhausted := decide (2 ^ 20 ≤ q) } }

/-- What SEC found at its start is reported once HLT has started (R513, R523). -/
def State.lmsReports (s : State) : State :=
  let s2 := if s.boot.journalBad then s.report (codeAt Code.btLmsJournal 0) else s
  let s3 := if s.boot.lmsLow then s2.report (codeAt Code.btLmsLow 0) else s2
  if s.boot.lmsExhausted then s3.report (codeAt Code.btLmsExhausted 0) else s3

/-- An image with commit_svn reaches READY: the svn fuses follow it (R511). -/
def State.commitSvn (s : State) : State :=
  let h := s.boot.imageMsg
  let svn := fieldAt h 0x0A 1
  if bitAt (fieldAt h 7 1) 0 ∧ s.fuses.svn < svn then
    ({ s with fuses := { s.fuses with svn := svn } } : State).report (codeAt Code.btSvnAdvanced 0)
  else s

/-- Stages 0x0A on: memory, kernels, links, SCH (R513). -/
def State.bootLate (s : State) (env : BootEnv) : State :=
  if !env.memOk then s.bootFail 0x0A Code.btMemInit
  else if !env.kernelsRun then s.bootFail 0x0B Code.btMcStart
  else
    let s2 := s.kakFailed ⟨env.badArrays, env.badCores, env.badChannels, env.badLidUnits⟩
    if !env.fabOk then s2.bootFail 0x0C Code.btMcStart
    else if !env.schOk then s2.bootFail 0x0D Code.btMcStart
    else
      let b := s2.boot
      ({ s2 with
        boot := { b with stage := stageReady, updPending := false }
        err := { s2.err with causeWritten := false }
        board := { s2.board with alert := s2.board.leakWet } } : State).commitSvn

/-- Stages 0x08 on: cluster rails, then HLT. A rail that failed to come up earlier is reported, as the fatal error it
is, by the start that reaches HLT; its reset action waits for READY (R554). -/
def State.bootCores (s : State) (env : BootEnv) : State :=
  if !env.pwcOk then s.bootFail 8 Code.btMcStart
  else if !env.hltOk then s.railsUp.bootFail 9 Code.btMcStart
  else
    let s1 := s.railsUp
    let t := (({ s1 with
      boot := { s1.boot with hltUp := true }, board := { s1.board with railFault := false } } : State).lmsReports).bootLate env
    let w := codeAt Code.pwRegFault 0xFF
    if !s.board.railFault then t
    else if t.boot.stage = stageReady then t.fatal w
    else (t.report w).keep w

/-- A start attempt begins: it is counted, updates end, and ports with PERST# high train (R513, R515). -/
def State.bootBegin (s : State) (env : BootEnv) : State :=
  let b := s.boot
  { s with
    boot := { b with
      attempt := min 0xFFFF (b.attempt + 1), startDue := false, stage := 1, selfTests := env.selftestOk && env.pairwiseOk
      recovered := b.recovering, udsLocked := false, hltUp := false
      updState := 0, staging := [], staged := 0, stagingOwner := none, waitOver := false }
    ports := [0, 1].foldl (fun t i => Tbl.set Port.reset t i
      { s.port i with linkUp := (s.port i).linkUp || s.board.perstHigh.contains i }) s.ports }

/-- Stage 0x07: SEC starts, takes up its LMS index and reads the record; then the rest (R513, R516, R523). -/
def State.bootSec (s : State) (env : BootEnv) (r : List Byte) : State :=
  let t := s.lmsStart env.journalOk
  if env.flashBad = some 7 then t.bootFail 7 Code.btFlashRead
  else if !t.fuses.recordSigned r then t.bootFail 7 Code.btCfgSig
  else if !cfgRecordOk t.fuses r then t.bootFail 7 Code.btCfgField
  else (t.boot.repairs.foldl State.applyRepair (t.fromRecord r)).bootCores env

/-- One start attempt (R513): the image, the keys and the record, then the rest. -/
def State.bootRun (s : State) (env : BootEnv) : State :=
  let s0 := s.bootBegin env
  let b := s0.boot
  if !env.selftestOk then s0.bootFail 1 Code.btSelftest
  else if env.flashBad = some 2 ∨ env.flashBad = some 3 then s0.bootFail (env.flashBad.getD 2) Code.btFlashRead
  else match s0.fuses.verifyImage (fun a n => b.flashRead (imageArea + a) n) with
  | .error (stage, code) => s0.bootFail stage (if stage = 5 ∧ env.flashBad = some 5 then Code.btFlashRead else code)
  | .ok slot =>
    let h := b.flashRead imageArea 0x1000
    let digests := [1, 2, 3, 4, 5, 6].map fun t =>
      (((List.range 6).map (sectionAt h)).find? fun x => x.type == t).elim [] Section'.digest
    let s1 : State := { s0 with boot := { b with
      imageMsg := slice h 0 0x300, sectionDigests := digests, imgSlot := slot
      identity := Config.identity s0.fuses.secret, udsLocked := true } }
    if env.flashBad = some 5 then s0.bootFail 5 Code.btFlashRead
    else if !env.pairwiseOk then s1.bootFail 6 Code.btSelftest
    else s1.bootSec env (b.flashRead recordArea recordBytesUsed)

/-- BOOT_START: a start that is due begins (R513). -/
def execBootStart (env : BootEnv) (s : State) : Host.Outcome State Fault Refusal :=
  inRange (kakInRange ⟨env.badArrays, env.badCores, env.badChannels, env.badLidUnits⟩)
    (if s.board.powered && !s.board.resetLow && s.boot.startDue then (s.bootRun env).tell s.stat else s)

/-- A new attempt begins as a cold reset would, with the PCIe links up and the attempt count, the code and the backoff
kept (R515). -/
def State.retry (s : State) (backoff : Nat) : State :=
  let t := s.coldReset s.err.resetKind
  { t with
    boot := { t.boot with err := s.boot.err, backoff := backoff, recovering := s.boot.recovering }
    ports := [0, 1].foldl (fun u i => Tbl.set Port.reset u i { Port.reset with linkUp := (s.port i).linkUp }) [] }

/-- BOOT_BACKOFF_EXPIRY: the next attempt starts, or waits for a staged transfer (R515). -/
def execBootBackoffExpiry (s : State) : Host.Outcome State Fault Refusal :=
  let b := s.boot
  .next (if !s.board.powered ∨ b.stage ≠ 0xE0 ∨ b.startDue then s
    else if b.stagingOwner.isSome then { s with boot := { b with waitOver := true } }
    else s.retry (min 60 (2 * b.backoff)))

/-- The EXTEST family (R549). -/
def isExtest : TapInstr → Bool
  | .extest | .extestPulse | .extestTrain => true
  | _ => false

/-! ### Power and the reset pin (R437–R439, R541, R548, R554) -/

/-- Power is lost: all but fuses and flash is gone; an image or record being written no longer verifies (R438, R520). -/
def State.losePower (s : State) : State :=
  let b := s.boot
  let torn := if b.updState = 3 then b.eraseArea b.stagingKind else b
  let t := s.coldCore 0
  { t with
    err := { Errors.reset with resetCause := b.keptCode.getD 0, fromFlash := b.keptCode.isSome }
    boot := { t.boot with attempt := 0, flash := torn.flash, erased := torn.erased, startDue := false }
    board := { Board.reset with
      powered := false, resetLow := s.board.resetLow, leakWet := s.board.leakWet, alert := false
      railFault := s.board.railFault, perstHigh := s.board.perstHigh } }

/-- POWER_LOSS (R437, R541). -/
def execPowerLoss (s : State) : Host.Outcome State Fault Refusal := .next (if s.board.powered then s.losePower else s)

/-- POWER_ON: the rails come up, or the module is held in reset (R554). -/
def execPowerOn (railsOk : Bool) (s : State) : Host.Outcome State Fault Refusal :=
  .next (if s.board.powered then s
    else State.tell { s with
      board := { s.board with 
        powered := true, railsGood := railsOk, railFault := s.board.railFault || !railsOk, alert := s.board.leakWet }
      boot := { s.boot with startDue := railsOk } } s.stat)

/-- RESET_L is low; the module, if it has power, goes through a cold reset once (R439, R548). -/
def State.resetLow (s : State) : State :=
  let w := codeAt Code.elResetCold 2
  let s1 := if !s.board.resetLow && s.board.powered then ((s.report w).keep w).coldCore 1 else s
  State.tell { s1 with board := { s1.board with resetLow := true } } s.stat

/-- RESET_L is high: the module leaves reset, and an EXTEST instruction acts as BYPASS (R548, R549). -/
def State.resetHigh (s : State) : State :=
  State.tell { s with board := { s.board with
    resetLow := false, tap := if isExtest s.board.tap then .bypass else s.board.tap } } s.stat

/-- RESET_L: low for 10 ms is a cold reset, a pulse below 1 ms nothing, and one between either (R548). -/
def State.resetPin (s : State) (us : Nat) (causes released : Bool) : State :=
  let s1 := if 10000 ≤ us ∨ (1000 ≤ us ∧ causes) then s.resetLow else s
  if released then s1.resetHigh else s1

def execResetL (lowMicros : Nat) (causes released : Bool) (s : State) : Host.Outcome State Fault Refusal :=
  .next (s.resetPin lowMicros causes released)

/-- PERSTX_L_DEASSERT: the port's link may train once the module is out of reset (R545, R554). -/
def execPerstDeassert (port : Nat) (s : State) : Host.Outcome State Fault Refusal :=
  inRange (decide (port < 2))
    (({ s with board := { s.board with perstHigh := keyInsert port s.board.perstHigh } } : State).modPort port fun p =>
      { p with linkUp := p.linkUp || (s.board.powered && !s.board.resetLow && s.boot.stage != 0) })

end Sys2Proof.Machine
end

