-- ==== Sys2Proof/Machine/Svc.lean ====
section
/-! DEFINITION. The service protocol, updates and provisioning (R518–R521), the LMS index (R523), and attestation
(R524, R525). -/

namespace Sys2Proof.Machine

/-! ### Requests and responses (R518) -/

def srcNum : SvcSource → Nat
  | .portA => 0 | .portB => 1 | .sideband => 2

/-- SEC answers a port's requests: it is out of reset and has started (R513). -/
def State.secServes (s : State) : Bool := s.board.powered && !s.board.resetLow && s.boot.stage != 0

/-- A source's requests are answered: the sideband's while there is input power, in reset too (R551). -/
def State.srcServed (s : State) (src : SvcSource) : Bool := if src = .sideband then s.board.powered else s.secServes

/-- The 16-byte response. -/
def State.svcAnswer (s : State) (src : SvcSource) (req : SvcReq) (status : Nat) (code : Word) : State :=
  s.emit (.svc src ([req.op] ++ leBytes 1 status ++ zeros 2 ++ leBytes 4 code.toNat ++ leBytes 8 s.boot.staged))

/-- The header's fields lie within R518, for an op. -/
def svcFieldsOk (req : SvcReq) (op : Nat) : Bool :=
  let t := req.target.toNat
  req.op.toNat == op && req.rsv == 0 && req.length.toNat == req.data.length && req.data.length % 4 == 0 &&
  decide (req.data.length ≤ 65536) &&
  (if op = 2 ∨ op = 3 then t == 1 || t == 2 else t == 0) &&
  (if op = 2 then decide (req.offset.toNat + req.data.length ≤ 2 ^ 24) else req.offset == 0)

/-- Start failed: the module is in WAIT, verifying or writing (R514). -/
def State.inWait (s : State) : Bool := decide (0xE0 ≤ s.boot.stage) && decide (s.boot.stage ≤ 0xE2)

/-- The source may change what the module holds: anyone in WAIT; else an admin port or the sideband, with every context
FREE (R520). -/
def State.svcAllowed (s : State) (src : SvcSource) : Bool :=
  s.inWait || (s.boot.stage == stageReady && (match src with
    | .sideband => true
    | .portA => s.portAdmin 0
    | .portB => s.portAdmin 1) && ctxNums.all fun c => (s.ctx c).st == .free)

/-- A report of an update: the aggregator takes it once HLT has started (R537). -/
def State.bootReport (s : State) (code : Word) : State :=
  if s.boot.stage = stageReady ∨ s.boot.hltUp then s.report code else s

/-- The outcome of an update request: BT_UPD_CODE, and BT_UPD_STATUS.state unless a transfer is staged, verified or
written (R535). -/
def State.updOutcome (s : State) (st : Nat) (code : Word) : State :=
  let b := s.boot
  let busy := b.stagingOwner.isSome || b.updState == 2 || b.updState == 3
  ({ s with boot := { b with updCode := code, updState := if busy then b.updState else st } } : State).bootReport code

/-- A request of a source is refused, or fails verification (R535, R537). -/
def State.updRefused (s : State) (src : SvcSource) : State := s.updOutcome 5 (codeAt Code.btUpdRefused (srcNum src))

def State.svcRefuse (s : State) (src : SvcSource) (req : SvcReq) (status : Nat) : State :=
  (s.updRefused src).svcAnswer src req status (codeAt Code.btUpdRefused (srcNum src))

/-- The code that STATUS returns: the kept code while STAT shows FATAL, that of a failed start, else of the last outcome
(R535, R547). -/
def State.statusCode (s : State) : Word :=
  if s.stat = 3 then s.err.resetCause else if s.inWait then s.boot.err else s.boot.updCode

/-- The staging SRAM is released; an attempt that waited for it starts (R515, R519). -/
def State.releaseStaging (s : State) : State :=
  let b := { s.boot with stagingOwner := none, updSource := 3, staging := [], staged := 0, updState := 0, waitOver := false }
  let s1 : State := { s with boot := b }
  if s.boot.waitOver then s1.retry (min 60 (2 * b.backoff)) else s1

/-- What every request meets first: BUSY for another source than the owner, while SEC restarts or while a write runs;
FIELD for a header outside R518. -/
def State.svcRow (s : State) (src : SvcSource) (req : SvcReq) (op : Nat) (guarded : Bool) (f : State → State) : State :=
  let owner := s.boot.stagingOwner
  if !s.srcServed src then s
  else if (owner.isSome && owner != some src) ∨ s.err.restarting.contains .sec ∨
      (guarded ∧ (s.boot.updState = 2 ∨ s.boot.updState = 3)) then s.svcAnswer src req 1 (if op = 1 then s.statusCode else 0)
  else if !svcFieldsOk req op then s.svcAnswer src req 3 0
  else if guarded ∧ !s.svcAllowed src then s.svcRefuse src req 2
  else f s

/-- SVC_STATUS (R518). -/
def execSvcStatus (src : SvcSource) (req : SvcReq) (s : State) : Host.Outcome State Fault Refusal :=
  .next (s.svcRow src req 1 false fun t => t.svcAnswer src req 0 t.statusCode)

/-- Data enters the staging SRAM (R519). -/
def State.stage (s : State) (src : SvcSource) (kind off : Nat) (data : List Byte) : State :=
  let b := s.boot
  { s with boot := { b with
    staging := Tbl.setRun 0 b.staging off data, staged := max b.staged (off + data.length), stagingOwner := some src
    stagingKind := kind, updState := 1, updSource := (srcNum src) } }

/-- SVC_WRITE (R519). -/
def execSvcWrite (src : SvcSource) (req : SvcReq) (s : State) : Host.Outcome State Fault Refusal :=
  .next (s.svcRow src req 2 true fun t =>
    (t.stage src req.target.toNat req.offset.toNat req.data).svcAnswer src req 0 0)

/-- The staged image or record verifies; a record's config_seq exceeds that of a record in flash that verifies
(R510, R516, R519). -/
def State.stagedOk (s : State) (kind : Nat) : Bool :=
  let b := s.boot
  if kind = 1 then (match s.fuses.verifyImage b.staged' with
    | .ok _ => true
    | .error _ => false)
  else
    let r := b.staged' 0 0x1600
    let old := b.flashRead recordArea 0x1600
    s.fuses.recordSigned r && cfgRecordOk s.fuses r &&
      (decide (fieldAt old 8 8 < fieldAt r 8 8) || !(s.fuses.recordSigned old && cfgRecordOk s.fuses old))

/-- A transfer is committed: verified, and written from then on, or discarded (R515, R519, R520). -/
def State.commit (s : State) (src : SvcSource) (kind : Nat) : State × Bool :=
  if s.boot.stagingOwner = some src ∧ s.stagedOk kind then
    let b := s.boot
    ({ s with boot := { b with
      stagingOwner := none, updSource := 3, commitSource := (srcNum src), stagingKind := kind, updState := 3
      stage := if s.inWait then 0xE2 else b.stage, waitOver := false } }, true)
  else (if s.boot.stagingOwner = some src then s.releaseStaging else s, false)

/-- SVC_COMMIT (R519, R520). -/
def execSvcCommit (src : SvcSource) (req : SvcReq) (s : State) : Host.Outcome State Fault Refusal :=
  .next (s.svcRow src req 3 true fun t =>
    let (u, ok) := t.commit src req.target.toNat
    if ok then u.svcAnswer src req 0 0 else u.svcRefuse src req (if t.boot.stagingOwner = some src then 4 else 2))

/-- SVC_ABORT: staged data is dropped and the staging SRAM released (R519). -/
def execSvcAbort (src : SvcSource) (req : SvcReq) (s : State) : Host.Outcome State Fault Refusal :=
  .next (s.svcRow src req 4 false fun t =>
    if t.boot.stagingOwner = some src then t.releaseStaging.svcAnswer src req 0 0 else t.svcAnswer src req 0 0)

/-! ### Provisioning and lifecycle (R519, R527) -/

/-- An update, provisioning or lifecycle change is done. -/
def State.updDone (s : State) (src : Nat) : State := s.updOutcome 4 (codeAt Code.btUpdDone src)

/-- An owner slot with new contents, or revoked. -/
def Fuses.program (f : Fuses) (slot : Nat) (v : List Byte × List Byte) : Fuses :=
  if slot = 0 then { f with owner0 := some v } else { f with owner1 := some v }

def Fuses.owner (f : Fuses) (slot : Nat) : Option (List Byte × List Byte) := if slot = 0 then f.owner0 else f.owner1

/-- What a PROVISION request answers and leaves: status and fuses. -/
def Fuses.provision (f : Fuses) (d : List Byte) : Nat × Fuses :=
  let slot := fieldAt d 0 1
  let act := fieldAt d 1 1
  let fresh := f.owner0.isNone && f.owner1.isNone
  let msg := slice d 0 0xA0
  let signed := match verifySig (slice d 0xA0 0x570) msg f.owners with
    | .ok _ => sigPadOk (slice d 0xA0 0x570)
    | .error _ => false
  if !(d.length = 0xA0 + 0x570 ∨ (fresh ∧ d.length = 0xA0)) ∨ 1 < slot ∨ !(act = 1 ∨ act = 2) ∨ !allZero (slice d 2 6) ∨ !allZero (slice d 0x69 7) then (3, f)
  else if !fresh ∧ !signed then (4, f)
  else if act = 1 then
    if (f.owner slot).isSome ∨ f.revoked (2 + slot) then (2, f)
    else (0, f.program slot (sha384 (slice d 8 97), sha384 (slice d 0x70 48)))
  else
    let g := { f with revoke := f.revoke ||| BitVec.ofNat 4 (2 ^ (2 + slot)) }
    if (g.owner0.isSome && !g.revoked 2) || (g.owner1.isSome && !g.revoked 3) then (0, g) else (2, f)

/-- SVC_PROVISION (R519). -/
def execSvcProvision (src : SvcSource) (req : SvcReq) (s : State) : Host.Outcome State Fault Refusal :=
  .next (s.svcRow src req 5 true fun t =>
    let (st, f) := t.fuses.provision req.data
    if st = 0 then (({ t with fuses := f } : State).updDone (srcNum src)).svcAnswer src req 0 (codeAt Code.btUpdDone (srcNum src))
    else if st = 3 then t.svcAnswer src req 3 0
    else t.svcRefuse src req st)

/-- The order of lifecycles (R527). -/
def lifeOrder : Nat → Nat
  | 0 => 0 | 1 => 1 | 3 => 2 | _ => 3

/-- SVC_LIFECYCLE: the change takes effect at the next cold reset (R519, R527). -/
def execSvcLifecycle (src : SvcSource) (req : SvcReq) (s : State) : Host.Outcome State Fault Refusal :=
  .next (s.svcRow src req 6 true fun t =>
    let d := req.data
    let tok := slice d 0 0xA0
    let v := Config.tokenValue tok
    let signed := match verifySig (slice d 0xA0 0x570) tok t.fuses.vendors with
      | .ok _ => sigPadOk (slice d 0xA0 0x570)
      | .error _ => false
    if d.length ≠ 0xA0 + 0x570 then t.svcAnswer src req 3 0
    else if !signed then t.svcRefuse src req 4
    else if Config.tokenModule tok ≠ t.fuses.moduleId ∨ !(v = 1 ∨ v = 3) ∨
        lifeOrder v ≤ lifeOrder t.fuses.lifecycle.toNat then t.svcRefuse src req 2
    else (({ t with boot := { t.boot with nextLifecycle := some (BitVec.ofNat 2 v) } } : State).updDone (srcNum src)).svcAnswer
      src req 0 (codeAt Code.btUpdDone (srcNum src)))

/-! ### Ends of a transfer -/

/-- STAGING_OWNER_TIMEOUT (R515, R519). -/
def execStagingOwnerTimeout (s : State) : Host.Outcome State Fault Refusal :=
  .next (if s.boot.stagingOwner.isSome then s.releaseStaging else s)

/-- A verified transfer is in flash, its area erased before and no byte beyond it written (R507): pending until the
next cold reset, or followed by the next attempt in WAIT (R515, R520). -/
def State.flashDone (s : State) : State :=
  let b := s.boot
  if b.updState ≠ 3 ∨ s.err.restarting.contains .sec then s
  else
    let area := if b.stagingKind = 2 then recordArea else imageArea
    let len := if b.stagingKind = 2 then recordBytesUsed else min b.staged imageSize
    let b1 := { (b.eraseArea b.stagingKind).flashWrite area (b.staged' 0 len) with
      staging := [], staged := 0, updPending := !s.inWait, updState := 0 }
    let s1 := ({ s with boot := b1 } : State).updDone b.commitSource
    if s.inWait then
      let t : State := { s1 with boot := { s1.boot with recovering := true, stage := 0xE0 } }
      t.retry 1
    else s1

/-- FLASH_WRITE_DONE (R520). -/
def execFlashWriteDone (s : State) : Host.Outcome State Fault Refusal := .next s.flashDone

/-- The one component of PLDM for Firmware Update, and its report on self-contained activation: not supported, so that a
request for it records a pending activation as any other (R521). -/
def pldmComponent : Nat := 0x0001
def pldmSelfContained : Bool := false

/-- PLDM_FIRMWARE_UPDATE: a part of the image is staged, with the sideband as the source (R521). -/
def execPldmFirmwareUpdate (part : FwPart) (data : List Byte) (s : State) : Host.Outcome State Fault Refusal :=
  let owner := s.boot.stagingOwner
  .next (if !s.srcServed .sideband then s
    else if part.component ≠ pldmComponent then s.emit (.pldm 2)
    else if (owner.isSome && owner != some .sideband) ∨ s.boot.updState = 2 ∨ s.boot.updState = 3 ∨
        s.err.restarting.contains .sec then s.emit (.pldm 4)
    else if 2 ^ 24 < part.offset + data.length then s.emit (.pldm 2)
    else if !s.svcAllowed .sideband then (s.updRefused .sideband).emit (.pldm 4)
    else (s.stage .sideband 1 part.offset data).emit (.pldm 0))

/-- ACTIVATE_FIRMWARE: an image staged by the sideband is verified and written, and is pending until the next cold
reset; R520's checks hold as for COMMIT (R520, R521). -/
def execActivateFirmware (s : State) : Host.Outcome State Fault Refusal :=
  .next (if !s.srcServed .sideband then s
    else if s.err.restarting.contains .sec then s.emit (.pldm 4)
    else if s.boot.stagingOwner = some .sideband ∧ s.boot.stagingKind = 1 then
      if !s.svcAllowed .sideband then (s.updRefused .sideband).emit (.pldm 4)
      else
        let (u, ok) := s.commit .sideband 1
        if ok then u.emit (.pldm 0) else (u.updRefused .sideband).emit (.pldm 1)
    else s.emit (.pldm (if s.boot.updPending ∨ s.boot.updState = 3 then 0 else 1)))

/-! ### LMS indices (R523, R529) -/

/-- An index is used: a checkpoint fuse and the journal go before it; none when none remain. -/
def State.useIndex (s : State) : Option Nat × State :=
  let q := s.boot.lmsNext
  if 2 ^ 20 ≤ q then (none, s)
  else
    let f := if s.fuses.lmsCkpt * 16384 ≤ q then s.fuses.lmsCkpt + 1 else s.fuses.lmsCkpt
    let j := if s.boot.journal ≤ q then q + 256 else s.boot.journal
    let left := 2 ^ 20 - (q + 1)
    let s1 : State := { s with
      fuses := { s.fuses with lmsCkpt := f }
      boot := { s.boot with
        lmsNext := q + 1, journal := j, lmsLow := s.boot.lmsLow || decide (left < 16384), lmsExhausted := left == 0 } }
    let s2 := if left < 16384 ∧ !s.boot.lmsLow then s1.report (codeAt Code.btLmsLow 0) else s1
    (some q, if left = 0 then s2.report (codeAt Code.btLmsExhausted 0) else s2)

/-! ### SPDM (R524, R525) -/

def spdmVersion : Nat := 0x04
def spdmCapabilities : Nat := 0x61
def spdmAlgorithms : Nat := 0x63
def spdmDigests : Nat := 0x01
def spdmCertificate : Nat := 0x02
def spdmChallengeAuth : Nat := 0x03
def spdmMeasurements : Nat := 0x60
def spdmError : Nat := 0x7F

/-- A response: its code and its contents. -/
def State.spdmSend (s : State) (port code : Nat) (body : List Byte) : State := s.emit (.spdm port (leBytes 1 code ++ body))

/-- Requests are answered once the keys are derived; busy while SEC restarts (R441, R513, R524). -/
def State.spdmRow (s : State) (port : Nat) (f : State → State) : State :=
  if !s.secServes ∨ s.boot.identity = [] then s
  else if s.err.restarting.contains .sec then s.spdmSend port spdmError [0x03]
  else f s

/-- The chain of slot 0: intermediate, DeviceID, Alias (R522, R524). -/
def State.certChain (s : State) : List Byte :=
  Config.chainOf (s.boot.flashRead identityArea 0x30000) ++
    Config.aliasCert s.fuses.secret (sha384 s.boot.imageMsg) (fieldAt s.boot.imageMsg 0x0A 1) s.fuses.lifecycle.toNat

/-- A signature of the Alias key. -/
def State.signAlias (s : State) (m : List Byte) : List Byte :=
  Config.aliasSign s.fuses.secret (sha384 s.boot.imageMsg ++ [BitVec.ofNat 8 (fieldAt s.boot.imageMsg 0x0A 1),
    BitVec.ofNat 8 s.fuses.lifecycle.toNat]) m

/-- GET_VERSION: version 1.3 (R524). -/
def execGetVersion (port : Nat) (s : State) : Host.Outcome State Fault Refusal :=
  inRange (decide (port < 2)) (s.spdmRow port fun t => t.spdmSend port spdmVersion (leBytes 2 0x1300))

/-- GET_CAPABILITIES: CERT, CHAL, and MEAS with signature (R524). -/
def execGetCapabilities (port : Nat) (s : State) : Host.Outcome State Fault Refusal :=
  inRange (decide (port < 2)) (s.spdmRow port fun t => t.spdmSend port spdmCapabilities (leBytes 4 0x16))

/-- NEGOTIATE_ALGORITHMS: measurement hash SHA-384, ECDSA P-384, hash SHA-384 (R524). -/
def execNegotiateAlgorithms (port : Nat) (s : State) : Host.Outcome State Fault Refusal :=
  inRange (decide (port < 2)) (s.spdmRow port fun t =>
    t.spdmSend port spdmAlgorithms (leBytes 4 0x04 ++ leBytes 4 0x80 ++ leBytes 4 0x02))

/-- GET_DIGESTS: slot 0 alone holds a chain (R524). -/
def execGetDigests (port : Nat) (s : State) : Host.Outcome State Fault Refusal :=
  inRange (decide (port < 2)) (s.spdmRow port fun t => t.spdmSend port spdmDigests ([0x01] ++ sha384 t.certChain))

/-- GET_CERTIFICATE: a portion of the chain of slot 0 (R524). -/
def execGetCertificate (port slot offset len : Nat) (s : State) : Host.Outcome State Fault Refusal :=
  inRange (decide (port < 2)) (s.spdmRow port fun t =>
    let c := t.certChain
    if slot ≠ 0 ∨ c.length ≤ offset then t.spdmSend port spdmError [0x01]
    else
      let part := (c.drop offset).take len
      t.spdmSend port spdmCertificate (leBytes 2 part.length ++ leBytes 2 (c.length - offset - part.length) ++ part))

/-- Free bytes: a responder's nonce. -/
def State.drawBytes (s : State) : Nat → List Byte × State
  | 0 => ([], s)
  | n + 1 =>
    let (v, s1) := s.draw
    let (r, s2) := s1.drawBytes n
    (BitVec.ofNat 8 v :: r, s2)

/-- CHALLENGE: the chain's digest and a nonce, signed by Alias with the requester's nonce (R524). -/
def execChallenge (port slot : Nat) (nonce : List Byte) (s : State) : Host.Outcome State Fault Refusal :=
  inRange (decide (port < 2)) (s.spdmRow port fun t =>
    if slot ≠ 0 then t.spdmSend port spdmError [0x01]
    else
      let (mine, t1) := t.drawBytes 32
      let body := sha384 t.certChain ++ mine
      t1.spdmSend port spdmChallengeAuth (body ++ t.signAlias (nonce ++ body)))

/-- The value of measurement block i, 1–10 (R525). -/
def State.measure (s : State) (i : Nat) : List Byte :=
  let b := s.boot
  match i with
  | 1 => Config.romDigest
  | 2 => sha384 b.imageMsg
  | 9 => sha384 (slice b.record 0 0x1000)
  | 10 => leBytes 1 s.fuses.svn ++ leBytes 1 (fieldAt b.imageMsg 0x0A 1) ++ leBytes 1 s.fuses.lmsCkpt ++
      leBytes 1 s.fuses.revoke.toNat ++ leBytes 1 s.fuses.lifecycle.toNat ++ leBytes 1 (b2n s.approved) ++ zeros 10
  | i => b.sectionDigests.getD (i - 3) []

/-- A block in the DMTF measurement format: index, specification 1, size, value type, value size, value. -/
def measureBlock (i type : Nat) (v : List Byte) : List Byte :=
  leBytes 1 i ++ leBytes 1 1 ++ leBytes 2 (v.length + 3) ++ leBytes 1 type ++ leBytes 2 v.length ++ v

/-- DMTF value type of a block: ROM, firmware, firmware configuration, raw data. -/
def measureType (i : Nat) : Nat := if i = 1 then 0 else if i ≤ 8 then 1 else if i = 9 then 3 else 0x83

def State.blockOf (s : State) (i : Nat) : List Byte := measureBlock i (measureType i) (s.measure i)

/-- GET_MEASUREMENTS: one block or all; a signed request for all is a report with the LMS block (R523, R525, R529). -/
def State.measurements (s : State) (port index : Nat) (signed : Bool) (nonce : List Byte) : State :=
  let is := if index = 0xFF then (List.range 10).map (· + 1) else [index]
  let blocks := is.flatMap s.blockOf
  if index = 0 then s.spdmSend port spdmMeasurements (leBytes 1 10)
  else if !(index = 0xFF ∨ index ≤ 10) then s.spdmSend port spdmError [0x01]
  else if !signed then s.spdmSend port spdmMeasurements (leBytes 1 is.length ++ blocks)
  else if index ≠ 0xFF then
    let body := leBytes 1 is.length ++ blocks
    s.spdmSend port spdmMeasurements (body ++ s.signAlias (nonce ++ body))
  else
    match s.useIndex with
    | (none, t) => t.spdmSend port spdmError [0x05]
    | (some q, t) =>
      if !Config.lmsTestOk q then t.spdmSend port spdmError [0x05]
      else
        let body := leBytes 1 11 ++ blocks ++ measureBlock 0x20 0x81 (Config.lmsSign s.fuses.secret q (sha384 (nonce ++ blocks)))
        t.spdmSend port spdmMeasurements (body ++ t.signAlias (nonce ++ body))

def execGetMeasurements (port index : Nat) (signed : Bool) (nonce : List Byte) (s : State) :
    Host.Outcome State Fault Refusal :=
  inRange (decide (port < 2)) (s.spdmRow port fun t => t.measurements port index signed nonce)

end Sys2Proof.Machine
end

