-- ==== Sys2Proof/Machine/Module.lean ====
section
/-! DEFINITION. The board controller's bus (R551, R552), the test access port (R549), and the module's own sensors
(R540, R541, R544, R550, R557). -/

namespace Sys2Proof.Machine

/-- The sideband serves: input power is present (R551). -/
def State.sideband (s : State) (f : State → State) : State := if s.board.powered then f s else s

/-- A report of the module hardware. -/
def State.mhReport (s : State) (code loc : Nat) : State := if s.board.powered then s.report (codeAt code loc) else s

/-! ### MCTP and PLDM (R551, R552) -/

/-- SET_ENDPOINT_ID (R551). -/
def execSetEndpointId (eid : Byte) (s : State) : Host.Outcome State Fault Refusal :=
  .next (s.sideband fun t => { t with board := { t.board with eid := eid } })

/-- The static address (R551). -/
def i3cStatic : Nat := 0x4C

/-- The address the module answers to, and whether it accepts legacy I2C transfers: until a dynamic address is assigned
(R551). -/
def Board.busAddr (b : Board) : Nat := b.i3cAddr.getD i3cStatic
def Board.legacyI2c (b : Board) : Bool := b.powered && b.i3cAddr.isNone

/-- I3C_ADDRESS_ASSIGN: SETDASA to the static address, or ENTDAA, gives the dynamic address (R551). -/
def execI3cAddressAssign (a : I3cAssign) (s : State) : Host.Outcome State Fault Refusal :=
  let (mine, addr) := match a with
    | .setdasa x y => (x == i3cStatic, y)
    | .entdaa y => (true, y)
  .next (s.sideband fun t => if t.board.i3cAddr.isSome ∨ 128 ≤ addr ∨ !mine then t
    else { t with board := { t.board with i3cAddr := some addr } })

/-- SET_EVENT_RECEIVER (R552). -/
def execSetEventReceiver (eid : Byte) (s : State) : Host.Outcome State Fault Refusal :=
  .next (s.sideband fun t => { t with board := { t.board with eventReceiver := some eid } })

/-- The module can act on an effecter: it has started, and no reset is in progress. -/
def State.effecterReady (s : State) : Bool :=
  s.board.powered && !s.board.resetLow && s.boot.stage == stageReady && !s.err.warmReset

/-- PLDM_CAP_EFFECTER: the board's cap request (R457, R552). -/
def execPldmCapEffecter (watts : Nat) (s : State) : Host.Outcome State Fault Refusal :=
  .next (s.sideband fun t =>
    if t.effecterReady then ({ t with pw := { t.pw with boardCap := t.storedCap watts } } : State).emit (.pldm 0)
    else t.emit (.pldm 4))

/-- PLDM_STANDBY_EFFECTER: 1 enters and 2 leaves standby; a refused entry is not ready (R469, R552). -/
def execPldmStandbyEffecter (v : Nat) (s : State) : Host.Outcome State Fault Refusal :=
  .next (s.sideband fun t =>
    if !t.effecterReady then t.emit (.pldm 4)
    else if v = 1 then
      let u := t.enterStandby
      u.emit (.pldm (if u.pw.standby = 0 then 4 else 0))
    else if v = 2 then t.leaveStandby.emit (.pldm 0)
    else t.emit (.pldm 2))

/-- PLDM_RESET_EFFECTER: 1 warm and 2 cold reset; nothing while a reset is in progress (R437, R552). -/
def execPldmResetEffecter (v : Nat) (s : State) : Host.Outcome State Fault Refusal :=
  .next (s.sideband fun t =>
    if t.board.resetLow ∨ t.err.warmReset ∨ !(t.boot.stage = stageReady ∨ t.inWait) then t.emit (.pldm 0)
    else if v = 1 then
      if t.boot.stage = stageReady then (t.requestWarm 2).emit (.pldm 0) else t.emit (.pldm 4)
    else if v = 2 then (t.requestCold 2).emit (.pldm 0)
    else t.emit (.pldm 2))

/-! ### Test access port (R549) -/

/-- Scan and debug access is open in lifecycle MANUFACTURING (R527). -/
def Fuses.debugOpen (f : Fuses) : Bool := f.lifecycle == 0

/-- An instruction that the port does not accept acts as BYPASS; one of scan or debug is accepted while that access is
open (R527, R549). -/
def State.tapIn (s : State) (i : TapInstr) : State :=
  let j := if (isExtest i && !s.board.resetLow) || (i == .other && !s.fuses.debugOpen) then .bypass else i
  let t : State := { s with board := { s.board with tap := j } }
  if j = .idcode then t.emit (.tdo (at32 28 1 ||| at32 12 0x0048 ||| at32 0 Config.bsdlId.toNat)) else t

/-- TAP_INSTRUCTION (R549). -/
def execTapInstruction (i : TapInstr) (s : State) : Host.Outcome State Fault Refusal := .next (s.sideband fun t => t.tapIn i)

/-! ### Sensors (R540, R541, R544, R550, R557) -/

/-- MH_LEAK: fatal, and ALERT_L and STAT hold while the sensor stays wet (R540, R547). -/
def execMhLeak (s : State) : Host.Outcome State Fault Refusal :=
  .next (s.sideband fun t =>
    (({ t with board := { t.board with leakWet := true, alert := true } } : State).tell t.stat).fatal
      (codeAt Code.mhLeak 0x20))

/-- LEAK_SENSOR_DRY: ALERT_L stays for a fatal report whose reset has not completed (R540, R546). -/
def execLeakSensorDry (s : State) : Host.Outcome State Fault Refusal :=
  .next (s.sideband fun t =>
    State.tell { t with board := { t.board with
      leakWet := false
      alert := t.err.fatalCode.isSome || t.err.warmReset || (t.board.alert && t.boot.stage != stageReady) } } t.stat)

/-- MH_COOLANT_HOT: the inlet has been above 45 °C for 10 s (R540). -/
def execMhCoolantHot (s : State) : Host.Outcome State Fault Refusal := .next (s.mhReport Code.mhCoolantHot 0x20)

/-- MH_FLOW_LOW: the outlet has been more than 15 K above the inlet for 10 s (R540). -/
def execMhFlowLow (s : State) : Host.Outcome State Fault Refusal := .next (s.mhReport Code.mhFlowLow 0x20)

/-- MH_INPUT_LOW of blade 1 or 2, once per excursion (R541, R557). -/
def execMhInputLow (blade : Nat) (s : State) : Host.Outcome State Fault Refusal :=
  inRange (blade == 1 || blade == 2) (s.sideband fun t =>
    if t.board.lowTold.contains blade then t
    else ({ t with board := { t.board with lowTold := t.board.lowTold ++ [blade] } } : State).report
      (codeAt Code.mhInputLow blade))

/-- MH_INPUT_HIGH of blade 1 or 2, once per excursion (R541, R557). -/
def execMhInputHigh (blade : Nat) (s : State) : Host.Outcome State Fault Refusal :=
  inRange (blade == 1 || blade == 2) (s.sideband fun t =>
    if t.board.highTold.contains blade then t
    else ({ t with board := { t.board with highTold := t.board.highTold ++ [blade] } } : State).report
      (codeAt Code.mhInputHigh blade))

/-- MH_CABLE_REMOVED of connector J1–J4 (R544, R557). -/
def execMhCableRemoved (conn : Nat) (s : State) : Host.Outcome State Fault Refusal :=
  inRange (decide (1 ≤ conn) && decide (conn ≤ 4)) (s.mhReport Code.mhCableRemoved (0x10 + conn))

/-- MH_REFCLK_LOST: the port's link goes down, which is host loss (R499, R550). -/
def execMhRefclkLost (port : Nat) (s : State) : Host.Outcome State Fault Refusal :=
  inRange (decide (port < 2)) (s.sideband fun t =>
    (t.report (codeAt Code.mhRefclkLost (0x30 + port))).resetPort port)

/-- MH_OSC_FAULT (R550). -/
def execMhOscFault (s : State) : Host.Outcome State Fault Refusal :=
  .next (s.sideband fun t => t.fatal (codeAt Code.mhOscFault 0))

end Sys2Proof.Machine
end

