-- ==== Sys2Proof/Machine/McRestart.lean ====
section
/-! DEFINITION. Crashes and restarts of the management cores (R441, R442). -/

namespace Sys2Proof.Machine

/-- Location of a management core (R425). -/
def mcLoc : Mc → Nat
  | .sec => 0 | .pwc => 1 | .fab => 2 | .sch => 3 | .hlt => 4

/-- The core runs, so that it can crash: SEC and HLT in standby too (R469). -/
def State.mcRuns (s : State) (mc : Mc) : Bool :=
  s.board.powered && !s.board.resetLow && s.boot.stage == stageReady && (s.pw.standby == 0 || mc == .sec || mc == .hlt)

/-- PWC's clamp: every cluster goes to the lowest step; a switch waits while a clock is stretched (R441, R465). -/
def State.clampAll (s : State) : State :=
  (List.range 16).foldl (fun t cl => (t.wantStep cl 0).beginChange cl) { s with pw := { s.pw with clamp := true } }

/-- A core crashes: fatal when its SRAM copy is bad or at the third crash within 600 s, else it restarts. -/
def State.crash (s : State) (mc : Mc) (imageUe : Bool) : State :=
  let recent := s.err.crashes.filter fun e => decide (s.suTime < e.2 + 600 * 10 ^ 9)
  let s1 : State := { s with err := { s.err with crashes := recent ++ [(mc, s.suTime)] } }
  if imageUe then s1.fatal (codeAt Code.mcImageUe (mcLoc mc))
  else if 2 ≤ (recent.filter fun e => e.1 == mc).length then s1.fatal (codeAt Code.mcRestartLimit (mcLoc mc))
  else
    let s2 := s1.report (codeAt Code.mcCrash (mcLoc mc))
    let s3 : State := { s2 with err := { s2.err with
      restarting := if s2.err.restarting.contains mc then s2.err.restarting else s2.err.restarting ++ [mc] } }
    if mc = .pwc then s3.clampAll else s3

/-- MC_CRASH (R441, R442). -/
def execMcCrash (mc : Mc) (imageUe : Bool) (s : State) : Host.Outcome State Fault Refusal :=
  .next (if s.mcRuns mc then s.crash mc imageUe else s)

/-- The state after a command that runs. -/
def stateOf (o : Host.Outcome State Fault Refusal) (s : State) : State :=
  match o with
  | .next t => t
  | _ => s

/-- A held CONTROL message takes effect. -/
def State.redoControl (s : State) (i : Instr) : State :=
  stateOf (match i with
    | .linkState l p => execLinkState l p s
    | .stDigest p => execStDigest p s
    | .stVote p => execStVote p s
    | .stDecideCommit p => execStDecideCommit p s
    | .stDecideReplay p => execStDecideReplay p s
    | .stDecidePause p => execStDecidePause p s
    | .stDecideDiag p => execStDecideDiag p s
    | .stDecideDiagDone p => execStDecideDiagDone p s
    | .stRolled p => execStRolled p s
    | .stGoRerun p => execStGoRerun p s
    | .stGoHold p => execStGoHold p s
    | .stGoDiagRun p => execStGoDiagRun p s
    | .fdSuspect p => execFdSuspect p s
    | .fdFence p => execFdFence p s
    | .rcProbe p => execRcProbe p s
    | .rcProbeReply p => execRcProbeReply p s
    | .rcFenceReq p => execRcFenceReq p s
    | .rcStatus p => execRcStatus p s
    | .rcOrderRollback p => execRcOrderRollback p s
    | .rcOrderAdopt p => execRcOrderAdopt p s
    | .rcOrderRebuild p c => execRcOrderRebuild p c s
    | .rcOrderLoad p l => execRcOrderLoad p l s
    | .rcOrderResume p => execRcOrderResume p s
    | .rcOrderHold o => execRcOrderHold o s
    | .rcOrderStakeAdd p => execRcOrderStakeAdd p s
    | .rcReady p => execRcReady p s
    | .ckAck p => execCkAck p s
    | .tableRebuild t i => execTableRebuild t i s
    | .discoveryTimeout l => execDiscoveryTimeout l s
    | _ => .next s) s

/-- A held BAR0 write or post takes effect. -/
def State.redoWrite (s : State) (i : Instr) : State :=
  stateOf (match i with
    | .mbxPost p v => execMbxPost p v s
    | .hxVersionWrite p v => execHxVersionWrite p v s
    | .hxCplConsWrite p v => execHxCplConsWrite p v s
    | .hxHostBeatWrite p v => execHxHostBeatWrite p v s
    | .msLatSelWrite p v => execMsLatSelWrite p v s
    | .msHbmCfgWrite p v => execMsHbmCfgWrite p v s
    | .elMonCfgWrite p m v => execElMonCfgWrite p m v s
    | .elLogClear p => execElLogClear p s
    | .tpOvrWrite p g v => execTpOvrWrite p g v s
    | .lkPortDisable p l b => execLkPortDisable p l b s
    | .lane0Release p l => execLane0Release p l s
    | .lane1Release p l => execLane1Release p l s
    | .pwCapWrite p v => execPwCapWrite p v s
    | .standbyEnter p => execStandbyEnter p s
    | .registerWrite p o v => execRegisterWrite p o v s
    | _ => .next s) s

/-- What a restarted core goes on with: FAB announces the ports that came or went, and takes the held messages and the
discoveries that waited, SCH the held writes in order, PWC releases the clamp, and orders that waited for SEC or HLT
take effect. -/
def State.restarted (s : State) (mc : Mc) : State :=
  match mc with
  | .fab =>
    let s1 : State := { s with err := { s.err with heldControl := [] } }
    let s1' := s1.fab.announceDue.foldl (fun t e => t.announce e.1 e.2)
      { s1 with fab := { s1.fab with announceDue := [] } }
    let s2 := s.err.heldControl.foldl State.redoControl s1'
    (List.range 40).foldl (fun t l =>
      let k := t.link l
      if k.state = 4 ∧ k.agreed ∧ k.outcome = 0 then t.discover' l else t) s2
  | .sch =>
    let s1 : State := { s with err := { s.err with heldWrites := [] } }
    s.err.heldWrites.foldl State.redoWrite s1
  | .pwc => { s with pw := { s.pw with clamp := false } }
  | .sec | .hlt =>
    let s1 : State := { s with err := { s.err with heldOrders := [] } }
    s.err.heldOrders.foldl State.redoControl s1

/-- MC_RESTART_DONE; the last of PWC, FAB and SCH on leaving standby completes it (R441, R469). -/
def execMcRestartDone (mc : Mc) (s : State) : Host.Outcome State Fault Refusal :=
  .next (if s.err.restarting.contains mc then
    ({ s with err := { s.err with restarting := s.err.restarting.filter (· != mc) } } : State).restarted mc |>.standbyDone else s)

end Sys2Proof.Machine
end

