-- ==== Sys2Proof/Machine/Restore.lean ====
section
/-! DEFINITION. Restore from checkpoint sources (R414–R417). -/

namespace Sys2Proof.Machine

/-! ### Manifests as read -/

/-- One source as read: its manifest and, after it, its shards in entry order. -/
structure Source where
  man : List Byte
  data : List Byte
  deriving DecidableEq, Repr

/-- A shard entry of a manifest. -/
structure ShardRef where
  contents : Nat
  region : Nat
  off : Nat
  bytes : Nat
  regionBytes : Nat
  digest : List Byte
  deriving DecidableEq, Repr

def manBytes (m : List Byte) : Nat := fieldAt m 0x34 4

def shardRefs (m : List Byte) : List ShardRef :=
  (List.range (min (fieldAt m 5 1) 32)).map fun i =>
    let e := 0x40 + 96 * i
    ⟨fieldAt m e 1, fieldAt m (e + 1) 1, fieldAt m (e + 8) 8, fieldAt m (e + 16) 8, fieldAt m (e + 24) 8,
      slice m (e + 32) 48⟩

/-- The bytes of a manifest and its shards as one string, cut again. -/
def Source.ofBytes (b : List Byte) : Source := ⟨b.take (manBytes b), b.drop (manBytes b)⟩

/-- The shards of a source with their bytes. -/
def cutShards : List ShardRef → List Byte → List (ShardRef × List Byte)
  | [], _ => []
  | r :: rest, b => (r, slice b 0 r.bytes) :: cutShards rest (b.drop r.bytes)

def Source.shards (s : Source) : List (ShardRef × List Byte) := cutShards (shardRefs s.man) s.data

/-- Size that a manifest must have (R408). -/
def manSizeOk (m : List Byte) : Bool :=
  fieldAt m 0 4 == 1 && manBytes m == 0x1000 + 128 * fieldAt m 0x2C 4 + 48 && decide (manBytes m ≤ 2 ^ 21)

def manDigestOk (m : List Byte) : Bool :=
  manSizeOk m && sha384 (m.take (manBytes m - 48)) == slice m (manBytes m - 48) 48

/-- Where the next byte to read lies in the pool area, and how many run on from it. -/
def nextPiece (got : List Byte) : Option (Nat × Nat) :=
  let n := got.length
  if n < 0x1000 then some (n, 0x1000 - n)
  else
    let mb := manBytes got
    if n < mb then some (n, mb - n)
    else (shardRefs got).foldl (fun (r : Option (Nat × Nat) × Nat) e =>
      match r.1 with
      | some _ => r
      | none => if n < r.2 + e.bytes then (some (e.off + (n - r.2), r.2 + e.bytes - n), r.2) else (none, r.2 + e.bytes))
      (none, mb) |>.1

/-- Digests that became checkable when `got` reached its length agree (R415). -/
def digestsOk (got : List Byte) : Bool :=
  let n := got.length
  let mb := manBytes got
  (decide (n < 0x1000) || manSizeOk got) && (n != mb || manDigestOk got) &&
    ((shardRefs got).foldl (fun (r : Bool × Nat) e =>
      (r.1 && (r.2 + e.bytes != n || decide (n < mb) || sha384 (slice (got.drop r.2) 0 e.bytes) == e.digest), r.2 + e.bytes))
      (true, mb)).1

/-! ### Reading -/

/-- The restore ends without success; the context stays CREATED (R415). -/
def State.restoreFail (s : State) (c code : Nat) : State :=
  let k := (s.ctx c).ck
  let s1 := (s.modCtx c fun x => { x with ck := k.idle, busy := none }).report (codeAt code c) { ctx := some c }
  match k.cmd with
  | some h => s1.complete h 9 (codeAt code c) c 0 []
  | none => s1

/-- The next READ_REQ of the current source (R415). -/
def State.restoreAsk (s : State) (c : Nat) : State :=
  let x := s.ctx c
  match x.ck.rSources[x.ck.rData.length]?, nextPiece x.ck.rGot with
  | some (chip, base), some (off, n) =>
    let a := base + off
    let m := min n (4096 - a % 4096)
    s.emit (.packet (s.packet 2 chip 0xFF 0 (tagRestore c) (fld x.regs.lkJob 0 16) (pktFlags 0 x.desc.secure none)
      none a 0 m []))
  | _, _ => s

/-! ### IMAGE (R416) -/

/-- Size and chain rules of an IMAGE restore. -/
def imageOk (x : Ctx) : List Source → Option Nat → Bool
  | [], _ => true
  | s :: rest, prev =>
    let kind := fieldAt s.man 4 1
    (match prev with
      | none => kind == 1 || kind == 3
      | some q => kind == 2 && fieldAt s.man 0x18 8 == q) &&
      (s.shards.all fun e => decide (3 ≤ e.1.contents) || e.1.regionBytes == x.regionBytes e.1.region) &&
      (s.shards.all fun e => e.1.contents != 3 || slice e.2 0 64 == slice x.desc.raw 0 64) &&
      imageOk x rest (some (fieldAt s.man 0x10 8))

/-- Write a byte string page by page. -/
def State.writePages (s : State) (c a : Nat) (b : List Byte) : State :=
  (List.range (ceilDiv b.length pageBytes)).foldl (fun t i =>
    t.devWrite c (a + pageBytes * i) ((b.drop (pageBytes * i)).take pageBytes) []) s

/-- The page records of a delta shard, with their pages. -/
def deltaRecords : List Nat → List Byte → List (Nat × List Byte)
  | [], _ => []
  | p :: rest, b =>
    let n := fieldAt b 0 4
    (p, slice b 0 n) :: deltaRecords rest (b.drop n)

/-- Apply a delta shard to a region, page by page. -/
def State.applyDeltaShard (s : State) (c r : Nat) (b : List Byte) : State :=
  let pages := fieldAt b 8 8
  let bm := b.drop 64
  let body := bm.drop (roundUp (ceilDiv pages 8) 64)
  (deltaRecords ((List.range pages).filter fun p => bitAt (fieldAt bm (p / 8) 1) (p % 8)) body).foldl (fun t e =>
    let a := (t.ctx c).pageAddr (r, e.1)
    let (d, t1) := t.read (.mem c) a pageBytes
    t1.devWrite c a (xorBytes d.bytes (recordDelta e.2)) d.pois) s

/-- Held signals of a shard. R407 gives them no target core: it is a free one of the context (log 145). -/
def State.holdFrom (s : State) (c : Nat) (b : List Byte) : State :=
  (List.range (b.length / 16)).foldl (fun t i =>
    let e := b.drop (16 * i)
    let (d, u) := t.draw
    u.modCtx c fun x => { x with heldSignals := x.heldSignals ++
      [⟨d % max 1 x.desc.coreCount, fieldAt e 0 2, fieldAt e 2 4, fieldAt e 6 2, fieldAt e 8 1, none, none⟩] })
    (s.modCtx c fun x => { x with heldSignals := [] })

/-- One shard is written to its place. -/
def State.applyShard (s : State) (c : Nat) (e : ShardRef × List Byte) : State :=
  match e.1.contents with
  | 1 => s.writePages c ((s.ctx c).regionBase e.1.region) e.2
  | 2 => s.applyDeltaShard c e.1.region e.2
  | 4 => s.writePages c (s.ctx c).saveArea e.2
  | 5 => s.writePages c lidBase e.2
  | 6 => s.holdFrom c e.2
  | _ => s

/-- The base takes the restored images, where the base region can serve: CKPT would refuse any other (R401; DESIGN
CHOICE, log 129). -/
def State.fillBase (s : State) (c : Nat) : State :=
  let x := s.ctx c
  if x.baseEn && x.baseOk then
    (x.pagesIn x.ckSet).foldl (fun t k =>
      let (d, t1) := t.read (.mem c) (x.pageAddr k) pageBytes
      t1.write (.mem c) (x.baseAddr k) d.bytes d.pois) s
  else s

/-- The state an IMAGE restore leaves. -/
def State.imageDone (s : State) (c : Nat) (srcs : List Source) : State :=
  let first := (srcs.head?.map fun m => fieldAt m.man 4 1).getD 1
  let last := (srcs.getLast?).getD ⟨[], []⟩
  let x := s.ctx c
  if first = 3 then
    (x.cores.foldl State.releaseCore s).modCtx c fun y =>
      { y with st := .suspended, cores := [], resumeTo := if bitAt y.desc.flags.toNat 0 then .paused else .running }
  else
    (s.fillBase c).modCtx c fun y => { y with ck := { y.ck with
      lastSeq := some (BitVec.ofNat 64 (fieldAt last.man 0x10 8)), fullSeq := BitVec.ofNat 64 (fieldAt last.man 0x20 8)
      deltas := min (srcs.length - 1) 255, dirty := [], allDirty := false, baseValid := y.baseEn && y.baseOk } }

/-! ### RESLICE (R417) -/

/-- Source and target describe the same tensor. -/
def TEntry.agrees (a b : TEntry) : Bool :=
  a.format == b.format && a.layout == b.layout && a.dims == b.dims && a.extent == b.extent

/-- The coordinates of a box, innermost fastest. -/
def coords : List (Nat × Nat) → List (List Nat)
  | [] => [[]]
  | (lo, hi) :: rest => (List.range (hi - lo)).flatMap fun i => (coords rest).map fun t => (lo + i) :: t

/-- The slice holds a coordinate. -/
def TEntry.holds (t : TEntry) (x : List Nat) : Bool :=
  (List.zip t.lohi x).all fun (l, v) => decide (l.1 ≤ v) && decide (v < l.2)

/-- Stored row and column of a coordinate of the slice. -/
def TEntry.place (t : TEntry) (x : List Nat) : Nat × Nat :=
  let rel := List.zipWith (fun l v => v - l.1) t.lohi x
  let row := (List.zip rel t.lens).dropLast.foldl (fun a (v, n) => a * n + v) 0
  (row, (rel.getLast?).getD 0)

/-- The byte ranges of one coordinate: its element, or its block with payload and header, and the slots of its group
where they are asked for (R417). -/
def TEntry.parts (t : TEntry) (x : List Nat) (slots : Bool) : List (Nat × Nat) :=
  let (r, col) := t.place x
  if t.layout = 1 then [(t.base + r * t.strideHdr + col * elemBytes t.format, elemBytes t.format)]
  else
    let k := t.blkAt
    let b := col / 32
    [(k.payAddr r b, payBytes t.format), (k.hdrAddr r b, 2)] ++
      (if slots then [(k.slotAddr r b 0, 4 * sideBytes t.format)] else [])

/-- The coordinate's stored row begins a group of its slice. -/
def TEntry.groupStart (t : TEntry) (x : List Nat) : Bool := (t.place x).1 % 64 == 0

/-- The coordinates that are copied: every element, or the first element of every block. -/
def TEntry.cells (t : TEntry) : List (List Nat) :=
  if t.layout = 1 then coords t.lohi
  else (coords t.lohi).filter fun x => (x.getLast?).getD 0 % 32 == 0

/-- Bytes of a source's region image at a local address. -/
def Source.bytesAt (m : Source) (x : Ctx) (region a n : Nat) : List Byte :=
  match m.shards.find? fun e => e.1.contents == 1 && e.1.region == region with
  | some e => slice e.2 (a - x.regionBase region) n
  | none => zeros n

/-- Fill one target entry from the sources' entries of its tag, up to one that does not agree; the code of a failure, if
any. -/
def State.fillEntry (s : State) (c : Nat) (srcs : List Source) (t : TEntry) : Option Nat × State :=
  let x := s.ctx c
  let es := srcs.flatMap fun m => (tEntries (slice m.man 0x1000 (128 * fieldAt m.man 0x2C 4))).filterMap fun e =>
    if e.tag = t.tag then some (m, e) else none
  let good := es.takeWhile fun e => e.2.agrees t
  let same := es.all fun e => e.2.agrees t
  t.cells.foldl (fun (r : Option Nat × State) co =>
    match good.find? fun e => e.2.holds co with
    | none => (some (if same then Code.ckRestoreGap else Code.ckRestoreMismatch), r.2)
    | some (m, e) =>
      let slots := t.groupStart co || e.groupStart co
      (r.1, (List.zip (t.parts co slots) (e.parts co slots)).foldl (fun u (d, f) =>
        u.devWrite c d.1 (m.bytesAt x e.region f.1 f.2) []) r.2))
    (if same then none else some Code.ckRestoreMismatch, s)

/-- Fill the entries in order, up to one that fails. -/
def State.fillEntries (s : State) (c : Nat) (srcs : List Source) : List TEntry → Option Nat × State
  | [] => (none, s)
  | t :: rest =>
    match s.fillEntry c srcs t with
    | (some k, s1) => (some k, s1)
    | (none, s1) => s1.fillEntries c srcs rest

/-! ### The end of reading -/

/-- The restore is complete. -/
def State.restoreDone (s : State) (c : Nat) : State :=
  let k := (s.ctx c).ck
  let s1 := s.modCtx c fun x => { x with ck := x.ck.idle, busy := none }
  match k.cmd with
  | some h => s1.finish h 0
  | none => s1

/-- Every source has been read and its digests agree (R416, R417). -/
def State.restoreApply (s : State) (c : Nat) : State :=
  let x := s.ctx c
  let srcs := x.ck.rData.map Source.ofBytes
  if x.ck.rMode = 1 then
    if !imageOk x srcs none then s.restoreFail c Code.ckRestoreMismatch
    else (((srcs.flatMap Source.shards).foldl (fun t e => t.applyShard c e) s).imageDone c srcs).restoreDone c
  else if !srcs.all (fun m => fieldAt m.man 4 1 == 1) then s.restoreFail c Code.ckRestoreMismatch
  else
    let (bad, s1) := s.fillEntries c srcs (tEntries x.ck.rTensors)
    let s2 := s1.modCtx c fun y => { y with ck := { y.ck with allDirty := true, dirty := [], baseValid := false } }
    match bad with
    | some code => s2.restoreFail c code
    | none => s2.restoreDone c

/-- Data of the outstanding read arrives (R415). -/
def State.restoreData (s : State) (c : Nat) (d : List Byte) : State :=
  let k := (s.ctx c).ck
  if k.state ≠ 4 then s
  else
    let got := k.rGot ++ d
    if !digestsOk got then s.restoreFail c Code.ckDigestBad
    else if (nextPiece got).isSome then (s.modCtx c fun x => { x with ck := { k with rGot := got } }).restoreAsk c
    else
      let s1 := s.modCtx c fun x => { x with ck := { k with rGot := [], rData := k.rData ++ [got] } }
      if k.rData.length + 1 = k.rSources.length then s1.restoreApply c else s1.restoreAsk c

/-- The descriptor obeys R414. -/
def State.restoreDescOk (s : State) (c : Nat) (b : List Byte) : Bool :=
  let mode := fieldAt b 1 1
  let n := fieldAt b 2 2
  let t := fieldAt b 4 4
  fieldAt b 0 1 == c && (mode == 1 || mode == 2) && decide (1 ≤ n) && decide (n ≤ 64) &&
    (if mode = 2 then decide (1 ≤ t) && decide (t ≤ 8160) && s.inRegion c (fieldAt b 0x10 8) (128 * t)
      else t == 0 && fieldAt b 0x10 8 == 0) &&
    allZero (slice b 0x18 40) && s.inRegion c (fieldAt b 8 8) (16 * n)

/-- RESTORE is accepted or refused (R414). -/
def State.restoreStart (s : State) (c : Nat) (h : HostCmd) : State :=
  let b := h.payload
  if (s.ctx c).st ≠ .created ∨ (s.ctx c).ck.state ≠ 0 then s.finish h 1
  else if !s.restoreDescOk c b then s.finish h 3
  else
    let n := fieldAt b 2 2
    let (l, s1) := s.read (.mem c) (fieldAt b 8 8) (16 * n)
    let (t, s2) := s1.read (.mem c) (fieldAt b 0x10 8) (128 * fieldAt b 4 4)
    let srcs := (List.range n).map fun i => (fieldAt l.bytes (16 * i) 2, fieldAt l.bytes (16 * i + 8) 8)
    let pad := (List.range n).all fun i => allZero (slice l.bytes (16 * i + 2) 6)
    let x := s.ctx c
    if !pad || !srcs.all (fun e => s.routed e.1) || !(tEntries t.bytes).all (fun e => e.ok && e.inside x x.mapped) then
      s2.finish h 3
    else
      (s2.modCtx c fun y => { y with busy := some h, ck := { y.ck with
        state := 4, cmd := some h, rMode := fieldAt b 1 1, rSources := srcs, rTensors := t.bytes, rData := []
        rGot := [] } }).restoreAsk c

/-- RESTORE (R414–R417). -/
def execRestore (ctx : Nat) (s : State) : Host.Outcome State Fault Refusal :=
  inRange (ctxOk ctx) (s.ctxCmd ctx 0x31 fun h t => t.restoreStart ctx h)

end Sys2Proof.Machine
end

