-- ==== Sys2Proof/Machine/Receive.lean ====
section
/-! DEFINITION. Receiving transport packets: admission (R274, R279, R280), writes, reads, signals and atomics
(R278–R283), byte-count fences (R195–R198), and acknowledgements at the sender (R159, R184, R281). -/

namespace Sys2Proof.Machine

/-! ### Admission -/

/-- The context that a request with a job tag acts on, or the reason to refuse it (R279). -/
def State.admission (s : State) (p : Packet) : Except Nat Nat :=
  match ctxNums.find? fun c =>
    let x := s.ctx c
    (x.st == .running || x.st == .paused || x.st == .suspended) && bitAt x.desc.flags.toNat 0 &&
      fld x.regs.lkJob 0 16 == p.jobTag.toNat with
  | none => .error 1
  | some c => if (s.ctx c).desc.secure = p.secure then .ok c else .error 2

/-- Arrivals of the epoch are discarded: it is rolled back, or a diagnosis replay runs another step (R198, R341,
R345). -/
def Ctx.discards (x : Ctx) (e : Option Nat) : Bool :=
  match e with
  | none => false
  | some n => (x.step.discardFrom.any fun d => decide (d ≤ n)) || (x.step.diagRunning && x.step.diagStep != some n)

/-! ### Fence entries (R196, R197) -/

/-- The entry belongs to the sender, class, epoch and context. -/
def Fence.hasKey (f : Fence) (chip lcore cls epoch ctx : Nat) : Bool :=
  f.chip == chip && f.lcore == lcore && f.cls == cls && f.epoch == epoch && f.ctx == ctx

/-- The packet's entry. -/
def Fence.of (f : Fence) (p : Packet) (c : Nat) : Bool := f.hasKey p.src p.srcLcore.toNat p.cls (epKey p.epochOf) c

/-- All fence entries are in use (R197). -/
def State.fencesFull (s : State) : Bool := decide (65536 ≤ s.fences.length)

/-- A latent error of the fence table is found by its use: SU_PARITY at 0xC0 (R206). -/
def State.fenceSound (s : State) (c : Nat) : State :=
  if s.parity.contains .fences then
    (s.clearParity .fences).raise (codeAt Code.suParity 0xC0) { ctx := some c }
  else s

/-- The entry of a packet exists or can be made; the state with it. -/
def State.withFence (s : State) (p : Packet) (c : Nat) : Option State :=
  if s.fences.any fun f => f.of p c then some s
  else if s.fencesFull then none
  else some { s with fences := s.fences ++ [⟨p.src, p.srcLcore.toNat, p.cls, epKey p.epochOf, c, 0, 0, 0, p.tag.toNat, []⟩] }

def State.modFence (s : State) (p : Packet) (c : Nat) (f : Fence → Fence) : State :=
  { s with fences := s.fences.map fun x => if x.of p c then f x else x }

/-- Bytes landed for a packet's entry. -/
def State.landedOf (s : State) (p : Packet) (c : Nat) : Nat := ((s.fences.find? fun f => f.of p c).map (·.landed)).getD 0

/-- Fence entries or held signals are exhausted (R197). -/
def State.fenceOut (s : State) (p : Packet) (c : Nat) : State :=
  ({ s with fenceFull := true }.raise (codeAt Code.suFenceFull 0xC0) { ctx := some c }).refuse p 5

/-- A packet of an operation has come with a good header: else nothing, or a refusal with reason 7 (R274, R280). -/
def State.receive (s : State) (p : Packet) (op : Nat) (f : State → State) : State :=
  if !s.arrived p op then s
  else (if goodHeader p && !(op == 6 && s.viaVersion1 p) then f s else s.refuse p 7).taken p

/-- A waiting access of class 3 from the packet's sender (R277). -/
def State.senderWaits (s : State) (p : Packet) : Bool :=
  s.snapWaiting.any fun i => match i with
    | .write q | .readReq q | .atomicReq q => q.cls == 3 && q.src == p.src && q.srcLcore == p.srcLcore
    | _ => false

/-- The context whose snapshot makes a request wait at the die hub: the request writes a page that waits for a snapshot
slot (R403), or is of class 3 behind one that waits (R277). -/
def State.snapWaits (s : State) (p : Packet) (op n : Nat) : Option Nat :=
  if !(s.arrived p op && goodHeader p) || p.jobTag == 0 then none
  else match s.admission p with
    | .error _ => none
    | .ok c =>
      let a := p.address.toNat
      if s.inRegion c a n && !(op == 1 && (s.ctx c).discards p.epochOf) &&
          (op != 2 && s.snapBlocked c a n || p.cls == 3 && s.senderWaits p) then some c else none

/-- A request is served, or waits for a snapshot slot. -/
def State.serveOrWait (s : State) (i : Instr) (p : Packet) (op n : Nat) (f : State → State) : State :=
  match s.snapWaits p op n with
  | some c => s.waitForSnap c i
  | none => s.receive p op f

/-! ### WRITE -/

/-- A WRITE lands provisionally, is dropped with its epoch, or is refused (R278–R280, R327). -/
def State.recvWrite (s : State) (p : Packet) : State :=
  if p.jobTag = 0 then s.refuse p 3
  else match s.admission p with
    | .error r => s.refuse p r
    | .ok c =>
      let a := p.address.toNat
      let n := p.length.toNat
      if !s.inRegion c a n then s.refuse p 3
      else match (s.fenceSound c).withFence p c with
        | none => (s.fenceSound c).fenceOut p c
        | some s1 =>
          if (s.ctx c).discards p.epochOf then s1.modFence p c fun f => { f with dropped := f.dropped + n, tag := p.tag.toNat }
          else
            let po := unpoison p.poison.toNat n
            let s2 := (s1.epochWrite c p.epochOf a p.data po).modFence p c fun f =>
              { f with landed := f.landed + n, tag := p.tag.toNat }
            if p.epochOf = none then s2.loadWrite c a p.data po else s2

/-- WRITE (R278–R280). -/
def execWrite (pkt : Packet) (s : State) : Host.Outcome State Fault Refusal :=
  .next (s.serveOrWait (.write pkt) pkt 1 pkt.length.toNat fun t => t.recvWrite pkt)

/-! ### READ_REQ and atomics -/

/-- An answer to a request (R275, R281, R282). -/
def State.answer (s : State) (p : Packet) (op poison arg : Nat) (data : List Byte) : State :=
  s.emit (.packet (s.packet op p.src 0xFF 0 p.tag.toNat p.jobTag.toNat (pktFlags p.cls p.secure none) none
    (if op = 3 then p.address.toNat else 0) poison arg data))

/-- A read request is answered (R279–R281, R348). -/
def State.recvRead (s : State) (p : Packet) : State :=
  let a := p.address.toNat
  let n := p.arg.toNat
  if p.jobTag = 0 then
    if 0x10000 < a + n then s.refuse p 3 else s.answer p 3 0 0 (slice s.mailbox a n)
  else match s.admission p with
    | .error r => s.refuse p r
    | .ok c =>
      if !s.inRegion c a n then s.refuse p 3
      else
        let (d, s1) := s.read (.mem c) a n
        s1.answer p 3 (poisonBits d.pois) 0 d.bytes

/-- READ_REQ (R281). -/
def execReadReq (pkt : Packet) (s : State) : Host.Outcome State Fault Refusal :=
  .next (s.serveOrWait (.readReq pkt) pkt 2 pkt.arg.toNat fun t => t.recvRead pkt)

/-- New value of an atomic (R282). -/
def atomicNew (op old operand cmp : Nat) : Nat :=
  match op with
  | 1 => (old + operand) % 2 ^ 64
  | 2 => operand
  | _ => if old = cmp then operand else old

/-- A transport atomic (R282). -/
def State.recvAtomic (s : State) (p : Packet) : State :=
  if p.jobTag = 0 then s.refuse p 3
  else match s.admission p with
    | .error r => s.refuse p r
    | .ok c =>
      let a := p.address.toNat
      if !s.inRegion c a 8 then s.refuse p 3
      else
        let (d, s1) := s.read (.mem c) a 8
        if d.pois.any (· == true) then s1.refuse p 3
        else
          let old := ofLe d.bytes
          let v := atomicNew p.rsv.toNat old p.arg.toNat p.poison.toNat
          (s1.epochWrite c none a (leBytes 8 v) []).answer p 7 0 old []

/-- ATOMIC_REQ (R282). -/
def execAtomicReq (pkt : Packet) (s : State) : Host.Outcome State Fault Refusal :=
  .next (s.serveOrWait (.atomicReq pkt) pkt 6 8 fun t => t.recvAtomic pkt)

/-- ATOMIC_RESP (R282): no engine of the module issues an atomic, so nothing waits for the value. -/
def execAtomicResp (pkt : Packet) (s : State) : Host.Outcome State Fault Refusal := .next (s.receive pkt 7 id)

/-! ### SIGNAL -/

/-- Counter and increment of a SIGNAL (R274). -/
def sigCtr (p : Packet) : Nat := bits p.address.toNat 0 10
def sigInc (p : Packet) : Nat := bits p.address.toNat 16 32

/-- A signal reaches its counter; true when it was accepted (R42, R183, R196, R198). -/
def State.applySignal (s : State) (c : Nat) (g : Packet) (port : Option Nat) : Bool × State :=
  let x := s.ctx c
  if x.st = .suspended then
    if 256 ≤ x.heldSignals.length then (true, s.raise (codeAt Code.ctxHoldOvf c) { ctx := some c })
    else (true, s.modCtx c fun y => { y with
      heldSignals := y.heldSignals ++
        [⟨g.dstLcore.toNat, sigCtr g, sigInc g, g.src, g.srcLcore.toNat, some g, port⟩] })
  else match s.physCore c g.dstLcore.toNat with
    | none => (true, s)
    | some p =>
      if (s.core p).ctr (sigCtr g) + sigInc g < 2 ^ 32 then
        (true, (s.addCtr p (sigCtr g) (sigInc g)).recordSignal c p g.dstLcore.toNat (sigCtr g) (sigInc g) (epKey g.epochOf))
      else (false, s.suError p Code.suOverflow)

/-- WRITE_ACK for a packet or entry (R281). -/
def State.sendAck (s : State) (chip tag job : Nat) (flags : Byte) (epoch : Option Nat) (n : Nat) : State :=
  s.emit (.packet (s.packet 4 chip 0xFF 0 tag job flags epoch 0 0 n []))

/-- Receipt of a SIGNAL is acknowledged (R184, R281). -/
def State.ackSignal (s : State) (p : Packet) (c : Nat) : State :=
  s.sendAck p.src p.tag.toNat p.jobTag.toNat (pktFlags p.cls p.secure p.epochOf) p.epochOf (s.landedOf p c)

/-- Held signals of an entry with one more, in the order sent: the carried count grows along it, and signals of one count
keep the order of arrival (R195, R196). -/
def holdInOrder (p : Packet × Option Nat) (l : List (Packet × Option Nat)) : List (Packet × Option Nat) :=
  l.takeWhile (fun g => decide (g.1.arg.toNat ≤ p.1.arg.toNat)) ++
    p :: l.dropWhile (fun g => decide (g.1.arg.toNat ≤ p.1.arg.toNat))

/-- A signal for a context that accepts its epoch: applied, or held on its fence; a refused one takes no entry (R280). -/
def State.takeSignal (s : State) (c : Nat) (p : Packet) : State :=
  match s.withFence p c with
  | none => s.fenceOut p c
  | some t =>
    if p.arg.toNat ≤ s.landedOf p c then
      let (ok, s1) := s.applySignal c p (s.portOf p)
      if ok then ((s1.withFence p c).getD s1).ackSignal p c else s1.refuse p 6
    else if 1024 ≤ (s.fences.map fun f => f.held.length).sum then s.fenceOut p c
    else (t.modFence p c fun f => { f with held := holdInOrder (p, s.portOf p) f.held }).ackSignal p c

/-- A remote signal is applied, held on its fence, discarded with its epoch, or refused (R196–R198, R279, R280). -/
def State.recvSignal (s : State) (p : Packet) : State :=
  match s.admission p with
  | .error r => s.refuse p r
  | .ok c =>
    let x := s.ctx c
    if x.desc.coreCount ≤ p.dstLcore.toNat then s.refuse p 4
    else if x.discards p.epochOf then s.ackSignal p c
    else (s.fenceSound c).takeSignal c p

/-- SIGNAL (R196, R197). -/
def execSignal (pkt : Packet) (s : State) : Host.Outcome State Fault Refusal := .next (s.receive pkt 5 fun t => t.recvSignal pkt)

/-- The oldest held signal's count has landed (R196). -/
def Fence.ready (f : Fence) : Bool :=
  match f.held with
  | g :: _ => decide (g.1.arg.toNat ≤ f.landed)
  | [] => false

/-- The first held signal of an entry whose count has landed is applied (R196). -/
def State.releaseFence (s : State) (chip lcore cls epoch : Nat) : State :=
  match s.fences.find? fun f => f.hasKey chip lcore cls epoch f.ctx && f.ready with
  | none => s
  | some f =>
    match f.held with
    | [] => s
    | g :: _ =>
      let (ok, s1) := (s.modFence g.1 f.ctx fun x => { x with held := x.held.drop 1 }).applySignal f.ctx g.1 g.2
      if ok then s1 else s1.refuseAt g.2 g.1 6

/-- FENCE_RELEASE (R196): `epoch` is the entry's key, the step plus 1, or 0 before the first STEP. -/
def execFenceRelease (chip lcore cls epoch : Nat) (s : State) : Host.Outcome State Fault Refusal :=
  .next (s.releaseFence chip lcore cls epoch)

/-! ### Acknowledgements -/

/-- The entry's bytes that are not acknowledged yet are acknowledged (R281). -/
def State.ackFence (s : State) (chip lcore cls epoch : Nat) : State :=
  match s.fences.find? fun f => f.hasKey chip lcore cls epoch f.ctx && decide (f.acked < f.landed + f.dropped) with
  | none => s
  | some f =>
    let x := s.ctx f.ctx
    let ep := if epoch = 0 then none else some (epoch - 1)
    let mine (g : Fence) : Bool := g.hasKey chip lcore cls epoch f.ctx
    let ackAll (g : Fence) : Fence := if mine g then { g with acked := g.landed + g.dropped } else g
    let s1 : State := { s with fences := s.fences.map ackAll }
    s1.sendAck chip f.tag (fld x.regs.lkJob 0 16) (pktFlags cls x.desc.secure ep) ep (f.landed + f.dropped)

/-- WRITE_ACK_SEND (R281): `epoch` is the entry's key. -/
def execWriteAckSend (chip lcore cls epoch : Nat) (s : State) : Host.Outcome State Fault Refusal :=
  .next (s.ackFence chip lcore cls epoch)

/-- The core's started commands whose writes are all acknowledged. -/
def Core.ackedCmds (k : Core) : List CeCmd :=
  k.ce.filter fun e => match e.wait with
    | .acks chip cls ep n => decide (n ≤ countOf k.ackedBytes chip cls ep)
    | _ => false

/-- The commands whose writes are acknowledged complete (R159). -/
def State.completeAcked (s : State) (p : Nat) : State :=
  ((s.core p).ackedCmds.foldl (fun t e => (t.dropCe p e.cmd).retire p e.cmd) s).pump p .copy

/-- The partner has the whole pair image: the first gate may open (R362). -/
def State.pairDone (s : State) (c : Nat) : State :=
  if (s.ctx c).step.pairPending && s.pairAcked c 0 then
    (s.modStep c fun st => { st with pairPending := false }).openGate c
  else s

/-- The core whose copies await the receipt of a remote signal under this tag (R37, R164). -/
def State.rsigCore (s : State) (tag : Nat) : Option Nat :=
  s.cores.findSome? fun (p, k) => if k.rsigOut.contains tag then some p else none

/-- The remote signal of a copy has been answered. -/
def State.rsigDone (s : State) (p tag : Nat) : State := s.modCore p fun k => { k with rsigOut := k.rsigOut.erase tag }

/-- Its receipt is acknowledged: a signal held there can still be refused (R280, R281). -/
def State.rsigReceived (s : State) (p tag : Nat) : State :=
  match s.coreOwner p with
  | some (c, l) => (s.rsigDone p tag).modCtx c fun x => { x with
      rsigAcked := (tag, l) :: x.rsigAcked.filter fun g => g.1 != tag }
  | none => s.rsigDone p tag

/-- The core belongs to the context of the packet's job. -/
def State.jobCore (s : State) (p : Nat) (job : Nat) : Bool :=
  (s.coreOwner p).any fun o => fld (s.ctx o.1).regs.lkJob 0 16 == job

/-- A landed count arrives at the sender (R281). -/
def State.recvAck (s : State) (p : Packet) : State :=
  let t := p.tag.toNat
  let n := p.arg.toNat
  let key := epKey p.epochOf
  if t < 192 then
    if s.jobCore t p.jobTag.toNat then
      let s1 : State := s.modCore t fun k => { k with
        ackedBytes := setCount k.ackedBytes p.src p.cls key (max n (countOf k.ackedBytes p.src p.cls key)) }
      let s2 := s1.completeAcked t
      s2.pairDone (s2.ctxOf t)
    else s
  else if 0x100 ≤ t ∧ t < 0x1C0 then
    if s.jobCore (t - 0x100) p.jobTag.toNat then (s.suDone (t - 0x100)).pump (t - 0x100) .sync else s
  else if 0x300 ≤ t ∧ t < 0x308 then s.poolAcked (t - 0x300) n
  else match s.rsigCore t with
    | some q => if s.jobCore q p.jobTag.toNat then s.rsigReceived q t else s
    | none => s

/-- WRITE_ACK (R159, R184, R281). -/
def execWriteAck (pkt : Packet) (s : State) : Host.Outcome State Fault Refusal := .next (s.receive pkt 4 fun t => t.recvAck pkt)

/-! ### READ_RESP -/

/-- The core and command that wait for a read's tag. -/
def State.reader (s : State) (tag : Nat) : Option (Nat × CeCmd) :=
  s.cores.findSome? fun (p, k) => k.ce.findSome? fun e => match e.wait with
    | .remoteRead _ reqs _ => if reqs.any fun r => r.1 == tag then some (p, e) else none
    | _ => none

/-- Read data reaches the copy command that asked for it (R161, R281). -/
def State.readData (s : State) (tag : Nat) (d : List Byte) (po : List Bool) : State :=
  match s.reader tag with
  | none => s
  | some (p, e) =>
    match e.wait with
    | .remoteRead chip reqs got =>
      if got.any fun g => g.1 == tag then s
      else
        let n := ((reqs.find? fun r => r.1 == tag).map (·.2.2)).getD 0
        let got' := got ++ [(tag, slice d 0 n, po.take n)]
        if got'.length < reqs.length then
          s.modCore p fun k => { k with ce := k.ce.map fun x =>
            if x.cmd.seqno = e.cmd.seqno then { x with wait := .remoteRead chip reqs got' } else x }
        else
          let inOrder := reqs.filterMap fun r => (got'.find? fun g => g.1 == r.1).map (·.2)
          ((s.dropCe p e.cmd).copyDeliver p e.cmd e.desc (gather (CopyD.parse e.desc).wants inOrder)).pump p .copy
    | _ => s

/-- Read data arrives (R281). -/
def State.recvReadResp (s : State) (p : Packet) : State :=
  let t := p.tag.toNat
  if 0x8000 ≤ t then s.readData t p.data (unpoison p.poison.toNat p.data.length)
  else if 0x400 ≤ t ∧ t < 0x408 then s.restoreData (t - 0x400) p.data
  else s

/-- READ_RESP (R281). -/
def execReadResp (pkt : Packet) (s : State) : Host.Outcome State Fault Refusal := .next (s.receive pkt 3 fun t => t.recvReadResp pkt)

/-! ### REFUSE -/

/-- CE_REMOTE at a core: in the oldest of its commands that waits for the chip, else at its sequencer's slot. -/
def State.remoteError (s : State) (p chip : Nat) : State :=
  let k := s.core p
  let waits (e : CeCmd) : Bool := match e.wait with
    | .acks c _ _ _ => c == chip
    | _ => false
  match k.ce.find? waits with
  | some e => s.ceError p e.cmd Code.ceRemote
  | none => s.raiseCore Code.ceRemote p k.seq.pos

/-- A signal whose receipt was acknowledged is refused after all: CE_REMOTE at the core that sent it (R164, R280). A
context that is suspended then has no core, and the location is open. -/
def State.refusedLate (s : State) (p : Packet) : State :=
  let find (c : Nat) : Option (Nat × Nat) :=
    if fld (s.ctx c).regs.lkJob 0 16 = p.jobTag.toNat then
      ((s.ctx c).rsigAcked.find? fun g => g.1 == p.tag.toNat).map fun g => (c, g.2)
    else none
  match ctxNums.findSome? find with
  | none => s
  | some (c, l) =>
    let s1 := s.modCtx c fun x => { x with rsigAcked := x.rsigAcked.filter fun g => g.1 != p.tag.toNat }
    match s1.physCore c l with
    | some q => s1.remoteError q p.src
    | none =>
      let (v, s2) := s1.draw
      s2.raise (codeAt Code.ceRemote (v % 192)) { ctx := some c }

/-- A refusal reaches the sender (R164, R280, R412). -/
def State.recvRefuse (s : State) (p : Packet) : State :=
  let t := p.tag.toNat
  let job := p.jobTag.toNat
  if t < 192 then (if s.jobCore t job then s.remoteError t p.src else s)
  else if 0x100 ≤ t ∧ t < 0x1C0 then
    let c := t - 0x100
    if s.jobCore c job then
      s.raiseCore Code.ceRemote c (((s.core c).suWait.map (·.addr)).getD (s.core c).seq.pos)
    else s
  else if 0x300 ≤ t ∧ t < 0x308 then
    (if (s.ctx (t - 0x300)).ck.state = 2 ∨ (s.ctx (t - 0x300)).ck.state = 3 then
      s.ckFail (t - 0x300) Code.ckPoolRefused else s)
  else if 0x400 ≤ t ∧ t < 0x408 then
    (if (s.ctx (t - 0x400)).ck.state = 4 then s.restoreFail (t - 0x400) Code.ckPoolRefused else s)
  else match s.rsigCore t with
    | some q => if s.jobCore q job then (s.rsigDone q t).remoteError q p.src else s
    | none => match s.reader t with
      | some (c, e) => s.ceError c e.cmd Code.ceRemote
      | none => s.refusedLate p

/-- REFUSE (R280). -/
def execRefuse (pkt : Packet) (s : State) : Host.Outcome State Fault Refusal := .next (s.receive pkt 8 fun t => t.recvRefuse pkt)

end Sys2Proof.Machine
end

