-- ==== Sys2Proof/Machine/Relocate.lean ====
section
/-! DEFINITION. Relocation of a channel's parts and the end of a map-out (R241, R244–R246). -/

namespace Sys2Proof.Machine

/-- CTX_RESUME commands that wait for a channel's map-out go on (R246). -/
def State.endWaits (s : State) (ch : Nat) : State :=
  (s.resumeWaits.filter fun e => e.1 == ch).foldl (fun t e => t.resumeCmd e.2.1 e.2.2)
    { s with resumeWaits := s.resumeWaits.filter fun e => e.1 != ch }

/-- RELOCATION of a channel's parts (R241, R244, R246). -/
def State.relocate (s : State) (ch : Nat) : State :=
  if !s.moving ch then s
  else
    let pending := (s.chan ch).pending
    let todo := s.toMove ch
    let (left, s0) := s.moveAll ch todo
    let s1 := if pending && left.isEmpty then s0.modChan ch fun k => { k with movers := (todo.map (·.2)).dedup } else s0
    if pending then
      let s2 : State := { s1 with mapouts := s1.mapouts.filter (· != ch) }
      let s3 := if left.isEmpty then s2 else
        ((s2.refuseMapout ch (left.map (·.2)).dedup).endMapouts ch 9 Code.hbmMapoutRefused).endWaits ch
      s3.resumePaused
    else
      let s2 := s1.modChan ch fun k => { k with held := k.held ++ left.map (·.1) }
      (left.foldl (fun t _ => t.report (codeAt Code.hbmRetireHeld ch)) s2).resumePaused

/-- RELOCATION (R244). -/
def execRelocation (ch : Nat) (s : State) : Host.Outcome State Fault Refusal :=
  inRange (decide (ch < 256)) (s.relocate ch)

/-- Every part has left a channel (R245). -/
def State.mapoutDone (s : State) (ch : Nat) : State :=
  let x := s.chan ch
  if x.pending && !x.mappedOut && (s.granulesIn ch).isEmpty then
    let s1 := (s.setChan ch { x with mappedOut := true, pending := false, buffered := [], movers := [] }).report (codeAt Code.hbmMapout ch)
    let s2 : State := { s1 with mapouts := s1.mapouts.filter (· != ch)
                                boot := { s1.boot with repairsDue := s1.boot.repairsDue ++ [.mapOut ch] } }
    ((s2.endMapouts ch 0 Code.hbmMapout).endWaits ch).resumePaused
  else s

/-- CHANNEL_MAPOUT_COMPLETE (R245). -/
def execChannelMapoutComplete (ch : Nat) (s : State) : Host.Outcome State Fault Refusal :=
  inRange (decide (ch < 256)) (s.mapoutDone ch)

end Sys2Proof.Machine
end

