-- ==== Sys2Proof/Machine/Dispatch.lean ====
section
/-! DEFINITION. One arm per command. -/

namespace Sys2Proof.Machine

open Sys2Proof

def exec (i : Instr) (s : State) : Host.Outcome State Fault Refusal :=
  match i with
  | .ctxCreate => Sys2Proof.Machine.execCtxCreate s
  | .ctxStart ctx => Sys2Proof.Machine.execCtxStart ctx s
  | .ctxSuspend ctx => Sys2Proof.Machine.execCtxSuspend ctx s
  | .suspendSaveDone ctx => Sys2Proof.Machine.execSuspendSaveDone ctx s
  | .ctxResume ctx => Sys2Proof.Machine.execCtxResume ctx s
  | .ctxDestroy ctx => Sys2Proof.Machine.execCtxDestroy ctx s
  | .ctxZeroingDone ctx => Sys2Proof.Machine.execCtxZeroingDone ctx s
  | .regionMap ctx => Sys2Proof.Machine.execRegionMap ctx s
  | .regionUnmap ctx => Sys2Proof.Machine.execRegionUnmap ctx s
  | .lidConfig ctx => Sys2Proof.Machine.execLidConfig ctx s
  | .windowReg ctx => Sys2Proof.Machine.execWindowReg ctx s
  | .windowDereg ctx => Sys2Proof.Machine.execWindowDereg ctx s
  | .ckpt ctx => Sys2Proof.Machine.execCkpt ctx s
  | .restore ctx => Sys2Proof.Machine.execRestore ctx s
  | .diag ctx => Sys2Proof.Machine.execDiag ctx s
  | .replan ctx => Sys2Proof.Machine.execReplan ctx s
  | .stakeAdd ctx => Sys2Proof.Machine.execStakeAdd ctx s
  | .mapout => Sys2Proof.Machine.execMapout s
  | .kakRun => Sys2Proof.Machine.execKakRun s
  | .resetWarm => Sys2Proof.Machine.execResetWarm s
  | .mbxPost port hi => Sys2Proof.Machine.execMbxPost port hi s
  | .commandFetch port r => Sys2Proof.Machine.execCommandFetch port r s
  | .nop core => Sys2Proof.Machine.execNop core s
  | .seqEnd core => Sys2Proof.Machine.execSeqEnd core s
  | .jump core => Sys2Proof.Machine.execJump core s
  | .call core => Sys2Proof.Machine.execCall core s
  | .ret core => Sys2Proof.Machine.execRet core s
  | .loop core => Sys2Proof.Machine.execLoop core s
  | .endloop core => Sys2Proof.Machine.execEndloop core s
  | .stepDecl core => Sys2Proof.Machine.execStepDecl core s
  | .phase core => Sys2Proof.Machine.execPhase core s
  | .drain core => Sys2Proof.Machine.execDrain core s
  | .notify core => Sys2Proof.Machine.execNotify core s
  | .waitRelease core eng => Sys2Proof.Machine.execWaitRelease core eng s
  | .slotSignal core eng => Sys2Proof.Machine.execSlotSignal core eng s
  | .matmul core arr e1 e2 => Sys2Proof.Machine.execMatmul core arr e1 e2 s
  | .borderTiebreak core arr e3 => Sys2Proof.Machine.execBorderTiebreak core arr e3 s
  | .epilogue core arr => Sys2Proof.Machine.execEpilogue core arr s
  | .epilogueDrainDone core arr => Sys2Proof.Machine.execEpilogueDrainDone core arr s
  | .accStore core arr => Sys2Proof.Machine.execAccStore core arr s
  | .accLoad core arr => Sys2Proof.Machine.execAccLoad core arr s
  | .matmulPair core warp1 warp2 weft1 weft2 => Sys2Proof.Machine.execMatmulPair core warp1 warp2 weft1 weft2 s
  | .elem core => Sys2Proof.Machine.execElem core s
  | .reduce core => Sys2Proof.Machine.execReduce core s
  | .update core => Sys2Proof.Machine.execUpdate core s
  | .tableLoad core => Sys2Proof.Machine.execTableLoad core s
  | .copy core => Sys2Proof.Machine.execCopy core s
  | .gather core => Sys2Proof.Machine.execGather core s
  | .scatter core => Sys2Proof.Machine.execScatter core s
  | .scatterAdd core => Sys2Proof.Machine.execScatterAdd core s
  | .segReduce core => Sys2Proof.Machine.execSegReduce core s
  | .route core => Sys2Proof.Machine.execRoute core s
  | .setop core => Sys2Proof.Machine.execSetop core s
  | .posGather core => Sys2Proof.Machine.execPosGather core s
  | .xdelta core => Sys2Proof.Machine.execXdelta core s
  | .xapply core => Sys2Proof.Machine.execXapply core s
  | .hash core => Sys2Proof.Machine.execHash core s
  | .ceHazardRelease core => Sys2Proof.Machine.execCeHazardRelease core s
  | .set core => Sys2Proof.Machine.execSet core s
  | .add core => Sys2Proof.Machine.execAdd core s
  | .sub core => Sys2Proof.Machine.execSub core s
  | .watch core => Sys2Proof.Machine.execWatch core s
  | .suChangeApply core => Sys2Proof.Machine.execSuChangeApply core s
  | .fenceRelease chip lcore cls epoch => Sys2Proof.Machine.execFenceRelease chip lcore cls epoch s
  | .hbmWriteTurn ch => Sys2Proof.Machine.execHbmWriteTurn ch s
  | .scrubRead ch => Sys2Proof.Machine.execScrubRead ch s
  | .repairRecordWrite => Sys2Proof.Machine.execRepairRecordWrite s
  | .relocation ch => Sys2Proof.Machine.execRelocation ch s
  | .channelMapoutComplete ch => Sys2Proof.Machine.execChannelMapoutComplete ch s
  | .hbmAccessTimeout ch => Sys2Proof.Machine.execHbmAccessTimeout ch s
  | .bar2Read port offset len => Sys2Proof.Machine.execBar2Read port offset len s
  | .bar2Write port offset bytes => Sys2Proof.Machine.execBar2Write port offset bytes s
  | .portTrain link lock0 lock1 => Sys2Proof.Machine.execPortTrain link lock0 lock1 s
  | .negotiationFlit link flit => Sys2Proof.Machine.execNegotiationFlit link flit s
  | .negotiationTimeout link => Sys2Proof.Machine.execNegotiationTimeout link s
  | .discoveryTimeout link => Sys2Proof.Machine.execDiscoveryTimeout link s
  | .laneDown link lane => Sys2Proof.Machine.execLaneDown link lane s
  | .laneRetrain link locks => Sys2Proof.Machine.execLaneRetrain link locks s
  | .flitReceive link flit => Sys2Proof.Machine.execFlitReceive link flit s
  | .maintenanceFlitSend link => Sys2Proof.Machine.execMaintenanceFlitSend link s
  | .replayTimeout link => Sys2Proof.Machine.execReplayTimeout link s
  | .packetForward arrival pkt => Sys2Proof.Machine.execPacketForward arrival pkt s
  | .write pkt => Sys2Proof.Machine.execWrite pkt s
  | .readReq pkt => Sys2Proof.Machine.execReadReq pkt s
  | .readResp pkt => Sys2Proof.Machine.execReadResp pkt s
  | .writeAck pkt => Sys2Proof.Machine.execWriteAck pkt s
  | .writeAckSend chip lcore cls epoch => Sys2Proof.Machine.execWriteAckSend chip lcore cls epoch s
  | .signal pkt => Sys2Proof.Machine.execSignal pkt s
  | .atomicReq pkt => Sys2Proof.Machine.execAtomicReq pkt s
  | .atomicResp pkt => Sys2Proof.Machine.execAtomicResp pkt s
  | .refuse pkt => Sys2Proof.Machine.execRefuse pkt s
  | .linkState link pkt => Sys2Proof.Machine.execLinkState link pkt s
  | .tableRebuild table index => Sys2Proof.Machine.execTableRebuild table index s
  | .stepComplete ctx => Sys2Proof.Machine.execStepComplete ctx s
  | .stDigest pkt => Sys2Proof.Machine.execStDigest pkt s
  | .voteSend ctx => Sys2Proof.Machine.execVoteSend ctx s
  | .stVote pkt => Sys2Proof.Machine.execStVote pkt s
  | .stDecideCommit pkt => Sys2Proof.Machine.execStDecideCommit pkt s
  | .stDecideReplay pkt => Sys2Proof.Machine.execStDecideReplay pkt s
  | .stDecidePause pkt => Sys2Proof.Machine.execStDecidePause pkt s
  | .stDecideDiag pkt => Sys2Proof.Machine.execStDecideDiag pkt s
  | .stDecideDiagDone pkt => Sys2Proof.Machine.execStDecideDiagDone pkt s
  | .rollbackRestore ctx => Sys2Proof.Machine.execRollbackRestore ctx s
  | .stRolled pkt => Sys2Proof.Machine.execStRolled pkt s
  | .stGoRerun pkt => Sys2Proof.Machine.execStGoRerun pkt s
  | .stGoHold pkt => Sys2Proof.Machine.execStGoHold pkt s
  | .stGoDiagRun pkt => Sys2Proof.Machine.execStGoDiagRun pkt s
  | .statsPublishDone ctx => Sys2Proof.Machine.execStatsPublishDone ctx s
  | .heartbeatTick => Sys2Proof.Machine.execHeartbeatTick s
  | .kaTimeout slot => Sys2Proof.Machine.execKaTimeout slot s
  | .fdSuspect pkt => Sys2Proof.Machine.execFdSuspect pkt s
  | .fdFence pkt => Sys2Proof.Machine.execFdFence pkt s
  | .stepTimeout ctx => Sys2Proof.Machine.execStepTimeout ctx s
  | .rcProbe pkt => Sys2Proof.Machine.execRcProbe pkt s
  | .rcProbeReply pkt => Sys2Proof.Machine.execRcProbeReply pkt s
  | .probeTimeout ctx child => Sys2Proof.Machine.execProbeTimeout ctx child s
  | .rcFenceReq pkt => Sys2Proof.Machine.execRcFenceReq pkt s
  | .rcStatus pkt => Sys2Proof.Machine.execRcStatus pkt s
  | .rcOrderRollback pkt => Sys2Proof.Machine.execRcOrderRollback pkt s
  | .rcOrderAdopt pkt => Sys2Proof.Machine.execRcOrderAdopt pkt s
  | .rcOrderRebuild pkt creation => Sys2Proof.Machine.execRcOrderRebuild pkt creation s
  | .rcOrderLoad pkt load => Sys2Proof.Machine.execRcOrderLoad pkt load s
  | .rcOrderResume pkt => Sys2Proof.Machine.execRcOrderResume pkt s
  | .rcOrderHold order => Sys2Proof.Machine.execRcOrderHold order s
  | .rcOrderStakeAdd pkt => Sys2Proof.Machine.execRcOrderStakeAdd pkt s
  | .rcReady pkt => Sys2Proof.Machine.execRcReady pkt s
  | .moverPageCopy ctx => Sys2Proof.Machine.execMoverPageCopy ctx s
  | .ckManifestWrite ctx => Sys2Proof.Machine.execCkManifestWrite ctx s
  | .ckAck pkt => Sys2Proof.Machine.execCkAck pkt s
  | .ckPoolTimeout ctx => Sys2Proof.Machine.execCkPoolTimeout ctx s
  | .monitorSample mon sample => Sys2Proof.Machine.execMonitorSample mon sample s
  | .elWdWait core eng => Sys2Proof.Machine.execElWdWait core eng s
  | .elWdExec core eng => Sys2Proof.Machine.execElWdExec core eng s
  | .elNetHang cl => Sys2Proof.Machine.execElNetHang cl s
  | .linkCoreHang link => Sys2Proof.Machine.execLinkCoreHang link s
  | .elSharedUe buf recent => Sys2Proof.Machine.execElSharedUe buf recent s
  | .fatalReport code => Sys2Proof.Machine.execFatalReport code s
  | .mcCrash mc imageUe => Sys2Proof.Machine.execMcCrash mc imageUe s
  | .powerLoss => Sys2Proof.Machine.execPowerLoss s
  | .powerOn railsOk => Sys2Proof.Machine.execPowerOn railsOk s
  | .resetL lowMicros causes released => Sys2Proof.Machine.execResetL lowMicros causes released s
  | .bootStart env => Sys2Proof.Machine.execBootStart env s
  | .bootBackoffExpiry => Sys2Proof.Machine.execBootBackoffExpiry s
  | .portReset port => Sys2Proof.Machine.execPortReset port s
  | .hostBeatTimeout port => Sys2Proof.Machine.execHostBeatTimeout port s
  | .hostLinkDown port => Sys2Proof.Machine.execHostLinkDown port s
  | .irqHoldoffExpiry port vec => Sys2Proof.Machine.execIrqHoldoffExpiry port vec s
  | .hxVersionWrite port v => Sys2Proof.Machine.execHxVersionWrite port v s
  | .hxCplConsWrite port v => Sys2Proof.Machine.execHxCplConsWrite port v s
  | .hxHostBeatWrite port v => Sys2Proof.Machine.execHxHostBeatWrite port v s
  | .msLatSelWrite port v => Sys2Proof.Machine.execMsLatSelWrite port v s
  | .msHbmCfgWrite port v => Sys2Proof.Machine.execMsHbmCfgWrite port v s
  | .elMonCfgWrite port mon v => Sys2Proof.Machine.execElMonCfgWrite port mon v s
  | .elLogClear port => Sys2Proof.Machine.execElLogClear port s
  | .tpOvrWrite port g v => Sys2Proof.Machine.execTpOvrWrite port g v s
  | .lkPortDisable port link bit => Sys2Proof.Machine.execLkPortDisable port link bit s
  | .lane0Release port link => Sys2Proof.Machine.execLane0Release port link s
  | .lane1Release port link => Sys2Proof.Machine.execLane1Release port link s
  | .pwCapWrite port v => Sys2Proof.Machine.execPwCapWrite port v s
  | .standbyEnter port => Sys2Proof.Machine.execStandbyEnter port s
  | .standbyExit port => Sys2Proof.Machine.execStandbyExit port s
  | .suTimeLoRead port => Sys2Proof.Machine.execSuTimeLoRead port s
  | .msGranLoRead port => Sys2Proof.Machine.execMsGranLoRead port s
  | .tpTblLoRead port => Sys2Proof.Machine.execTpTblLoRead port s
  | .elLogData0Read port => Sys2Proof.Machine.execElLogData0Read port s
  | .elClassCntLoRead port => Sys2Proof.Machine.execElClassCntLoRead port s
  | .pwCtxEnergyLoRead port ctx => Sys2Proof.Machine.execPwCtxEnergyLoRead port ctx s
  | .pwIdleEnergyLoRead port => Sys2Proof.Machine.execPwIdleEnergyLoRead port s
  | .registerWrite port offset v => Sys2Proof.Machine.execRegisterWrite port offset v s
  | .phaseReceived core phaseId => Sys2Proof.Machine.execPhaseReceived core phaseId s
  | .controlPeriod => Sys2Proof.Machine.execControlPeriod s
  | .operatingPointChange cl => Sys2Proof.Machine.execOperatingPointChange cl s
  | .meterSample r => Sys2Proof.Machine.execMeterSample r s
  | .excursionGateExpiry => Sys2Proof.Machine.execExcursionGateExpiry s
  | .droopDetect cl => Sys2Proof.Machine.execDroopDetect cl s
  | .droopEnd cl => Sys2Proof.Machine.execDroopEnd cl s
  | .throttleTick cl temp => Sys2Proof.Machine.execThrottleTick cl temp s
  | .pwThermTrip cl => Sys2Proof.Machine.execPwThermTrip cl s
  | .pwHbmHot stack temp => Sys2Proof.Machine.execPwHbmHot stack temp s
  | .svcStatus src req => Sys2Proof.Machine.execSvcStatus src req s
  | .svcWrite src req => Sys2Proof.Machine.execSvcWrite src req s
  | .svcCommit src req => Sys2Proof.Machine.execSvcCommit src req s
  | .svcAbort src req => Sys2Proof.Machine.execSvcAbort src req s
  | .svcProvision src req => Sys2Proof.Machine.execSvcProvision src req s
  | .svcLifecycle src req => Sys2Proof.Machine.execSvcLifecycle src req s
  | .stagingOwnerTimeout => Sys2Proof.Machine.execStagingOwnerTimeout s
  | .flashWriteDone => Sys2Proof.Machine.execFlashWriteDone s
  | .activateFirmware => Sys2Proof.Machine.execActivateFirmware s
  | .getVersion port => Sys2Proof.Machine.execGetVersion port s
  | .getCapabilities port => Sys2Proof.Machine.execGetCapabilities port s
  | .negotiateAlgorithms port => Sys2Proof.Machine.execNegotiateAlgorithms port s
  | .getDigests port => Sys2Proof.Machine.execGetDigests port s
  | .getCertificate port slot offset len => Sys2Proof.Machine.execGetCertificate port slot offset len s
  | .challenge port slot nonce => Sys2Proof.Machine.execChallenge port slot nonce s
  | .getMeasurements port index signed nonce => Sys2Proof.Machine.execGetMeasurements port index signed nonce s
  | .setEndpointId eid => Sys2Proof.Machine.execSetEndpointId eid s
  | .i3cAddressAssign a => Sys2Proof.Machine.execI3cAddressAssign a s
  | .setEventReceiver eid => Sys2Proof.Machine.execSetEventReceiver eid s
  | .pldmCapEffecter watts => Sys2Proof.Machine.execPldmCapEffecter watts s
  | .pldmStandbyEffecter v => Sys2Proof.Machine.execPldmStandbyEffecter v s
  | .pldmResetEffecter v => Sys2Proof.Machine.execPldmResetEffecter v s
  | .tapInstruction ins => Sys2Proof.Machine.execTapInstruction ins s
  | .mhLeak => Sys2Proof.Machine.execMhLeak s
  | .mhCoolantHot => Sys2Proof.Machine.execMhCoolantHot s
  | .mhFlowLow => Sys2Proof.Machine.execMhFlowLow s
  | .mhInputLow blade => Sys2Proof.Machine.execMhInputLow blade s
  | .mhInputHigh blade => Sys2Proof.Machine.execMhInputHigh blade s
  | .mhCableRemoved conn => Sys2Proof.Machine.execMhCableRemoved conn s
  | .mhRefclkLost port => Sys2Proof.Machine.execMhRefclkLost port s
  | .mhOscFault => Sys2Proof.Machine.execMhOscFault s
  | .pwRegFault loc => Sys2Proof.Machine.execPwRegFault loc s
  | .pcieReadCompletion core r => Sys2Proof.Machine.execPcieReadCompletion core r s
  | .pldmFirmwareUpdate part data => Sys2Proof.Machine.execPldmFirmwareUpdate part data s
  | .perstDeassert port => Sys2Proof.Machine.execPerstDeassert port s
  | .leakSensorDry => Sys2Proof.Machine.execLeakSensorDry s
  | .keptCodeCopy => Sys2Proof.Machine.execKeptCodeCopy s
  | .undoDeltaConvert ctx => Sys2Proof.Machine.execUndoDeltaConvert ctx s
  | .warmResetDone => Sys2Proof.Machine.execWarmResetDone s
  | .mcRestartDone mc => Sys2Proof.Machine.execMcRestartDone mc s
  | .knownAnswerKernelsDone r => Sys2Proof.Machine.execKnownAnswerKernelsDone r s

end Sys2Proof.Machine
end

