-- ==== Sys2Proof/Machine/Tick.lean ====
section
/-! DEFINITION. One tick of the management clock (R200), and what goes on by itself: negotiation flits (R261), accesses
that wait for a snapshot slot (R403), suspect resolution (R435) and due handovers (R501). -/

namespace Sys2Proof.Machine

/-- An access that waited for a snapshot slot is made, or waits on (R403). -/
def State.redoAccess (s : State) (i : Instr) : State :=
  match (match i with
    | .write p => execWrite p s
    | .readReq p => execReadReq p s
    | .atomicReq p => execAtomicReq p s
    | .bar2Read port off n => execBar2Read port off n s
    | .bar2Write port off bs => execBar2Write port off bs s
    | _ => .next s) with
  | .next t => t
  | _ => s

/-- The waiting accesses are tried in order. -/
def State.retrySnap (s : State) : State := s.snapWaiting.foldl State.redoAccess { s with snapWaiting := [] }

/-- One cycle of the 1.0 GHz management clock (R200), in which ports in training send their negotiation flits (R261),
accesses that wait for a snapshot slot are tried (R403), HLT goes on with a resolution (R435) and a due handover takes
place (R501), rails ramp (R455) and standby is entered (R469); the clock stands while the module is without power or held
in reset (R438, R548). -/
def idleTick (s : State) : State :=
  if s.board.powered && !s.board.resetLow && (s.boot.stage != 0 || s.boot.startDue) then
    ({ s with suTime := (s.suTime + 1) % 2 ^ 64 } : State).rampTick.standbyTick.negotiationTick.retrySnap.resolveStep.dueHandovers
  else s

end Sys2Proof.Machine
end

