-- ==== Sys2Proof/Safety.lean ====
section
/-! DEFINITION. What claims about whole runs use: a safe step, the canonical form of the state's tables, and fuses that
only go one way. -/

namespace Sys2Proof

/-- The step answers a next state. -/
def SafeStep (s : Machine.State) : Prop := ∃ t, Machine.step s = .next t

namespace Machine

/-- Every memory and every bank of units is in canonical form, so that equal contents are equal data. -/
def State.canonical (s : State) : Bool :=
  s.hbm.wf && s.lid.wf && s.store.wf && s.lines.wf && Tbl.wf Core.reset s.cores && Tbl.wf Ctx.reset s.ctxs &&
    Tbl.wf Port.reset s.ports && Tbl.wf Link.reset s.links && Tbl.wf Chan.reset s.chans &&
    Tbl.wf LidUnit.reset s.lidUnits && Tbl.wf 0 s.granules && Tbl.wf none s.granOwner &&
    Tbl.wf CacheSet.reset s.cache

/-- A slot that was programmed keeps its contents. -/
def slotKept (a b : Option (List Byte × List Byte)) : Prop := ∀ x, a = some x → b = some x

/-- Fuses `b` can follow fuses `a`: no programmed slot changes, no revocation is undone, and the thermometer counts
never fall (R454, R511, R512, R523). -/
def Fuses.follow (a b : Fuses) : Prop :=
  slotKept a.vendor0 b.vendor0 ∧ slotKept a.vendor1 b.vendor1 ∧ slotKept a.owner0 b.owner0 ∧
    slotKept a.owner1 b.owner1 ∧ a.revoke &&& b.revoke = a.revoke ∧ a.svn ≤ b.svn ∧ a.lmsCkpt ≤ b.lmsCkpt ∧
    b.stepping = a.stepping ∧ b.uds = a.uds ∧ b.trim = a.trim

/-! ### When a command is carried out

Each of these says what must hold of the state for a row's own effect to happen; claims about the effect assume it. -/

/-- `h` is the host command that SCH takes now for context `c`: it stands first for that context, has the opcode, and
came from the port that owns the context; nothing stops SCH. `rest` is the order without it (R29, R440, R441, R489). -/
abbrev State.takes (s : State) (c op : Nat) (h : HostCmd) (rest : List HostCmd) : Prop :=
  c < 8 ∧ s.schRuns = true ∧ (needsSec op && s.err.restarting.contains .sec) = false ∧ s.err.fatalHold = false ∧
    takeCmd (fun g => g.ctxId == c) s.sch = some (h, rest) ∧ h.opcode = op ∧ ((s.ctx c).busy = none ∨ op = 5) ∧
    (s.ctx c).st ≠ .free ∧ (s.ctx c).owner = h.port

/-- `h` is the module command of this opcode that SCH takes now; its port may give it (R489). -/
abbrev State.takesModule (s : State) (op : Nat) (h : HostCmd) (rest : List HostCmd) : Prop :=
  s.schRuns = true ∧ (needsSec op && s.err.restarting.contains .sec) = false ∧ s.err.fatalHold = false ∧
    takeCmd (fun g => g.ctxId == 0xFF && g.opcode == op) s.sch = some (h, rest) ∧ (op = 1 ∨ s.portAdmin h.port = true)

/-- A BAR0 write or post takes effect at once (R441, R469, R484). -/
def State.acceptsWrites (s : State) : Bool :=
  s.board.powered && !s.board.resetLow && s.boot.stage == stageReady && !s.err.warmReset && s.pw.standby == 0 &&
    !s.err.restarting.contains .sch

/-! #### Cores -/

/-- Core `p` executes now a sequencer command of this opcode: its slot has been fetched and is good, its wait is met, and
the command has not to wait; the slot's bytes, and the state after the fetch (R34, R37). -/
def State.seqSlot (s : State) (p op : Nat) : Option (List Byte × State) :=
  match s.fetchFor p 0 op with
  | .stop _ => none
  | .slot b u => if (u.core p).waitMet b && !u.seqStalls p b then some (b, u) else none

/-- The command that a slot makes in its engine's queue (R34, R35). -/
def Core.cmdOf (k : Core) (b : List Byte) (f : Faults) : QCmd := ⟨b, k.seq.pos, k.seq.seqno, k.seq.lastStep, f⟩

/-- A slot has entered its queues and the sequencer has gone on to the next slot (R34, R36, R37). -/
def State.queued (s : State) (p : Nat) (b : List Byte) (f : Faults) : State :=
  ((s.modCore p fun x => (enginesOf b).foldl (fun y e => y.setQueue e (y.queue e ++ [(s.core p).cmdOf b f])) x).countDispatch
    p).goTo p ((s.core p).seq.pos + 32)

/-- No latent parity error waits where the command's engines find one (R99, R130, R181). -/
def State.sound (s : State) (p : Nat) (q : QCmd) : Bool :=
  (paritySites p q.slot).all fun x => !s.parity.contains x.1

/-- Core `p` dispatches an engine command of this opcode and its engines, whose queues are empty, start it at once: the
command, and the state in which it starts (R34–R36). -/
def State.startsAs (s : State) (p eng op : Nat) (f : Faults) : Option (QCmd × State) :=
  match s.fetchFor p eng op with
  | .stop _ => none
  | .slot b u =>
    let q := (u.core p).cmdOf b f
    let t := u.queued p b f
    if (enginesOf b).all (fun e => ((u.core p).queue e).isEmpty) && t.mayStart p q && t.sound p q then
      some (q, t.modCore p fun k => k.popCmd q)
    else none

/-- The row of each copy-engine command: its opcode, its descriptor's size, and what it does once its checks have
passed (R155). -/
def copyRows (p : Nat) (q : QCmd) : List (Instr × Nat × Nat × (State → List Byte → State)) :=
  [(.copy p, 1, 128, State.runCopy p q), (.gather p, 2, 96, State.runIdx 2 p q), (.scatter p, 3, 96, State.runIdx 3 p q),
    (.scatterAdd p, 4, 96, State.runIdx 4 p q), (.segReduce p, 5, 96, State.runSeg p q), (.route p, 6, 64, State.runRoute p q),
    (.setop p, 7, 64, State.runSet p q), (.posGather p, 8, 64, State.runPos p q), (.xdelta p, 9, 64, State.runXdelta p q),
    (.xapply p, 10, 64, State.runXapply p q), (.hash p, 11, 64, State.runHash p q)]

/-! #### Messages -/

/-- A CONTROL message of a type has arrived for context `c`, which takes part in its job's steps; FAB works (R335,
R441). -/
abbrev State.hears (s : State) (p : Packet) (type c : Nat) : Prop :=
  .fab ∉ s.err.restarting ∧ s.ctlHere p type = true ∧ s.stepCtx p = some c

/-- A decision of a kind has arrived for the current attempt of context `c` (R335, R339). -/
abbrev State.decides (s : State) (p : Packet) (kind c : Nat) (d : Decision) : Prop :=
  s.hears p msgDecide c ∧ d = Decision.parse p.data ∧ d.kind = kind ∧ d.attempt = (s.ctx c).step.attempt ∧
    (if kind = 4 then True
     else if kind = 5 then ∃ e, (s.ctx c).step.decision = some e ∧ e.step = d.step ∧ e.kind = 4
     else d.step = (s.ctx c).step.current ∧ (s.ctx c).step.decision = none)

/-- An order of an action has arrived for the decision `d` that context `c` acts on (R341, R342). -/
abbrev State.goes (s : State) (p : Packet) (action c : Nat) (d : Decision) : Prop :=
  s.hears p msgGo c ∧ (s.ctx c).step.decision = some d ∧ fieldAt p.data 0 8 = d.step ∧
    fieldAt p.data 8 2 = (if action = 1 then d.attempt + 1 else d.attempt) ∧ fieldAt p.data 0x0C 1 = action ∧
    ((action = 3) ↔ (d.kind = 4))

/-- An RC_ORDER of an action has arrived that was not acted on before: the message, and the state that has noted it and
passed it on (R371). -/
abbrev State.ordered (s : State) (p : Packet) (action : Nat) (m : RcMsg) (t : State) : Prop :=
  .fab ∉ s.err.restarting ∧ s.ctlHere p msgOrder = true ∧ m = RcMsg.parse p.data ∧ m.action = action ∧ s.firstOf p = some t

end Machine

end Sys2Proof
end

