-- ==== Sys2Proof/WellFormed.lean ====
section
/-! DEFINITION. A command is well formed when the units it names exist (R8, R10, R257). -/

namespace Sys2Proof

/-- The parts that known-answer kernels name as bad (R384). -/
def KakResult.units (r : KakResult) : List (Nat × Nat) :=
  r.badArrays.map (·, 384) ++ r.badCores.map (·, 192) ++ r.badChannels.map (·, 256) ++ r.badLidUnits.map (·, 128)

/-- The cluster of a shared buffer, if it is one of a cluster (R435). -/
def SharedBuf.units : SharedBuf → List (Nat × Nat)
  | .router c | .clusterHub c => [(c, 16)]
  | .dieHub => []

/-- What unit numbers an instruction names, with the number of such units the spec gives (R8). -/
def Instr.units : Instr → List (Nat × Nat)
  | .ctxCreate => []
  | .ctxStart ctx => [(ctx, 8)]
  | .ctxSuspend ctx => [(ctx, 8)]
  | .suspendSaveDone ctx => [(ctx, 8)]
  | .ctxResume ctx => [(ctx, 8)]
  | .ctxDestroy ctx => [(ctx, 8)]
  | .ctxZeroingDone ctx => [(ctx, 8)]
  | .regionMap ctx => [(ctx, 8)]
  | .regionUnmap ctx => [(ctx, 8)]
  | .lidConfig ctx => [(ctx, 8)]
  | .windowReg ctx => [(ctx, 8)]
  | .windowDereg ctx => [(ctx, 8)]
  | .ckpt ctx => [(ctx, 8)]
  | .restore ctx => [(ctx, 8)]
  | .diag ctx => [(ctx, 8)]
  | .replan ctx => [(ctx, 8)]
  | .stakeAdd ctx => [(ctx, 8)]
  | .mapout => []
  | .kakRun => []
  | .resetWarm => []
  | .mbxPost port _ => [(port, 2)]
  | .commandFetch port _ => [(port, 2)]
  | .nop core => [(core, 192)]
  | .seqEnd core => [(core, 192)]
  | .jump core => [(core, 192)]
  | .call core => [(core, 192)]
  | .ret core => [(core, 192)]
  | .loop core => [(core, 192)]
  | .endloop core => [(core, 192)]
  | .stepDecl core => [(core, 192)]
  | .phase core => [(core, 192)]
  | .drain core => [(core, 192)]
  | .notify core => [(core, 192)]
  | .waitRelease core _ => [(core, 192)]
  | .slotSignal core _ => [(core, 192)]
  | .matmul core _ _ _ => [(core, 192)]
  | .borderTiebreak core _ _ => [(core, 192)]
  | .epilogue core _ => [(core, 192)]
  | .epilogueDrainDone core _ => [(core, 192)]
  | .accStore core _ => [(core, 192)]
  | .accLoad core _ => [(core, 192)]
  | .matmulPair core _ _ _ _ => [(core, 192)]
  | .elem core => [(core, 192)]
  | .reduce core => [(core, 192)]
  | .update core => [(core, 192)]
  | .tableLoad core => [(core, 192)]
  | .copy core => [(core, 192)]
  | .gather core => [(core, 192)]
  | .scatter core => [(core, 192)]
  | .scatterAdd core => [(core, 192)]
  | .segReduce core => [(core, 192)]
  | .route core => [(core, 192)]
  | .setop core => [(core, 192)]
  | .posGather core => [(core, 192)]
  | .xdelta core => [(core, 192)]
  | .xapply core => [(core, 192)]
  | .hash core => [(core, 192)]
  | .ceHazardRelease core => [(core, 192)]
  | .set core => [(core, 192)]
  | .add core => [(core, 192)]
  | .sub core => [(core, 192)]
  | .watch core => [(core, 192)]
  | .suChangeApply core => [(core, 192)]
  | .fenceRelease _ _ _ _ => []
  | .hbmWriteTurn ch => [(ch, 256)]
  | .scrubRead ch => [(ch, 256)]
  | .repairRecordWrite => []
  | .relocation ch => [(ch, 256)]
  | .channelMapoutComplete ch => [(ch, 256)]
  | .hbmAccessTimeout ch => [(ch, 256)]
  | .bar2Read port _ _ => [(port, 2)]
  | .bar2Write port _ _ => [(port, 2)]
  | .portTrain link _ _ => [(link, 40)]
  | .negotiationFlit link _ => [(link, 40)]
  | .negotiationTimeout link => [(link, 40)]
  | .discoveryTimeout link => [(link, 40)]
  | .laneDown link lane => [(link, 40), (lane, 2)]
  | .laneRetrain link _ => [(link, 40)]
  | .flitReceive link _ => [(link, 40)]
  | .maintenanceFlitSend link => [(link, 40)]
  | .replayTimeout link => [(link, 40)]
  | .packetForward arrival _ => arrival.toList.map (·, 40)
  | .write _ => []
  | .readReq _ => []
  | .readResp _ => []
  | .writeAck _ => []
  | .writeAckSend _ _ _ _ => []
  | .signal _ => []
  | .atomicReq _ => []
  | .atomicResp _ => []
  | .refuse _ => []
  | .linkState link _ => [(link, 40)]
  | .tableRebuild table index => [(table, 3), (index, if table = 0 then 16384 else 257)]
  | .stepComplete ctx => [(ctx, 8)]
  | .stDigest _ => []
  | .voteSend ctx => [(ctx, 8)]
  | .stVote _ => []
  | .stDecideCommit _ => []
  | .stDecideReplay _ => []
  | .stDecidePause _ => []
  | .stDecideDiag _ => []
  | .stDecideDiagDone _ => []
  | .rollbackRestore ctx => [(ctx, 8)]
  | .stRolled _ => []
  | .stGoRerun _ => []
  | .stGoHold _ => []
  | .stGoDiagRun _ => []
  | .statsPublishDone ctx => [(ctx, 8)]
  | .heartbeatTick => []
  | .kaTimeout slot => [(slot, 32)]
  | .fdSuspect _ => []
  | .fdFence _ => []
  | .stepTimeout ctx => [(ctx, 8)]
  | .rcProbe _ => []
  | .rcProbeReply _ => []
  | .probeTimeout ctx _ => [(ctx, 8)]
  | .rcFenceReq _ => []
  | .rcStatus _ => []
  | .rcOrderRollback _ => []
  | .rcOrderAdopt _ => []
  | .rcOrderRebuild _ _ => []
  | .rcOrderLoad _ load => load.kernels.units
  | .rcOrderResume _ => []
  | .rcOrderHold _ => []
  | .rcOrderStakeAdd _ => []
  | .rcReady _ => []
  | .moverPageCopy ctx => [(ctx, 8)]
  | .ckManifestWrite ctx => [(ctx, 8)]
  | .ckAck _ => []
  | .ckPoolTimeout ctx => [(ctx, 8)]
  | .monitorSample mon _ => [(mon, 16)]
  | .elWdWait core _ => [(core, 192)]
  | .elWdExec core _ => [(core, 192)]
  | .elNetHang cl => [(cl, 16)]
  | .linkCoreHang link => [(link, 40)]
  | .elSharedUe buf _ => buf.units
  | .fatalReport _ => []
  | .mcCrash _ _ => []
  | .powerLoss => []
  | .powerOn _ => []
  | .resetL _ _ _ => []
  | .bootStart env => KakResult.units ⟨env.badArrays, env.badCores, env.badChannels, env.badLidUnits⟩
  | .bootBackoffExpiry => []
  | .portReset r => [(r.port, 2)]
  | .hostBeatTimeout port => [(port, 2)]
  | .hostLinkDown port => [(port, 2)]
  | .irqHoldoffExpiry port vec => [(port, 2), (0, vec), (vec, 10)]
  | .hxVersionWrite port _ => [(port, 2)]
  | .hxCplConsWrite port _ => [(port, 2)]
  | .hxHostBeatWrite port _ => [(port, 2)]
  | .msLatSelWrite port _ => [(port, 2)]
  | .msHbmCfgWrite port _ => [(port, 2)]
  | .elMonCfgWrite port mon _ => [(port, 2), (mon, 16)]
  | .elLogClear port => [(port, 2)]
  | .tpOvrWrite port g _ => [(port, 2), (g, 8)]
  | .lkPortDisable port link _ => [(port, 2), (link, 40)]
  | .lane0Release port link => [(port, 2), (link, 40)]
  | .lane1Release port link => [(port, 2), (link, 40)]
  | .pwCapWrite port _ => [(port, 2)]
  | .standbyEnter port => [(port, 2)]
  | .standbyExit port => [(port, 2)]
  | .suTimeLoRead port => [(port, 2)]
  | .msGranLoRead port => [(port, 2)]
  | .tpTblLoRead port => [(port, 2)]
  | .elLogData0Read port => [(port, 2)]
  | .elClassCntLoRead port => [(port, 2)]
  | .pwCtxEnergyLoRead port ctx => [(port, 2), (ctx, 8)]
  | .pwIdleEnergyLoRead port => [(port, 2)]
  | .registerWrite port offset _ => [(port, 2), (offset, 2 ^ 22), (offset % 4, 1)]
  | .phaseReceived core _ => [(core, 192)]
  | .controlPeriod => []
  | .operatingPointChange cl => [(cl, 16)]
  | .meterSample _ => []
  | .excursionGateExpiry => []
  | .droopDetect cl => [(cl, 16)]
  | .droopEnd cl => [(cl, 16)]
  | .throttleTick cl _ => [(cl, 16)]
  | .pwThermTrip cl => [(cl, 16)]
  | .pwHbmHot stack _ => [(stack, 8)]
  | .svcStatus _ _ => []
  | .svcWrite _ _ => []
  | .svcCommit _ _ => []
  | .svcAbort _ _ => []
  | .svcProvision _ _ => []
  | .svcLifecycle _ _ => []
  | .stagingOwnerTimeout => []
  | .flashWriteDone => []
  | .activateFirmware => []
  | .getVersion port => [(port, 2)]
  | .getCapabilities port => [(port, 2)]
  | .negotiateAlgorithms port => [(port, 2)]
  | .getDigests port => [(port, 2)]
  | .getCertificate port _ _ _ => [(port, 2)]
  | .challenge port _ _ => [(port, 2)]
  | .getMeasurements port _ _ _ => [(port, 2)]
  | .setEndpointId _ => []
  | .i3cAddressAssign _ => []
  | .setEventReceiver _ => []
  | .pldmCapEffecter _ => []
  | .pldmStandbyEffecter _ => []
  | .pldmResetEffecter _ => []
  | .tapInstruction _ => []
  | .mhLeak => []
  | .mhCoolantHot => []
  | .mhFlowLow => []
  | .mhInputLow blade => [(0, blade), (blade, 3)]
  | .mhInputHigh blade => [(0, blade), (blade, 3)]
  | .mhCableRemoved conn => [(0, conn), (conn, 5)]
  | .mhRefclkLost port => [(port, 2)]
  | .mhOscFault => []
  | .pwRegFault loc => if loc = 0xFF then [] else [(loc, 16)]
  | .pcieReadCompletion core _ => [(core, 192)]
  | .pldmFirmwareUpdate _ _ => []
  | .perstDeassert port => [(port, 2)]
  | .leakSensorDry => []
  | .keptCodeCopy => []
  | .undoDeltaConvert ctx => [(ctx, 8)]
  | .warmResetDone => []
  | .mcRestartDone _ => []
  | .knownAnswerKernelsDone r => r.units

/-- Every unit named exists. -/
def Instr.wellFormed (i : Instr) : Bool := i.units.all fun u => decide (u.1 < u.2)

end Sys2Proof
end

