-- ==== Sys2Proof/Certificates/Slice0/Obligations.lean ====
section
/-! DEFINITION. The statements about the module: what each command does when its conditions hold, what the whole machine
keeps, and the frames. The conditions under which a row's command is carried out are named in Safety.lean. -/

open Sys2Proof Sys2Proof.Machine

/-! ### The queue and the whole machine -/

/-- The command at the front of the queue is carried out on the state with the rest of the queue. (The queue of waiting
commands is the model's own: log 1.) -/
def Obligations.StepRunsTheFront : Prop :=
  ∀ (c : Instr) (rest : List Instr) (s : State), s.pending = c :: rest → step s = exec c { s with pending := rest }

/-- R200, R438, R548: with no command waiting, a step of a started module is one cycle of the management clock; while
it has no power, or is held in reset, nothing moves. R455: every 100 ns each rail that is ramping moves by 1 mV. R261:
every 1 µs each port that negotiates sends a negotiation flit. R469: standby that is being entered is reached. (That a
step on an empty queue is such a cycle, and that ramps and negotiation flits keep to multiples of SU_TIME, is the
model's choice, logs 3, 130 and 164.) -/
def Obligations.IdleStepTicks : Prop :=
  ∀ (s : State), s.pending = [] →
    ((s.board.powered = false ∨ s.board.resetLow = true ∨ (s.boot.stage = 0 ∧ s.boot.startDue = false)) →
      step s = .next s) ∧
    (s.board.powered = true → s.board.resetLow = false → (s.boot.stage ≠ 0 ∨ s.boot.startDue = true) →
      s.err.suspects = none → (∀ c, c < 8 → (s.ctx c).handoverDue = false) → s.snapWaiting = [] →
      let t : State := { s with suTime := (s.suTime + 1) % 2 ^ 64 }
      (s.pw.standby ≠ 1 → t.suTime % 100 ≠ 0 → step s = .next t) ∧
      (s.pw.standby ≠ 1 → t.suTime % 1000 ≠ 0 → step s = .next t.rampTick) ∧
      (s.pw.standby = 1 → t.suTime % 100 ≠ 0 → step s = .next t.standbyTick) ∧
      (s.pw.standby ≠ 1 → t.suTime % 1000 = 0 → (∀ cl, cl < 16 → (s.cluster cl).rampTo = none) →
        step s = .next (((List.range 40).filter fun l => (s.link l).negotiates).foldl State.sendNegotiation t))) ∧
    ∀ (cl : Nat), Tbl.wf Cluster.reset s.pw.clusters = true → cl < 16 → s.suTime % 100 = 0 → s.pw.clustersOn = true →
      (s.rampTick.cluster cl).volt = (s.cluster cl).ramp.volt

/-- Reset leaves every table in canonical form. -/
def Obligations.ResetIsCanonical : Prop :=
 State.reset.canonical = true

/-- Every step keeps every table in canonical form. -/
def Obligations.StepKeepsCanonicalForm : Prop :=
  ∀ (s t : State), s.canonical = true → step s = .next t → t.canonical = true

/-- R511, R512, R523: whatever the command, a programmed fuse slot keeps its contents, no revocation is undone, and
neither the svn count nor the LMS checkpoint count falls. -/
def Obligations.FusesNeverGoBack : Prop :=
  ∀ (c : Instr) (s t : State), exec c s = .next t → s.fuses.follow t.fuses

/-- A command leaves the queue of waiting commands alone, and only draws further free values. -/
def Obligations.CommandsLeaveTheQueue : Prop :=
  ∀ (c : Instr) (s t : State), exec c s = .next t → t.pending = s.pending ∧ s.freeCount ≤ t.freeCount

/-- R8, R10, R257: a command that names only units the module has answers a next state, whatever the state. A command
that names a unit the module does not have is turned away as such, in every state. -/
def Obligations.CommandsAnswerUnlessUnitMissing : Prop :=
  (∀ (c : Instr) (s : State), c.wellFormed = true → ∃ t : State, exec c s = .next t) ∧
  (∀ (c : Instr) (s : State), c.wellFormed = false → exec c s = .fault .noSuchUnit)

/-! ### Host commands -/

/-- R487: HX_MBX_POST_HI posts the 64-bit address, or is discarded with HX_MBX_FULL when 64 posts wait. R487, R488: the
block at the oldest posted address is read, and a block with a good header joins the order in which SCH takes
commands, with its port, opcode, context, tag and payload. -/
def Obligations.HostCommandsAreQueued : Prop :=
  (∀ (s : State) (port : Nat) (hi : Word), port < 2 → s.acceptsWrites = true →
    ((s.port port).queue.length < 64 →
      exec (.mbxPost port hi) s = .next (s.setPort port { s.port port with
        postHi := hi, queue := (s.port port).queue ++ [hi ++ (s.port port).postLo] })) ∧
    (64 ≤ (s.port port).queue.length →
      exec (.mbxPost port hi) s = .next ((s.setPort port { s.port port with
        postHi := hi, discarded := true, irqStatus := (s.port port).irqStatus ||| 8 }).report
          (codeAt Code.hxMbxFull port)))) ∧
  (∀ (s : State) (port : Nat) (a : BitVec 64) (more : List (BitVec 64)) (b : List Byte), port < 2 → s.schRuns = true →
    (s.port port).queue = a :: more → (s.port port).full = false → (s.port port).waiting = [] → a.toNat % 64 = 0 →
    (s.setPort port { s.port port with queue := more }).headerStatus port b = none →
    exec (.commandFetch port (.ok b)) s = .next { s.setPort port { s.port port with queue := more } with
      sch := s.sch ++ [{ port := port, opcode := fieldAt b 0 2, ctxId := fieldAt b 2 1, irq := bitAt (fieldAt b 3 1) 0,
                         tag := BitVec.ofNat 64 (fieldAt b 8 8), payload := slice b 0x40 (fieldAt b 4 4 % 128) }] })

/-- R32, R136, R399, R491: CTX_CREATE whose descriptor, world and resources are good gives the slot to the command's port
in state CREATED, with the granted cores, lid units and region 0, and completes with OK. -/
def Obligations.CreateGivesTheSlot : Prop :=
  ∀ (s t : State) (h : HostCmd) (rest : List HostCmd) (g : Grant), s.canonical = true → s.takesModule 1 h rest →
    s.boot.stagingOwner = none → s.boot.updState ≠ 2 → s.boot.updState ≠ 3 → ctxDescOk h.payload h.port = true →
    (fieldAt h.payload 1 1 = 1 → s.portSecure h.port = true) →
    State.grant { s with sch := rest } h.payload = some g → State.build { s with sch := rest } h.payload h.port g = some t →
    exec .ctxCreate s = .next (t.complete h 0 0 g.slot g.first (coreMaskBytes g.cores)) ∧
      (t.ctx g.slot).st = .created ∧ (t.ctx g.slot).owner = h.port ∧ (t.ctx g.slot).cores = g.cores ∧
      (t.ctx g.slot).lid = g.lid.map (·, false) ∧ (t.ctx g.slot).busy = none ∧
      (t.ctx g.slot).region 0 = some ⟨g.first * 2 ^ 26, fieldAt h.payload 0x18 8, g.mode, g.set⟩

/-- R33, R221, R279, R324, R359: CTX_START of a CREATED or FINISHED context whose stream table, job tag, loss-scaling
range, skein and pair are good reads the table, starts the context at it and completes with OK. -/
def Obligations.StartRunsTheStreams : Prop :=
  ∀ (s : State) (c : Nat) (h : HostCmd) (rest : List HostCmd) (es : List (Nat × Nat × Bool)), s.takes c 2 h rest →
    ((s.ctx c).st = .created ∨ (s.ctx c).st = .finished) →
    let table := State.readTable { s with sch := rest } c (fieldAt h.payload 0 8)
    let t := table.2.touchPair c
    table.1 = true → t.streamTableAt c (fieldAt h.payload 0 8) = some es →
    (flag (s.ctx c).desc.flags 0 = true →
      fld (s.ctx c).regs.lkJob 0 16 ≠ 0 ∧ t.tagTaken c (fld (s.ctx c).regs.lkJob 0 16) = false) →
    (s.ctx c).regs.lsRangeOk = true → ((s.ctx c).stEn = true → t.skeinOk c = true) → t.pairOk c = true →
    exec (.ctxStart c) s = .next ((t.startCtx c (fieldAt h.payload 0 8) es).finish h 0)

/-- R40, R41: CTX_SUSPEND of a RUNNING context without the fabric, or of a PAUSED one, that has a save area is in
progress until SUSPEND_SAVE_DONE; that, once the context's commands have completed, writes every core's record,
releases the cores, and leaves the context SUSPENDED with the state it resumes to. R43, R144, R192: CTX_RESUME of a
PAUSED context goes on at once; of a SUSPENDED one it takes cores by the placement mode, loads every record, applies
the held signals and evaluates every watch, and the context has its former state, in which it finishes if its streams
had ended. R246: while a map-out copies a part of the SUSPENDED context's granules, CTX_RESUME waits for it. -/
def Obligations.SuspendAndResume : Prop :=
  ((∀ (s : State) (c : Nat) (h : HostCmd) (rest : List HostCmd), s.takes c 3 h rest →
    flag (s.ctx c).desc.flags 2 = true →
    (((s.ctx c).st = .running ∧ flag (s.ctx c).desc.flags 0 = false) ∨ (s.ctx c).st = .paused) →
    exec (.ctxSuspend c) s = .next (State.modCtx { s with sch := rest } c fun x => { x with busy := some h })) ∧
  ∀ (s : State) (c : Nat) (h : HostCmd), c < 8 → (s.ctx c).busy = some h → h.opcode = 3 → (s.ctx c).st ≠ .faulted →
    s.ctxSettled c = true →
    let saved := (numbered (s.ctx c).cores).foldl (fun t (l, p) => t.saveCore c p l) s
    let released := (s.ctx c).cores.foldl (fun t p => t.releaseCore p) saved
    exec (.suspendSaveDone c) s = .next (State.finish (State.ckSnapshot (released.modCtx c fun y => { y with
      st := .suspended, resumeTo := (s.ctx c).st, cores := [], busy := none
      savedCounts := ((numbered (s.ctx c).cores).map fun (l, p) =>
        (⟨l, (s.core p).sentBytes, (s.core p).ackedBytes⟩ : SavedCounts)).filter fun e => !e.sent.isEmpty }) c) h 0)) ∧
  ((∀ (s : State) (c : Nat) (h : HostCmd) (rest : List HostCmd), s.takes c 4 h rest → (s.ctx c).st = .paused →
    (s.ctx c).regs.lsRangeOk = true →
    exec (.ctxResume c) s = .next (State.complete (State.resumePausedCtx { s with sch := rest } c) h 0 0 c 0
      (coreMaskBytes (s.ctx c).cores))) ∧
  (∀ (s : State) (c ch : Nat) (h : HostCmd) (rest : List HostCmd), s.takes c 4 h rest →
    (s.ctx c).st = .suspended → (s.ctx c).regs.lsRangeOk = true → State.copying { s with sch := rest } c = some ch →
    exec (.ctxResume c) s = .next { s with sch := rest, resumeWaits := s.resumeWaits ++ [(ch, c, h)] }) ∧
  ∀ (s : State) (c : Nat) (h : HostCmd) (rest : List HostCmd) (cores : List Nat), s.takes c 4 h rest →
    (s.ctx c).st = .suspended → (s.ctx c).regs.lsRangeOk = true → State.copying { s with sch := rest } c = none →
    s.chooseCores (s.ctx c).desc.placement (s.ctx c).desc.coreCount (s.ctx c).desc.coreMask = some cores →
    (∀ l, l < (s.ctx c).desc.coreCount → State.recordOk { s with sch := rest } c l = true) →
    let given := State.modCtx { s with sch := rest } c fun y => { y with cores := cores, savedCounts := [] }
    let loaded := (numbered cores).foldl (fun t (l, p) => t.loadCore c p l) given
    let t := cores.foldl State.evaluateAll (loaded.applyHeld c)
    (t.ctx c).st ≠ .faulted →
    exec (.ctxResume c) s = .next (((State.complete (t.modCtx c fun y => { y with st := (s.ctx c).resumeTo }) h 0 0 c 0
      (coreMaskBytes cores)).openGate c).tryFinish c))

/-- R30: CTX_DESTROY, even of a context with a command in progress, stops it, aborts its copies and revokes its
windows, and stays in progress while its resources are zeroed; CTX_ZEROING_DONE, which waits for a restart of SEC
(R441), then zeroes and returns every resource, leaves the slot FREE, with no core, lid unit, region or window, and
completes CTX_DESTROY with OK. -/
def Obligations.DestroyFreesTheSlot : Prop :=
  (∀ (s : State) (c : Nat) (h : HostCmd) (rest : List HostCmd), s.takes c 5 h rest → (s.ctx c).zeroing = false →
    let t := State.setBusy (State.destroyCtx { s with sch := rest } c) c h
    exec (.ctxDestroy c) s = .next t ∧
      (s.canonical = true → (t.ctx c).zeroing = true ∧ (t.ctx c).busy = some h ∧ (t.ctx c).windows = [] ∧
        (t.ctx c).heldSignals = [] ∧ t.fences.all (fun f => f.ctx != c) = true)) ∧
  ∀ (s : State) (c : Nat), c < 8 → (s.ctx c).zeroing = true →
    let t := s.freeCtx c
    (s.err.restarting.contains .sec = true → exec (.ctxZeroingDone c) s = .next s) ∧
    (∀ h, s.err.restarting.contains .sec = false → (s.ctx c).busy = some h →
      exec (.ctxZeroingDone c) s = .next (t.finish h 0)) ∧
    (s.err.restarting.contains .sec = false → (s.ctx c).busy = none → exec (.ctxZeroingDone c) s = .next t) ∧
    (s.canonical = true → (t.ctx c).st = .free ∧ (t.ctx c).cores = [] ∧ (t.ctx c).lid = [] ∧ (t.ctx c).regions = [] ∧
      (t.ctx c).windows = [] ∧ (t.ctx c).busy = none ∧ (t.ctx c).zeroing = false)

/-- R209, R489, R491: REGION_MAP on a context being set up maps a run of free granules as the region named; REGION_UNMAP
frees and zeroes the granules of the region named. R214, R215: LID_CONFIG on a CREATED context makes the units of its
bitmap cache units and numbers the scratchpad units from 0 in ascending physical order. R497: WINDOW_REG opens a
window that is not in use, WINDOW_DEREG revokes one. -/
def Obligations.RegionsUnitsAndWindows : Prop :=
  ((∀ (s t : State) (c g : Nat) (h : HostCmd) (rest : List HostCmd), s.takes c 0x10 h rest → (s.ctx c).setUp = true →
    (s.ctx c).mapOk h.payload = true →
    let n := fieldAt h.payload 8 8 / 2 ^ 26
    n ≤ s.freeGranules.length → s.chooseRun (fieldAt h.payload 0x10 8) n = some g →
    State.mapGranules { s with sch := rest } c (fieldAt h.payload 1 1) (fieldAt h.payload 2 1)
      ((List.range n).map (· + g)) = some t →
    exec (.regionMap c) s = .next ((t.modCtx c fun y => { y with
      regions := Tbl.set none y.regions (fieldAt h.payload 0 1)
        (some ⟨g * 2 ^ 26, n * 2 ^ 26, fieldAt h.payload 1 1, fieldAt h.payload 2 1⟩) }).finish h 0)) ∧
  ∀ (s : State) (c : Nat) (h : HostCmd) (rest : List HostCmd) (g : Region), s.takes c 0x11 h rest →
    (s.ctx c).setUp = true → 1 ≤ fieldAt h.payload 0 1 → fieldAt h.payload 0 1 ≤ 15 →
    allZero (slice h.payload 1 7) = true → (s.ctx c).region (fieldAt h.payload 0 1) = some g →
    exec (.regionUnmap c) s = .next ((State.modCtx
      (((List.range (g.bytes / 2 ^ 26)).map (· + g.base / 2 ^ 26)).foldl State.freeGranule { s with sch := rest }) c
      fun y => { y with
        regions := Tbl.set none y.regions (fieldAt h.payload 0 1) none
        ck := { y.ck with dirty := y.ck.dirty.filter fun k => k.1 != fieldAt h.payload 0 1 } }).finish h 0)) ∧
  ((∀ (s : State) (c : Nat) (h : HostCmd) (rest : List HostCmd), s.takes c 0x12 h rest → (s.ctx c).st = .created →
    fieldAt h.payload 0 16 < 2 ^ (s.ctx c).lid.length →
    let l := (List.range (s.ctx c).lid.length).zip (s.ctx c).lid |>.map fun (i, u) => (u.1, bitAt (fieldAt h.payload 0 16) i)
    exec (.lidConfig c) s = .next ((State.modCtx ((scratchNumbers l).foldl (fun t (u, k, n) =>
      t.setLidUnit u { t.lidUnit u with cache := k, logical := n }) { s with sch := rest }) c
        fun y => { y with lid := l }).finish h 0)) ∧
  (∀ (s : State) (c : Nat) (h : HostCmd) (rest : List HostCmd), s.takes c 0x20 h rest → (s.ctx c).st ≠ .faulted →
    let n := fieldAt h.payload 0 1
    let a := fieldAt h.payload 8 8
    let size := fieldAt h.payload 0x10 8
    n < 64 → fieldAt h.payload 1 1 < 4 → allZero (slice h.payload 2 6) = true → a % 4096 = 0 → size % 4096 = 0 →
    4096 ≤ size → size ≤ 2 ^ 40 → (∀ w, (s.ctx c).window n = some w → w.revoked = true) →
    exec (.windowReg c) s = .next ((State.modCtx { s with sch := rest } c fun y => { y with
      windows := Tbl.set none y.windows n (some ⟨a, size, bitAt (fieldAt h.payload 1 1) 0,
        bitAt (fieldAt h.payload 1 1) 1, false⟩) }).finish h 0)) ∧
  ∀ (s : State) (c : Nat) (h : HostCmd) (rest : List HostCmd) (w : Window), s.takes c 0x21 h rest →
    (s.ctx c).st ≠ .faulted → fieldAt h.payload 0 1 < 64 → allZero (slice h.payload 1 7) = true →
    (s.ctx c).window (fieldAt h.payload 0 1) = some w →
    exec (.windowDereg c) s = .next ((State.modCtx { s with sch := rest } c fun y => { y with
      windows := Tbl.set none y.windows (fieldAt h.payload 0 1) (some { w with revoked := true }) }).finish h 0))

/-- R345, R346: DIAG on a paused coordinator's context sends the decision DIAG for a step that is still retained, and
stays in progress. R492: REPLAN of a held context clears counters and watches, sets each sequencer at its new stream,
and writes the step registers it carries. R381: STAKE_ADD gives a free position of the job to a chip and floods the
order. -/
def Obligations.DiagReplanStakeAdd : Prop :=
  (∀ (s : State) (c : Nat) (h : HostCmd) (rest : List HostCmd), s.takes c 0x40 h rest → (s.ctx c).st = .paused →
    (s.ctx c).stEn = true → s.coordinator c = true → (s.ctx c).step.window.contains (fieldAt h.payload 0 8) = true →
    exec (.diag c) s = .next (State.sendDecision (State.modStep (State.setBusy { s with sch := rest } c h) c
      fun st => { st with diagCmd := some h }) c
        ⟨fieldAt h.payload 0 8, (s.ctx c).step.attempt, 4, 0, 0xFFFF, 0⟩ s.ownChip)) ∧
  (∀ (s : State) (c : Nat) (h : HostCmd) (rest : List HostCmd) (es : List (Nat × Nat × Bool)), s.takes c 0x41 h rest →
    (s.ctx c).st = .paused → (s.ctx c).recov.rstate = 6 → allZero (slice h.payload 0x24 4) = true →
    let table := State.readTable { s with sch := rest } c (fieldAt h.payload 0 8)
    table.1 = true → table.2.streamTableAt c (fieldAt h.payload 0 8) = some es →
    exec (.replan c) s = .next ((State.modCtx ((List.zip (s.ctx c).cores es).foldl (fun t (p, e) =>
      t.modCore p fun k => { k with seq := Seq.start e, counters := [], watches := [] }) table.2) c
        fun y => { y with
          streamTable := fieldAt h.payload 0 8, regs := y.regs.replan h.payload
          step := { y.step.newAttempt with
            first := y.recov.stepR, declared := y.step.committed, rerunDue := false, children := [] } }).finish h 0)) ∧
  ∀ (s : State) (c : Nat) (h : HostCmd) (rest : List HostCmd), s.takes c 0x42 h rest →
    let pos := fieldAt h.payload 0 2
    let chip := fieldAt h.payload 2 2
    flag (s.ctx c).desc.flags 0 = true → allZero (slice h.payload 4 4) = true → pos < 8224 → chip < 8224 →
    chipKind (s.chipEntry chip) = 0 →
    (∀ k, s.chipAt pos = some k → chipKind (s.chipEntry k) ≠ 1 ∧ chipKind (s.chipEntry k) ≠ 2) →
    exec (.stakeAdd c) s = .next ((State.order (State.stakeAt { s with sch := rest } chip pos) c
      { action := 7, chipB := chip, value := pos }).finish h 0)

/-- R400, R401: CKPT with a good descriptor starts a checkpoint: it is in progress for the pool area named, a DELTA
without a base or past its limit becomes a FULL one, and a context that does not run is captured at once; a STATE takes
every page of the context and what its cores and lid units hold. R414:
RESTORE of a CREATED context with a good descriptor keeps its sources and asks for the first. -/
def Obligations.CheckpointsAndRestoresStart : Prop :=
  (∀ (s : State) (c : Nat) (h : HostCmd) (rest : List HostCmd), s.takes c 0x30 h rest →
    let x := s.ctx c
    let b := h.payload
    let kind := fieldAt b 1 1
    let r := State.read { s with sch := rest } (.mem c) (fieldAt b 0x20 8) (128 * fieldAt b 4 4)
    let promote := kind == 2 && (!x.ck.baseValid ||
      (decide (fld x.regs.msCkptCfg 16 8 ≠ 0) && decide (fld x.regs.msCkptCfg 16 8 ≤ x.ck.deltas)))
    let all := x.pagesIn x.mapped
    x.ck.state = 0 → ckAccepts kind x.st = true → s.ckDescOk c b = true →
    (∀ e ∈ tEntries r.1.bytes, e.ok = true ∧ e.inside x (if kind = 3 then x.mapped else x.ckSet) = true) →
    let begun := State.modCtx (if promote then r.2.report (codeAt Code.ckPromoted c) { ctx := some c } else r.2) c
      fun y => { y with ck := { y.ck with
        state := 1, kind := if promote then 1 else kind, cmd := some h, seq := BitVec.ofNat 64 (fieldAt b 8 8)
        poolChip := fieldAt b 2 2, poolBase := fieldAt b 0x10 8, poolSize := fieldAt b 0x18 8, tensors := r.1.bytes
        sent := Tbl.get 0 y.ck.poolSent (fieldAt b 2 2), promoted := y.ck.promoted || promote } }
    (kind ≠ 3 → exec (.ckpt c) s = .next (if x.st = .running then begun else begun.ckSnapshot c)) ∧
    (kind = 3 → exec (.ckpt c) s = .next ((begun.touchExtra c).modCtx c fun y => { y with ck := { y.ck with
      state := 2, left := all, frozen := all, live := [], extra := s.ckExtra c
      stepC := BitVec.ofNat 64 (x.step.committed.getD (2 ^ 64 - 1)) } }))) ∧
  ∀ (s : State) (c : Nat) (h : HostCmd) (rest : List HostCmd), s.takes c 0x31 h rest → (s.ctx c).st = .created →
    (s.ctx c).ck.state = 0 → State.restoreDescOk { s with sch := rest } c h.payload = true →
    let b := h.payload
    let n := fieldAt b 2 2
    let l := State.read { s with sch := rest } (.mem c) (fieldAt b 8 8) (16 * n)
    let t := l.2.read (.mem c) (fieldAt b 0x10 8) (128 * fieldAt b 4 4)
    let srcs := (List.range n).map fun i => (fieldAt l.1.bytes (16 * i) 2, fieldAt l.1.bytes (16 * i + 8) 8)
    (∀ i, i < n → allZero (slice l.1.bytes (16 * i + 2) 6) = true) → (∀ e ∈ srcs, s.routed e.1 = true) →
    (∀ e ∈ tEntries t.1.bytes, e.ok = true ∧ e.inside (s.ctx c) (s.ctx c).mapped = true) →
    exec (.restore c) s = .next (State.restoreAsk (t.2.modCtx c fun y => { y with busy := some h, ck := { y.ck with
      state := 4, cmd := some h, rMode := fieldAt b 1 1, rSources := srcs, rTensors := t.1.bytes, rData := []
      rGot := [] } }) c)

/-- R243: MAPOUT of a channel that is not on its way out and for which granules enough are free makes its map-out due and
waits for it. R384: KAK_RUN on free parts waits for the kernels. R440: RESET_WARM reports, keeps the code, and begins
the warm reset without a record. R384: when the known-answer kernels end, KAK_RUN completes with OK if no part failed;
if some did, RC_KAK_FAIL is raised, the failing arrays and cores are quarantined, the failing lid units withheld and
the failing channels made due for map-out, and KAK_RUN completes with FAILED. -/
def Obligations.ModuleCommandsRun : Prop :=
  ((∀ (s : State) (h : HostCmd) (rest : List HostCmd), s.takesModule 0x50 h rest → allZero (slice h.payload 1 7) = true →
    let ch := fieldAt h.payload 0 1
    (s.chan ch).mappedOut = false → (s.chan ch).pending = false →
    36 * (s.pendingChans.length + 1) ≤ s.freeGranules.length →
    exec .mapout s = .next (State.triggerMapout { s with sch := rest, mapoutCmds := s.mapoutCmds ++ [(ch, h)] } ch)) ∧
  (∀ (s : State) (h : HostCmd) (rest : List HostCmd), s.takesModule 0x51 h rest → s.kakCmd = none →
    s.kakTaken h.payload = false → exec .kakRun s = .next { s with sch := rest, kakCmd := some h }) ∧
  ∀ (s : State) (h : HostCmd) (rest : List HostCmd), s.takesModule 0x60 h rest →
    exec .resetWarm s = .next (State.warmStart (State.keep (State.report { s with sch := rest }
      (codeAt Code.elResetWarm h.port)) (codeAt Code.elResetWarm h.port)))) ∧
  (∀ (s : State) (r : KakResult) (h : HostCmd), kakInRange r = true → s.err.restarting.contains .hlt = false →
    s.kakCmd = some h →
    let tested (t : State) := (bitList 192 (fieldAt h.payload 0 24)).foldl State.kernelsRun t
    (r = ⟨[], [], [], []⟩ → exec (.knownAnswerKernelsDone r) s = .next ((tested { s with kakCmd := none }).finish h 0)) ∧
    (kakAny r = true → exec (.knownAnswerKernelsDone r) s =
      .next ((tested { s.kakFailed r with kakCmd := none }).finish h 9 (codeAt Code.rcKakFail 0xFF))))

/-! ### Cores: the sequencer -/

/-- R34, R35, R37, R39: NOP, PHASE and DRAIN do nothing else but go on to the next slot, PHASE with the phase set;
DRAIN once every earlier command of the core has completed. Without a signal nothing but the position (and the phase)
of the core changes. R37: JUMP, CALL and RETURN go to their destination, which must lie in the stream; CALL pushes and
RETURN pops the return address. LOOP with a count enters its body and LOOP with 0 goes past its ENDLOOP; ENDLOOP goes
back until the count is used up. R37, R38, R226, R320, R321, R495: END ends the stream, commits the core to the step
that a STEP declared, and, with every other stream ended, finishes the context; STEP declares its step; NOTIFY writes a
completion record with the tag of its slot and the core's step. (The 0 that a NOTIFY before any STEP carries as its
step is the model's choice, log 44.) -/
def Obligations.SequencerCommandsGoOn : Prop :=
  (∀ (s u : State) (p : Nat) (b : List Byte), p < 192 →
    (s.seqSlot p 0 = some (b, u) → exec (.nop p) s = .next (u.seqDone p b ((u.core p).seq.pos + 32))) ∧
    (s.seqSlot p 8 = some (b, u) → exec (.phase p) s = .next
      ((u.markPhase p (fieldAt b 0x0C 1)).seqDone p b ((u.core p).seq.pos + 32))) ∧
    (s.seqSlot p 9 = some (b, u) → (u.core p).quiet = true ∧
      exec (.drain p) s = .next (u.seqDone p b ((u.core p).seq.pos + 32))) ∧
    (u.canonical = true → slotSigEn b = false → (u.core p).seq.running = true → (u.core p).seq.inStream ((u.core p).seq.pos + 32) = true →
      u.seqDone p b ((u.core p).seq.pos + 32) = u.setCore p { u.core p with seq := { (u.core p).seq with
        seqno := (u.core p).seq.seqno + 1, pos := (u.core p).seq.pos + 32 } })) ∧
  (∀ (s u : State) (p : Nat) (b : List Byte), p < 192 →
    let q := (u.core p).seq
    let at_ (f : Seq → Seq) : State := u.modCore p fun k => { k with seq := f k.seq }
    (s.seqSlot p 2 = some (b, u) → q.inStream (slotLong b) = true →
      exec (.jump p) s = .next ((at_ id).seqDone p b (slotLong b))) ∧
    (s.seqSlot p 3 = some (b, u) → q.calls.length < 8 → q.inStream (slotLong b) = true →
      exec (.call p) s = .next ((at_ fun x => { x with calls := (q.pos + 32) :: q.calls }).seqDone p b (slotLong b))) ∧
    (∀ a r, s.seqSlot p 4 = some (b, u) → q.calls = a :: r → q.inStream a = true →
      exec (.ret p) s = .next ((at_ fun x => { x with calls := r }).seqDone p b a)) ∧
    (s.seqSlot p 5 = some (b, u) → slotAddr b ≠ 0 → q.loops.length < 4 →
      exec (.loop p) s = .next ((at_ fun x => { x with loops := (slotAddr b, q.pos + 32) :: q.loops }).seqDone p b
        (q.pos + 32))) ∧
    (∀ a v, s.seqSlot p 5 = some (b, u) → slotAddr b = 0 → u.afterLoop p q.length (q.pos + 32) 0 = (.found a, v) →
      exec (.loop p) s = .next (v.seqDone p b a)) ∧
    (∀ n a r, s.seqSlot p 6 = some (b, u) → q.loops = (n, a) :: r → 1 < n →
      exec (.endloop p) s = .next ((at_ fun x => { x with loops := (n - 1, a) :: r }).seqDone p b a)) ∧
    (∀ n a r, s.seqSlot p 6 = some (b, u) → q.loops = (n, a) :: r → n ≤ 1 →
      exec (.endloop p) s = .next ((at_ fun x => { x with loops := r }).seqDone p b (q.pos + 32)))) ∧
  (∀ (s u : State) (p : Nat) (b : List Byte), p < 192 →
    (∀ c l, u.canonical = true → s.seqSlot p 1 = some (b, u) → u.poisonEnd p = false → slotSigEn b = false → u.coreOwner p = some (c, l) →
      (u.core p).seq.lastStep = none → (u.core p).seq.running = true →
      exec (.seqEnd p) s = .next ((u.modCore p fun k => { k with seq := { k.seq with
        seqno := k.seq.seqno + 1, ended := true, calls := [], loops := [] } }).tryFinish c)) ∧
    (∀ c l n, u.canonical = true → s.seqSlot p 1 = some (b, u) → u.poisonEnd p = false → slotSigEn b = false →
      u.coreOwner p = some (c, l) → (u.core p).seq.lastStep = some n → (u.core p).seq.running = true →
      let v := (u.modCore p fun k => { k with seq := { k.seq with
        seqno := k.seq.seqno + 1, ended := true, calls := [], loops := [] } }).noteCore c l n
      exec (.seqEnd p) s = .next (v.tryFinish (v.ctxOf p))) ∧
    (s.seqSlot p 7 = some (b, u) → u.stepOrderOk (u.ctxOf p) p (slotLong b) = true →
      exec (.stepDecl p) s = .next ((u.countDispatch p).doStep p b (slotLong b))) ∧
    (s.seqSlot p 10 = some (b, u) → u.poisonEnd p = false → (u.port (u.ctx (u.ctxOf p)).owner).full = false →
      (u.port (u.ctx (u.ctxOf p)).owner).waiting = [] →
      exec (.notify p) s = .next ((u.storeRecord (u.ctx (u.ctxOf p)).owner (recordBytes (slotLong b) 1 (u.ctxOf p) 0 0x0A 0
        (u.lcoreOf p) (leBytes 8 ((u.core p).seq.lastStep.getD 0))) true).seqDone p b ((u.core p).seq.pos + 32))))

/-! ### Cores: the engines -/

/-- R36, R80, R82, R86, R90, R96: a matrix command that starts with a good descriptor runs its product or its epilogue;
ACC_STORE writes the bank to the core store, ACC_LOAD reads it from there; a pair runs both halves. Then whatever
stands next in the queue may start. -/
def Obligations.ArrayCommandsRun : Prop :=
  ∀ (s u u1 : State) (p : Nat) (a : Arr) (q : QCmd) (b : List Byte), p < 192 →
    let eng : Eng := match a with | .warp => .warp | .weft => .weft
    let at_ := slotAddr q.slot
    (∀ e1 e2, s.startsAs p (arrEng a) 1 (arrFaults a e1 e2) = some (q, u) → u.readDesc p q at_ 128 Code.arBound = (some b, u1) →
      (Mat.parse b).check true (u1.numCtx p).v20 = none →
      exec (.matmul p a e1 e2) s = .next ((u1.runMatmul p a q b e1 e2).pumpFrom p eng 32)) ∧
    (s.startsAs p (arrEng a) 2 Faults.none = some (q, u) → u.readDesc p q at_ 128 Code.arBound = (some b, u1) →
      (Mat.parse b).check false (u1.numCtx p).v20 = none →
      exec (.epilogue p a) s = .next ((u1.runEpilogue p a q (Mat.parse b)).pumpFrom p eng 32)) ∧
    (s.startsAs p (arrEng a) 3 Faults.none = some (q, u) → at_ + 131072 ≤ 2 ^ 22 →
      let bank := slotByte2 q.slot == 1
      let x := (u.core p).arr a
      let puts := (List.range 16384).map fun k => (⟨at_ + 8 * k, leBytes 8 (Tbl.get 0 (x.bankOf bank) k).toNat,
        List.replicate 8 ((x.poisonOf bank).contains k)⟩ : Put)
      u.putsHitStream p puts = false →
      exec (.accStore p a) s = .next (State.pumpFrom (State.arrDone
        (((u.modArr p a fun y => { y with bank := bank }).storePuts p puts).flagEvt (((u.coreOwner p).map (·.1)).getD 0)
          { invalid := (x.bankOf bank).any fun e => (a48 e.2.toNat).isNan }) p q) p eng 32)) ∧
    (s.startsAs p (arrEng a) 4 Faults.none = some (q, u) → at_ + 131072 ≤ 2 ^ 22 →
      exec (.accLoad p a) s = .next ((u.startAccLoad p a q).pumpFrom p eng 32)) ∧
    ∀ (w1 w2 f1 f2 : ArrFault) (b2 : List Byte) (u2 : State), s.startsAs p 3 1 ⟨w1, w2, f1, f2⟩ = some (q, u) →
      u.readDesc p q at_ 128 Code.arBound = (some b, u1) → u1.readDesc p q (slotAddr2 q.slot) 128 Code.arBound = (some b2, u2) →
      let dw := Mat.parse b
      let df := Mat.parse b2
      let bw := u2.biasOf p dw
      let bf := bw.2.2.biasOf p df
      dw.check true (u1.numCtx p).v20 = none → df.check true (u2.numCtx p).v20 = none → pairApart dw df = true →
      bw.2.1 = false → bf.2.1 = false →
      exec (.matmulPair p w1 w2 f1 f2) s = .next ((bf.2.2.pairRun p q b b2).pumpFrom p .warp 32)

/-- R86, R93, R94, R98: a product whose first execution the border finds no fault in enters the bank it names, and the
command drains or completes; with a mismatch, reported once for each k-block of the executions, one that its second
execution does not repeat also enters the bank, and the border fault is counted; where the second differs or is
faulty too, the command waits for its third. R87, R92, R94, R105, R332: the third execution, on the other array where
that works, gives the verdict, after which the weft half of a pair may run; the oldest drain of an array ends and its
command completes. Each lets the arrays' queues go on. -/
def Obligations.ArrayChecksEnd : Prop :=
  (∀ (s : State) (p : Nat) (a : Arr) (q : QCmd) (b : List Byte) (e1 e2 : ArrFault),
    let d := Mat.parse b
    let bi := s.biasOf p d
    let rd := bi.2.2.readStore p (d.aSpans ++ d.bSpans)
    let o := d.ops rd.1
    let t := rd.2.flagEvt (((rd.2.coreOwner p).map (·.1)).getD 0) (d.readEvt o)
    let x := (t.core p).arr a
    let entry := x.bankOf d.bank
    let po := poisonAfter d (x.poisonOf d.bank) (d.operandPoison o)
    let r1 := execProduct d (t.numCtx p).v20 o entry e1
    let r2 := execProduct d (t.numCtx p).v20 o entry e2
    let z := (t.core p).runner a
    let seen := (t.mismatch p z q r1.mismatches).mismatch p z q r2.mismatches
    d.noop true = false → bi.2.1 = false →
    (r1.mismatches = 0 → s.runMatmul p a q b e1 e2 = t.settle p a q d r1 po bi.1) ∧
    (r1.mismatches ≠ 0 → r2.mismatches = 0 → r2.bank = r1.bank →
      s.runMatmul p a q b e1 e2 = (seen.settle p a q d r1 po bi.1).brdFault p z q) ∧
    (r1.mismatches ≠ 0 → r2.mismatches ≠ 0 ∨ r2.bank ≠ r1.bank →
      s.runMatmul p a q b e1 e2 = seen.modArr p a fun y => { y with
        bank := d.bank, recheck := some ⟨q, b, entry, r1.bank, r2.bank, po⟩ })) ∧
  (∀ (s : State) (p : Nat) (a : Arr), p < 192 →
    (∀ (e3 : ArrFault) (rc : Recheck), ((s.core p).arr a).recheck = some rc →
      let d := Mat.parse rc.desc
      let rd := s.readStore p (d.aSpans ++ d.bSpans)
      let bi := rd.2.biasOf p d
      let z := (bi.2.2.core p).runner a
      let y := (bi.2.2.core p).third a
      let r3 := execProduct d (bi.2.2.numCtx p).v20 (d.ops rd.1) rc.entry e3
      let t := bi.2.2.mismatch p y rc.cmd r3.mismatches
      let kept := t.settle p a rc.cmd d r3 rc.poison bi.1
      let dropped := t.modArr p a fun x => { x with recheck := none }
      (rc.e1 = rc.e2 → rc.e1 = r3.bank → exec (.borderTiebreak p a e3) s =
        .next (State.pumpArrays ((kept.brdFault p z rc.cmd).runWeft p rc.cmd) p)) ∧
      (rc.e1 ≠ rc.e2 → rc.e1 = r3.bank ∨ rc.e2 = r3.bank →
        (y ≠ z → exec (.borderTiebreak p a e3) s =
          .next (State.pumpArrays ((kept.quarantineArr p z rc.cmd).runWeft p rc.cmd) p)) ∧
        (y = z → exec (.borderTiebreak p a e3) s = .next ((dropped.coreQuarantine p rc.cmd).pumpArrays p))) ∧
      (rc.e1 ≠ r3.bank → rc.e2 ≠ r3.bank →
        exec (.borderTiebreak p a e3) s = .next ((dropped.coreQuarantine p rc.cmd).pumpArrays p))) ∧
    ∀ bank q rest, ((s.core p).arr a).drains = (bank, q) :: rest →
      exec (.epilogueDrainDone p a) s = .next (State.pumpArrays ((s.modArr p a fun x => { x with
        drains := rest }).arrDone p q) p))

/-- R108, R111–R123: a vector command that starts with a good descriptor runs over its operands; TABLE_LOAD puts its
image into the table slot named. -/
def Obligations.VectorCommandsRun : Prop :=
  ∀ (s u u1 : State) (p : Nat) (q : QCmd) (b : List Byte), p < 192 →
    let at_ := slotAddr q.slot
    (s.startsAs p 4 1 Faults.none = some (q, u) → u.readDesc p q at_ 80 Code.veBound = (some b, u1) →
      let d := ElemD.parse b
      d.check (u1.numCtx p) = none → d.count ≠ 0 → d.rows ≠ 0 →
      (d.op = 0x0B → (Tbl.get VTable.reset (u1.core p).tables d.slot).loaded = true) →
      exec (.elem p) s = .next ((u1.runElem p q d).pumpFrom p .vec 32)) ∧
    (∀ eb u2, s.startsAs p 4 2 Faults.none = some (q, u) → u.readDesc p q at_ 32 Code.veBound = (some b, u1) →
      let d := RedD.parse b
      d.headOk (u1.numCtx p) = true → d.entries ≠ 0 → d.count ≠ 0 →
      u1.readDesc p q (at_ + 32) (8 * d.entries) Code.veBound = (some eb, u2) →
      d.check (u1.numCtx p) (d.entriesOf eb) (if (u1.numCtx p).v20 then 4 else 8) = none →
      exec (.reduce p) s = .next ((u2.runReduce p q d (d.entriesOf eb)).pumpFrom p .vec 32)) ∧
    (s.startsAs p 4 3 Faults.none = some (q, u) → u.readDesc p q at_ 128 Code.veBound = (some b, u1) →
      let d := UpdD.parse b
      d.check (u1.numCtx p) = none → d.count ≠ 0 →
      exec (.update p) s = .next ((u1.runUpdate p q d).pumpFrom p .vec 32)) ∧
    (∀ head u0, s.startsAs p 4 4 Faults.none = some (q, u) → u.readDesc p q at_ 16 Code.veBound = (some head, u0) →
      u0.readDesc p q at_ 2064 Code.veBound = (some b, u1) →
      (f32 (fieldAt head 0 4)).isFinite = true → (f32 (fieldAt head 4 4)).isFinite = true →
      Num.lt .zero (f32 (fieldAt head 4 4)) = true →
      exec (.tableLoad p) s = .next (((u1.modCore p fun k => { k with
        tables := Tbl.set VTable.reset k.tables (slotByte2 q.slot) ⟨tableImage b, true⟩ }).retire p q).pumpFrom p .vec 32))

/-- R155, R158, R326: a copy-engine command that starts with a descriptor that passes its checks, that has something to
do, and that no rerun skips, does its work. -/
def Obligations.CopyCommandsRun : Prop :=
  ∀ (s u : State) (p : Nat) (q : QCmd) (r : Instr × Nat × Nat × (State → List Byte → State)), p < 192 →
    r ∈ copyRows p q → s.startsAs p 5 r.2.1 Faults.none = some (q, u) →
    let rd := u.read (.store p) (slotAddr q.slot) r.2.2.1
    let plan := cePlan r.2.1 p rd.2 rd.1.bytes
    slotAddr q.slot + r.2.2.1 ≤ 2 ^ 22 → rd.1.pois.any (· == true) = false → rd.2.planCode (u.ctxOf p) plan = none →
    plan.noop = false → rd.2.slotSkip (u.ctxOf p) q.epoch plan.writes = none →
    exec r.1 s = .next (State.noteHold ((r.2.2.2 rd.2 rd.1.bytes).pumpFrom p .copy 32) p)

/-- R183–R188, R195: SET, ADD, SUB and WATCH on the core's own unit act at once; on a sibling core of the context they go
through the hub; an ADD that names another chip becomes a SIGNAL. -/
def Obligations.SyncCommandsRun : Prop :=
  ∀ (s u u1 : State) (p op : Nat) (i : Instr) (q : QCmd) (b : List Byte), p < 192 →
    (i, op) ∈ [(Instr.set p, 1), (Instr.add p, 2), (Instr.sub p, 3), (Instr.watch p, 4)] →
    s.startsAs p 6 op Faults.none = some (q, u) → u.readDesc p q (slotAddr q.slot) 32 Code.suBadDesc = (some b, u1) →
    let d := SuD.parse b
    let c := u.ctxOf p
    d.ok u1 c op = true → (op = 2 ∨ op = 3 → d.value ≠ 0) →
    (d.chip = u1.ownChip → u1.physCore c d.lcore = some p →
      exec i s = .next (((u1.applySu p (d.msg op)).retire p q).pumpFrom p .sync 32)) ∧
    (∀ t, d.chip = u1.ownChip → u1.physCore c d.lcore = some t → t ≠ p →
      let w := u1.modCore p fun k => { k with suWait := some q }
      exec i s = .next (State.pumpFrom { w with
        hub := w.hub ++ [⟨t, c, (w.ctx c).desc.secure, some p, d.msg op, false, q.epoch⟩] } p .sync 32)) ∧
    (op = 2 → d.chip ≠ u1.ownChip →
      exec i s = .next (((u1.sendSignal p d.chip d.lcore d.cls (tagAdd p) q.epoch d.ctr d.value).modCore p fun k =>
        { k with suWait := some q }).pumpFrom p .sync 32))

/-! ### Held commands, counters and packets -/

/-- R35, R160, R183: WAIT_RELEASE and CE_HAZARD_RELEASE start the command at the head of the queue once nothing holds it;
SLOT_SIGNAL applies the oldest due signal, which adds its increment to the core's counter and takes the command off
the list. A held sequencer command goes on the same way. -/
def Obligations.HeldCommandsGoOn : Prop :=
  ∀ (s : State) (p : Nat), p < 192 →
    (∀ e q rest, e ≠ .seq → (s.core p).queue e = q :: rest → s.mayStart p q = true →
      let t := State.pumpFrom ((s.modCore p fun k => k.popCmd q).startSound p q) p e 32
      exec (.waitRelease p e) s = .next (if e = .copy then t.noteHold p else t)) ∧
    (∀ q rest, (s.core p).qCopy = q :: rest → s.mayStart p q = true →
      exec (.ceHazardRelease p) s =
        .next (State.noteHold (State.pumpFrom ((s.modCore p fun k => k.popCmd q).startSound p q) p .copy 32) p)) ∧
    (∀ b u, s.seqSlot p (slotOp (s.peek (s.streamTarget p) (s.core p).seq.pos 32)) = some (b, u) →
      slotEng (s.peek (s.streamTarget p) (s.core p).seq.pos 32) = 0 →
      slotWaitEn (s.peek (s.streamTarget p) (s.core p).seq.pos 32) = true →
      exec (.waitRelease p .seq) s = .next (u.seqAct p b)) ∧
    (∀ e x, (s.core p).dueSignal e = some x → slotSigEn x.2.slot = true →
      exec (.slotSignal p e) s = .next (State.addCtr (s.modCore p fun k => { k with toSignal := k.toSignal.erase x }) p
        (slotSigCtr x.2.slot) (slotSigInc x.2.slot)))

/-- R183, R187–R191: the next message of the hubs is applied at its core, if core and sender have one context and world,
and the unit whose command it completes goes on; a message of a context that was destroyed changes nothing but the
report. A change that fits is made and the watches of the counter are evaluated in registration order: the counter has
what they leave, those that fire leave their slots, and their notifies enter the hub in that order; one that does
not fit changes no counter and raises SU_OVERFLOW or SU_UNDERFLOW. R206: a change that meets a parity error of the
unit is not made, and raises SU_PARITY. (That the watches of a resumed context are evaluated counter by counter, and the
order of a pass's notifies, are the model's choices: logs 115 and 64.) -/
def Obligations.HubsApplyChanges : Prop :=
  ∀ (s : State) (p : Nat), p < 192 →
    (∀ m rest c l, takeHub p s.hub = some (m, rest) → s.coreOwner p = some (c, l) → c = m.ctx → m.gone = false →
      (s.ctx c).desc.secure = m.secure →
      exec (.suChangeApply p) s = .next (match m.origin with
        | some o => ((State.applySu { s with hub := rest } p m.msg).suDone o).pump o .sync
        | none => State.applySu { s with hub := rest } p m.msg)) ∧
    (∀ m rest, takeHub p s.hub = some (m, rest) → m.gone = true → m.origin = none →
      ∃ code, (code = Code.suWorld ∨ code = Code.wldAccess) ∧
        exec (.suChangeApply p) s = .next (State.report { s with hub := rest } (codeAt code p))) ∧
    (∀ c n, s.canonical = true → Tbl.wf 0 (s.core p).counters = true → (s.core p).watches = [] →
      s.parity.contains (.sync p) = false → (s.core p).ctr c + n < 2 ^ 32 → ∃ k, s.addCtr p c n = s.setCore p { s.core p with counters := k } ∧
        (Tbl.get 0 k c).toNat = (s.core p).ctr c + n ∧ ∀ d, d ≠ c → Tbl.get 0 k d = Tbl.get 0 (s.core p).counters d) ∧
    (∀ c v, s.canonical = true → Tbl.wf 0 (s.core p).counters = true → v < 2 ^ 32 →
      let r := passOn c v (s.core p).watches
      ∃ k, s.putCtr p c v = { s.setCore p { s.core p with counters := k, watches := r.stay } with
          hub := s.hub ++ r.fired.flatMap (notifyMsg s p) } ∧
        (Tbl.get 0 k c).toNat = r.val ∧ ∀ d, d ≠ c → Tbl.get 0 k d = Tbl.get 0 (s.core p).counters d) ∧
    (s.parity.contains (.sync p) = false →
      (∀ c n, (s.core p).ctr c + n < 2 ^ 32 → s.addCtr p c n = s.putCtr p c ((s.core p).ctr c + n)) ∧
      (∀ c n, n ≤ (s.core p).ctr c → s.subCtr p c n = s.putCtr p c ((s.core p).ctr c - n))) ∧
    (s.parity.contains (.sync p) = false →
      (∀ c n, 2 ^ 32 ≤ (s.core p).ctr c + n → s.addCtr p c n = s.suError p Code.suOverflow) ∧
      (∀ c n, (s.core p).ctr c < n → s.subCtr p c n = s.suError p Code.suUnderflow)) ∧
    (s.parity.contains (.sync p) = true → ∀ c n,
      s.addCtr p c n = (s.clearParity (.sync p)).suError p Code.suParity ∧
      s.subCtr p c n = (s.clearParity (.sync p)).suError p Code.suParity)

/-- R188: in an evaluation pass over the watches in registration order a watch of kind 1 fires exactly when the
counter, as the older watches have left it, has reached its value, and one of kind 2 when the counter equals it; one of
kind 3 fires when the counter has reached its value and no older watch of its kind was unmet: the first unmet one
blocks the younger ones. One of kind 3 that fires takes its value off the counter. Every watch either fires or stays,
and a counter that nothing claims keeps its value. -/
def Obligations.WatchesFireInOrder : Prop :=
  ∀ (c v : Nat) (ws : List Watch),
    (∀ w ∈ ws, w ∈ (passOn c v ws).stay ∨ w ∈ (passOn c v ws).fired) ∧
    (passOn c v ws).val + (((passOn c v ws).fired.filter fun w => w.kind != 1 && w.kind != 2).map fun w => w.value.toNat).sum
      = v ∧
    (∀ w ∈ (passOn c v ws).fired, w.ctr = c ∧ w.value.toNat ≤ v) ∧
    (passOn c v ws).fired.Sublist ws ∧ (passOn c v ws).stay.Sublist ws ∧
    ∃ f : List Bool, f.length = ws.length ∧
      (passOn c v ws).fired = ((ws.zip f).filter (·.2)).map (·.1) ∧
      (passOn c v ws).stay = ((ws.zip f).filter (!·.2)).map (·.1) ∧
      ∀ i w, ws[i]? = some w →
        let val (j : Nat) : Nat := (passOn c v (ws.take j)).val
        (f[i]? = some true ↔ w.ctr = c ∧
          if w.kind = 1 then w.value.toNat ≤ val i
          else if w.kind = 2 then val i = w.value.toNat
          else w.value.toNat ≤ val i ∧ ∀ j x, j < i → ws[j]? = some x → x.ctr = c → x.kind ≠ 1 → x.kind ≠ 2 →
            x.value.toNat ≤ val j)

/-- R274, R278–R283, R196, R197: a request that is well formed and admitted is served. A WRITE lands and is counted for
its fence entry; a READ_REQ is answered with the bytes read; an ATOMIC_REQ writes its new value and is answered with
the old one; a SIGNAL whose fence has been reached is applied and acknowledged, and one whose fence has not is held in
the order sent. R262, R274, R279, R280: a request with a bad header, or an atomic that came by a port of version 1, is
refused with reason 7, and one whose job no context admits with reason 1 or 2; nothing else happens but the report.
R403: a request that writes a page which waits for a snapshot slot waits, and the context shows it; R277: so does one of
class 3 behind a waiting one of its sender. A signal that would overflow its counter is refused with reason 6. -/
def Obligations.RequestsAreServedOrRefused : Prop :=
  (∀ (s : State) (p : Packet) (c : Nat), goodHeader p = true → p.jobTag ≠ 0 → s.admission p = .ok c →
    (∀ s1, s.arrived p 1 = true → s.snapWaits p 1 p.length.toNat = none →
      s.inRegion c p.address.toNat p.length.toNat = true →
      State.withFence (s.fenceSound c) p c = some s1 → (s.ctx c).discards p.epochOf = false →
      let po := unpoison p.poison.toNat p.length.toNat
      let t := State.modFence (s1.epochWrite c p.epochOf p.address.toNat p.data po) p c fun f =>
        { f with landed := f.landed + p.length.toNat, tag := p.tag.toNat }
      exec (.write p) s = .next
        ((if p.epochOf = none then t.loadWrite c p.address.toNat p.data po else t).taken p)) ∧
    (s.arrived p 2 = true → s.snapWaits p 2 p.arg.toNat = none → s.inRegion c p.address.toNat p.arg.toNat = true →
      let r := s.read (.mem c) p.address.toNat p.arg.toNat
      exec (.readReq p) s = .next ((r.2.answer p 3 (poisonBits r.1.pois) 0 r.1.bytes).taken p)) ∧
    (s.arrived p 6 = true → s.snapWaits p 6 8 = none → s.viaVersion1 p = false → s.inRegion c p.address.toNat 8 = true →
      let r := s.read (.mem c) p.address.toNat 8
      r.1.pois.any (· == true) = false →
      exec (.atomicReq p) s = .next (State.taken ((r.2.epochWrite c none p.address.toNat
        (leBytes 8 (atomicNew p.rsv.toNat (ofLe r.1.bytes) p.arg.toNat p.poison.toNat)) []).answer p 7 0 (ofLe r.1.bytes) [])
          p)) ∧
    ∀ s1, s.arrived p 5 = true → p.dstLcore.toNat < (s.ctx c).desc.coreCount → (s.ctx c).discards p.epochOf = false →
      State.withFence (s.fenceSound c) p c = some s1 →
      (∀ s2, p.arg.toNat ≤ (s.fenceSound c).landedOf p c → (s.fenceSound c).applySignal c p ((s.fenceSound c).portOf p) = (true, s2) →
        exec (.signal p) s = .next ((((s2.withFence p c).getD s2).ackSignal p c).taken p)) ∧
      (∀ s2, p.arg.toNat ≤ (s.fenceSound c).landedOf p c →
        (s.fenceSound c).applySignal c p ((s.fenceSound c).portOf p) = (false, s2) →
        exec (.signal p) s = .next ((s2.refuse p 6).taken p)) ∧
      ((s.fenceSound c).landedOf p c < p.arg.toNat →
        ((s.fenceSound c).fences.map fun f => f.held.length).sum < 1024 →
        exec (.signal p) s = .next (((s1.modFence p c fun f => { f with
          held := holdInOrder (p, (s.fenceSound c).portOf p) f.held }).ackSignal p c).taken p))) ∧
  (∀ (s : State) (p : Packet) (op c n : Nat) (i : Instr), (i, op, n) ∈ [(Instr.write p, 1, p.length.toNat),
    (Instr.readReq p, 2, p.arg.toNat), (Instr.atomicReq p, 6, 8)] → s.snapWaits p op n = some c →
    exec i s = .next (State.modCtx { s with snapWaiting := s.snapWaiting ++ [i] } c fun x => { x with
      ck := { x.ck with snapWait := true } })) ∧
  (∀ (s : State) (p : Packet) (op : Nat) (i : Instr), (i, op) ∈ [(Instr.write p, 1), (Instr.readReq p, 2), (Instr.signal p, 5),
    (Instr.atomicReq p, 6)] → s.arrived p op = true →
    (goodHeader p = false ∨ (op = 6 ∧ s.viaVersion1 p = true) → exec i s = .next ((s.refuse p 7).taken p)) ∧
    ∀ r, goodHeader p = true → p.jobTag ≠ 0 → (op = 6 → s.viaVersion1 p = false) → s.admission p = .error r →
      (r = 1 ∨ r = 2) ∧ exec i s = .next ((s.refuse p r).taken p))

/-- R159, R161, R164, R184, R196, R280, R281: answers reach what waits for them. Read data completes the copy command
that asked for it; an acknowledgement raises the acknowledged count and completes what it covers, and that of a copy's
remote signal ends the wait for its receipt; a refusal is CE_REMOTE at the core that sent the request, also one of a
remote signal whose receipt was acknowledged before; a held signal whose bytes have landed is applied, or refused with
reason 6 at the port it came by; a fence entry acknowledges what it has not yet; an ATOMIC_RESP concerns nothing (the
module issues no atomic). R165, R497: a completion of a window read is kept until all are in, and then the copy command
delivers its data and completes; an error completion raises CE_WINDOW. (Read completion by completion, and what an
ATOMIC_RESP concerns, as logs 28 and 29 say.) -/
def Obligations.AnswersAndCompletionsArrive : Prop :=
  ((∀ (s : State) (p : Packet) (c : Nat) (e : CeCmd) (chip a n : Nat), s.arrived p 3 = true → goodHeader p = true →
    0x8000 ≤ p.tag.toNat → s.reader p.tag.toNat = some (c, e) → e.wait = .remoteRead chip [(p.tag.toNat, a, n)] [] →
    exec (.readResp p) s = .next (State.taken (((s.dropCe c e.cmd).copyDeliver c e.cmd e.desc
      (gather (CopyD.parse e.desc).wants
        [(slice p.data 0 n, (unpoison p.poison.toNat p.data.length).take n)])).pump c .copy) p)) ∧
  (∀ (s : State) (p : Packet) (t : Nat), s.arrived p 4 = true → goodHeader p = true → t < 192 →
    (p.tag.toNat = t → s.jobCore t p.jobTag.toNat = true →
      let u := State.completeAcked (s.modCore t fun k => { k with
        ackedBytes := setCount k.ackedBytes p.src p.cls (epKey p.epochOf)
          (max p.arg.toNat (countOf k.ackedBytes p.src p.cls (epKey p.epochOf))) }) t
      exec (.writeAck p) s = .next ((u.pairDone (u.ctxOf t)).taken p)) ∧
    (p.tag.toNat = 0x100 + t → s.jobCore t p.jobTag.toNat = true →
      exec (.writeAck p) s = .next (((s.suDone t).pump t .sync).taken p)) ∧
    (0x400 ≤ p.tag.toNat → s.rsigCore p.tag.toNat = some t → s.jobCore t p.jobTag.toNat = true →
      exec (.writeAck p) s = .next ((s.rsigReceived t p.tag.toNat).taken p)) ∧
    ∀ c l, t < 192 → s.coreOwner t = some (c, l) → s.rsigReceived t p.tag.toNat = (s.modCore t fun k => { k with
      rsigOut := k.rsigOut.erase p.tag.toNat }).modCtx c fun x => { x with
        rsigAcked := (p.tag.toNat, l) :: x.rsigAcked.filter fun g => g.1 != p.tag.toNat }) ∧
  (∀ (s : State) (p : Packet), s.arrived p 8 = true → goodHeader p = true →
    (p.tag.toNat < 192 → s.jobCore p.tag.toNat p.jobTag.toNat = true →
      exec (.refuse p) s = .next ((s.remoteError p.tag.toNat p.src).taken p)) ∧
    (0x408 ≤ p.tag.toNat → s.rsigCore p.tag.toNat = none → s.reader p.tag.toNat = none →
      exec (.refuse p) s = .next ((s.refusedLate p).taken p))) ∧
  (∀ (s : State) (chip lcore cls epoch : Nat) (f : Fence),
    (s.fences.find? fun x => x.hasKey chip lcore cls epoch x.ctx && decide (x.acked < x.landed + x.dropped)) = some f →
    let ep := if epoch = 0 then none else some (epoch - 1)
    let ackAll (g : Fence) : Fence :=
      if g.hasKey chip lcore cls epoch f.ctx then { g with acked := g.landed + g.dropped } else g
    exec (.writeAckSend chip lcore cls epoch) s = .next (State.sendAck { s with fences := s.fences.map ackAll } chip f.tag
        (fld (s.ctx f.ctx).regs.lkJob 0 16) (pktFlags cls (s.ctx f.ctx).desc.secure ep) ep (f.landed + f.dropped))) ∧
  (∀ (s u : State) (chip lcore cls epoch : Nat) (f : Fence) (g : Packet) (port : Option Nat)
    (rest : List (Packet × Option Nat)),
    (s.fences.find? fun x => x.hasKey chip lcore cls epoch x.ctx && x.ready) = some f →
    f.held = (g, port) :: rest →
    let r := (s.modFence g f.ctx fun x => { x with held := x.held.drop 1 }).applySignal f.ctx g port
    (r = (true, u) → exec (.fenceRelease chip lcore cls epoch) s = .next u) ∧
    (r = (false, u) → exec (.fenceRelease chip lcore cls epoch) s = .next (u.refuseAt port g 6))) ∧
  ∀ (s : State) (p : Packet), (s.arrived p 7 = true → goodHeader p = true → exec (.atomicResp p) s = .next (s.taken p)) ∧
    (s.arrived p 7 = false → exec (.atomicResp p) s = .next s)) ∧
  (∀ (s : State) (p : Nat) (e : CeCmd) (reqs : List (Nat × Nat)) (got : List (List Byte × List Bool)) (bs : List Byte), p < 192 →
    (s.core p).windowReader = some (e, reqs, got) →
    let n := ((reqs[got.length]?).getD (0, 0)).2
    let got' := got ++ [(slice bs 0 n, List.replicate n false)]
    (got.length + 1 < reqs.length → exec (.pcieReadCompletion p (.ok bs)) s = .next (s.modCore p fun k => { k with
      ce := k.ce.map fun x => if x.cmd.seqno = e.cmd.seqno then { x with wait := .windowRead reqs got' } else x })) ∧
    (reqs.length ≤ got.length + 1 → exec (.pcieReadCompletion p (.ok bs)) s = .next
      (((s.dropCe p e.cmd).copyDeliver p e.cmd e.desc (gather (CopyD.parse e.desc).wants got')).pump p .copy)) ∧
    exec (.pcieReadCompletion p .failed) s = .next (s.ceError p e.cmd Code.ceWindow))

/-! ### Memory -/

/-- R45, R223: what is written to a core store is read back, and nothing else of any core store, of HBM, of the lid
scratchpad or of a cache line changes. -/
def Obligations.StoreWritesLand : Prop :=
  ∀ (s : State) (p a : Nat) (bs : List Byte) (pois : List Bool), s.canonical = true → p < 192 → a + bs.length ≤ 2 ^ 22 →
    let t := s.write (.store p) a bs pois
    t.peek (.store p) a bs.length = bs ∧ t.hbm = s.hbm ∧ t.lid = s.lid ∧ t.lines = s.lines ∧
      ∀ p' b, b < 2 ^ 22 → p' ≠ p ∨ b < a ∨ a + bs.length ≤ b → t.peek (.store p') b 1 = s.peek (.store p') b 1

/-- R235, R237, R242: a channel turn sends every buffered block to its base die, which empties the write buffer; the
scrub reads the unit at its position and moves on by 64 bytes; a repair record that is due is written. R243–R246, R434:
an access timeout faults a channel once, reports it, and makes its map-out due. A channel with parts to move, whose
turn it is and none of whose owners runs, has them moved; the parts of a retired page that have no place stay, each
reported. Once a channel being mapped out holds no part, it is mapped out, the commands that wait for it complete with
OK, and a repair record becomes due. -/
def Obligations.ChannelsAreTended : Prop :=
  ((∀ (s : State) (ch : Nat), ch < 256 → exec (.hbmWriteTurn ch) s = .next (s.turnBus ch) ∧
    (s.canonical = true → (s.chan ch).xferFails = [] → (s.chan ch).faulted = false → s.turnBus ch = s.modChan ch fun x => { x with buffered := [] })) ∧
  (∀ (s : State) (ch : Nat), ch < 256 → flag s.hbmCfg 0 = true → (s.chan ch).mappedOut = false → s.pw.standby = 0 →
    exec (.scrubRead ch) s = .next (State.readUnit (State.countRead (s.setChan ch { s.chan ch with
      scrubPos := ((s.chan ch).scrubPos + 64) % (chanChunks * 2 ^ 18) }) ch) ch (s.chan ch).scrubPos)) ∧
  ∀ (s : State) (r : Repair) (rest : List Repair), s.boot.repairsDue = r :: rest → .sec ∉ s.err.restarting →
    exec .repairRecordWrite s = .next { s with boot := { s.boot with repairs := s.boot.repairs ++ [r], repairsDue := rest } }) ∧
  (∀ (s : State) (ch : Nat), ch < 256 →
    ((s.chan ch).faulted = false → exec (.hbmAccessTimeout ch) s = .next (State.triggerMapout
      ((s.modChan ch fun x => { x with faulted := true }).report (codeAt Code.hbmChannelFault ch)) ch)) ∧
    (∀ left t, s.moving ch = true → s.moveAll ch (s.toMove ch) = (left, t) →
      ((s.chan ch).pending = true → left = [] →
        exec (.relocation ch) s = .next (State.resumePaused { t.modChan ch fun k => { k with
          movers := ((s.toMove ch).map (·.2)).dedup } with mapouts := t.mapouts.filter (· != ch) })) ∧
      ((s.chan ch).pending = false → exec (.relocation ch) s = .next (State.resumePaused
        (left.foldl (fun u _ => u.report (codeAt Code.hbmRetireHeld ch))
          (t.modChan ch fun k => { k with held := k.held ++ left.map (·.1) }))))) ∧
    ((s.chan ch).pending = true → (s.chan ch).mappedOut = false → s.granulesIn ch = [] →
      let r := (s.modChan ch fun x => { x with mappedOut := true, pending := false, buffered := [], movers := [] }).report
        (codeAt Code.hbmMapout ch)
      exec (.channelMapoutComplete ch) s = .next (State.resumePaused (State.endWaits (State.endMapouts { r with
        mapouts := r.mapouts.filter (· != ch), boot := { r.boot with repairsDue := r.boot.repairsDue ++ [.mapOut ch] } }
        ch 0 Code.hbmMapout) ch))))

/-- R45, R226, R327, R485: a BAR2 access that its port's context serves reads, or writes as of the latest declared step;
one that is not served, or that writes a guarded area, is answered as unsupported and changes nothing else. R403: a
write of a page that waits for a snapshot slot waits, with the port's accesses behind it, and the context shows it. -/
def Obligations.Bar2Accesses : Prop :=
  ∀ (s : State) (port offset : Nat), port < 2 →
    (∀ len c a, s.bar2Target port offset len = some (c, a) → s.bar2Waits port = false →
      exec (.bar2Read port offset len) s = .next (State.emit (s.read (.mem c) a len).2
        (.bar2 port (s.read (.mem c) a len).1.bytes ((s.read (.mem c) a len).1.pois.any (· == true))))) ∧
    (∀ bs c a, s.bar2Target port offset bs.length = some (c, a) → s.err.fatalHold = false →
      (s.hostGuard c a bs.length = false → s.bar2Waits port = false → s.snapBlocked c a bs.length = false →
        exec (.bar2Write port offset bs) s = .next (s.epochWrite c (s.ctx c).step.declared a bs [])) ∧
      (s.hostGuard c a bs.length = false → (s.bar2Waits port = true ∨ s.snapBlocked c a bs.length = true) →
        exec (.bar2Write port offset bs) s = .next (State.modCtx { s with
          snapWaiting := s.snapWaiting ++ [.bar2Write port offset bs] } c fun x => { x with ck := { x.ck with
            snapWait := true } })) ∧
      (s.hostGuard c a bs.length = true → exec (.bar2Write port offset bs) s = .next (s.emit (.unsupported port)))) ∧
    (∀ len c a, s.bar2Target port offset len = some (c, a) → s.bar2Waits port = true →
      exec (.bar2Read port offset len) s = .next (State.modCtx { s with
        snapWaiting := s.snapWaiting ++ [.bar2Read port offset len] } c fun x => { x with ck := { x.ck with
          snapWait := true } })) ∧
    (∀ len, s.bar2Target port offset len = none → exec (.bar2Read port offset len) s = .next (s.emit (.unsupported port))) ∧
    ∀ bs, s.bar2Target port offset bs.length = none →
      exec (.bar2Write port offset bs) s = .next (s.emit (.unsupported port))

/-! ### Links -/

/-- R260–R262, R306, R367: training brings the lanes that lock and are not quarantined up and sends the first
negotiation flit; a good negotiation flit is answered, and the second identical one that agrees passes the partner to
discovery, after which further ones are still answered, until a flit of another kind shows that the partner has agreed;
the side with the lower chip number chooses version and rate and the other confirms, and a fenced module sends idle
flits instead; a partner without a common version or rate is held down; without agreement each trained lane counts a
lane-down event and training starts again; a planned neighbour that never came is missing. R259, R271–R273, R285: a
port that loses one of its lanes reports and counts it, and replays on the other; losing its last one it goes DOWN; a
lane that locks again restores full width. LK_PORT_CTRL disables a port, and releases a quarantined lane with its down
count zeroed. -/
def Obligations.PortsTrainAndLanesComeAndGo : Prop :=
  (∀ (s : State) (l : Nat), l < 40 →
    (∀ a b, s.portsLive = true → (s.link l).disable = false → (s.link l).heldDown = false → (s.link l).up0 = false →
      (s.link l).up1 = false → (s.link l).quar0 = false → (s.link l).quar1 = false → (a = true ∨ b = true) →
      let u : State := if isGlobal l then { s with fab := { s.fab with
        ovrUsed := Tbl.set 0 s.fab.ovrUsed (l - 31) (Tbl.get 0 s.fab.tpOvr (l - 31)) } } else s
      let t := u.setLink l { (s.link l).dropped with state := 1, up0 := a, up1 := b, missed := (s.link l).missed }
      exec (.portTrain l a b) s = .next (t.sendNegotiation l).updateTopo) ∧
    ((s.link l).carries = false →
      (s.fab.selfFenced = false → s.sendNegotiation l = s.putFlit l 3 (bareFlit (s.offer l))) ∧
      (s.fab.selfFenced = true → s.sendNegotiation l = s.putFlit l 0 (bareFlit (zeros 244)))) ∧
    ((s.link l).agreed = true → s.offer l = s.negotiation l true (s.link l).version (b2n (s.link l).rate)) ∧
    (∀ ver rate, (s.link l).agreed = false → chooseVersion (s.link l).partner = some (ver, rate) →
      let mine := s.ownChip < bits (fieldAt (s.link l).partner 8 2) 0 14 ∨ confirms (s.link l).partner ver rate = true
      (mine → s.offer l = s.negotiation l true ver rate) ∧ (¬ mine → s.offer l = s.negotiation l false 0 0)) ∧
    (∀ f,
      let u := s.takeCodewords l f
      (s.link l).state ≠ 0 → ((s.link l).up0 = true ∨ (s.link l).up1 = true) →
      (u.link l).state ≠ 0 → flitGood f = true → headerOk f = true →
      (hdr f 0 4 ≠ 3 → exec (.negotiationFlit l f) s = .next (u.modLink l fun q => { q with partnerDone := q.agreed })) ∧
      (hdr f 0 4 = 3 → (s.link l).agreed = true → exec (.negotiationFlit l f) s = .next (u.sendNegotiation l)) ∧
      (hdr f 0 4 = 3 → (s.link l).agreed = false → chooseVersion f.payload = none → exec (.negotiationFlit l f) s = .next
        (((u.report (codeAt Code.lkVersion l) { info := hdr f 10 12 }).portLost l).modLink l fun k => { k with
          heldDown := true })) ∧
      ∀ ver rate, hdr f 0 4 = 3 → (s.link l).agreed = false → chooseVersion f.payload = some (ver, rate) →
        let t := (u.setLink l { u.link l with partner := f.payload }).sendNegotiation l
        ((confirms f.payload ver rate && (u.link l).partner == f.payload) = false →
          exec (.negotiationFlit l f) s = .next t) ∧
        ((confirms f.payload ver rate && (u.link l).partner == f.payload) = true → .fab ∉ u.err.restarting →
          exec (.negotiationFlit l f) s = .next (State.discover' (t.modLink l fun k => { k with
            agreed := true, state := 4, version := ver, rate := rate == 1, outcome := 0 }) l))) ∧
    ((s.link l).state = 1 → (s.link l).up0 = true → (s.link l).up1 = true →
      exec (.negotiationTimeout l) s = .next (State.portLost
        (((s.report (codeAt Code.lkVersion l)).countDown l 0).countDown l 1) l)) ∧
    (.fab ∉ s.err.restarting → (s.plan l).expect ≠ 0 → (s.link l).state ≤ 1 → (s.link l).missed = false →
      s.portsLive = true → exec (.discoveryTimeout l) s =
        .next ((s.modLink l fun k => { k with missed := true }).holdPort l 4 Code.tpNeighborMissing))) ∧
  (∀ (s : State) (l port : Nat), l < 40 → port < 2 → s.canonical = true →
    (∀ lane, lane < 2 → (s.link l).state = 2 → (s.link l).up0 = true → (s.link l).up1 = true →
      exec (.laneDown l lane) s = .next (State.replayAll (((s.report (codeAt Code.lkLaneDown l)).countDown l lane).modLink l
        fun k => if lane = 0 then { k with up0 := false, state := 3 } else { k with up1 := false, state := 3 }) l)) ∧
    ((s.link l).up0 = true → (s.link l).up1 = false →
      exec (.laneDown l 0) s = .next (State.portDown (((s.report (codeAt Code.lkLaneDown l)).countDown l 0).modLink l
        fun k => { k with up0 := false }) l)) ∧
    ((s.link l).up0 = true → (s.link l).up1 = false → (s.link l).state = 3 → (s.link l).quar1 = false →
      exec (.laneRetrain l true) s = .next (s.setLink l { s.link l with up0 := true, up1 := true, state := 2 })) ∧
    (s.acceptsWrites = true →
      (∀ b, (b = false ∨ (s.link l).state = 0) → exec (.lkPortDisable port l b) s =
        .next (s.setLink l { s.link l with
          disable := b, heldDown := (s.link l).heldDown && b, missed := (s.link l).missed && b })) ∧
      ((s.link l).quar0 = true → exec (.lane0Release port l) s =
        .next (s.setLink l { s.link l with quar0 := false, downs0 := [] })) ∧
      ((s.link l).quar1 = true → exec (.lane1Release port l) s =
        .next (s.setLink l { s.link l with quar1 := false, downs1 := [] }))))

/-- R258, R259, R261, R263–R267, R283, R284: a flit of a port that carries flits has its codewords counted on its lane;
a good one acknowledges what its header says, and the port goes on sending. A data flit in sequence goes on with its
packet where that is in transit, without waiting for the rest, and else joins its packet here; one out of sequence asks
for a replay once; a maintenance flit updates the round trip and the keepalive word; a negotiation flit of a partner
that still negotiates is answered. A flit with a bad CRC is dropped and counted. A port that carries flits fills its
slots up to the next maintenance slot, which carries its maintenance flit; an unanswered replay buffer is sent again.
-/
def Obligations.FlitsAreExchanged : Prop :=
  ∀ (s : State) (l : Nat), l < 40 →
    (∀ f,
      let u := s.takeCodewords l f
      (s.link l).carries = true → (u.link l).carries = true →
      (∀ u1, flitGood f = true → headerOk f = true → u.takeReport l f = some u1 → (u1.link l).carries = true →
        let t := if hdr f 0 4 = 1 then u1.takeData l f else if hdr f 0 4 = 2 then u1.takeMaintenance l f.payload
          else if hdr f 0 4 = 3 then u1.sendNegotiation l else u1
        exec (.flitReceive l f) s = .next (t.answerFlit l)) ∧
      (flitGood f = false →
        exec (.flitReceive l f) s = .next (((u.flitDropped l (hdr f 10 12)).gap l).answerFlit l))) ∧
    (∀ f, hdr f 10 12 ≠ ((s.link l).rxSeq + 1) % 4096 → (s.link l).nakSent = false → s.takeData l f = s.setLink l
      { s.link l with nakPending := true, nakSent := true }) ∧
    (∀ f, hdr f 10 12 = ((s.link l).rxSeq + 1) % 4096 →
      Tbl.get 0 (s.link l).occupied (3 * hdr f 4 2 + hdr f 6 2) < ownPool (3 * hdr f 4 2 + hdr f 6 2) →
      let t := s.setLink l { s.link l with rxSeq := hdr f 10 12, nakSent := false }
      (hdr f 8 1 = 1 → Tbl.get none (t.link l).cut (hdr f 4 2) = none →
        (∀ x, t.cutThrough l (hdr f 4 2) f.payload = some x → s.takeData l f = t.transit l x f) ∧
        (t.cutThrough l (hdr f 4 2) f.payload = none → s.takeData l f = t.keepData l f)) ∧
      (hdr f 8 1 ≠ 1 →
        (∀ x, Tbl.get none (t.link l).cut (hdr f 4 2) = some x → s.takeData l f = t.transit l x f) ∧
        (Tbl.get none (t.link l).cut (hdr f 4 2) = none → s.takeData l f = t.keepData l f))) ∧
    ((s.link l).carries = true → exec (.maintenanceFlitSend l) s = .next (s.fillRound l 58) ∧
      ((s.link l).maintSlot = true → s.fillRound l 58 = s.putFlit l 2 (bareFlit (s.maintenance l)))) ∧
    ((s.link l).replay ≠ [] → exec (.replayTimeout l) s = .next (State.replayAll
      ((s.report (codeAt Code.lkReplayTimer l) { info := ((s.link l).replay.head?.map (·.seq)).getD 0 }).modLink l fun q =>
        { q with errCnt := setFld q.errCnt 0 16 (satAdd 16 (fld q.errCnt 0 16) 1) }) l))

/-- R277, R291, R297–R300, R303, R304, R309, R371: a packet is delivered here, sent on by the port its route names (a
class-3 packet of this module by the path noted for its stream), kept waiting at its source, or discarded and counted;
an error in the receive buffer takes the port down instead. A newer link-state record is stored and passed on and the
tables rebuilt; a table entry with a parity error is reported and rebuilt. -/
def Obligations.PacketsAreRouted : Prop :=
  (∀ (s : State) (arrival : Option Nat) (p : Packet), (∀ l, arrival = some l → l < 40) →
    (∀ l, arrival = some l → s.parity.contains (.linkBuffer l) = true →
      exec (.packetForward arrival p) s = .next (s.bufferFault l)) ∧
    ((∀ l, arrival = some l → s.parity.contains (.linkBuffer l) = false) →
      let own3 := confined arrival p
      let way := if own3 then s.route3 p else s.route arrival p
      (way = .deliver → exec (.packetForward arrival p) s = .next ((s.freeFlits arrival p).deliver arrival p)) ∧
      (way = .wait → exec (.packetForward arrival p) s = .next s) ∧
      (way = .discard → exec (.packetForward arrival p) s = .next ((s.freeFlits arrival p).discard arrival)) ∧
      ∀ l, way = .out l →
        let t := (s.freeFlits arrival p).sendOn l (if (s.link l).foundDevice = 1 then hopped p l else p)
        exec (.packetForward arrival p) s = .next (if own3 then t.noteClass3 p l else t))) ∧
  (∀ (s s1 : State) (l : Nat) (p : Packet), l < 40 → .fab ∉ s.err.restarting →
    s.ctlHere p msgLinkState = true → s.storeRec (LinkRec.parse p.data) = some s1 →
    ((LinkRec.parse p.data).fromGroup = s.ownGroup →
      exec (.linkState l p) s = .next (State.rebuildTables (s1.overGlobals (s1.mgmtPacket 0 msgLinkState p.data)))) ∧
    ((LinkRec.parse p.data).fromGroup ≠ s.ownGroup → isGlobal l = true → exec (.linkState l p) s =
      .next (State.rebuildTables (s1.groupChips.foldl (fun t c => t.sendMgmt c msgLinkState p.data) s1)))) ∧
  ∀ (s : State) (index : Nat), .fab ∉ s.err.restarting →
    (index < 16384 → exec (.tableRebuild 0 index) s = .next (s.report (codeAt Code.tpParity 0xFF))) ∧
    (index < 257 → exec (.tableRebuild 1 index) s = .next ((s.report (codeAt Code.tpParity 0xFF)).rebuildEntry index) ∧
      exec (.tableRebuild 2 index) s = .next ((s.report (codeAt Code.tpParity 0xFF)).rebuildEntry index))

/-! ### The step protocol -/

/-- R321, R330, R331: a step that every core has completed is complete on the module: of a context with st_en its
digests are taken from the step records, its slot header is written, and they go to the peers; without st_en it
commits. A peer's digest of the current attempt is compared, and a different one is recorded and reported; one that
comes before the step is complete is kept. -/
def Obligations.StepsComplete : Prop :=
  ∀ (s : State) (c : Nat), c < 8 →
    (∀ n, (s.ctx c).executing = true → (s.ctx c).step.complete = false → s.stepOver c = some n →
      let u := s.touchParts c n
      (u.ctx c).step.diagRunning = false →
      ((u.ctx c).stEn = true → exec (.stepComplete c) s = .next (
        ((State.writeSlot (u.modStep c fun st => { st with
          complete := true, digestOwn := BitVec.ofNat 128 (u.xorParts c n 0x1200)
          digestMir := BitVec.ofNat 128 (u.xorParts c n 0x1210) }) c n 1).sendDigests c).useHeld c)) ∧
      ((u.ctx c).stEn = false → exec (.stepComplete c) s = .next (u.commitStep c n))) ∧
    ∀ p, s.hears p msgDigest c → fieldAt p.data 0 8 = (s.ctx c).step.current →
      fieldAt p.data 8 2 = (s.ctx c).step.attempt →
      let shard := BitVec.ofNat 32 (fieldAt p.data 0x0C 4)
      let d := BitVec.ofNat 128 (fieldAt p.data 0x10 16)
      let counted := s.modStep c fun st => { st with digestsIn := st.digestsIn + 1 }
      ((s.ctx c).step.complete = true → (s.ctx c).regs.stShardOwn = shard → (s.ctx c).step.digestOwn = d →
        exec (.stDigest p) s = .next counted) ∧
      ((s.ctx c).step.complete = true → (s.ctx c).regs.stShardOwn = shard → (s.ctx c).step.digestOwn ≠ d →
        exec (.stDigest p) s = .next (((counted.modRegs c fun r => { r with stDigestBad := true }).modStep c fun st =>
          { st with
            digestBad := true
            failCode := if st.failCode = 0 then codeAt Code.stDigestMismatch c else st.failCode }).report
              (codeAt Code.stDigestMismatch c) { ctx := some c, step := some (s.ctx c).step.current })) ∧
      ((s.ctx c).step.complete = false → exec (.stDigest p) s = .next (s.modStep c fun t => { t with
        digestsHeld := t.digestsHeld ++ [((s.ctx c).step.current, (s.ctx c).step.attempt, shard, d)] }))

/-- R226, R334–R338: with its conditions met the module's vote leaves; a step with poisoned writes faults its context
first, and the vote carries that. The vote, merged with its children's it goes to the parent, and on the coordinator it
is decided by the first row of R338 that applies; a child's vote is merged once. -/
def Obligations.VotesAreSent : Prop :=
  ∀ (s : State) (c : Nat), c < 8 → .fab ∉ s.err.restarting →
    let x := s.ctx c
    let s1 := if x.poisoned then
      s.raise (codeAt Code.memPoisonStep c) { ctx := some c, step := some x.step.current } else s
    let y := s1.ctx c
    let n := y.step.current
    let v := s1.fullVote c
    let t := State.writeSlot (s1.modStep c fun st => { st with voted := true, merged := some v }) c n 2
    (s.mayVote c = true → y.step.diagRunning = false → s1.coordinator c = false →
      exec (.voteSend c) s = .next (t.sendCtl c y.parent msgVote (some n) (v.bytes n y.step.attempt))) ∧
    (s.mayVote c = true → y.step.diagRunning = false → s1.coordinator c = true → v.xMin = v.xMax →
      exec (.voteSend c) s = .next (t.sendDecision c ⟨n, y.step.attempt, (y.verdict v).1, (y.verdict v).2, v.failChip,
        v.failCode⟩ s1.ownChip)) ∧
    (s.mayVote c = false → exec (.voteSend c) s = .next s) ∧
    ∀ p, s.hears p msgVote c → fieldAt p.data 0 8 = x.step.voteStep → fieldAt p.data 8 2 = x.step.attempt →
      x.step.voters.contains p.src = false →
      let u := s.modStep c fun st => { st with children := keyInsert p.src st.children, voters := keyInsert p.src st.voters
                                               merged := x.step.join (Vote.parse p.data) }
      (u.coordinator c = false → exec (.stVote p) s = .next u) ∧
      (u.coordinator c = true → exec (.stVote p) s = .next (u.voteRow c))

/-- R337, R338: merging votes adds what they cover, keeps what either says went wrong, the least and the greatest
exponent, saturating sums of the counts, and the failing chip of the lower number with its code; it does not matter in
which order votes are merged; the decision is COMMIT only if every module is all right, none is faulted, and the
exponents agree. -/
def Obligations.VotesMerge : Prop :=
  (∀ a b : Vote,
    (a.merge b).covered = a.covered + b.covered ∧ ((a.merge b).allOk = true ↔ a.allOk = true ∧ b.allOk = true) ∧
    ((a.merge b).faultedAny = true ↔ a.faultedAny = true ∨ b.faultedAny = true) ∧
    ((a.merge b).overflow = true ↔ a.overflow = true ∨ b.overflow = true) ∧
    ((a.merge b).digestBad = true ↔ a.digestBad = true ∨ b.digestBad = true) ∧
    ((a.merge b).quarantineAny = true ↔ a.quarantineAny = true ∨ b.quarantineAny = true) ∧
    (a.merge b).xMin = min a.xMin b.xMin ∧ (a.merge b).xMax = max a.xMax b.xMax ∧
    (a.merge b).nonfiniteAll = min (2 ^ 32 - 1) (a.nonfiniteAll + b.nonfiniteAll) ∧
    (a.merge b).nonfiniteWatched = min (2 ^ 32 - 1) (a.nonfiniteWatched + b.nonfiniteWatched) ∧
    (a.merge b).failChip = min a.failChip b.failChip ∧
    (a.failChip < b.failChip → (a.merge b).failCode = a.failCode) ∧
    (b.failChip < a.failChip → (a.merge b).failCode = b.failCode)) ∧
  (∀ a b c : Vote, (a.merge b).merge c = a.merge (b.merge c)) ∧
  (∀ a b : Vote, a.failChip ≠ b.failChip ∨ a.failCode = b.failCode → a.merge b = b.merge a) ∧
  ∀ (x : Ctx) (a b : Vote), a.xMin = a.xMax → b.xMin = b.xMax → (x.verdict (a.merge b)).1 = 1 →
    a.allOk = true ∧ b.allOk = true ∧ a.faultedAny = false ∧ b.faultedAny = false ∧ a.xMin = b.xMin

/-- R339–R346: a decision for the current attempt goes on to the children and is acted on: COMMIT commits the step,
REPLAY and PAUSE report and stop the engines, DIAG stops a paused context that retains its step and changes nothing of
another but its answer, and DIAG_DONE ends the diagnosis. -/
def Obligations.DecisionsAreActedOn : Prop :=
  ∀ (s : State) (p : Packet) (c : Nat) (d : Decision),
    let u := s.toChildren c msgDecide d.step p.data
    (s.decides p 1 c d → exec (.stDecideCommit p) s = .next (u.commitStep c d.step)) ∧
    (s.decides p 2 c d → exec (.stDecideReplay p) s = .next (u.actReplay c d)) ∧
    (s.decides p 3 c d → exec (.stDecidePause p) s = .next (u.actPause c d)) ∧
    (s.decides p 4 c d → (u.ctx c).st = .paused →
      ((u.ctx c).step.window.contains d.step = true → exec (.stDecideDiag p) s = .next (u.stopForRollback c d)) ∧
      ((u.ctx c).step.window.contains d.step = false → exec (.stDecideDiag p) s = .next (u.refuseDiag c d))) ∧
    (s.decides p 5 c d → exec (.stDecideDiagDone p) s = .next ((u.diagDone c d.reason).diagComplete c d.reason))

/-- R341–R346: a module whose context is stopped for a rollback restores the step and reports once its children have,
one that diagnoses first letting its messages leave the hubs; the coordinator's order goes on to the children: RERUN
begins the rerun with the next attempt, HOLD leaves the context held, and, after a PAUSE for a faulted module of a
paired job, begins recovery with the step of the decision as R (R372); DIAG_RUN begins the diagnosis replay. -/
def Obligations.RollbackAndGo : Prop :=
  (∀ (s : State) (c : Nat) (d : Decision), c < 8 → (s.ctx c).step.decision = some d → (s.ctx c).step.rolledSelf = false →
    (d.kind = 2 ∨ d.kind = 3 → (s.ctx c).gone = false →
      exec (.rollbackRestore c) s = .next ((s.rollback c d.step (d.kind == 2 && d.reason == 8)).rolledCheck c)) ∧
    (d.kind = 4 → s.hub.any (fun m => m.ctx == c) = true → exec (.rollbackRestore c) s = .next s) ∧
    (d.kind = 4 → s.hub.any (fun m => m.ctx == c) = false → (s.ctx c).gone = false → exec (.rollbackRestore c) s = .next ((s.diagBack c d.step).rolledCheck c)) ∧
    (d.kind = 2 ∨ d.kind = 3 ∨ (d.kind = 4 ∧ s.hub.any (fun m => m.ctx == c) = false) → (s.ctx c).gone = true → exec (.rollbackRestore c) s =
      .next (State.rolledCheck (s.modStep c fun st => { st with rolledSelf := true, lostAny := true }) c))) ∧
  (∀ (s : State) (p : Packet) (c : Nat) (d : Decision), s.hears p msgRolled c → (s.ctx c).step.decision = some d →
    fieldAt p.data 0 8 = d.step → fieldAt p.data 8 2 = d.attempt → (s.ctx c).step.rolledFrom.contains p.src = false →
    exec (.stRolled p) s = .next (State.rolledCheck (s.modStep c fun t => { t with
      children := keyInsert p.src t.children, rolledFrom := keyInsert p.src t.rolledFrom
      rolledCovered := t.rolledCovered + fieldAt p.data 0x0A 2
      lostAny := t.lostAny || bitAt (fieldAt p.data 0x0C 1) 0
      diagRefusedAny := t.diagRefusedAny || bitAt (fieldAt p.data 0x0C 1) 1 }) c)) ∧
  ∀ (s : State) (p : Packet) (c : Nat) (d : Decision),
    let u := s.toChildren c msgGo d.step p.data
    (s.goes p 1 c d → (u.ctx c).gone = false → exec (.stGoRerun p) s = .next (u.rerunStep c (d.attempt + 1))) ∧
    (s.goes p 2 c d →
      (d.kind ≠ 3 ∨ d.reason ≠ 1 → exec (.stGoHold p) s = .next (u.hold c d)) ∧
      (d.kind = 3 → d.reason = 1 → ((u.hold c d).ctx c).pair.isSome = true → ((u.hold c d).ctx c).st ≠ .free →
        exec (.stGoHold p) s = .next (((u.hold c d).modCtx c fun x => { x with
          recov := { x.recov with stepR := some d.step } }).recovBegin c 2))) ∧
    (s.goes p 3 c d → exec (.stGoDiagRun p) s = .next (u.diagRun c d))

/-- R137, R140, R150, R344: the oldest bank in publication is written to the statistics area, set by set and then its
header, and counts as published; the oldest raw record of a window step is converted to a delta. -/
def Obligations.PublishAndConvert : Prop :=
  (∀ (s : State) (c n : Nat) (rest : List Nat), c < 8 → (s.ctx c).regs.tsPublishing = n :: rest →
    let b := n % 3
    let t := ((List.range 12285).map (· + 3)).foldl (fun t k => t.writeSet c b k) s
    let sat := (Tbl.get StatBank.reset (t.ctx c).banks b).sets.any fun e => e.2.sumSat || e.2.sumsqSat || e.2.countSat
    exec (.statsPublishDone c) s = .next (State.modRegs (State.writeHeader (t.modCtx c fun x => { x with
      banks := Tbl.set StatBank.reset x.banks b { Tbl.get StatBank.reset x.banks b with state := 2 } }) c b) c fun r => { r with
        tsPubStep := BitVec.ofNat 64 n, tsPubValid := true, tsPublishing := r.tsPublishing.drop 1
        tsAccSat := r.tsAccSat || sat })) ∧
  ∀ (s : State) (c : Nat) (u : Undo), c < 8 → (s.ctx c).step.diagRunning = false →
    ((s.ctx c).step.undo.find? fun e => e.kind == 1 && (s.ctx c).step.window.contains e.epoch) = some u →
    exec (.undoDeltaConvert c) s = .next (s.convertUndo c u)

/-! ### The failure detector and recovery -/

/-- R363–R367, R369, R371: FAB's heartbeat counts; a silent neighbour, or one that a request names, is suspected and the
group is told, and a request's cause is kept for the fence; the group's suspicions are kept, and the verdict follows
from them. A fenced chip keeps its position in the chip table with kind 3; the fence is passed on, its chip's own
suspicions end, and every context of a job with that member recovers. -/
def Obligations.SuspicionsAndFences : Prop :=
  (∀ s : State, s.fabRuns = true →
    exec .heartbeatTick s = .next { s with fab := { s.fab with heartbeat := s.fab.heartbeat + 1 } }) ∧
  (∀ (s : State) (t : Nat), t < 32 → s.fabRuns = true → t ≠ s.ownSlot → t ∉ s.fab.mySuspects →
    exec (.kaTimeout t) s = .next (s.suspect t false)) ∧
  (∀ (s : State) (p : Packet), .fab ∉ s.err.restarting →
    let m := RcMsg.parse p.data
    let slot := chipSlot (s.chipEntry m.chipA)
    let key := (slot, chipSlot (s.chipEntry p.src))
    (s.ctlHere p msgSuspect = true → chipGroup (s.chipEntry m.chipA) = s.ownGroup →
      chipGroup (s.chipEntry p.src) = s.ownGroup →
      (m.action = 1 → exec (.fdSuspect p) s = .next (State.judge { s with fab := { s.fab with
        suspicions := pageInsert key s.fab.suspicions
        requested := if bitAt m.flags 0 then pageInsert key s.fab.requested else s.fab.requested } } key.1)) ∧
      (m.action ≠ 1 → key ∉ s.fab.requested → exec (.fdSuspect p) s = .next { s with fab := { s.fab with
        suspicions := s.fab.suspicions.filter (· != key) } })) ∧
    (s.ctlHere p msgFenceReq = true → chipGroup (s.chipEntry m.chipA) = s.ownGroup → slot ≠ s.ownSlot →
      (chipKind (s.chipEntry m.chipA) = 1 ∨ chipKind (s.chipEntry m.chipA) = 2) →
      exec (.rcFenceReq p) s = .next (State.suspect { s with fab := { s.fab with
        causes := Tbl.set 0 s.fab.causes slot m.code } } slot true)) ∧
    ∀ s0, s.ctlHere p msgFence = true → s.firstOf p = some s0 →
      let fenced := s0.fenceEntry m.chipA
      let told : State := if chipGroup (s0.chipEntry m.chipA) = s0.ownGroup then { fenced with fab := { fenced.fab with
        suspicions := fenced.fab.suspicions.filter fun k => k.2 != chipSlot (s0.chipEntry m.chipA) } } else fenced
      exec (.fdFence p) s = .next (ctxNums.foldl (fun t c =>
        ((t.memberFenced c m.chipA).childFenced c m.chipA).leaderCheck c) told)) ∧
  ∀ (s : State) (c : Nat), Tbl.wf 0 s.fab.chipTable = true → chipKind (s.chipEntry c) = 1 ∨ chipKind (s.chipEntry c) = 2 →
    let t := s.fenceEntry c
    chipKind (t.chipEntry c) = 3 ∧ chipGroup (t.chipEntry c) = chipGroup (s.chipEntry c) ∧
      chipSlot (t.chipEntry c) = chipSlot (s.chipEntry c) ∧ ∀ d, d ≠ c → t.chipEntry d = s.chipEntry d

/-- R368, R369, R397: at a step timeout a silent child that is fenced is replaced with RC_FENCED, and the others are
probed; a probe is answered with the child's state, and a child that has voted sends its vote again. A child that still
runs is given up with RC_STEP_TIMEOUT, and on a later attempt of the step with RC_NO_PROGRESS and a fence request; a
paused one is replaced by its parent; a child that does not answer is lost. -/
def Obligations.ProbesAreAnswered : Prop :=
  ∀ (s : State) (c : Nat), c < 8 →
    let x := s.ctx c
    (s.fabRuns = true →
      let u := (x.silent.filter fun ch => s.fencedChip ch).foldl (fun t ch => t.substituteChild c ch (codeAt Code.rcFenced c)) s
      let l := (u.ctx c).silent.filter fun ch => !u.fencedChip ch
      exec (.stepTimeout c) s = .next (l.foldl
        (fun t ch => t.sendRc c ch msgProbe { step := (u.ctx c).step.waitStep, chipA := ch })
        (u.modCtx c fun y => { y with recov := { y.recov with
          probed := l.foldl (fun q ch => keyInsert ch q) y.recov.probed } }))) ∧
    (∀ p, s.hears p msgProbe c →
      let n := fieldAt p.data 0 8
      let a := x.probeState n
      let code := if a = 4 then x.faultCode else 0
      let t := s.sendRc c p.src msgProbeReply { step := n, action := a, code := code }
      (a ≠ 3 → exec (.rcProbe p) s = .next t) ∧
      ∀ v, a = 3 → x.step.merged = some v → x.step.voted = true → n = x.step.voteStep →
        exec (.rcProbe p) s = .next (t.sendCtl c x.parent msgVote (some n) (v.bytes n x.step.attempt))) ∧
    (∀ p, s.hears p msgProbeReply c → p.src ∈ x.recov.probed → p.src ∈ x.silent →
      let m := RcMsg.parse p.data
      let w : Where := { ctx := some c, step := some m.step }
      m.step = x.step.waitStep →
      (m.action = 1 → (∀ a, (p.src, m.step, a) ∈ x.recov.timeouts → a = x.step.attempt) → exec (.rcProbeReply p) s = .next
        (State.substituteChild (s.report (codeAt Code.rcStepTimeout c) w) c p.src (codeAt Code.rcStepTimeout c))) ∧
      (m.action = 1 → (∃ a, (p.src, m.step, a) ∈ x.recov.timeouts ∧ a ≠ x.step.attempt) → exec (.rcProbeReply p) s = .next
        (State.substituteChild (State.sendFenceReq (s.report (codeAt Code.rcNoProgress c) w) c p.src
          (codeAt Code.rcNoProgress c)) c p.src (codeAt Code.rcNoProgress c))) ∧
      (m.action = 4 → exec (.rcProbeReply p) s = .next (s.substituteChild c p.src m.code)) ∧
      (m.action = 2 ∨ m.action = 3 → exec (.rcProbeReply p) s = .next (s.modCtx c fun y => { y with recov := { y.recov with
        probed := y.recov.probed.filter (· != p.src) } }))) ∧
    ∀ ch, s.fabRuns = true → ch ∈ x.recov.probed → ch ∈ x.silent → exec (.probeTimeout c ch) s = .next
      (State.substituteChild (State.sendFenceReq (s.report (codeAt Code.rcChildLost c) { ctx := some c, step := some x.step.waitStep })
        c ch (codeAt Code.rcChildLost c)) c ch (codeAt Code.rcChildLost c))

/-- R310, R365, R371–R382, R384: an order is acted on once. ROLLBACK, RESUME and HOLD act on a context that recovers;
ADOPT rewrites two entries of the chip table and ends the lost chip's fence; REBUILD acts on the module it names; LOAD
makes its target's context wait for its state, has each source send its part, and has a module of a source's group
relay the slices that fall to it; STAKE_ADD adds a stake at its position. The leader takes a status in place of that
member's last, and goes on when it has them all; a ready target counts as such, and for one that failed another stake
is ordered or a fence is requested. R441: a REBUILD or a LOAD waits while SEC or HLT restarts. -/
def Obligations.OrdersAreFollowed : Prop :=
  (∀ (s t : State) (p : Packet) (m : RcMsg) (k : Nat), t.jobCtx p.jobTag.toNat = some k →
    (s.ordered p 1 m t → (t.ctx k).recov.rstate ≠ 0 → exec (.rcOrderRollback p) s = .next (t.orderRollback k m.step)) ∧
    (∀ b, s.ordered p 3 m t → .sec ∉ s.err.restarting → .hlt ∉ s.err.restarting → m.chipA = t.ownChip → exec (.rcOrderRebuild p b) s = .next (t.rebuild k b)) ∧
    (s.ordered p 5 m t → (t.ctx k).st = .paused → (t.ctx k).recov.rstate ≠ 0 →
      let r := (t.setCtx k { t.ctx k with st := .running, recov := Recov.reset }).rerunStep k m.attempt
      ((t.ctx k).recov.loaded = false → exec (.rcOrderResume p) s = .next r) ∧
      ((t.ctx k).recov.loaded = true →
        exec (.rcOrderResume p) s = .next (r.modStep k fun st => { st with rerun := false }))) ∧
    (∀ b, s.ordered p 6 m t → (t.ctx k).recov.rstate ≠ 0 →
      exec (.rcOrderHold ⟨p, b⟩) s = .next (t.orderHoldHere k m.code b))) ∧
  (∀ (s t : State) (p : Packet) (m : RcMsg), s.ordered p 2 m t →
    (chipKind (t.chipEntry m.chipA) = 1 ∨ chipKind (t.chipEntry m.chipA) = 3) → chipKind (t.chipEntry m.chipB) = 2 →
    chipGroup (t.chipEntry m.chipA) = chipGroup (t.chipEntry m.chipB) →
    let v := t.chipEntry m.chipA
    let w := t.chipEntry m.chipB
    let adopted := Tbl.set 0 t.fab.chipTable m.chipA (chipWord 1 (chipGroup w) (chipSlot w) 0)
    exec (.rcOrderAdopt p) s = .next (State.markFenced { t with fab := { t.fab with
      chipTable := Tbl.set 0 adopted m.chipB 0 } } (chipGroup v * 32 + chipSlot v) false)) ∧
  (∀ (s t u : State) (p : Packet) (m : RcMsg) (d : LoadData) (k : Nat), s.ordered p 4 m t →
    .sec ∉ s.err.restarting → .hlt ∉ s.err.restarting → kakInRange d.kernels = true →
    (m.chipA = t.ownChip → State.targetCtx (t.kakFailed d.kernels) (t.jobCtx p.jobTag.toNat) d = some (k, u) →
      (u.ctx k).sizesMatch d = true → d.bytes ≠ 0 →
      exec (.rcOrderLoad p d) s = .next (u.modCtx k fun y => { y with
        recov := { y.recov with rstate := 3, leader := p.src, load := some d, landed := [] }
        step := { y.step with discardFrom := some d.stepR } })) ∧
    (m.chipA ≠ t.ownChip → t.jobCtx p.jobTag.toNat = some k →
      let mirSrc := bits m.value 0 14
      (m.chipB = t.ownChip ∨ mirSrc = t.ownChip → exec (.rcOrderLoad p d) s =
        .next (t.sendLoad k m.chipA (m.chipB == t.ownChip) (mirSrc == t.ownChip) d)) ∧
      (m.chipB ≠ t.ownChip → mirSrc ≠ t.ownChip → (chipGroup (t.chipEntry m.chipB) = t.ownGroup ∨
        chipGroup (t.chipEntry mirSrc) = t.ownGroup) → exec (.rcOrderLoad p d) s = .next (t.beginRelay k m.chipA d)))) ∧
  (∀ (s : State) (p : Packet) (b : List Byte) (d : LoadData), .fab ∉ s.err.restarting →
    (.sec ∈ s.err.restarting ∨ .hlt ∈ s.err.restarting) → kakInRange d.kernels = true →
    exec (.rcOrderRebuild p b) s = .next { s with err := { s.err with
      heldOrders := s.err.heldOrders ++ [.rcOrderRebuild p b] } } ∧
    exec (.rcOrderLoad p d) s = .next { s with err := { s.err with
      heldOrders := s.err.heldOrders ++ [.rcOrderLoad p d] } }) ∧
  (∀ (s t : State) (p : Packet) (m : RcMsg), s.ordered p 7 m t →
    exec (.rcOrderStakeAdd p) s = .next (t.stakeAt m.chipB m.value)) ∧
  ∀ (s : State) (p : Packet) (c : Nat), .fab ∉ s.err.restarting → s.jobCtx p.jobTag.toNat = some c →
    let m := RcMsg.parse p.data
    let e : Member := {
      chip := m.chipA, lastCommitted := m.step, rstate := m.action, rebuildOk := bitAt m.flags 0, code := m.code,
      shardOwn := BitVec.ofNat 32 m.value, shardMir := BitVec.ofNat 32 (m.value / 2 ^ 32), attempt := m.attempt }
    (s.ctlHere p msgStatus = true → exec (.rcStatus p) s = .next (State.leaderCheck (s.modCtx c fun x => { x with
      recov := { x.recov with
        statuses := (x.recov.statuses.filter fun q => q.chip != m.chipA) ++ [e]
        known := (x.recov.known.filter fun q => q.chip != m.chipA) ++ [e]
        awaiting := if e.rstate = 3 then keyInsert e.chip x.recov.awaiting else x.recov.awaiting } }) c)) ∧
    (s.ctlHere p msgReady = true → m.chipA ∈ (s.ctx c).recov.awaiting →
      let gone (x : Ctx) : Ctx := { x with recov := { x.recov with awaiting := x.recov.awaiting.filter (· != m.chipA) } }
      let readied (x : Ctx) : Ctx := { gone x with recov := { (gone x).recov with ready := keyInsert m.chipA x.recov.ready } }
      (m.action = 1 → exec (.rcReady p) s = .next (State.leaderCheck (s.modCtx c readied) c)) ∧
      (m.action ≠ 1 → unitOf m.code = 0x0E →
        exec (.rcReady p) s = .next (State.orderLost (s.modCtx c gone) c m.chipA).2) ∧
      (m.action ≠ 1 → unitOf m.code ≠ 0x0E →
        exec (.rcReady p) s = .next ((s.modCtx c gone).sendFenceReq c m.chipA m.code)))

/-- R402–R412: a mover copies the oldest page in a snapshot slot, else the next page left, and when none is left the
shards are written to the pool; once they are acknowledged the manifest is written; the pool node's CK_ACK makes the
checkpoint exist, reports CK_DONE and completes the command, and a refusal or a missing acknowledgement fails it. -/
def Obligations.CheckpointsReachThePool : Prop :=
  ∀ (s : State) (c : Nat), c < 8 →
    let x := s.ctx c
    (∀ u e, x.ck.state = 2 → x.ck.shardsSent = false →
      (match x.ck.saved with
        | q :: _ => some (q.1, q.2.1)
        | [] => x.ck.left.head?) = some e → s.moverTake c e = u →
      ((u.ctx c).ck.left ≠ [] → exec (.moverPageCopy c) s = .next u) ∧
      ((u.ctx c).ck.state = 2 → (u.ctx c).ck.left = [] → exec (.moverPageCopy c) s = .next (u.sendShards c))) ∧
    (x.ck.state = 2 → x.ck.shardsSent = true → x.ck.sent ≤ x.ck.acked → x.ck.manifestSent = false →
      exec (.ckManifestWrite c) s = .next (State.modCtx (s.poolWrite c 0 (s.manifest c)) c fun y => { y with
        ck := { y.ck with state := 3, manifestSent := true } })) ∧
    (∀ p, .fab ∉ s.err.restarting → s.ctlHere p msgCkAck = true →
      s.ckptOf p.jobTag.toNat (fieldAt p.data 0 8) = some c →
      let t := State.report (s.modCtx c fun y => { y with ck := y.ck.done x.baseEn }) (codeAt Code.ckDone c) { ctx := some c }
      (fieldAt p.data 8 4 = 0 → exec (.ckAck p) s = .next (match x.ck.cmd with
        | some h => t.complete h 0 (codeAt Code.ckDone c) c 0 []
        | none => t)) ∧
      (fieldAt p.data 8 4 ≠ 0 → exec (.ckAck p) s = .next (s.ckFail c Code.ckPoolRefused))) ∧
    (x.ck.state = 3 ∨ (x.ck.state = 2 ∧ x.ck.shardsSent = true ∧ x.ck.acked < x.ck.sent) →
      exec (.ckPoolTimeout c) s = .next (s.ckFail c Code.ckPoolTimeout))

/-! ### Faults, resets and starts -/

/-- R436 (R434, R464, R479, R540, R550): a severity-4 report keeps the first code since the last reset, asserts ALERT,
and with fatal_action 0 holds the module in FATAL until a reset. The heat of a cluster past its trip also cuts every
cluster's domain; a hung link core only takes its port down. R424–R426: a code that no cause table gives severity 4 is
no such report. -/
def Obligations.FatalReportsStopTheModule : Prop :=
  (∀ (s : State) (code : Word), s.err.fatalCode = none →
    (s.err.fatalAction = 0 →
      let t := s.fatal code
      t.err.fatalCode = some code ∧ t.err.fatalHold = true ∧ t.board.alert = true ∧
        t.err.resetCause = (if s.err.causeWritten then s.err.resetCause else code)) ∧
    (isFatal code = true → exec (.fatalReport code) s = .next (s.fatal code))) ∧
  (∀ (s : State) (code : Word), (isFatal code = false → exec (.fatalReport code) s = .next s) ∧
    ∀ k, s.err.fatalCode = some k → s.fatal code = s.report code) ∧
  (∀ (s : State) (n : Nat),
    (n < 16 → exec (.elNetHang n) s = .next (s.fatal (codeAt Code.elNetHang n))) ∧
    (s.board.powered = true → (n < 16 ∨ n = 0xFF) → exec (.pwRegFault n) s = .next (s.fatal (codeAt Code.pwRegFault n))) ∧
    (s.board.powered = true → exec .mhOscFault s = .next (s.fatal (codeAt Code.mhOscFault 0))) ∧
    (n < 40 → (s.link n).carries = true → exec (.linkCoreHang n) s = .next (s.portDown n))) ∧
  (∀ s : State, s.board.powered = true →
    exec .mhLeak s = .next ((State.tell { s with board := { s.board with leakWet := true, alert := true } } s.stat).fatal
      (codeAt Code.mhLeak 0x20))) ∧
  ∀ (s : State) (cl : Nat), cl < 16 → s.board.powered = true →
    let t := s.readTemp cl (max (s.cluster cl).temp (115 * 16))
    exec (.pwThermTrip cl) s = .next ((State.tell { t.railsOff with pw := { t.railsOff.pw with tripped := true } }
      t.stat).fatal (codeAt Code.pwThermTrip cl)) ∧ t.railsOff.pw.clustersOn = false

/-- R431–R433, R435: a monitor takes a sample of its source, zero where its param names nothing, into its minimum,
maximum, count and the one bin of its histogram in whose range it lies, and reports a crossing of its thresholds once;
a stalled wait is reported once for each held command, and a stalled execution faults the context of the core; an error
in a shared queue buffer is reported and, when none is being resolved, its resolution begins. -/
def Obligations.MonitorsAndWatchdogsReport : Prop :=
  (∀ (s : State) (i : Nat) (v : Int), i < 16 → flag (s.monitor i).cfg 31 = true → fld (s.monitor i).cfg 0 8 ≠ 0 →
    let src := fld (s.monitor i).cfg 0 8
    let n := fld (s.monitor i).cfg 8 8
    let v' := s.sampled (s.monitor i) v
    let r := monSample (s.monitor i) v'
    (monParamOk src n = false → v' = 0) ∧
    (monParamOk src n = true →
      (src = 1 → v' = (s.cluster n).temp) ∧ (src = 2 → v' = (s.cluster n).lidTemp) ∧
      (src = 3 → v' = Tbl.get 0 s.pw.stackTemps n) ∧ (src = 5 → v' = ((s.link n).rtt * 10 : Nat)) ∧
      (src = 7 → v' = ((s.core n).ce.length : Nat)) ∧ (src = 9 → v' = ((s.monitor i).stretches : Nat)) ∧
      (src ∉ [1, 2, 3, 5, 7, 9] → v' = v)) ∧
    (∀ k : Nat, Tbl.wf 0 (s.monitor i).bins = true → k ≤ 15 →
      (k = 0 ∨ s32 (s.monitor i).base + k * 2 ^ fld (s.monitor i).cfg 20 4 ≤ v') →
      (k = 15 ∨ v' < s32 (s.monitor i).base + (k + 1) * 2 ^ fld (s.monitor i).cfg 20 4) →
      Tbl.get 0 r.1.bins k = satInc (Tbl.get 0 (s.monitor i).bins k) ∧
        ∀ j, j ≠ k → Tbl.get 0 r.1.bins j = Tbl.get 0 (s.monitor i).bins j) ∧
    let t := s.setMonitor i r.1
    r.1.count = satInc (s.monitor i).count ∧ r.1.min = w32 (min (s32 (s.monitor i).min) v') ∧
      r.1.max = w32 (max (s32 (s.monitor i).max) v') ∧ r.1.stretches = 0 ∧
      (r.2.1 = true ↔ s32 (s.monitor i).thrHi < v' ∧ (s.monitor i).wasHigh = false) ∧
      (r.2.2 = true ↔ v' < s32 (s.monitor i).thrLo ∧ (s.monitor i).wasLow = false) ∧
      (r.2 = (false, false) → exec (.monitorSample i v) s = .next t) ∧
      (r.2 = (true, false) → exec (.monitorSample i v) s = .next (t.report (codeAt Code.elMonHigh i))) ∧
      (r.2 = (false, true) → exec (.monitorSample i v) s = .next (t.report (codeAt Code.elMonLow i)))) ∧
  (∀ (s : State) (p c l : Nat) (e : Eng), p < 192 → s.coreOwner p = some (c, l) → (s.ctx c).watched = true →
    (∀ n a, s.heldAt p e = some (n, a) → fld s.err.wdCfg 16 16 ≠ 0 → (p, e, n) ∉ s.err.wdWaited →
      let t := s.report (codeAt Code.elWdWait p) ((s.core p).whereOf (some c) a)
      exec (.elWdWait p e) s = .next { t with err := { t.err with wdWaited := t.err.wdWaited ++ [(p, e, n)] } }) ∧
    (s.engBusy p e = true → exec (.elWdExec p e) s = .next
      (State.raise (s.modCore p fun k => { k with needsKernels := true }) (codeAt Code.elWdExec p)
        ((s.core p).whereOf (some c) 0)))) ∧
  ∀ (s : State) (b : SharedBuf) (recent : List Nat), bufOk b = true → s.err.suspects = none →
    let members := ctxNums.filter fun c =>
      recent.contains c && ((s.ctx c).st == .running || (s.ctx c).st == .paused) && (match b with
        | .clusterHub k => (s.ctx c).cores.any fun p => p / 12 == k
        | _ => true)
    exec (.elSharedUe b recent) s = .next ((s.report (codeAt Code.elSharedUe (bufLoc b))).startResolve b members [])

/-- R441, R442: a crashed management core is reported and restarts, PWC's clusters at the lowest step meanwhile; a
control message that comes while FAB restarts is held, and a host write while SCH restarts; after the restart the held
ones take effect in order, FAB tells of the ports that came or went, the recovery orders that waited for SEC or HLT are
acted on, and PWC releases its clamp; the last of PWC, FAB and SCH to be back while standby is left completes that
(R469). A crash whose SRAM copy is bad, or the third of a core within 600 s, is fatal. -/
def Obligations.CrashedCoresRestart : Prop :=
  (∀ (s : State) (mc : Mc), s.mcRuns mc = true →
    let recent := s.err.crashes.filter fun e => decide (s.suTime < e.2 + 600 * 10 ^ 9)
    let noted : State := { s with err := { s.err with crashes := recent ++ [(mc, s.suTime)] } }
    let t := noted.report (codeAt Code.mcCrash (mcLoc mc))
    let down : State := { t with err := { t.err with
      restarting := if t.err.restarting.contains mc then t.err.restarting else t.err.restarting ++ [mc] } }
    exec (.mcCrash mc true) s = .next (noted.fatal (codeAt Code.mcImageUe (mcLoc mc))) ∧
    (2 ≤ (recent.filter fun e => e.1 == mc).length →
      exec (.mcCrash mc false) s = .next (noted.fatal (codeAt Code.mcRestartLimit (mcLoc mc)))) ∧
    ((recent.filter fun e => e.1 == mc).length < 2 →
      (mc ≠ .pwc → exec (.mcCrash mc false) s = .next down) ∧
      (mc = .pwc → exec (.mcCrash mc false) s = .next down.clampAll))) ∧
  (∀ (s : State) (mc : Mc), mc ∈ s.err.restarting →
    let t : State := { s with err := { s.err with restarting := s.err.restarting.filter (· != mc) } }
    (mc = .sec ∨ mc = .hlt → exec (.mcRestartDone mc) s = .next (State.standbyDone
      (s.err.heldOrders.foldl State.redoControl { t with err := { t.err with heldOrders := [] } }))) ∧
    (mc = .pwc → exec (.mcRestartDone mc) s = .next (State.standbyDone { t with pw := { t.pw with clamp := false } })) ∧
    (mc = .sch → exec (.mcRestartDone mc) s = .next (State.standbyDone
      (s.err.heldWrites.foldl State.redoWrite { t with err := { t.err with heldWrites := [] } }))) ∧
    (mc = .fab →
      let told := s.fab.announceDue.foldl (fun u e => u.announce e.1 e.2) { t with
        err := { t.err with heldControl := [] }, fab := { t.fab with announceDue := [] } }
      exec (.mcRestartDone mc) s = .next (State.standbyDone ((List.range 40).foldl
        (fun u l => if (u.link l).state = 4 ∧ (u.link l).agreed = true ∧ (u.link l).outcome = 0 then u.discover' l else u)
        (s.err.heldControl.foldl State.redoControl told))))) ∧
  (∀ s : State, (s.pw.standby ≠ 3 → s.standbyDone = s) ∧
    (s.pw.standby = 3 → .pwc ∉ s.err.restarting → .fab ∉ s.err.restarting → .sch ∉ s.err.restarting →
      s.lid.errs = [] → s.pw.enterReq = false →
      s.standbyDone = State.tell { s with pw := { s.pw with standby := 0 } } s.stat)) ∧
  (∀ (s : State) (p : Packet), .fab ∈ s.err.restarting → (s.err.heldControl.filter fun h => !fabOwn h).length < 256 →
    exec (.stVote p) s = .next { s with err := { s.err with heldControl := s.err.heldControl ++ [.stVote p] } }) ∧
  ∀ (s : State) (port : Nat) (hi : Word), port < 2 → s.board.powered = true → s.board.resetLow = false →
    s.boot.stage = stageReady → s.err.warmReset = false → s.pw.standby = 0 → .sch ∈ s.err.restarting →
    exec (.mbxPost port hi) s = .next { s with err := { s.err with heldWrites := s.err.heldWrites ++ [.mbxPost port hi] } }

/-- R437–R440, R513, R515, R548, R549, R554: power loss keeps fuses and flash; power brings a start that is due;
RESET_L low for 10 ms is a cold reset, and below 1 ms nothing; its release ends an EXTEST. A start runs once it is due,
and a failed one is tried again after its wait, which a staged transfer prolongs. A warm reset destroys every context,
its end frees them, and SEC copies the kept code to flash. (What power loss keeps is the model's reading of the table:
log 2 gives the other reset values.) -/
def Obligations.ResetsAndStarts : Prop :=
  (∀ s : State, s.board.powered = true →
    exec .powerLoss s = .next s.losePower ∧ s.losePower.board.powered = false ∧ s.losePower.hbm = Memory.reset ∧
      s.losePower.ctxs = [] ∧ s.losePower.boot.keptCode = s.boot.keptCode ∧ s.losePower.boot.repairs = s.boot.repairs ∧
      s.losePower.err.resetCause = s.boot.keptCode.getD 0 ∧ s.losePower.fuses.vendor0 = s.fuses.vendor0 ∧
      s.losePower.fuses.vendor1 = s.fuses.vendor1 ∧ s.losePower.fuses.owner0 = s.fuses.owner0 ∧
      s.losePower.fuses.owner1 = s.fuses.owner1 ∧ s.losePower.fuses.revoke = s.fuses.revoke ∧
      s.losePower.fuses.svn = s.fuses.svn ∧ s.losePower.fuses.lmsCkpt = s.fuses.lmsCkpt ∧
      s.losePower.fuses.uds = s.fuses.uds ∧
      (s.boot.nextLifecycle = none → s.losePower.fuses = s.fuses) ∧
      (s.boot.updState ≠ 3 → s.losePower.boot.flash = s.boot.flash)) ∧
  (∀ (s : State) (b : Bool), s.board.powered = false → exec (.powerOn b) s = .next (State.tell { s with
    board := { s.board with
      powered := true, railsGood := b, railFault := s.board.railFault || !b, alert := s.board.leakWet }
    boot := { s.boot with startDue := b } } s.stat)) ∧
  (∀ (s : State) (us : Nat) (b : Bool), s.board.powered = true → s.board.resetLow = false →
    let code := codeAt Code.elResetCold 2
    let cold := ((s.report code).keep code).coldCore 1
    let low := State.tell { cold with board := { cold.board with resetLow := true } } s.stat
    (10000 ≤ us → exec (.resetL us b false) s = .next low ∧ exec (.resetL us b true) s = .next low.resetHigh) ∧
    (us < 1000 → exec (.resetL us b false) s = .next s ∧
      (isExtest s.board.tap = false → exec (.resetL us b true) s = .next s))) ∧
  (∀ s : State, (isExtest s.board.tap = true → s.resetHigh.board.tap = .bypass) ∧
    (isExtest s.board.tap = false → s.resetHigh.board.tap = s.board.tap) ∧ s.resetHigh.board.resetLow = false) ∧
  (∀ (s : State) (env : BootEnv), kakInRange ⟨env.badArrays, env.badCores, env.badChannels, env.badLidUnits⟩ = true →
    s.board.powered = true → s.board.resetLow = false → s.boot.startDue = true →
    exec (.bootStart env) s = .next ((s.bootRun env).tell s.stat)) ∧
  (∀ s : State, s.board.powered = true → s.boot.stage = 0xE0 → s.boot.startDue = false →
    (s.boot.stagingOwner = none → exec .bootBackoffExpiry s = .next (s.retry (min 60 (2 * s.boot.backoff)))) ∧
    (s.boot.stagingOwner.isSome = true → exec .bootBackoffExpiry s = .next { s with boot := { s.boot with waitOver := true } })) ∧
  (∀ s : State, s.err.resetCause ≠ 0 → .sec ∉ s.err.restarting → s.board.powered = true →
    exec .keptCodeCopy s = .next { s with boot := { s.boot with keptCode := some s.err.resetCause } }) ∧
  (∀ s : State, exec .warmResetDone s = .next s.warmDone ∧ (s.err.warmReset = true → s.warmDone.err.warmReset = false ∧
    s.warmDone.sch = s.sch ∧ s.warmDone.fences = [] ∧ s.warmDone.boot = s.boot ∧
    ∀ c, s.canonical = true → c < 8 →
      ((s.ctx c).zeroing = true → (s.warmDone.ctx c).st = .free ∧ (s.warmDone.ctx c).cores = [] ∧
        (s.warmDone.ctx c).regions = [] ∧ (s.warmDone.ctx c).zeroing = false) ∧
      ((s.ctx c).st ≠ .free → (s.warmStart.ctx c).zeroing = true))) ∧
  ∀ (s : State) (port : Nat), port < 2 → s.board.powered = true → s.board.resetLow = false → s.boot.stage ≠ 0 →
    exec (.perstDeassert port) s = .next (State.setPort
      { s with board := { s.board with perstHigh := keyInsert port s.board.perstHigh } } port
      { s.port port with linkUp := true })

/-- R437, R438, R498–R501, R550: a port's host is lost when its beat does not come, its link goes down, its reference
clock stops, or the port is reset; all but the first reset the port and clear its selections. Its windows are revoked,
its posts and commands that have not started are discarded, and its contexts follow their policies: CONTINUE runs on,
PAUSE pauses at once without a STEP and else at the next step boundary, also those that the memory service pauses, and
HANDOVER moves a context of port A to a bound port B, once a command in progress has completed. A vector whose holdoff
ends with events pending fires once. -/
def Obligations.HostLossIsActedOn : Prop :=
  (∀ (s : State) (port : Nat), port < 2 →
    (s.schRuns = true → fld (s.port port).hostCfg 0 16 ≠ 0 → (s.port port).hostLost = false →
      exec (.hostBeatTimeout port) s = .next (s.hostLoss port)) ∧
    (let cleared (t : State) : State := t.setPort port { t.port port with
       suCtrSel := 0, granSel := 0, retireSel := 0, latSel := 0x500, tblSel := 0, logSel := 0, bar2Cfg := 0, msix := [],
       linkUp := false }
     exec (.hostLinkDown port) s = .next ((cleared s).hostLoss port) ∧
     exec (.portReset ⟨port, true⟩) s = .next (let t := (cleared s).hostLoss port
       { t with board := { t.board with perstHigh := t.board.perstHigh.filter (· != port) } }) ∧
     exec (.portReset ⟨port, false⟩) s = .next (let t := (cleared s).hostLoss port
       t.setPort port { t.port port with linkUp := (s.port port).linkUp }) ∧
     (s.board.powered = true → exec (.mhRefclkLost port) s = .next
       ((cleared (s.report (codeAt Code.mhRefclkLost (0x30 + port)))).hostLoss port))) ∧
    (∀ v, 1 ≤ v → v ≤ 9 → Tbl.get 0 (s.port port).irqPending v ≠ 0 → exec (.irqHoldoffExpiry port v) s = .next
      (State.emit (s.setPort port { s.port port with irqPending := Tbl.set 0 (s.port port).irqPending v 0 }) (.msix port v))) ∧
    (let t := (s.setPort port { s.port port with hostLost := true }).report (codeAt Code.hxHostLost port)
     let mine := ctxNums.filter fun c => (t.ctx c).st != .free && (t.ctx c).owner == port
     s.hostLoss port = mine.foldl (fun u c => u.lossPolicy c port)
       (mine.foldl (fun u c => u.modCtx c Ctx.revokeAll) (t.discardPosts port))) ∧
    ((s.port port).queue = [] → (∀ h ∈ s.sch, h.port ≠ port) → s.discardPosts port = s) ∧
    ((s.port port).queue ≠ [] ∨ (∃ h ∈ s.sch, h.port = port) → s.discardPosts port = State.setPort { s with
      sch := s.sch.filter fun h => h.port != port } port { s.port port with
        queue := [], discarded := true, irqStatus := (s.port port).irqStatus ||| 8 })) ∧
  (∀ (s : State) (c port : Nat), let x := s.ctx c; let code := codeAt Code.hxHostLost port
    (x.desc.lossPolicy = 0 → s.lossPolicy c port = s) ∧
    (x.desc.lossPolicy = 1 → x.st = .running → x.noStep = true → s.lossPolicy c port = s.enterPaused c code) ∧
    (x.desc.lossPolicy = 1 → x.st = .running → x.noStep = false → s.lossPolicy c port = s.modStep c fun st =>
      { st with
        pausePending := some (if st.pausedByMemory then code else st.pausePending.getD code), pausedByMemory := false }) ∧
    (x.desc.lossPolicy = 1 → x.st = .paused → x.step.pausedByMemory = true → s.lossPolicy c port =
      (s.modStep c fun st => { st with pausedByMemory := false }).event c 2 code) ∧
    (x.desc.lossPolicy = 2 → (s.port 1).selected ≠ 0 → (s.port 1).hostLost = false →
      (x.busy = none → x.ck.cmd = none → (∀ e ∈ s.resumeWaits, e.2.1 ≠ c) → s.lossPolicy c 0 = s.handOver c) ∧
      (x.busy ≠ none ∨ x.ck.cmd ≠ none ∨ (∃ e ∈ s.resumeWaits, e.2.1 = c) → s.lossPolicy c 0 = s.modCtx c fun y => { y with handoverDue := true }))) ∧
  ∀ (x : Ctx) (n : Nat) (w : Window), x.window n = some w → x.revokeAll.window n = some { w with revoked := true }

/-! ### Registers, power, service and the board -/

/-- R248, R252, R308, R429, R432, R457, R469, R484, R486, R494, R503: a BAR0 write that takes effect stores what its
register takes: HX_VERSION selects version 1 or none, HX_CPL_CONS is dropped when it would make the count negative or
too great, MS_LAT_SEL clears the bins, EL_MON_CFG starts a monitor afresh, EL_LOG_CLEAR empties the selected class but
keeps its count. TP_OVR is stored for a switched port, which with valid = 1 goes DOWN to retrain by it, and is refused
for another port and while a context with fabric_en is RUNNING, PAUSED or SUSPENDED. Standby is refused while a context
is RUNNING, PAUSED or FINISHED, and else entered: the clusters lose power and with them the core stores; its exit brings
the cluster rails up at step 0 and restarts PWC, FAB and SCH (what completes it: CrashedCoresRestart). -/
def Obligations.RegistersAreWritten : Prop :=
  (∀ (s : State) (port : Nat), port < 2 → s.hltServes = true →
    (s.pw.standby = 2 →
      let up := s.railsUp
      exec (.standbyExit port) s = .next (State.tell { up with
        pw := { up.pw with standby := 3, exitReq := false }
        err := { up.err with restarting := up.err.restarting ++ [.pwc, .fab, .sch] } } s.stat)) ∧
    (s.pw.standby = 1 → exec (.standbyExit port) s = .next { s with pw := { s.pw with exitReq := true } }) ∧
    (s.pw.standby = 3 → exec (.standbyEnter port) s = .next { s with pw := { s.pw with enterReq := true } })) ∧
  (∀ s : State, s.railsUp.pw.clustersOn = true ∧ (Tbl.wf Cluster.reset s.pw.clusters = true → ∀ cl, cl < 16 →
    (s.railsUp.cluster cl).step = 0 ∧ (s.railsUp.cluster cl).volt = s.stepVolt 0)) ∧
  (∀ s : State, s.pw.standby = 1 → s.pw.exitReq = false → s.standbyTick.pw.standby = 2 ∧
    s.standbyTick.pw.clustersOn = false ∧ s.standbyTick.store = Memory.reset) ∧
  ∀ (s : State) (port : Nat) (v : Word), port < 2 → s.acceptsWrites = true →
    let p := s.port port
    ((∀ c, c < 8 → s.owns port c = false) → exec (.hxVersionWrite port v) s = .next (s.setPort port { p with
      selected := if fld v 0 4 ≤ 1 ∧ 1 ≤ fld v 4 4 then 1 else 0, hostMax := fld v 4 4, hostMin := fld v 0 4 })) ∧
    ((p.cplProd - v).toNat ≤ 65536 → exec (.hxCplConsWrite port v) s =
      .next ((s.setPort port { p with cplCons := v }).drainWaiting port p.waiting)) ∧
    (65536 < (p.cplProd - v).toNat → exec (.hxCplConsWrite port v) s = .next s) ∧
    exec (.hxHostBeatWrite port v) s = .next (s.setPort port { p with beat := v }) ∧
    exec (.msLatSelWrite port v) s = .next (s.setPort port { p with latSel := putLatSel v, latBins := [] }) ∧
    exec (.msHbmCfgWrite port v) s = .next { s with hbmCfg := putHbmCfg s.hbmCfg v } ∧
    (∀ m, m < 16 → exec (.elMonCfgWrite port m v) s = .next (s.setMonitor m { s.monitor m with
      cfg := keepFields v [(31, 1), (0, 24)], min := 0x7FFFFFFF, max := 0x80000000, count := 0, bins := []
      wasHigh := false, wasLow := false, stretches := 0 })) ∧
    (let cls := fld p.logSel 8 8
     let e := Tbl.get ErrClass.reset s.err.classes cls
     let cleared := Tbl.set ErrClass.reset s.err.classes cls { e with first := [], last := [], overflow := false }
     1 ≤ cls → cls ≤ 0x17 → exec (.elLogClear port) s = .next { s with err := { s.err with classes := cleared } }) ∧
    (∀ g, g < 8 →
      let fabric (c : Nat) : Prop := bitAt (s.ctx c).desc.flags.toNat 0 = true ∧
        ((s.ctx c).st = .running ∨ (s.ctx c).st = .paused ∨ (s.ctx c).st = .suspended)
      let t : State := { s with fab := { s.fab with tpOvr := Tbl.set 0 s.fab.tpOvr g (putTpOvr v) } }
      let down := t.portLost (g + 31)
      let used : State := { down with fab := { down.fab with ovrUsed := Tbl.set 0 down.fab.ovrUsed g (putTpOvr v) } }
      ((s.plan (g + 31)).switched = false ∨ (∃ c, c < 8 ∧ fabric c) →
        exec (.tpOvrWrite port g v) s = .next { s with fab := { s.fab with ovrRefused := true } }) ∧
      ((s.plan (g + 31)).switched = true → (∀ c, c < 8 → ¬ fabric c) → flag v 31 = false →
        exec (.tpOvrWrite port g v) s = .next t) ∧
      ((s.plan (g + 31)).switched = true → (∀ c, c < 8 → ¬ fabric c) → flag v 31 = true →
        exec (.tpOvrWrite port g v) s =
          .next (used.modLink (g + 31) fun k => { k with heldDown := false }).updateTopo)) ∧
    exec (.pwCapWrite port v) s = .next (s.setPort port { p with pwCap := BitVec.ofNat 32 (s.storedCap (fld v 0 12)) }) ∧
    ((∃ c, c < 8 ∧ ((s.ctx c).st = .running ∨ (s.ctx c).st = .paused ∨ (s.ctx c).st = .finished)) →
      exec (.standbyEnter port) s = .next (s.report (codeAt Code.pwStandbyRefused 0xFF))) ∧
    ((∀ c, c < 8 → (s.ctx c).st ≠ .running ∧ (s.ctx c).st ≠ .paused ∧ (s.ctx c).st ≠ .finished) →
      ∃ t, exec (.standbyEnter port) s = .next t ∧ t.pw.standby = 1 ∧ ∀ l, s.canonical = true → l < 40 → (t.link l).state = 0) ∧
    exec (.standbyExit port) s = .next s ∧
    ∀ o, o < 0x400000 → o % 4 = 0 → o ≠ 0x1418 → exec (.registerWrite port o v) s = .next (s.regWrite port o v)

/-- R205, R232, R314, R446, R448, R476, R483: a read of a low half latches the high half of the same value, SU_TIME's and
the energies' for the module or the context, the others' for the same port, and changes nothing else but the value
read; EL_LOG_DATA0 latches the rest of the selected entry. SU_TIME_HI, read after SU_TIME_LO, gives the high half. -/
def Obligations.ReadsLatchTheRest : Prop :=
  ∀ (s : State) (port : Nat), port < 2 → s.board.powered = true → s.board.resetLow = false → s.boot.stage = stageReady →
    s.pw.standby = 0 →
    let p := s.port port
    let q (off : Nat) (x : Port) : State := s.setPort port { x with lastRead := s.regRead port off }
    exec (.suTimeLoRead port) s = .next { q 0x40C p with suTimeHi := hi32 s.suTime } ∧
    s.regRead port 0x40C = lo32 s.suTime ∧
    (∀ port', port' < 2 → State.regRead { q 0x40C p with suTimeHi := hi32 s.suTime } port' 0x410 = hi32 s.suTime) ∧
    exec (.msGranLoRead port) s = .next (q 0x80C { p with granHi := hi32 (s.selGranule port).toNat }) ∧
    exec (.tpTblLoRead port) s = .next (q 0xC0C { p with tblHi := hi32 (s.selTable port).toNat }) ∧
    exec (.elLogData0Read port) s = .next (q 0x100C { p with
      logData := Tbl.setRun 0 [] 1 ((List.range 7).map fun i => word (fieldAt (s.selEntry port) (4 * i + 4) 4)) }) ∧
    exec (.elClassCntLoRead port) s = .next (q 0x1030 { p with classCntHi := hi32 (s.selClass port).count }) ∧
    exec (.pwIdleEnergyLoRead port) s = .next { q 0x1410 p with
      pw := { s.pw with idleEnergyHi := hi32 s.pw.idleEnergy.toNat } } ∧
    ∀ c, c < 8 → s.owns port c = true → exec (.pwCtxEnergyLoRead port c) s =
      .next (State.modRegs (q (0x10000 + 0x400 * c + 4 * 54) p) c fun r => { r with pwEnergyHi := hi32 r.pwEnergy.toNat })

/-- R454, R455, R458–R465: PWC chooses at a PHASE and at a control period; a pending operating point takes effect
unless PWC is clamped: to a higher step the rail ramps first and the frequency switches when it is there, to a lower
step the frequency switches first, and a switch waits while the clock is stretched. A step's frequency and nominal
voltage are the table's, and no voltage exceeds 840 mV. A sample above 2,150 W holds the limiter's gate and is reported
once until the gate expires; a droop stretches the clock and is counted once, also by the monitors that sample it. A
cluster at 100 °C or more has its thermal limit lowered a step, and one below 97 °C raised; at 115 °C it trips; a stack
at 95 °C is hot until it reads below 90 °C. (The chosen steps rest on free predictions: log 61; ramps go by ticks: log
164.) -/
def Obligations.PowerIsControlled : Prop :=
  (∀ (s : State) (p : Nat) (b : Byte), s.pwcRuns = true →
    (p < 192 → (s.core p).phaseSent.head? = some b.toNat →
      let t := s.modCore p fun k => { k with phaseSent := k.phaseSent.drop 1 }
      exec (.phaseReceived p b) s = .next (State.chooseAll { t with
        pw := { t.pw with phases := Tbl.set 255 t.pw.phases p b.toNat } } false)) ∧
    exec .controlPeriod s = .next (s.chooseAll true).shareOut) ∧
  (∀ (s : State) (cl v : Nat), cl < 16 → Tbl.wf Cluster.reset s.pw.clusters = true → (s.cluster cl).pending = some v →
    let k := s.cluster cl
    let w := min v k.limit
    let target := s.stepVolt w
    let switched := { k with
      step := w, pending := none, due := false, rampTo := if k.volt = target then none else some target }
    (s.pw.clamp = false → s.pw.clustersOn = true →
      (k.step < w → k.volt < target →
        exec (.operatingPointChange cl) s = .next (s.setCluster cl { k with due := true, rampTo := some target })) ∧
      (w ≤ k.step ∨ target ≤ k.volt → k.stretched = false →
        exec (.operatingPointChange cl) s = .next (s.setCluster cl switched)) ∧
      (w ≤ k.step ∨ target ≤ k.volt → k.stretched = true →
        exec (.operatingPointChange cl) s = .next (s.setCluster cl { k with due := true }))) ∧
    (k.due = true → k.stretched = false → (w ≤ k.step ∨ target ≤ k.volt) → s.advance cl = s.setCluster cl switched) ∧
    (s.pw.clamp = true ∨ s.pw.clustersOn = false → exec (.operatingPointChange cl) s = .next s)) ∧
  (∀ (k : Cluster) (t : Nat), k.rampTo = some t →
    (k.volt < t → k.ramp.volt = k.volt + 1) ∧ (t < k.volt → k.stretched = false → k.ramp.volt = k.volt - 1) ∧
    (t < k.volt → k.stretched = true → k.ramp = k)) ∧
  (∀ n, n ≤ 15 → [stepMHz n, stepNominal n] ∈ [[400, 620], [436, 632], [472, 644], [508, 656], [544, 668], [580, 680],
    [616, 692], [652, 704], [688, 716], [724, 728], [760, 740], [796, 752], [832, 764], [868, 776], [904, 788],
    [940, 800]]) ∧
  (∀ (f : Fuses) (uni : Bool) (n : Nat), f.stepVolt uni n ≤ 840 ∧ (n ≤ 15 → f.stepVolt true n = stepNominal n) ∧
    f.stepVolt uni n ≤ stepNominal n + 40 ∧ (n ≤ 15 → stepNominal n ≤ f.stepVolt uni n + 40)) ∧
  (∀ (s : State) (r : MeterReading), s.board.powered = true → s.board.eventReceiver = none →
    let p := { s.pw with
      samples := (r.watts :: s.pw.samples).take 2000
      diffs := ((((r.watts * 1000 : Nat) : Int) - (s.pw.predicted : Int)) :: s.pw.diffs).take 2000 }
    let ok := if p.exceeds s.effCap then 0 else s.pw.okSamples + 1
    (r.watts ≤ 2150 ∨ s.pw.excursion = true →
      exec (.meterSample r) s = .next { s with board := s.board.take r, pw := { p with okSamples := ok } }) ∧
    (2150 < r.watts → s.pw.excursion = false → exec (.meterSample r) s = .next (State.report
      { s with board := s.board.take r, pw := { p with okSamples := ok, excursion := true } }
        (codeAt Code.pwExcursion 0xFF)))) ∧
  (∀ s : State, exec .excursionGateExpiry s = .next { s with pw := { s.pw with excursion := false } }) ∧
  (∀ (s : State) (cl : Nat), cl < 16 →
    ((s.cluster cl).stretched = false → s.pw.clustersOn = true → exec (.droopDetect cl) s = .next (State.noteStretch
      (s.setCluster cl { s.cluster cl with stretched := true, droops := satInc (s.cluster cl).droops }) cl)) ∧
    ((s.cluster cl).stretched = true → exec (.droopDetect cl) s = .next s) ∧
    exec (.droopEnd cl) s = .next ((s.setCluster cl { s.cluster cl with stretched := false }).advance cl) ∧
    ∀ i, i < 16 → Tbl.wf Monitor.reset s.err.monitors = true →
      let m := s.monitor i
      (s.noteStretch cl).monitor i =
        if flag m.cfg 31 = true ∧ fld m.cfg 0 8 = 9 ∧ fld m.cfg 8 8 = cl then { m with stretches := m.stretches + 1 } else m) ∧
  (∀ (s : State) (cl : Nat) (r : Readings), cl < 16 → s.board.powered = true → s.pw.tripped = false →
    let temp := junction r
    let t := (s.setCluster cl { s.cluster cl with lidTemp := r.lid }).readTemp cl temp
    let k := (t.cluster cl).throttle temp
    (∀ x ∈ [r.die0, r.die1, r.die2, r.die3, r.lid], x ≤ temp) ∧
    (115 * 16 ≤ temp → exec (.throttleTick cl r) s = .next (t.thermTrip cl)) ∧
    (temp < 115 * 16 → k.throttled = false ∨ (t.cluster cl).throttled = true →
      exec (.throttleTick cl r) s = .next (t.setCluster cl k)) ∧
    (temp < 115 * 16 → k.throttled = true → (t.cluster cl).throttled = false →
      exec (.throttleTick cl r) s = .next ((t.setCluster cl k).report (codeAt Code.pwThrottle cl)))) ∧
  (∀ (k : Cluster) (temp : Int), (100 * 16 ≤ temp → (k.throttle temp).limit = k.limit - 1 ∧ (k.throttle temp).throttled = true) ∧
    (temp < 97 * 16 → k.gate = 16 → (k.throttle temp).limit = min 15 (k.limit + 1)) ∧
    (97 * 16 ≤ temp → temp < 100 * 16 → k.throttle temp = k)) ∧
  ∀ (s : State) (n : Nat) (temp : Int), n < 8 → s.board.powered = true → s.board.eventReceiver = none →
    s.pw.tripped = false →
    let hot := keyInsert n s.pw.hotStacks
    let temps := Tbl.set 0 s.pw.stackTemps n temp
    (95 * 16 ≤ temp → n ∉ s.pw.hotStacks →
      exec (.pwHbmHot n temp) s = .next (State.report { s with pw := { s.pw with hotStacks := hot, stackTemps := temps } }
        (codeAt Code.pwHbmHot (0x20 + n)))) ∧
    (95 * 16 ≤ temp → n ∈ s.pw.hotStacks →
      exec (.pwHbmHot n temp) s = .next { s with pw := { s.pw with stackTemps := temps } }) ∧
    (90 * 16 ≤ temp → temp < 95 * 16 →
      exec (.pwHbmHot n temp) s = .next { s with pw := { s.pw with stackTemps := temps } }) ∧
    (temp < 90 * 16 → exec (.pwHbmHot n temp) s = .next { s with pw := { s.pw with
      hotStacks := s.pw.hotStacks.filter (· != n), stackTemps := temps } })

/-- R518–R521: a request with a good header from the source that owns the staging SRAM, or from any while nobody does, is
answered: STATUS with its code; WRITE stages its data; COMMIT begins the flash write of what verifies and otherwise
answers REFUSED or VERIFY_FAIL; ABORT, or 10 s without a request, releases the SRAM; PROVISION and LIFECYCLE take
effect and answer BT_UPD_DONE. Another source is answered BUSY. R507, R520: the write of an image or a record erases its
area and writes no byte beyond it. R521: a firmware part is one of component 0x0001. -/
def Obligations.ServiceRequestsAreAnswered : Prop :=
  ∀ (s : State) (src : SvcSource) (r : SvcReq), s.secServes = true → .sec ∉ s.err.restarting →
    (∀ i o, (i, o) ∈ [(Instr.svcStatus src r, 1), (.svcWrite src r, 2), (.svcCommit src r, 3), (.svcAbort src r, 4),
        (.svcProvision src r, 5), (.svcLifecycle src r, 6)] → s.boot.stagingOwner ≠ none →
      s.boot.stagingOwner ≠ some src →
        exec i s = .next (s.svcAnswer src r 1 (if o = 1 then s.statusCode else 0))) ∧
    (s.boot.stagingOwner = none ∨ s.boot.stagingOwner = some src →
      (svcFieldsOk r 1 = true → exec (.svcStatus src r) s = .next (s.svcAnswer src r 0 s.statusCode)) ∧
      (svcFieldsOk r 4 = true → s.boot.stagingOwner = some src →
        exec (.svcAbort src r) s = .next (s.releaseStaging.svcAnswer src r 0 0)) ∧
      (s.boot.updState ≠ 2 → s.boot.updState ≠ 3 → s.svcAllowed src = true →
        (svcFieldsOk r 2 = true → exec (.svcWrite src r) s =
          .next ((s.stage src r.target.toNat r.offset.toNat r.data).svcAnswer src r 0 0)) ∧
        (svcFieldsOk r 3 = true → (s.commit src r.target.toNat).2 = true →
          exec (.svcCommit src r) s = .next ((s.commit src r.target.toNat).1.svcAnswer src r 0 0)) ∧
        (svcFieldsOk r 3 = true → (s.commit src r.target.toNat).2 = false → exec (.svcCommit src r) s =
          .next ((s.commit src r.target.toNat).1.svcRefuse src r (if s.boot.stagingOwner = some src then 4 else 2))) ∧
        (∀ f, svcFieldsOk r 5 = true → s.fuses.provision r.data = (0, f) → exec (.svcProvision src r) s =
          .next ((State.updDone { s with fuses := f } (srcNum src)).svcAnswer src r 0 (codeAt Code.btUpdDone (srcNum src)))) ∧
        (svcFieldsOk r 6 = true → r.data.length = 0xA0 + 0x570 →
          (∃ n, verifySig (slice r.data 0xA0 0x570) (slice r.data 0 0xA0) s.fuses.vendors = .ok n) →
          sigPadOk (slice r.data 0xA0 0x570) = true → Config.tokenModule (slice r.data 0 0xA0) = s.fuses.moduleId →
          Config.tokenValue (slice r.data 0 0xA0) = 1 → s.fuses.lifecycle = 0 → exec (.svcLifecycle src r) s =
          .next ((State.updDone { s with boot := { s.boot with nextLifecycle := some 1 } } (srcNum src)).svcAnswer src r 0
            (codeAt Code.btUpdDone (srcNum src)))))) ∧
    (s.boot.stagingOwner ≠ none → exec .stagingOwnerTimeout s = .next s.releaseStaging) ∧
    (let area := if s.boot.stagingKind = 2 then recordArea else imageArea
     let len := if s.boot.stagingKind = 2 then recordBytesUsed else min s.boot.staged imageSize
     let b := (s.boot.eraseArea s.boot.stagingKind).flashWrite area (s.boot.staged' 0 len)
     s.boot.updState = 3 → s.inWait = false → exec .flashWriteDone s = .next (State.updDone
       { s with boot := { b with staging := [], staged := 0, updPending := true, updState := 0 } } s.boot.commitSource)) ∧
    (s.boot.stagingOwner = none ∨ s.boot.stagingOwner = some .sideband → s.boot.updState ≠ 2 → s.boot.updState ≠ 3 →
      s.svcAllowed .sideband = true → ∀ off data, off + data.length ≤ 2 ^ 24 →
      exec (.pldmFirmwareUpdate ⟨1, off⟩ data) s = .next ((s.stage .sideband 1 off data).emit (.pldm 0))) ∧
    (∀ part data, part.component ≠ 1 → exec (.pldmFirmwareUpdate part data) s = .next (s.emit (.pldm 2))) ∧
    (s.boot.stagingOwner = some .sideband → s.boot.stagingKind = 1 → s.svcAllowed .sideband = true → s.stagedOk 1 = true →
      exec .activateFirmware s = .next ((s.commit .sideband 1).1.emit (.pldm 0)))

/-- R524, R525: once the keys are derived each port answers SPDM requests, for certificate slot 0; a report takes one LMS
index and carries both signatures. While SEC restarts the answer is busy. -/
def Obligations.SpdmRequestsAreAnswered : Prop :=
  ∀ (s : State) (port : Nat), port < 2 → s.secServes = true → s.boot.identity ≠ [] →
    (.sec ∈ s.err.restarting → exec (.getVersion port) s = .next (s.spdmSend port spdmError [0x03])) ∧
    (.sec ∉ s.err.restarting →
      exec (.getVersion port) s = .next (s.spdmSend port spdmVersion (leBytes 2 0x1300)) ∧
      exec (.getCapabilities port) s = .next (s.spdmSend port spdmCapabilities (leBytes 4 0x16)) ∧
      exec (.negotiateAlgorithms port) s =
        .next (s.spdmSend port spdmAlgorithms (leBytes 4 0x04 ++ leBytes 4 0x80 ++ leBytes 4 0x02)) ∧
      exec (.getDigests port) s = .next (s.spdmSend port spdmDigests ([0x01] ++ sha384 s.certChain)) ∧
      (∀ off len, off < s.certChain.length →
        let part := (s.certChain.drop off).take len
        exec (.getCertificate port 0 off len) s = .next (s.spdmSend port spdmCertificate
          (leBytes 2 part.length ++ leBytes 2 (s.certChain.length - off - part.length) ++ part))) ∧
      (∀ nonce,
        let d := s.drawBytes 32
        let body := sha384 s.certChain ++ d.1
        exec (.challenge port 0 nonce) s =
          .next (d.2.spdmSend port spdmChallengeAuth (body ++ d.2.signAlias (nonce ++ body)))) ∧
      (∀ i nonce, 1 ≤ i → i ≤ 10 → exec (.getMeasurements port i false nonce) s =
        .next (s.spdmSend port spdmMeasurements (leBytes 1 1 ++ s.blockOf i))) ∧
      (∀ q t nonce, s.useIndex = (some q, t) → Config.lmsTestOk q = true →
        let blocks := ((List.range 10).map (· + 1)).flatMap s.blockOf
        let body := leBytes 1 11 ++ blocks ++ measureBlock 0x20 0x81 (Config.lmsSign s.fuses.secret q (sha384 (nonce ++ blocks)))
        exec (.getMeasurements port 0xFF true nonce) s =
          .next (t.spdmSend port spdmMeasurements (body ++ t.signAlias (nonce ++ body)))))

/-- R437, R457, R469, R540, R541, R544, R549, R551, R552: with input power the sideband takes its assignments; the
effecters set the board's cap, enter and leave standby and request resets, and answer not ready while the module
cannot; the test access port takes the EXTEST family only while RESET_L is low. The module's sensors report, each at
its own location, an input voltage once in an excursion; a sensor whose value crosses a threshold sends an event to the
endpoint that asked for them. (PLDM completion codes are presumed: log 70.) -/
def Obligations.SidebandAndSensors : Prop :=
  ∀ s : State, s.board.powered = true →
    (∀ e, exec (.setEndpointId e) s = .next { s with board := { s.board with eid := e } }) ∧
    (∀ e, exec (.setEventReceiver e) s = .next { s with board := { s.board with eventReceiver := some e } }) ∧
    (∀ a, s.board.i3cAddr = none → a < 128 →
      exec (.i3cAddressAssign (.entdaa a)) s = .next { s with board := { s.board with i3cAddr := some a } } ∧
      exec (.i3cAddressAssign (.setdasa 0x4C a)) s = .next { s with board := { s.board with i3cAddr := some a } }) ∧
    (s.effecterReady = true →
      (∀ w, exec (.pldmCapEffecter w) s =
        .next (State.emit { s with pw := { s.pw with boardCap := s.storedCap w } } (.pldm 0))) ∧
      exec (.pldmStandbyEffecter 1) s =
        .next (s.enterStandby.emit (.pldm (if s.enterStandby.pw.standby = 0 then 4 else 0))) ∧
      exec (.pldmStandbyEffecter 2) s = .next (s.leaveStandby.emit (.pldm 0)) ∧
      exec (.pldmResetEffecter 1) s = .next ((s.requestWarm 2).emit (.pldm 0)) ∧
      exec (.pldmResetEffecter 2) s = .next ((s.requestCold 2).emit (.pldm 0))) ∧
    (s.effecterReady = false → ∀ w, exec (.pldmCapEffecter w) s = .next (s.emit (.pldm 4))) ∧
    (∀ i, isExtest i = true → exec (.tapInstruction i) s =
      .next { s with board := { s.board with tap := if s.board.resetLow then i else .bypass } }) ∧
    (s.boot.stage = stageReady → s.err.fatalCode = none → s.err.warmReset = false → exec .leakSensorDry s =
      .next (State.tell { s with board := { s.board with leakWet := false, alert := false } } s.stat)) ∧
    exec .mhCoolantHot s = .next (s.report (codeAt Code.mhCoolantHot 0x20)) ∧
    exec .mhFlowLow s = .next (s.report (codeAt Code.mhFlowLow 0x20)) ∧
    (∀ b, b = 1 ∨ b = 2 →
      (b ∉ s.board.lowTold → exec (.mhInputLow b) s = .next (State.report { s with board := { s.board with
        lowTold := s.board.lowTold ++ [b] } } (codeAt Code.mhInputLow b))) ∧
      (b ∈ s.board.lowTold → exec (.mhInputLow b) s = .next s) ∧
      (b ∉ s.board.highTold → exec (.mhInputHigh b) s = .next (State.report { s with board := { s.board with
        highTold := s.board.highTold ++ [b] } } (codeAt Code.mhInputHigh b))) ∧
      (b ∈ s.board.highTold → exec (.mhInputHigh b) s = .next s)) ∧
    (∀ (old : State) (id : Nat),
      (crosses (old.sensor id) (s.sensor id) (sensorThresholds id) = false → s.sensed old id = s) ∧
      ∀ e, crosses (old.sensor id) (s.sensor id) (sensorThresholds id) = true → s.board.eventReceiver = some e →
        s.sensed old id = s.emit (.event e id (s.sensor id))) ∧
    ∀ c, 1 ≤ c → c ≤ 4 → exec (.mhCableRemoved c) s = .next (s.report (codeAt Code.mhCableRemoved (0x10 + c)))

/-! ### Numbers, the log and frames -/

/-- R52: a t2 element with code 0b10 reads as 0, and each such read is an event that sets the t2_invalid flag and adds 1
to TS_CTX_T2_INV_CNT; no conversion writes the code 0b10, and a zero of either sign is written as 0b00. -/
def Obligations.T2CodesReadAndWrite : Prop :=
  (∀ (code : Nat) (pois ftz : Bool), code % 4 = 2 → readCode 7 code pois ftz = ⟨.zero, pois, { t2Inv := 1 }⟩) ∧
  (∀ (code : Nat) (pois ftz : Bool), code % 4 ≠ 2 → (readCode 7 code pois ftz).evt = {}) ∧
  (∀ l k : List Evt, (Evt.all (l ++ k)).t2Inv = (Evt.all l).t2Inv + (Evt.all k).t2Inv) ∧
  (∀ (s : State) (c : Nat) (e : Evt), s.canonical = true → 0 < e.t2Inv →
    (((s.flagEvt c e).ctx c).regs.tsFlags.getLsbD 5 = true) ∧
    ((s.flagEvt c e).ctx c).regs.tsT2InvCnt.toNat = min ((s.ctx c).regs.tsT2InvCnt.toNat + e.t2Inv) 0xFFFFFFFF) ∧
  (∀ (r : Round) (x : Sys2Proof.Num), (convert 7 r x).code ≠ 2 ∧ (convert 7 r x).code < 4) ∧
  ∀ (r : Round) (sign : Bool) (e : Int), (convert 7 r (.fin sign 0 e)).code = 0

/-- R457: the effective cap is at most the record's power limit and every request made, and it is one of them; a request
of 0 is none, one below 600 W is stored as 600 W (or the record's limit where that is less), and one above 1,900 W or
the record's limit as the lesser of the two. PW_CAP and the board's effecter store their requests so, and the cap that
PW_STATUS shows follows at once. -/
def Obligations.CapIsTheLeast : Prop :=
  (∀ s : State,
    let limit := s.recField 0x01C 2
    let asked := [(s.port 0).pwCap.toNat, (s.port 1).pwCap.toNat, s.pw.boardCap]
    s.effCap ≤ limit ∧ (∀ w ∈ asked, w ≠ 0 → s.effCap ≤ w) ∧ (s.effCap = limit ∨ s.effCap ∈ asked)) ∧
  (∀ s : State, s.storedCap 0 = 0) ∧
  (∀ (s : State) (w : Nat), 0 < w → 600 ≤ s.recField 0x01C 2 →
    600 ≤ s.storedCap w ∧ s.storedCap w ≤ 1900 ∧ s.storedCap w ≤ s.recField 0x01C 2 ∧
      (w < 600 → s.storedCap w = 600) ∧
      (600 ≤ w → w ≤ 1900 → w ≤ s.recField 0x01C 2 → s.storedCap w = w) ∧
      (600 ≤ w → 1900 < w ∨ s.recField 0x01C 2 < w → s.storedCap w = min 1900 (s.recField 0x01C 2))) ∧
  (∀ (s : State) (w : Nat), 0 < w → s.recField 0x01C 2 < 600 → s.storedCap w = s.recField 0x01C 2) ∧
  (∀ (s : State) (port : Nat) (v : Word), s.canonical = true → port < 2 → s.acceptsWrites = true →
    1 ≤ s.pw.gate → s.pw.gate ≤ 16 →
    ∃ t : State, exec (.pwCapWrite port v) s = .next t ∧ (t.port port).pwCap.toNat = s.storedCap (fld v 0 12) ∧
      fld t.pwStatus 16 16 = t.effCap % 2 ^ 16) ∧
  ∀ (s : State) (w : Nat), s.effecterReady = true → 1 ≤ s.pw.gate → s.pw.gate ≤ 16 →
    ∃ t : State, exec (.pldmCapEffecter w) s = .next t ∧ t.pw.boardCap = s.storedCap w ∧
      fld t.pwStatus 16 16 = t.effCap % 2 ^ 16

/-- R147: when the exponents carried by the votes of one decision differ, the coordinator decides PAUSE, for reason 6,
and raises TS_LS_MISMATCH on its own context; every module that acts on it sets ls_mismatch. -/
def Obligations.MismatchPauses : Prop :=
  (∀ (s : State) (c : Nat), c < 8 → .fab ∉ s.err.restarting → s.mayVote c = true → s.coordinator c = true →
    (s.ctx c).poisoned = false → (s.ctx c).step.diagRunning = false → (s.fullVote c).xMin ≠ (s.fullVote c).xMax →
    let n := (s.ctx c).step.current
    let v := s.fullVote c
    let t := State.writeSlot (s.modStep c fun st => { st with voted := true, merged := some v }) c n 2
    exec (.voteSend c) s = .next ((t.report (codeAt Code.tsLsMismatch c) { ctx := some c, step := some n }).sendDecision c
      ⟨n, (s.ctx c).step.attempt, 3, 6, v.failChip, v.failCode⟩ s.ownChip)) ∧
  (∀ (s : State) (p : Packet) (c : Nat) (d : Decision), s.decides p 3 c d → d.reason = 6 →
    exec (.stDecidePause p) s = .next ((s.toChildren c msgDecide d.step p.data).actPause c d)) ∧
  ∀ (s : State) (c : Nat) (d : Decision), s.canonical = true → d.reason = 6 →
    ((s.actPause c d).ctx c).regs.tsLsMismatch = true

/-- R173: XAPPLY of the delta that XDELTA makes of a new area and a base gives, on that base, the new area again. -/
def Obligations.DeltasUndoThemselves : Prop :=
  ∀ a b : Data, a.bytes.length = b.bytes.length → a.bytes.length % 64 = 0 → a.bytes.length < 2 ^ 48 →
    ∃ r, xapply b ⟨(xdelta a b).1, (xdelta a b).2⟩ = some r ∧ r.bytes = a.bytes

/-- R428: from an empty class, the log keeps the count of its reports, the first 8 of them and the last 8 of those that
came after, in order, and its overflow flag is set once the ring has discarded one. -/
def Obligations.LogKeepsFirstAndLast : Prop :=
  ∀ l : List LogEntry,
    let e := l.foldl (fun e x => (ErrClass.enter e x).1) ErrClass.reset
    e.count = l.length % 2 ^ 64 ∧ e.first = l.take 8 ∧ e.last = (l.drop 8).drop (l.length - 16) ∧
      e.overflow = decide (16 < l.length)

/-- The frame of the commands that only watch, measure, answer or set registers: whatever they do, no byte of HBM, of the
lid scratchpad, of a cache line or of a core store changes, and no core changes. The same holds of a stack's temperature
while no reset waits for the module to cool; PHASE_RECEIVED changes no memory, and of the cores only which phases of the
one it names are still on their way. -/
def Obligations.ControlCommandsLeaveMemory : Prop :=
  ∀ (p n : Nat) (b : Byte) (w : Word) (pkt : Packet) (temp : Int) (bs : List Byte) (mr : MeterReading)
    (src : SvcSource) (r : SvcReq) (i : Instr),
    i ∈ [Instr.heartbeatTick, .kaTimeout n, .fdSuspect pkt, .rcFenceReq pkt,
      .suTimeLoRead p, .msGranLoRead p, .tpTblLoRead p, .elLogData0Read p, .elClassCntLoRead p, .pwCtxEnergyLoRead p n,
      .pwIdleEnergyLoRead p,
      .hxVersionWrite p w, .hxCplConsWrite p w, .hxHostBeatWrite p w, .msLatSelWrite p w, .msHbmCfgWrite p w,
      .elMonCfgWrite p n w, .elLogClear p, .pwCapWrite p w,
      .controlPeriod, .operatingPointChange n, .meterSample mr, .excursionGateExpiry, .droopDetect n, .droopEnd n,
      .getVersion p, .getCapabilities p, .negotiateAlgorithms p, .getDigests p, .getCertificate p n n n, .challenge p n bs,
      .getMeasurements p n true bs, .getMeasurements p n false bs,
      .svcStatus src r, .svcWrite src r, .svcProvision src r, .svcLifecycle src r,
      .setEndpointId b, .setEventReceiver b, .pldmCapEffecter n, .mhCoolantHot, .mhFlowLow, .mhInputLow n, .mhInputHigh n,
      .mhCableRemoved n, .monitorSample n temp, .irqHoldoffExpiry p n, .keptCodeCopy, .repairRecordWrite] →
    (∀ s t : State, exec i s = .next t →
      t.hbm = s.hbm ∧ t.lid = s.lid ∧ t.lines = s.lines ∧ t.store = s.store ∧ t.cores = s.cores) ∧
    (∀ s t : State, s.pw.tripped = false → exec (.pwHbmHot n temp) s = .next t →
      t.hbm = s.hbm ∧ t.lid = s.lid ∧ t.lines = s.lines ∧ t.store = s.store ∧ t.cores = s.cores) ∧
    ∀ s t : State, s.canonical = true → exec (.phaseReceived p b) s = .next t →
      t.hbm = s.hbm ∧ t.lid = s.lid ∧ t.lines = s.lines ∧ t.store = s.store ∧ (∀ q, q ≠ p → t.core q = s.core q) ∧
        t.core p = { s.core p with phaseSent := (t.core p).phaseSent }
end

