-- ==== Sys2Proof/Laws/Tbl.lean ====
section
/-! SUPPORT. Laws of sparse tables: reading after writing, and the canonical form. -/

namespace Sys2Proof

variable {α : Type} [DecidableEq α] {d : α}

/-! ### The canonical form -/

theorem Tbl.okFrom_mono {lo lo' : Nat} (h : lo' ≤ lo) {t : Tbl α} (ht : Tbl.okFrom d lo t = true) :
    Tbl.okFrom d lo' t = true := by
  cases t with
  | nil => rfl
  | cons e r =>
    obtain ⟨k, v⟩ := e
    simp only [Tbl.okFrom, Bool.and_eq_true, decide_eq_true_eq] at ht ⊢
    exact ⟨⟨by omega, ht.1.2⟩, ht.2⟩

theorem Tbl.set_okFrom {lo : Nat} {t : Tbl α} (ht : Tbl.okFrom d lo t = true) {k : Nat} (hk : lo ≤ k) (v : α) :
    Tbl.okFrom d lo (Tbl.set d t k v) = true := by
  induction t generalizing lo with
  | nil =>
    simp only [Tbl.set]
    split
    · rfl
    · simp_all [Tbl.okFrom]
  | cons e r ih =>
    obtain ⟨k', v'⟩ := e
    simp only [Tbl.okFrom, Bool.and_eq_true, decide_eq_true_eq] at ht
    obtain ⟨⟨h1, h2⟩, h3⟩ := ht
    simp only [Tbl.set]
    split
    · rename_i hlt
      split
      · simp [Tbl.okFrom, h1, h2, h3]
      · rename_i hv
        simp [Tbl.okFrom, hk, hv, h2, h3, Nat.succ_le_of_lt hlt]
    · split
      · rename_i heq
        split
        · exact Tbl.okFrom_mono (by omega) h3
        · rename_i hv
          subst heq
          simp [Tbl.okFrom, hk, hv, h3]
      · rename_i hlt hne
        simp [Tbl.okFrom, h1, h2, ih h3 (by omega)]

/-- A write keeps the canonical form. -/
theorem Tbl.set_wf {t : Tbl α} (ht : Tbl.wf d t = true) (k : Nat) (v : α) : Tbl.wf d (Tbl.set d t k v) = true :=
  Tbl.set_okFrom ht (Nat.zero_le k) v

theorem Tbl.setRun_wf {t : Tbl α} (ht : Tbl.wf d t = true) (k : Nat) (vs : List α) :
    Tbl.wf d (Tbl.setRun d t k vs) = true := by
  induction vs generalizing t k with
  | nil => exact ht
  | cons v r ih => exact ih (Tbl.set_wf ht k v) (k + 1)

theorem Tbl.filter_okFrom (f : Nat × α → Bool) {lo : Nat} {t : Tbl α} (ht : Tbl.okFrom d lo t = true) :
    Tbl.okFrom d lo (t.filter f) = true := by
  induction t generalizing lo with
  | nil => rfl
  | cons e r ih =>
    obtain ⟨k, v⟩ := e
    simp only [Tbl.okFrom, Bool.and_eq_true, decide_eq_true_eq] at ht
    obtain ⟨⟨h1, h2⟩, h3⟩ := ht
    simp only [List.filter]
    split
    · simp [Tbl.okFrom, h1, h2, ih h3]
    · exact Tbl.okFrom_mono (by omega) (ih h3)

theorem Tbl.clearRun_wf {t : Tbl α} (ht : Tbl.wf d t = true) (k n : Nat) : Tbl.wf d (Tbl.clearRun t k n) = true :=
  Tbl.filter_okFrom _ ht

/-- Rewriting the values of a table, dropping those that become the default, keeps the form. -/
theorem Tbl.filterMap_wf (f : Nat × α → Option (Nat × α)) (hf : ∀ e x, f e = some x → x.1 = e.1 ∧ x.2 ≠ d)
    {t : Tbl α} {lo : Nat} (ht : Tbl.okFrom d lo t = true) : Tbl.okFrom d lo (t.filterMap f) = true := by
  induction t generalizing lo with
  | nil => rfl
  | cons e r ih =>
    simp only [Tbl.okFrom, Bool.and_eq_true, decide_eq_true_eq] at ht
    obtain ⟨⟨h1, _⟩, h3⟩ := ht
    simp only [List.filterMap]
    cases hx : f e with
    | none => exact Tbl.okFrom_mono (by omega) (ih h3)
    | some x =>
      obtain ⟨hk, hv⟩ := hf e x hx
      simp [Tbl.okFrom, hk, h1, hv, ih h3]

theorem Tbl.foldl_set_wf {β : Type} (f : β → Nat) (g : Tbl α → β → α) (l : List β) {t : Tbl α} (ht : Tbl.wf d t = true) :
    Tbl.wf d (l.foldl (fun t x => Tbl.set d t (f x) (g t x)) t) = true := by
  induction l generalizing t with
  | nil => exact ht
  | cons x r ih => exact ih (Tbl.set_wf ht _ _)

/-! ### Reading -/

theorem Tbl.get_below {lo : Nat} {t : Tbl α} (ht : Tbl.okFrom d lo t = true) {k : Nat} (hk : k < lo) :
    Tbl.get d t k = d := by
  cases t with
  | nil => rfl
  | cons e r =>
    obtain ⟨k', v⟩ := e
    simp only [Tbl.okFrom, Bool.and_eq_true, decide_eq_true_eq] at ht
    simp only [Tbl.get]
    rw [if_neg (by omega), if_pos (by omega)]

theorem Tbl.get_set_from {lo : Nat} {t : Tbl α} (ht : Tbl.okFrom d lo t = true) (k : Nat) (v : α) (j : Nat) :
    Tbl.get d (Tbl.set d t k v) j = if j = k then v else Tbl.get d t j := by
  induction t generalizing lo with
  | nil =>
    by_cases hv : v = d <;> by_cases hj : j = k <;> simp [Tbl.set, Tbl.get, hv, hj]
    intro h
    exact absurd h.symm hj
  | cons e r ih =>
    obtain ⟨k', v'⟩ := e
    simp only [Tbl.okFrom, Bool.and_eq_true, decide_eq_true_eq] at ht
    obtain ⟨⟨h1, h2⟩, h3⟩ := ht
    have hb : ∀ i, i < k' + 1 → Tbl.get d r i = d := fun i h => Tbl.get_below h3 h
    rcases Nat.lt_trichotomy k k' with hk | hk | hk
    · by_cases hv : v = d <;> by_cases hj : j = k
      · simp only [Tbl.set, Tbl.get, hk, hv, hj, if_true, if_pos, show k' ≠ k by omega, if_false]
      · simp only [Tbl.set, hk, hv, hj, if_true, if_false]
      · simp only [Tbl.set, Tbl.get, hk, hv, hj, if_true, if_false]
      · by_cases hl : j < k
        · simp only [Tbl.set, Tbl.get, hk, hv, hj, hl, if_true, if_false, show k ≠ j by omega, show k' ≠ j by omega,
            show j < k' by omega]
        · simp only [Tbl.set, Tbl.get, hk, hv, hj, hl, if_true, if_false, show k ≠ j by omega]
    · subst hk
      by_cases hv : v = d <;> by_cases hj : j = k
      · simp only [Tbl.set, hv, hj, if_true, if_false, Nat.lt_irrefl, hb k (by omega)]
      · by_cases hl : j < k
        · simp only [Tbl.set, Tbl.get, hv, hj, hl, if_true, if_false, Nat.lt_irrefl, hb j (by omega),
            show k ≠ j by omega]
        · simp only [Tbl.set, Tbl.get, hv, hj, hl, if_true, if_false, Nat.lt_irrefl, show k ≠ j by omega]
      · simp only [Tbl.set, Tbl.get, hv, hj, if_true, if_false, Nat.lt_irrefl]
      · simp only [Tbl.set, Tbl.get, hv, hj, if_false, if_true, Nat.lt_irrefl, show k ≠ j by omega]
    · simp only [Tbl.set, Tbl.get, show ¬k < k' by omega, show ¬k = k' by omega, if_false]
      rw [ih h3]
      by_cases hj : j = k
      · subst hj
        simp only [if_true, show ¬k' = j by omega, show ¬j < k' by omega, if_false]
      · simp only [hj, if_false]

/-- Reading after one write. -/
theorem Tbl.get_set {t : Tbl α} (ht : Tbl.wf d t = true) (k : Nat) (v : α) (j : Nat) :
    Tbl.get d (Tbl.set d t k v) j = if j = k then v else Tbl.get d t j :=
  Tbl.get_set_from ht k v j

/-- Reading what was just written, in any table whose keys up to it rise. -/
theorem Tbl.get_set_self (t : Tbl α) (k : Nat) (v : α) (ht : Tbl.wf d t = true) : Tbl.get d (Tbl.set d t k v) k = v := by
  rw [Tbl.get_set ht, if_pos rfl]

theorem Tbl.get_set_ne (t : Tbl α) {k j : Nat} (h : j ≠ k) (v : α) (ht : Tbl.wf d t = true) :
    Tbl.get d (Tbl.set d t k v) j = Tbl.get d t j := by
  rw [Tbl.get_set ht, if_neg h]

/-- A second write to the same key replaces the first. -/
theorem Tbl.set_set_from {lo : Nat} {t : Tbl α} (ht : Tbl.okFrom d lo t = true) (k : Nat) (v w : α) :
    Tbl.set d (Tbl.set d t k v) k w = Tbl.set d t k w := by
  induction t generalizing lo with
  | nil => by_cases hv : v = d <;> simp [Tbl.set, hv]
  | cons e r ih =>
    obtain ⟨k', v'⟩ := e
    simp only [Tbl.okFrom, Bool.and_eq_true, decide_eq_true_eq] at ht
    rcases Nat.lt_trichotomy k k' with hk | rfl | hk
    · by_cases hv : v = d <;> simp [Tbl.set, hv, hk]
    · by_cases hv : v = d
      · cases r with
        | nil => simp [Tbl.set, hv]
        | cons e' r' =>
          obtain ⟨k2, v2⟩ := e'
          simp only [Tbl.okFrom, Bool.and_eq_true, decide_eq_true_eq] at ht
          simp [Tbl.set, hv, show k < k2 by omega]
      · simp [Tbl.set, hv]
    · simp only [Tbl.set, show ¬k < k' by omega, show ¬k = k' by omega, if_false, ih ht.2]

theorem Tbl.set_set {t : Tbl α} (ht : Tbl.wf d t = true) (k : Nat) (v w : α) :
    Tbl.set d (Tbl.set d t k v) k w = Tbl.set d t k w :=
  Tbl.set_set_from ht k v w

/-! ### Sets of keys -/

theorem keysOkFrom_mono {lo lo' : Nat} (h : lo' ≤ lo) {l : List Nat} (hl : keysOkFrom lo l = true) :
    keysOkFrom lo' l = true := by
  cases l with
  | nil => rfl
  | cons a r =>
    simp only [keysOkFrom, Bool.and_eq_true, decide_eq_true_eq] at hl ⊢
    exact ⟨by omega, hl.2⟩

theorem keyInsert_okFrom {lo k : Nat} (hk : lo ≤ k) {l : List Nat} (hl : keysOkFrom lo l = true) :
    keysOkFrom lo (keyInsert k l) = true := by
  induction l generalizing lo with
  | nil => simp [keyInsert, keysOkFrom, hk]
  | cons a r ih =>
    simp only [keysOkFrom, Bool.and_eq_true, decide_eq_true_eq] at hl
    simp only [keyInsert]
    split
    · rename_i h
      simp [keysOkFrom, hk, hl.2, Nat.succ_le_of_lt h]
    · split
      · simp [keysOkFrom, hl.1, hl.2]
      · simp [keysOkFrom, hl.1, ih (show a + 1 ≤ k by omega) hl.2]

theorem keyInsert_wf (k : Nat) {l : List Nat} (hl : keysOkFrom 0 l = true) : keysOkFrom 0 (keyInsert k l) = true :=
  keyInsert_okFrom (Nat.zero_le k) hl

theorem keys_filter_okFrom (f : Nat → Bool) {lo : Nat} {l : List Nat} (hl : keysOkFrom lo l = true) :
    keysOkFrom lo (l.filter f) = true := by
  induction l generalizing lo with
  | nil => rfl
  | cons a r ih =>
    simp only [keysOkFrom, Bool.and_eq_true, decide_eq_true_eq] at hl
    simp only [List.filter]
    split
    · simp [keysOkFrom, hl.1, ih hl.2]
    · exact keysOkFrom_mono (by omega) (ih hl.2)

theorem keyRemoveRun_wf (k n : Nat) {l : List Nat} (hl : keysOkFrom 0 l = true) :
    keysOkFrom 0 (keyRemoveRun k n l) = true := keys_filter_okFrom _ hl

theorem keys_foldl_wf {α : Type} {f : List Nat → α → List Nat}
    (hf : ∀ l x, keysOkFrom 0 l = true → keysOkFrom 0 (f l x) = true) (is : List α) {l : List Nat}
    (hl : keysOkFrom 0 l = true) : keysOkFrom 0 (is.foldl f l) = true := by
  induction is generalizing l with
  | nil => exact hl
  | cons i r ih => exact ih (hf l i hl)

theorem keyInsert_foldl_wf (f : Nat → Nat) (is : List Nat) {l : List Nat} (hl : keysOkFrom 0 l = true) :
    keysOkFrom 0 (is.foldl (fun l i => keyInsert (f i) l) l) = true := by
  induction is generalizing l with
  | nil => exact hl
  | cons i r ih => exact ih (keyInsert_wf _ hl)

end Sys2Proof
end

