-- ==== Sys2Proof/Laws/Access.lean ====
section
/-! SUPPORT. Reading what an update of one core, context, port, link, channel or cluster left, and joining two updates of one. -/

namespace Sys2Proof.Machine

variable {s : State}

theorem State.core_setCore_self (h : Tbl.wf Core.reset s.cores = true) (p : Nat) (x : Core) : (s.setCore p x).core p = x :=
  Tbl.get_set_self s.cores p x h

theorem State.core_setCore_ne (h : Tbl.wf Core.reset s.cores = true) {p q : Nat} (hq : q ≠ p) (x : Core) :
    (s.setCore p x).core q = s.core q :=
  Tbl.get_set_ne s.cores hq x h

theorem State.setCore_setCore (h : Tbl.wf Core.reset s.cores = true) (p : Nat) (x y : Core) :
    (s.setCore p x).setCore p y = s.setCore p y := by
  simp only [State.setCore, Tbl.set_set h]

theorem State.modCore_modCore (h : Tbl.wf Core.reset s.cores = true) (p : Nat) (f g : Core → Core) :
    (s.modCore p f).modCore p g = s.modCore p fun x => g (f x) := by
  simp only [State.modCore, State.setCore_setCore h, State.core_setCore_self h]

theorem State.core_modCore_self (h : Tbl.wf Core.reset s.cores = true) (p : Nat) (f : Core → Core) :
    (s.modCore p f).core p = f (s.core p) :=
  State.core_setCore_self h p _

theorem State.ctx_setCtx_self (h : Tbl.wf Ctx.reset s.ctxs = true) (p : Nat) (x : Ctx) : (s.setCtx p x).ctx p = x :=
  Tbl.get_set_self s.ctxs p x h

theorem State.ctx_setCtx_ne (h : Tbl.wf Ctx.reset s.ctxs = true) {p q : Nat} (hq : q ≠ p) (x : Ctx) :
    (s.setCtx p x).ctx q = s.ctx q :=
  Tbl.get_set_ne s.ctxs hq x h

theorem State.setCtx_setCtx (h : Tbl.wf Ctx.reset s.ctxs = true) (p : Nat) (x y : Ctx) :
    (s.setCtx p x).setCtx p y = s.setCtx p y := by
  simp only [State.setCtx, Tbl.set_set h]

theorem State.modCtx_modCtx (h : Tbl.wf Ctx.reset s.ctxs = true) (p : Nat) (f g : Ctx → Ctx) :
    (s.modCtx p f).modCtx p g = s.modCtx p fun x => g (f x) := by
  simp only [State.modCtx, State.setCtx_setCtx h, State.ctx_setCtx_self h]

theorem State.ctx_modCtx_self (h : Tbl.wf Ctx.reset s.ctxs = true) (p : Nat) (f : Ctx → Ctx) :
    (s.modCtx p f).ctx p = f (s.ctx p) :=
  State.ctx_setCtx_self h p _

theorem State.port_setPort_self (h : Tbl.wf Port.reset s.ports = true) (p : Nat) (x : Port) : (s.setPort p x).port p = x :=
  Tbl.get_set_self s.ports p x h

theorem State.port_setPort_ne (h : Tbl.wf Port.reset s.ports = true) {p q : Nat} (hq : q ≠ p) (x : Port) :
    (s.setPort p x).port q = s.port q :=
  Tbl.get_set_ne s.ports hq x h

theorem State.setPort_setPort (h : Tbl.wf Port.reset s.ports = true) (p : Nat) (x y : Port) :
    (s.setPort p x).setPort p y = s.setPort p y := by
  simp only [State.setPort, Tbl.set_set h]

theorem State.modPort_modPort (h : Tbl.wf Port.reset s.ports = true) (p : Nat) (f g : Port → Port) :
    (s.modPort p f).modPort p g = s.modPort p fun x => g (f x) := by
  simp only [State.modPort, State.setPort_setPort h, State.port_setPort_self h]

theorem State.port_modPort_self (h : Tbl.wf Port.reset s.ports = true) (p : Nat) (f : Port → Port) :
    (s.modPort p f).port p = f (s.port p) :=
  State.port_setPort_self h p _

theorem State.link_setLink_self (h : Tbl.wf Link.reset s.links = true) (p : Nat) (x : Link) : (s.setLink p x).link p = x :=
  Tbl.get_set_self s.links p x h

theorem State.link_setLink_ne (h : Tbl.wf Link.reset s.links = true) {p q : Nat} (hq : q ≠ p) (x : Link) :
    (s.setLink p x).link q = s.link q :=
  Tbl.get_set_ne s.links hq x h

theorem State.setLink_setLink (h : Tbl.wf Link.reset s.links = true) (p : Nat) (x y : Link) :
    (s.setLink p x).setLink p y = s.setLink p y := by
  simp only [State.setLink, Tbl.set_set h]

theorem State.modLink_modLink (h : Tbl.wf Link.reset s.links = true) (p : Nat) (f g : Link → Link) :
    (s.modLink p f).modLink p g = s.modLink p fun x => g (f x) := by
  simp only [State.modLink, State.setLink_setLink h, State.link_setLink_self h]

theorem State.link_modLink_self (h : Tbl.wf Link.reset s.links = true) (p : Nat) (f : Link → Link) :
    (s.modLink p f).link p = f (s.link p) :=
  State.link_setLink_self h p _

theorem State.chan_setChan_self (h : Tbl.wf Chan.reset s.chans = true) (p : Nat) (x : Chan) : (s.setChan p x).chan p = x :=
  Tbl.get_set_self s.chans p x h

theorem State.chan_setChan_ne (h : Tbl.wf Chan.reset s.chans = true) {p q : Nat} (hq : q ≠ p) (x : Chan) :
    (s.setChan p x).chan q = s.chan q :=
  Tbl.get_set_ne s.chans hq x h

theorem State.setChan_setChan (h : Tbl.wf Chan.reset s.chans = true) (p : Nat) (x y : Chan) :
    (s.setChan p x).setChan p y = s.setChan p y := by
  simp only [State.setChan, Tbl.set_set h]

theorem State.modChan_modChan (h : Tbl.wf Chan.reset s.chans = true) (p : Nat) (f g : Chan → Chan) :
    (s.modChan p f).modChan p g = s.modChan p fun x => g (f x) := by
  simp only [State.modChan, State.setChan_setChan h, State.chan_setChan_self h]

theorem State.chan_modChan_self (h : Tbl.wf Chan.reset s.chans = true) (p : Nat) (f : Chan → Chan) :
    (s.modChan p f).chan p = f (s.chan p) :=
  State.chan_setChan_self h p _

theorem State.cluster_setCluster_self (h : Tbl.wf Cluster.reset s.pw.clusters = true) (p : Nat) (x : Cluster) :
    (s.setCluster p x).cluster p = x :=
  Tbl.get_set_self s.pw.clusters p x h

theorem State.cluster_setCluster_ne (h : Tbl.wf Cluster.reset s.pw.clusters = true) {p q : Nat} (hq : q ≠ p) (x : Cluster) :
    (s.setCluster p x).cluster q = s.cluster q :=
  Tbl.get_set_ne s.pw.clusters hq x h

theorem State.setCluster_setCluster (h : Tbl.wf Cluster.reset s.pw.clusters = true) (p : Nat) (x y : Cluster) :
    (s.setCluster p x).setCluster p y = s.setCluster p y := by
  simp only [State.setCluster, Tbl.set_set h]

end Sys2Proof.Machine
end

