-- ==== Sys2Proof/Laws/State.lean ====
section
/-! SUPPORT. What each update of the state does to each of its fields. -/

namespace Sys2Proof.Machine

variable (s : State)

/-! ### setCore -/

@[simp] theorem State.setCore_pending (p : Nat) (c : Core) : (s.setCore p c).pending = s.pending := rfl
@[simp] theorem State.setCore_suTime (p : Nat) (c : Core) : (s.setCore p c).suTime = s.suTime := rfl
@[simp] theorem State.setCore_suTimeHi (p : Nat) (c : Core) : (s.setCore p c).suTimeHi = s.suTimeHi := rfl
@[simp] theorem State.setCore_cores (p : Nat) (c : Core) : (s.setCore p c).cores = Tbl.set Core.reset s.cores p c := rfl
@[simp] theorem State.setCore_ctxs (p : Nat) (c : Core) : (s.setCore p c).ctxs = s.ctxs := rfl
@[simp] theorem State.setCore_sch (p : Nat) (c : Core) : (s.setCore p c).sch = s.sch := rfl
@[simp] theorem State.setCore_hbm (p : Nat) (c : Core) : (s.setCore p c).hbm = s.hbm := rfl
@[simp] theorem State.setCore_lid (p : Nat) (c : Core) : (s.setCore p c).lid = s.lid := rfl
@[simp] theorem State.setCore_store (p : Nat) (c : Core) : (s.setCore p c).store = s.store := rfl
@[simp] theorem State.setCore_granules (p : Nat) (c : Core) : (s.setCore p c).granules = s.granules := rfl
@[simp] theorem State.setCore_granOwner (p : Nat) (c : Core) : (s.setCore p c).granOwner = s.granOwner := rfl
@[simp] theorem State.setCore_lidUnits (p : Nat) (c : Core) : (s.setCore p c).lidUnits = s.lidUnits := rfl
@[simp] theorem State.setCore_cache (p : Nat) (c : Core) : (s.setCore p c).cache = s.cache := rfl
@[simp] theorem State.setCore_lines (p : Nat) (c : Core) : (s.setCore p c).lines = s.lines := rfl
@[simp] theorem State.setCore_chans (p : Nat) (c : Core) : (s.setCore p c).chans = s.chans := rfl
@[simp] theorem State.setCore_mapouts (p : Nat) (c : Core) : (s.setCore p c).mapouts = s.mapouts := rfl
@[simp] theorem State.setCore_mapoutCmds (p : Nat) (c : Core) : (s.setCore p c).mapoutCmds = s.mapoutCmds := rfl
@[simp] theorem State.setCore_resumeWaits (p : Nat) (c : Core) : (s.setCore p c).resumeWaits = s.resumeWaits := rfl
@[simp] theorem State.setCore_hbmCfg (p : Nat) (c : Core) : (s.setCore p c).hbmCfg = s.hbmCfg := rfl
@[simp] theorem State.setCore_kakCmd (p : Nat) (c : Core) : (s.setCore p c).kakCmd = s.kakCmd := rfl
@[simp] theorem State.setCore_ports (p : Nat) (c : Core) : (s.setCore p c).ports = s.ports := rfl
@[simp] theorem State.setCore_links (p : Nat) (c : Core) : (s.setCore p c).links = s.links := rfl
@[simp] theorem State.setCore_fences (p : Nat) (c : Core) : (s.setCore p c).fences = s.fences := rfl
@[simp] theorem State.setCore_snapWaiting (p : Nat) (c : Core) : (s.setCore p c).snapWaiting = s.snapWaiting := rfl
@[simp] theorem State.setCore_parity (p : Nat) (c : Core) : (s.setCore p c).parity = s.parity := rfl
@[simp] theorem State.setCore_fenceFull (p : Nat) (c : Core) : (s.setCore p c).fenceFull = s.fenceFull := rfl
@[simp] theorem State.setCore_hub (p : Nat) (c : Core) : (s.setCore p c).hub = s.hub := rfl
@[simp] theorem State.setCore_fab (p : Nat) (c : Core) : (s.setCore p c).fab = s.fab := rfl
@[simp] theorem State.setCore_err (p : Nat) (c : Core) : (s.setCore p c).err = s.err := rfl
@[simp] theorem State.setCore_pw (p : Nat) (c : Core) : (s.setCore p c).pw = s.pw := rfl
@[simp] theorem State.setCore_fuses (p : Nat) (c : Core) : (s.setCore p c).fuses = s.fuses := rfl
@[simp] theorem State.setCore_boot (p : Nat) (c : Core) : (s.setCore p c).boot = s.boot := rfl
@[simp] theorem State.setCore_board (p : Nat) (c : Core) : (s.setCore p c).board = s.board := rfl
@[simp] theorem State.setCore_nextTag (p : Nat) (c : Core) : (s.setCore p c).nextTag = s.nextTag := rfl
@[simp] theorem State.setCore_freeCount (p : Nat) (c : Core) : (s.setCore p c).freeCount = s.freeCount := rfl
@[simp] theorem State.setCore_out (p : Nat) (c : Core) : (s.setCore p c).out = s.out := rfl

/-! ### setCtx -/

@[simp] theorem State.setCtx_pending (c : Nat) (x : Ctx) : (s.setCtx c x).pending = s.pending := rfl
@[simp] theorem State.setCtx_suTime (c : Nat) (x : Ctx) : (s.setCtx c x).suTime = s.suTime := rfl
@[simp] theorem State.setCtx_suTimeHi (c : Nat) (x : Ctx) : (s.setCtx c x).suTimeHi = s.suTimeHi := rfl
@[simp] theorem State.setCtx_cores (c : Nat) (x : Ctx) : (s.setCtx c x).cores = s.cores := rfl
@[simp] theorem State.setCtx_ctxs (c : Nat) (x : Ctx) : (s.setCtx c x).ctxs = Tbl.set Ctx.reset s.ctxs c x := rfl
@[simp] theorem State.setCtx_sch (c : Nat) (x : Ctx) : (s.setCtx c x).sch = s.sch := rfl
@[simp] theorem State.setCtx_hbm (c : Nat) (x : Ctx) : (s.setCtx c x).hbm = s.hbm := rfl
@[simp] theorem State.setCtx_lid (c : Nat) (x : Ctx) : (s.setCtx c x).lid = s.lid := rfl
@[simp] theorem State.setCtx_store (c : Nat) (x : Ctx) : (s.setCtx c x).store = s.store := rfl
@[simp] theorem State.setCtx_granules (c : Nat) (x : Ctx) : (s.setCtx c x).granules = s.granules := rfl
@[simp] theorem State.setCtx_granOwner (c : Nat) (x : Ctx) : (s.setCtx c x).granOwner = s.granOwner := rfl
@[simp] theorem State.setCtx_lidUnits (c : Nat) (x : Ctx) : (s.setCtx c x).lidUnits = s.lidUnits := rfl
@[simp] theorem State.setCtx_cache (c : Nat) (x : Ctx) : (s.setCtx c x).cache = s.cache := rfl
@[simp] theorem State.setCtx_lines (c : Nat) (x : Ctx) : (s.setCtx c x).lines = s.lines := rfl
@[simp] theorem State.setCtx_chans (c : Nat) (x : Ctx) : (s.setCtx c x).chans = s.chans := rfl
@[simp] theorem State.setCtx_mapouts (c : Nat) (x : Ctx) : (s.setCtx c x).mapouts = s.mapouts := rfl
@[simp] theorem State.setCtx_mapoutCmds (c : Nat) (x : Ctx) : (s.setCtx c x).mapoutCmds = s.mapoutCmds := rfl
@[simp] theorem State.setCtx_resumeWaits (c : Nat) (x : Ctx) : (s.setCtx c x).resumeWaits = s.resumeWaits := rfl
@[simp] theorem State.setCtx_hbmCfg (c : Nat) (x : Ctx) : (s.setCtx c x).hbmCfg = s.hbmCfg := rfl
@[simp] theorem State.setCtx_kakCmd (c : Nat) (x : Ctx) : (s.setCtx c x).kakCmd = s.kakCmd := rfl
@[simp] theorem State.setCtx_ports (c : Nat) (x : Ctx) : (s.setCtx c x).ports = s.ports := rfl
@[simp] theorem State.setCtx_links (c : Nat) (x : Ctx) : (s.setCtx c x).links = s.links := rfl
@[simp] theorem State.setCtx_fences (c : Nat) (x : Ctx) : (s.setCtx c x).fences = s.fences := rfl
@[simp] theorem State.setCtx_snapWaiting (c : Nat) (x : Ctx) : (s.setCtx c x).snapWaiting = s.snapWaiting := rfl
@[simp] theorem State.setCtx_parity (c : Nat) (x : Ctx) : (s.setCtx c x).parity = s.parity := rfl
@[simp] theorem State.setCtx_fenceFull (c : Nat) (x : Ctx) : (s.setCtx c x).fenceFull = s.fenceFull := rfl
@[simp] theorem State.setCtx_hub (c : Nat) (x : Ctx) : (s.setCtx c x).hub = s.hub := rfl
@[simp] theorem State.setCtx_fab (c : Nat) (x : Ctx) : (s.setCtx c x).fab = s.fab := rfl
@[simp] theorem State.setCtx_err (c : Nat) (x : Ctx) : (s.setCtx c x).err = s.err := rfl
@[simp] theorem State.setCtx_pw (c : Nat) (x : Ctx) : (s.setCtx c x).pw = s.pw := rfl
@[simp] theorem State.setCtx_fuses (c : Nat) (x : Ctx) : (s.setCtx c x).fuses = s.fuses := rfl
@[simp] theorem State.setCtx_boot (c : Nat) (x : Ctx) : (s.setCtx c x).boot = s.boot := rfl
@[simp] theorem State.setCtx_board (c : Nat) (x : Ctx) : (s.setCtx c x).board = s.board := rfl
@[simp] theorem State.setCtx_nextTag (c : Nat) (x : Ctx) : (s.setCtx c x).nextTag = s.nextTag := rfl
@[simp] theorem State.setCtx_freeCount (c : Nat) (x : Ctx) : (s.setCtx c x).freeCount = s.freeCount := rfl
@[simp] theorem State.setCtx_out (c : Nat) (x : Ctx) : (s.setCtx c x).out = s.out := rfl

/-! ### setPort -/

@[simp] theorem State.setPort_pending (p : Nat) (x : Port) : (s.setPort p x).pending = s.pending := rfl
@[simp] theorem State.setPort_suTime (p : Nat) (x : Port) : (s.setPort p x).suTime = s.suTime := rfl
@[simp] theorem State.setPort_suTimeHi (p : Nat) (x : Port) : (s.setPort p x).suTimeHi = s.suTimeHi := rfl
@[simp] theorem State.setPort_cores (p : Nat) (x : Port) : (s.setPort p x).cores = s.cores := rfl
@[simp] theorem State.setPort_ctxs (p : Nat) (x : Port) : (s.setPort p x).ctxs = s.ctxs := rfl
@[simp] theorem State.setPort_sch (p : Nat) (x : Port) : (s.setPort p x).sch = s.sch := rfl
@[simp] theorem State.setPort_hbm (p : Nat) (x : Port) : (s.setPort p x).hbm = s.hbm := rfl
@[simp] theorem State.setPort_lid (p : Nat) (x : Port) : (s.setPort p x).lid = s.lid := rfl
@[simp] theorem State.setPort_store (p : Nat) (x : Port) : (s.setPort p x).store = s.store := rfl
@[simp] theorem State.setPort_granules (p : Nat) (x : Port) : (s.setPort p x).granules = s.granules := rfl
@[simp] theorem State.setPort_granOwner (p : Nat) (x : Port) : (s.setPort p x).granOwner = s.granOwner := rfl
@[simp] theorem State.setPort_lidUnits (p : Nat) (x : Port) : (s.setPort p x).lidUnits = s.lidUnits := rfl
@[simp] theorem State.setPort_cache (p : Nat) (x : Port) : (s.setPort p x).cache = s.cache := rfl
@[simp] theorem State.setPort_lines (p : Nat) (x : Port) : (s.setPort p x).lines = s.lines := rfl
@[simp] theorem State.setPort_chans (p : Nat) (x : Port) : (s.setPort p x).chans = s.chans := rfl
@[simp] theorem State.setPort_mapouts (p : Nat) (x : Port) : (s.setPort p x).mapouts = s.mapouts := rfl
@[simp] theorem State.setPort_mapoutCmds (p : Nat) (x : Port) : (s.setPort p x).mapoutCmds = s.mapoutCmds := rfl
@[simp] theorem State.setPort_resumeWaits (p : Nat) (x : Port) : (s.setPort p x).resumeWaits = s.resumeWaits := rfl
@[simp] theorem State.setPort_hbmCfg (p : Nat) (x : Port) : (s.setPort p x).hbmCfg = s.hbmCfg := rfl
@[simp] theorem State.setPort_kakCmd (p : Nat) (x : Port) : (s.setPort p x).kakCmd = s.kakCmd := rfl
@[simp] theorem State.setPort_ports (p : Nat) (x : Port) : (s.setPort p x).ports = Tbl.set Port.reset s.ports p x := rfl
@[simp] theorem State.setPort_links (p : Nat) (x : Port) : (s.setPort p x).links = s.links := rfl
@[simp] theorem State.setPort_fences (p : Nat) (x : Port) : (s.setPort p x).fences = s.fences := rfl
@[simp] theorem State.setPort_snapWaiting (p : Nat) (x : Port) : (s.setPort p x).snapWaiting = s.snapWaiting := rfl
@[simp] theorem State.setPort_parity (p : Nat) (x : Port) : (s.setPort p x).parity = s.parity := rfl
@[simp] theorem State.setPort_fenceFull (p : Nat) (x : Port) : (s.setPort p x).fenceFull = s.fenceFull := rfl
@[simp] theorem State.setPort_hub (p : Nat) (x : Port) : (s.setPort p x).hub = s.hub := rfl
@[simp] theorem State.setPort_fab (p : Nat) (x : Port) : (s.setPort p x).fab = s.fab := rfl
@[simp] theorem State.setPort_err (p : Nat) (x : Port) : (s.setPort p x).err = s.err := rfl
@[simp] theorem State.setPort_pw (p : Nat) (x : Port) : (s.setPort p x).pw = s.pw := rfl
@[simp] theorem State.setPort_fuses (p : Nat) (x : Port) : (s.setPort p x).fuses = s.fuses := rfl
@[simp] theorem State.setPort_boot (p : Nat) (x : Port) : (s.setPort p x).boot = s.boot := rfl
@[simp] theorem State.setPort_board (p : Nat) (x : Port) : (s.setPort p x).board = s.board := rfl
@[simp] theorem State.setPort_nextTag (p : Nat) (x : Port) : (s.setPort p x).nextTag = s.nextTag := rfl
@[simp] theorem State.setPort_freeCount (p : Nat) (x : Port) : (s.setPort p x).freeCount = s.freeCount := rfl
@[simp] theorem State.setPort_out (p : Nat) (x : Port) : (s.setPort p x).out = s.out := rfl

/-! ### setLink -/

@[simp] theorem State.setLink_pending (l : Nat) (x : Link) : (s.setLink l x).pending = s.pending := rfl
@[simp] theorem State.setLink_suTime (l : Nat) (x : Link) : (s.setLink l x).suTime = s.suTime := rfl
@[simp] theorem State.setLink_suTimeHi (l : Nat) (x : Link) : (s.setLink l x).suTimeHi = s.suTimeHi := rfl
@[simp] theorem State.setLink_cores (l : Nat) (x : Link) : (s.setLink l x).cores = s.cores := rfl
@[simp] theorem State.setLink_ctxs (l : Nat) (x : Link) : (s.setLink l x).ctxs = s.ctxs := rfl
@[simp] theorem State.setLink_sch (l : Nat) (x : Link) : (s.setLink l x).sch = s.sch := rfl
@[simp] theorem State.setLink_hbm (l : Nat) (x : Link) : (s.setLink l x).hbm = s.hbm := rfl
@[simp] theorem State.setLink_lid (l : Nat) (x : Link) : (s.setLink l x).lid = s.lid := rfl
@[simp] theorem State.setLink_store (l : Nat) (x : Link) : (s.setLink l x).store = s.store := rfl
@[simp] theorem State.setLink_granules (l : Nat) (x : Link) : (s.setLink l x).granules = s.granules := rfl
@[simp] theorem State.setLink_granOwner (l : Nat) (x : Link) : (s.setLink l x).granOwner = s.granOwner := rfl
@[simp] theorem State.setLink_lidUnits (l : Nat) (x : Link) : (s.setLink l x).lidUnits = s.lidUnits := rfl
@[simp] theorem State.setLink_cache (l : Nat) (x : Link) : (s.setLink l x).cache = s.cache := rfl
@[simp] theorem State.setLink_lines (l : Nat) (x : Link) : (s.setLink l x).lines = s.lines := rfl
@[simp] theorem State.setLink_chans (l : Nat) (x : Link) : (s.setLink l x).chans = s.chans := rfl
@[simp] theorem State.setLink_mapouts (l : Nat) (x : Link) : (s.setLink l x).mapouts = s.mapouts := rfl
@[simp] theorem State.setLink_mapoutCmds (l : Nat) (x : Link) : (s.setLink l x).mapoutCmds = s.mapoutCmds := rfl
@[simp] theorem State.setLink_resumeWaits (l : Nat) (x : Link) : (s.setLink l x).resumeWaits = s.resumeWaits := rfl
@[simp] theorem State.setLink_hbmCfg (l : Nat) (x : Link) : (s.setLink l x).hbmCfg = s.hbmCfg := rfl
@[simp] theorem State.setLink_kakCmd (l : Nat) (x : Link) : (s.setLink l x).kakCmd = s.kakCmd := rfl
@[simp] theorem State.setLink_ports (l : Nat) (x : Link) : (s.setLink l x).ports = s.ports := rfl
@[simp] theorem State.setLink_links (l : Nat) (x : Link) : (s.setLink l x).links = Tbl.set Link.reset s.links l x := rfl
@[simp] theorem State.setLink_fences (l : Nat) (x : Link) : (s.setLink l x).fences = s.fences := rfl
@[simp] theorem State.setLink_snapWaiting (l : Nat) (x : Link) : (s.setLink l x).snapWaiting = s.snapWaiting := rfl
@[simp] theorem State.setLink_parity (l : Nat) (x : Link) : (s.setLink l x).parity = s.parity := rfl
@[simp] theorem State.setLink_fenceFull (l : Nat) (x : Link) : (s.setLink l x).fenceFull = s.fenceFull := rfl
@[simp] theorem State.setLink_hub (l : Nat) (x : Link) : (s.setLink l x).hub = s.hub := rfl
@[simp] theorem State.setLink_fab (l : Nat) (x : Link) : (s.setLink l x).fab = s.fab := rfl
@[simp] theorem State.setLink_err (l : Nat) (x : Link) : (s.setLink l x).err = s.err := rfl
@[simp] theorem State.setLink_pw (l : Nat) (x : Link) : (s.setLink l x).pw = s.pw := rfl
@[simp] theorem State.setLink_fuses (l : Nat) (x : Link) : (s.setLink l x).fuses = s.fuses := rfl
@[simp] theorem State.setLink_boot (l : Nat) (x : Link) : (s.setLink l x).boot = s.boot := rfl
@[simp] theorem State.setLink_board (l : Nat) (x : Link) : (s.setLink l x).board = s.board := rfl
@[simp] theorem State.setLink_nextTag (l : Nat) (x : Link) : (s.setLink l x).nextTag = s.nextTag := rfl
@[simp] theorem State.setLink_freeCount (l : Nat) (x : Link) : (s.setLink l x).freeCount = s.freeCount := rfl
@[simp] theorem State.setLink_out (l : Nat) (x : Link) : (s.setLink l x).out = s.out := rfl

/-! ### setChan -/

@[simp] theorem State.setChan_pending (c : Nat) (x : Chan) : (s.setChan c x).pending = s.pending := rfl
@[simp] theorem State.setChan_suTime (c : Nat) (x : Chan) : (s.setChan c x).suTime = s.suTime := rfl
@[simp] theorem State.setChan_suTimeHi (c : Nat) (x : Chan) : (s.setChan c x).suTimeHi = s.suTimeHi := rfl
@[simp] theorem State.setChan_cores (c : Nat) (x : Chan) : (s.setChan c x).cores = s.cores := rfl
@[simp] theorem State.setChan_ctxs (c : Nat) (x : Chan) : (s.setChan c x).ctxs = s.ctxs := rfl
@[simp] theorem State.setChan_sch (c : Nat) (x : Chan) : (s.setChan c x).sch = s.sch := rfl
@[simp] theorem State.setChan_hbm (c : Nat) (x : Chan) : (s.setChan c x).hbm = s.hbm := rfl
@[simp] theorem State.setChan_lid (c : Nat) (x : Chan) : (s.setChan c x).lid = s.lid := rfl
@[simp] theorem State.setChan_store (c : Nat) (x : Chan) : (s.setChan c x).store = s.store := rfl
@[simp] theorem State.setChan_granules (c : Nat) (x : Chan) : (s.setChan c x).granules = s.granules := rfl
@[simp] theorem State.setChan_granOwner (c : Nat) (x : Chan) : (s.setChan c x).granOwner = s.granOwner := rfl
@[simp] theorem State.setChan_lidUnits (c : Nat) (x : Chan) : (s.setChan c x).lidUnits = s.lidUnits := rfl
@[simp] theorem State.setChan_cache (c : Nat) (x : Chan) : (s.setChan c x).cache = s.cache := rfl
@[simp] theorem State.setChan_lines (c : Nat) (x : Chan) : (s.setChan c x).lines = s.lines := rfl
@[simp] theorem State.setChan_chans (c : Nat) (x : Chan) : (s.setChan c x).chans = Tbl.set Chan.reset s.chans c x := rfl
@[simp] theorem State.setChan_mapouts (c : Nat) (x : Chan) : (s.setChan c x).mapouts = s.mapouts := rfl
@[simp] theorem State.setChan_mapoutCmds (c : Nat) (x : Chan) : (s.setChan c x).mapoutCmds = s.mapoutCmds := rfl
@[simp] theorem State.setChan_resumeWaits (c : Nat) (x : Chan) : (s.setChan c x).resumeWaits = s.resumeWaits := rfl
@[simp] theorem State.setChan_hbmCfg (c : Nat) (x : Chan) : (s.setChan c x).hbmCfg = s.hbmCfg := rfl
@[simp] theorem State.setChan_kakCmd (c : Nat) (x : Chan) : (s.setChan c x).kakCmd = s.kakCmd := rfl
@[simp] theorem State.setChan_ports (c : Nat) (x : Chan) : (s.setChan c x).ports = s.ports := rfl
@[simp] theorem State.setChan_links (c : Nat) (x : Chan) : (s.setChan c x).links = s.links := rfl
@[simp] theorem State.setChan_fences (c : Nat) (x : Chan) : (s.setChan c x).fences = s.fences := rfl
@[simp] theorem State.setChan_snapWaiting (c : Nat) (x : Chan) : (s.setChan c x).snapWaiting = s.snapWaiting := rfl
@[simp] theorem State.setChan_parity (c : Nat) (x : Chan) : (s.setChan c x).parity = s.parity := rfl
@[simp] theorem State.setChan_fenceFull (c : Nat) (x : Chan) : (s.setChan c x).fenceFull = s.fenceFull := rfl
@[simp] theorem State.setChan_hub (c : Nat) (x : Chan) : (s.setChan c x).hub = s.hub := rfl
@[simp] theorem State.setChan_fab (c : Nat) (x : Chan) : (s.setChan c x).fab = s.fab := rfl
@[simp] theorem State.setChan_err (c : Nat) (x : Chan) : (s.setChan c x).err = s.err := rfl
@[simp] theorem State.setChan_pw (c : Nat) (x : Chan) : (s.setChan c x).pw = s.pw := rfl
@[simp] theorem State.setChan_fuses (c : Nat) (x : Chan) : (s.setChan c x).fuses = s.fuses := rfl
@[simp] theorem State.setChan_boot (c : Nat) (x : Chan) : (s.setChan c x).boot = s.boot := rfl
@[simp] theorem State.setChan_board (c : Nat) (x : Chan) : (s.setChan c x).board = s.board := rfl
@[simp] theorem State.setChan_nextTag (c : Nat) (x : Chan) : (s.setChan c x).nextTag = s.nextTag := rfl
@[simp] theorem State.setChan_freeCount (c : Nat) (x : Chan) : (s.setChan c x).freeCount = s.freeCount := rfl
@[simp] theorem State.setChan_out (c : Nat) (x : Chan) : (s.setChan c x).out = s.out := rfl

/-! ### setLidUnit -/

@[simp] theorem State.setLidUnit_pending (u : Nat) (x : LidUnit) : (s.setLidUnit u x).pending = s.pending := rfl
@[simp] theorem State.setLidUnit_suTime (u : Nat) (x : LidUnit) : (s.setLidUnit u x).suTime = s.suTime := rfl
@[simp] theorem State.setLidUnit_suTimeHi (u : Nat) (x : LidUnit) : (s.setLidUnit u x).suTimeHi = s.suTimeHi := rfl
@[simp] theorem State.setLidUnit_cores (u : Nat) (x : LidUnit) : (s.setLidUnit u x).cores = s.cores := rfl
@[simp] theorem State.setLidUnit_ctxs (u : Nat) (x : LidUnit) : (s.setLidUnit u x).ctxs = s.ctxs := rfl
@[simp] theorem State.setLidUnit_sch (u : Nat) (x : LidUnit) : (s.setLidUnit u x).sch = s.sch := rfl
@[simp] theorem State.setLidUnit_hbm (u : Nat) (x : LidUnit) : (s.setLidUnit u x).hbm = s.hbm := rfl
@[simp] theorem State.setLidUnit_lid (u : Nat) (x : LidUnit) : (s.setLidUnit u x).lid = s.lid := rfl
@[simp] theorem State.setLidUnit_store (u : Nat) (x : LidUnit) : (s.setLidUnit u x).store = s.store := rfl
@[simp] theorem State.setLidUnit_granules (u : Nat) (x : LidUnit) : (s.setLidUnit u x).granules = s.granules := rfl
@[simp] theorem State.setLidUnit_granOwner (u : Nat) (x : LidUnit) : (s.setLidUnit u x).granOwner = s.granOwner := rfl
@[simp] theorem State.setLidUnit_lidUnits (u : Nat) (x : LidUnit) : (s.setLidUnit u x).lidUnits = Tbl.set LidUnit.reset s.lidUnits u x := rfl
@[simp] theorem State.setLidUnit_cache (u : Nat) (x : LidUnit) : (s.setLidUnit u x).cache = s.cache := rfl
@[simp] theorem State.setLidUnit_lines (u : Nat) (x : LidUnit) : (s.setLidUnit u x).lines = s.lines := rfl
@[simp] theorem State.setLidUnit_chans (u : Nat) (x : LidUnit) : (s.setLidUnit u x).chans = s.chans := rfl
@[simp] theorem State.setLidUnit_mapouts (u : Nat) (x : LidUnit) : (s.setLidUnit u x).mapouts = s.mapouts := rfl
@[simp] theorem State.setLidUnit_mapoutCmds (u : Nat) (x : LidUnit) : (s.setLidUnit u x).mapoutCmds = s.mapoutCmds := rfl
@[simp] theorem State.setLidUnit_resumeWaits (u : Nat) (x : LidUnit) : (s.setLidUnit u x).resumeWaits = s.resumeWaits := rfl
@[simp] theorem State.setLidUnit_hbmCfg (u : Nat) (x : LidUnit) : (s.setLidUnit u x).hbmCfg = s.hbmCfg := rfl
@[simp] theorem State.setLidUnit_kakCmd (u : Nat) (x : LidUnit) : (s.setLidUnit u x).kakCmd = s.kakCmd := rfl
@[simp] theorem State.setLidUnit_ports (u : Nat) (x : LidUnit) : (s.setLidUnit u x).ports = s.ports := rfl
@[simp] theorem State.setLidUnit_links (u : Nat) (x : LidUnit) : (s.setLidUnit u x).links = s.links := rfl
@[simp] theorem State.setLidUnit_fences (u : Nat) (x : LidUnit) : (s.setLidUnit u x).fences = s.fences := rfl
@[simp] theorem State.setLidUnit_snapWaiting (u : Nat) (x : LidUnit) : (s.setLidUnit u x).snapWaiting = s.snapWaiting := rfl
@[simp] theorem State.setLidUnit_parity (u : Nat) (x : LidUnit) : (s.setLidUnit u x).parity = s.parity := rfl
@[simp] theorem State.setLidUnit_fenceFull (u : Nat) (x : LidUnit) : (s.setLidUnit u x).fenceFull = s.fenceFull := rfl
@[simp] theorem State.setLidUnit_hub (u : Nat) (x : LidUnit) : (s.setLidUnit u x).hub = s.hub := rfl
@[simp] theorem State.setLidUnit_fab (u : Nat) (x : LidUnit) : (s.setLidUnit u x).fab = s.fab := rfl
@[simp] theorem State.setLidUnit_err (u : Nat) (x : LidUnit) : (s.setLidUnit u x).err = s.err := rfl
@[simp] theorem State.setLidUnit_pw (u : Nat) (x : LidUnit) : (s.setLidUnit u x).pw = s.pw := rfl
@[simp] theorem State.setLidUnit_fuses (u : Nat) (x : LidUnit) : (s.setLidUnit u x).fuses = s.fuses := rfl
@[simp] theorem State.setLidUnit_boot (u : Nat) (x : LidUnit) : (s.setLidUnit u x).boot = s.boot := rfl
@[simp] theorem State.setLidUnit_board (u : Nat) (x : LidUnit) : (s.setLidUnit u x).board = s.board := rfl
@[simp] theorem State.setLidUnit_nextTag (u : Nat) (x : LidUnit) : (s.setLidUnit u x).nextTag = s.nextTag := rfl
@[simp] theorem State.setLidUnit_freeCount (u : Nat) (x : LidUnit) : (s.setLidUnit u x).freeCount = s.freeCount := rfl
@[simp] theorem State.setLidUnit_out (u : Nat) (x : LidUnit) : (s.setLidUnit u x).out = s.out := rfl

/-! ### setCluster -/

@[simp] theorem State.setCluster_pending (c : Nat) (x : Cluster) : (s.setCluster c x).pending = s.pending := rfl
@[simp] theorem State.setCluster_suTime (c : Nat) (x : Cluster) : (s.setCluster c x).suTime = s.suTime := rfl
@[simp] theorem State.setCluster_suTimeHi (c : Nat) (x : Cluster) : (s.setCluster c x).suTimeHi = s.suTimeHi := rfl
@[simp] theorem State.setCluster_cores (c : Nat) (x : Cluster) : (s.setCluster c x).cores = s.cores := rfl
@[simp] theorem State.setCluster_ctxs (c : Nat) (x : Cluster) : (s.setCluster c x).ctxs = s.ctxs := rfl
@[simp] theorem State.setCluster_sch (c : Nat) (x : Cluster) : (s.setCluster c x).sch = s.sch := rfl
@[simp] theorem State.setCluster_hbm (c : Nat) (x : Cluster) : (s.setCluster c x).hbm = s.hbm := rfl
@[simp] theorem State.setCluster_lid (c : Nat) (x : Cluster) : (s.setCluster c x).lid = s.lid := rfl
@[simp] theorem State.setCluster_store (c : Nat) (x : Cluster) : (s.setCluster c x).store = s.store := rfl
@[simp] theorem State.setCluster_granules (c : Nat) (x : Cluster) : (s.setCluster c x).granules = s.granules := rfl
@[simp] theorem State.setCluster_granOwner (c : Nat) (x : Cluster) : (s.setCluster c x).granOwner = s.granOwner := rfl
@[simp] theorem State.setCluster_lidUnits (c : Nat) (x : Cluster) : (s.setCluster c x).lidUnits = s.lidUnits := rfl
@[simp] theorem State.setCluster_cache (c : Nat) (x : Cluster) : (s.setCluster c x).cache = s.cache := rfl
@[simp] theorem State.setCluster_lines (c : Nat) (x : Cluster) : (s.setCluster c x).lines = s.lines := rfl
@[simp] theorem State.setCluster_chans (c : Nat) (x : Cluster) : (s.setCluster c x).chans = s.chans := rfl
@[simp] theorem State.setCluster_mapouts (c : Nat) (x : Cluster) : (s.setCluster c x).mapouts = s.mapouts := rfl
@[simp] theorem State.setCluster_mapoutCmds (c : Nat) (x : Cluster) : (s.setCluster c x).mapoutCmds = s.mapoutCmds := rfl
@[simp] theorem State.setCluster_resumeWaits (c : Nat) (x : Cluster) : (s.setCluster c x).resumeWaits = s.resumeWaits := rfl
@[simp] theorem State.setCluster_hbmCfg (c : Nat) (x : Cluster) : (s.setCluster c x).hbmCfg = s.hbmCfg := rfl
@[simp] theorem State.setCluster_kakCmd (c : Nat) (x : Cluster) : (s.setCluster c x).kakCmd = s.kakCmd := rfl
@[simp] theorem State.setCluster_ports (c : Nat) (x : Cluster) : (s.setCluster c x).ports = s.ports := rfl
@[simp] theorem State.setCluster_links (c : Nat) (x : Cluster) : (s.setCluster c x).links = s.links := rfl
@[simp] theorem State.setCluster_fences (c : Nat) (x : Cluster) : (s.setCluster c x).fences = s.fences := rfl
@[simp] theorem State.setCluster_snapWaiting (c : Nat) (x : Cluster) : (s.setCluster c x).snapWaiting = s.snapWaiting := rfl
@[simp] theorem State.setCluster_parity (c : Nat) (x : Cluster) : (s.setCluster c x).parity = s.parity := rfl
@[simp] theorem State.setCluster_fenceFull (c : Nat) (x : Cluster) : (s.setCluster c x).fenceFull = s.fenceFull := rfl
@[simp] theorem State.setCluster_hub (c : Nat) (x : Cluster) : (s.setCluster c x).hub = s.hub := rfl
@[simp] theorem State.setCluster_fab (c : Nat) (x : Cluster) : (s.setCluster c x).fab = s.fab := rfl
@[simp] theorem State.setCluster_err (c : Nat) (x : Cluster) : (s.setCluster c x).err = s.err := rfl
@[simp] theorem State.setCluster_pw (c : Nat) (x : Cluster) : (s.setCluster c x).pw = { s.pw with clusters := Tbl.set Cluster.reset s.pw.clusters c x } := rfl
@[simp] theorem State.setCluster_fuses (c : Nat) (x : Cluster) : (s.setCluster c x).fuses = s.fuses := rfl
@[simp] theorem State.setCluster_boot (c : Nat) (x : Cluster) : (s.setCluster c x).boot = s.boot := rfl
@[simp] theorem State.setCluster_board (c : Nat) (x : Cluster) : (s.setCluster c x).board = s.board := rfl
@[simp] theorem State.setCluster_nextTag (c : Nat) (x : Cluster) : (s.setCluster c x).nextTag = s.nextTag := rfl
@[simp] theorem State.setCluster_freeCount (c : Nat) (x : Cluster) : (s.setCluster c x).freeCount = s.freeCount := rfl
@[simp] theorem State.setCluster_out (c : Nat) (x : Cluster) : (s.setCluster c x).out = s.out := rfl

/-! ### emit -/

@[simp] theorem State.emit_pending (o : Out) : (s.emit o).pending = s.pending := rfl
@[simp] theorem State.emit_suTime (o : Out) : (s.emit o).suTime = s.suTime := rfl
@[simp] theorem State.emit_suTimeHi (o : Out) : (s.emit o).suTimeHi = s.suTimeHi := rfl
@[simp] theorem State.emit_cores (o : Out) : (s.emit o).cores = s.cores := rfl
@[simp] theorem State.emit_ctxs (o : Out) : (s.emit o).ctxs = s.ctxs := rfl
@[simp] theorem State.emit_sch (o : Out) : (s.emit o).sch = s.sch := rfl
@[simp] theorem State.emit_hbm (o : Out) : (s.emit o).hbm = s.hbm := rfl
@[simp] theorem State.emit_lid (o : Out) : (s.emit o).lid = s.lid := rfl
@[simp] theorem State.emit_store (o : Out) : (s.emit o).store = s.store := rfl
@[simp] theorem State.emit_granules (o : Out) : (s.emit o).granules = s.granules := rfl
@[simp] theorem State.emit_granOwner (o : Out) : (s.emit o).granOwner = s.granOwner := rfl
@[simp] theorem State.emit_lidUnits (o : Out) : (s.emit o).lidUnits = s.lidUnits := rfl
@[simp] theorem State.emit_cache (o : Out) : (s.emit o).cache = s.cache := rfl
@[simp] theorem State.emit_lines (o : Out) : (s.emit o).lines = s.lines := rfl
@[simp] theorem State.emit_chans (o : Out) : (s.emit o).chans = s.chans := rfl
@[simp] theorem State.emit_mapouts (o : Out) : (s.emit o).mapouts = s.mapouts := rfl
@[simp] theorem State.emit_mapoutCmds (o : Out) : (s.emit o).mapoutCmds = s.mapoutCmds := rfl
@[simp] theorem State.emit_resumeWaits (o : Out) : (s.emit o).resumeWaits = s.resumeWaits := rfl
@[simp] theorem State.emit_hbmCfg (o : Out) : (s.emit o).hbmCfg = s.hbmCfg := rfl
@[simp] theorem State.emit_kakCmd (o : Out) : (s.emit o).kakCmd = s.kakCmd := rfl
@[simp] theorem State.emit_ports (o : Out) : (s.emit o).ports = s.ports := rfl
@[simp] theorem State.emit_links (o : Out) : (s.emit o).links = s.links := rfl
@[simp] theorem State.emit_fences (o : Out) : (s.emit o).fences = s.fences := rfl
@[simp] theorem State.emit_snapWaiting (o : Out) : (s.emit o).snapWaiting = s.snapWaiting := rfl
@[simp] theorem State.emit_parity (o : Out) : (s.emit o).parity = s.parity := rfl
@[simp] theorem State.emit_fenceFull (o : Out) : (s.emit o).fenceFull = s.fenceFull := rfl
@[simp] theorem State.emit_hub (o : Out) : (s.emit o).hub = s.hub := rfl
@[simp] theorem State.emit_fab (o : Out) : (s.emit o).fab = s.fab := rfl
@[simp] theorem State.emit_err (o : Out) : (s.emit o).err = s.err := rfl
@[simp] theorem State.emit_pw (o : Out) : (s.emit o).pw = s.pw := rfl
@[simp] theorem State.emit_fuses (o : Out) : (s.emit o).fuses = s.fuses := rfl
@[simp] theorem State.emit_boot (o : Out) : (s.emit o).boot = s.boot := rfl
@[simp] theorem State.emit_board (o : Out) : (s.emit o).board = s.board := rfl
@[simp] theorem State.emit_nextTag (o : Out) : (s.emit o).nextTag = s.nextTag := rfl
@[simp] theorem State.emit_freeCount (o : Out) : (s.emit o).freeCount = s.freeCount := rfl
@[simp] theorem State.emit_out (o : Out) : (s.emit o).out = s.out ++ [o] := rfl

/-! ### Updates in place -/

theorem State.modCore_eq (p : Nat) (f : Core → Core) : s.modCore p f = s.setCore p (f (s.core p)) := rfl
theorem State.modCtx_eq (c : Nat) (f : Ctx → Ctx) : s.modCtx c f = s.setCtx c (f (s.ctx c)) := rfl
theorem State.modPort_eq (p : Nat) (f : Port → Port) : s.modPort p f = s.setPort p (f (s.port p)) := rfl
theorem State.modLink_eq (l : Nat) (f : Link → Link) : s.modLink l f = s.setLink l (f (s.link l)) := rfl
theorem State.modChan_eq (c : Nat) (f : Chan → Chan) : s.modChan c f = s.setChan c (f (s.chan c)) := rfl
theorem State.modStep_eq (c : Nat) (f : StepSt → StepSt) : s.modStep c f = s.setCtx c { s.ctx c with step := f (s.ctx c).step } := rfl
theorem State.modRegs_eq (c : Nat) (f : CtxRegs → CtxRegs) : s.modRegs c f = s.setCtx c { s.ctx c with regs := f (s.ctx c).regs } := rfl

/-! ### Units after an update -/

theorem State.core_setCore {s : State} (h : Tbl.wf Core.reset s.cores = true) (p : Nat) (x : Core) (q : Nat) :
    (s.setCore p x).core q = if q = p then x else s.core q := Tbl.get_set h p x q

@[simp] theorem State.core_setCtx (c : Nat) (x : Ctx) (q : Nat) : (s.setCtx c x).core q = s.core q := rfl
@[simp] theorem State.core_setPort (p : Nat) (x : Port) (q : Nat) : (s.setPort p x).core q = s.core q := rfl
@[simp] theorem State.core_setLink (l : Nat) (x : Link) (q : Nat) : (s.setLink l x).core q = s.core q := rfl
@[simp] theorem State.core_setChan (c : Nat) (x : Chan) (q : Nat) : (s.setChan c x).core q = s.core q := rfl
@[simp] theorem State.core_setLidUnit (u : Nat) (x : LidUnit) (q : Nat) : (s.setLidUnit u x).core q = s.core q := rfl
@[simp] theorem State.core_setCluster (c : Nat) (x : Cluster) (q : Nat) : (s.setCluster c x).core q = s.core q := rfl
@[simp] theorem State.core_emit (o : Out) (q : Nat) : (s.emit o).core q = s.core q := rfl

theorem State.ctx_setCtx {s : State} (h : Tbl.wf Ctx.reset s.ctxs = true) (p : Nat) (x : Ctx) (q : Nat) :
    (s.setCtx p x).ctx q = if q = p then x else s.ctx q := Tbl.get_set h p x q

@[simp] theorem State.ctx_setCore (p : Nat) (c : Core) (q : Nat) : (s.setCore p c).ctx q = s.ctx q := rfl
@[simp] theorem State.ctx_setPort (p : Nat) (x : Port) (q : Nat) : (s.setPort p x).ctx q = s.ctx q := rfl
@[simp] theorem State.ctx_setLink (l : Nat) (x : Link) (q : Nat) : (s.setLink l x).ctx q = s.ctx q := rfl
@[simp] theorem State.ctx_setChan (c : Nat) (x : Chan) (q : Nat) : (s.setChan c x).ctx q = s.ctx q := rfl
@[simp] theorem State.ctx_setLidUnit (u : Nat) (x : LidUnit) (q : Nat) : (s.setLidUnit u x).ctx q = s.ctx q := rfl
@[simp] theorem State.ctx_setCluster (c : Nat) (x : Cluster) (q : Nat) : (s.setCluster c x).ctx q = s.ctx q := rfl
@[simp] theorem State.ctx_emit (o : Out) (q : Nat) : (s.emit o).ctx q = s.ctx q := rfl

theorem State.port_setPort {s : State} (h : Tbl.wf Port.reset s.ports = true) (p : Nat) (x : Port) (q : Nat) :
    (s.setPort p x).port q = if q = p then x else s.port q := Tbl.get_set h p x q

@[simp] theorem State.port_setCore (p : Nat) (c : Core) (q : Nat) : (s.setCore p c).port q = s.port q := rfl
@[simp] theorem State.port_setCtx (c : Nat) (x : Ctx) (q : Nat) : (s.setCtx c x).port q = s.port q := rfl
@[simp] theorem State.port_setLink (l : Nat) (x : Link) (q : Nat) : (s.setLink l x).port q = s.port q := rfl
@[simp] theorem State.port_setChan (c : Nat) (x : Chan) (q : Nat) : (s.setChan c x).port q = s.port q := rfl
@[simp] theorem State.port_setLidUnit (u : Nat) (x : LidUnit) (q : Nat) : (s.setLidUnit u x).port q = s.port q := rfl
@[simp] theorem State.port_setCluster (c : Nat) (x : Cluster) (q : Nat) : (s.setCluster c x).port q = s.port q := rfl
@[simp] theorem State.port_emit (o : Out) (q : Nat) : (s.emit o).port q = s.port q := rfl

theorem State.link_setLink {s : State} (h : Tbl.wf Link.reset s.links = true) (p : Nat) (x : Link) (q : Nat) :
    (s.setLink p x).link q = if q = p then x else s.link q := Tbl.get_set h p x q

@[simp] theorem State.link_setCore (p : Nat) (c : Core) (q : Nat) : (s.setCore p c).link q = s.link q := rfl
@[simp] theorem State.link_setCtx (c : Nat) (x : Ctx) (q : Nat) : (s.setCtx c x).link q = s.link q := rfl
@[simp] theorem State.link_setPort (p : Nat) (x : Port) (q : Nat) : (s.setPort p x).link q = s.link q := rfl
@[simp] theorem State.link_setChan (c : Nat) (x : Chan) (q : Nat) : (s.setChan c x).link q = s.link q := rfl
@[simp] theorem State.link_setLidUnit (u : Nat) (x : LidUnit) (q : Nat) : (s.setLidUnit u x).link q = s.link q := rfl
@[simp] theorem State.link_setCluster (c : Nat) (x : Cluster) (q : Nat) : (s.setCluster c x).link q = s.link q := rfl
@[simp] theorem State.link_emit (o : Out) (q : Nat) : (s.emit o).link q = s.link q := rfl

theorem State.chan_setChan {s : State} (h : Tbl.wf Chan.reset s.chans = true) (p : Nat) (x : Chan) (q : Nat) :
    (s.setChan p x).chan q = if q = p then x else s.chan q := Tbl.get_set h p x q

@[simp] theorem State.chan_setCore (p : Nat) (c : Core) (q : Nat) : (s.setCore p c).chan q = s.chan q := rfl
@[simp] theorem State.chan_setCtx (c : Nat) (x : Ctx) (q : Nat) : (s.setCtx c x).chan q = s.chan q := rfl
@[simp] theorem State.chan_setPort (p : Nat) (x : Port) (q : Nat) : (s.setPort p x).chan q = s.chan q := rfl
@[simp] theorem State.chan_setLink (l : Nat) (x : Link) (q : Nat) : (s.setLink l x).chan q = s.chan q := rfl
@[simp] theorem State.chan_setLidUnit (u : Nat) (x : LidUnit) (q : Nat) : (s.setLidUnit u x).chan q = s.chan q := rfl
@[simp] theorem State.chan_setCluster (c : Nat) (x : Cluster) (q : Nat) : (s.setCluster c x).chan q = s.chan q := rfl
@[simp] theorem State.chan_emit (o : Out) (q : Nat) : (s.emit o).chan q = s.chan q := rfl

theorem State.lidUnit_setLidUnit {s : State} (h : Tbl.wf LidUnit.reset s.lidUnits = true) (p : Nat) (x : LidUnit) (q : Nat) :
    (s.setLidUnit p x).lidUnit q = if q = p then x else s.lidUnit q := Tbl.get_set h p x q

@[simp] theorem State.lidUnit_setCore (p : Nat) (c : Core) (q : Nat) : (s.setCore p c).lidUnit q = s.lidUnit q := rfl
@[simp] theorem State.lidUnit_setCtx (c : Nat) (x : Ctx) (q : Nat) : (s.setCtx c x).lidUnit q = s.lidUnit q := rfl
@[simp] theorem State.lidUnit_setPort (p : Nat) (x : Port) (q : Nat) : (s.setPort p x).lidUnit q = s.lidUnit q := rfl
@[simp] theorem State.lidUnit_setLink (l : Nat) (x : Link) (q : Nat) : (s.setLink l x).lidUnit q = s.lidUnit q := rfl
@[simp] theorem State.lidUnit_setChan (c : Nat) (x : Chan) (q : Nat) : (s.setChan c x).lidUnit q = s.lidUnit q := rfl
@[simp] theorem State.lidUnit_setCluster (c : Nat) (x : Cluster) (q : Nat) : (s.setCluster c x).lidUnit q = s.lidUnit q := rfl
@[simp] theorem State.lidUnit_emit (o : Out) (q : Nat) : (s.emit o).lidUnit q = s.lidUnit q := rfl

end Sys2Proof.Machine
end

