-- ==== Sys2Proof/Laws/Commands.lean ====
section
/-! SUPPORT. What taking a command comes to when nothing stops it. -/

namespace Sys2Proof.Machine

/-- SCH takes the context's command: it acts on the state without it in the order (R29, R489). -/
theorem State.ctxCmd_takes {s : State} {c op : Nat} {h : HostCmd} {rest : List HostCmd} (k : s.takes c op h rest)
    (f : HostCmd → State → State) : s.ctxCmd c op f = f h { s with sch := rest } := by
  obtain ⟨_, h1, h2, h3, h4, h5, h6, h7, h8⟩ := k
  have hb : ¬(h.opcode ≠ op ∨ ((s.ctx c).busy.isSome = true ∧ op ≠ 5)) := by
    rintro (h | ⟨h, h'⟩)
    · exact h h5
    · rcases h6 with h6 | h6
      · rw [h6] at h
        exact absurd h (by decide)
      · exact h' h6
  simp only [State.ctxCmd, h1, h2, h4, Bool.not_true, Bool.or_self, Bool.false_eq_true, if_false, if_neg hb, h3, h7, h8,
    ne_eq, not_true_eq_false]

/-- SCH takes a module command (R489). -/
theorem State.moduleCmd_takes {s : State} {op : Nat} {h : HostCmd} {rest : List HostCmd} (k : s.takesModule op h rest)
    (f : HostCmd → State → State) : s.moduleCmd op f = f h { s with sch := rest } := by
  obtain ⟨h1, h2, h3, h4, h5⟩ := k
  have hb : ¬(op ≠ 1 ∧ (!s.portAdmin h.port) = true) := by
    rintro ⟨a, b⟩
    rcases h5 with h5 | h5
    · exact a h5
    · rw [h5] at b
      exact absurd b (by decide)
  simp only [State.moduleCmd, h1, h2, h4, Bool.not_true, Bool.or_self, Bool.false_eq_true, if_false, h3, if_neg hb]

/-- A write of BAR0 takes effect (R484). -/
theorem State.bar0_accepts {s : State} (h : s.acceptsWrites = true) (i : Instr) (f : State → State) : s.bar0 i f = f s := by
  simp only [State.acceptsWrites, Bool.and_eq_true, Bool.not_eq_true', beq_iff_eq] at h
  obtain ⟨⟨⟨⟨⟨h1, h2⟩, h3⟩, h4⟩, h5⟩, h6⟩ := h
  simp only [State.bar0, h1, h2, h3, h4, h5, h6, bne_self_eq_false, Bool.not_true, Bool.or_self, Bool.false_eq_true,
    if_false]

end Sys2Proof.Machine
end

