-- ==== Sys2Proof/Laws/Keeps.lean ====
section
/-! SUPPORT. What no operation of the machine undoes: the queue of commands, the count of free values drawn, the fuses,
and the canonical form of every table. One lemma per operation follows in the files `Keeps…`. -/

namespace Sys2Proof.Machine

/-- State `t` follows `s`: the queue is as it was, free values are only drawn, fuses only go one way, and the tables
stay in canonical form. -/
structure Keeps (s t : State) : Prop where
  pending : t.pending = s.pending
  drawn : s.freeCount ≤ t.freeCount
  fuses : s.fuses.follow t.fuses
  form : s.canonical = true → t.canonical = true

theorem slotKept_refl (a : Option (List Byte × List Byte)) : slotKept a a := fun _ h => h

theorem slotKept_trans {a b c : Option (List Byte × List Byte)} (h : slotKept a b) (k : slotKept b c) : slotKept a c :=
  fun x hx => k x (h x hx)

theorem Fuses.follow_refl (a : Fuses) : a.follow a :=
  ⟨slotKept_refl _, slotKept_refl _, slotKept_refl _, slotKept_refl _, BitVec.and_self, Nat.le_refl _, Nat.le_refl _, rfl,
    rfl, rfl⟩

theorem Fuses.follow_trans {a b c : Fuses} (h : a.follow b) (k : b.follow c) : a.follow c := by
  obtain ⟨h1, h2, h3, h4, h5, h6, h7, h8, h9, h10⟩ := h
  obtain ⟨k1, k2, k3, k4, k5, k6, k7, k8, k9, k10⟩ := k
  refine ⟨slotKept_trans h1 k1, slotKept_trans h2 k2, slotKept_trans h3 k3, slotKept_trans h4 k4, ?_, h6.trans k6,
    h7.trans k7, k8.trans h8, k9.trans h9, k10.trans h10⟩
  calc a.revoke &&& c.revoke = a.revoke &&& b.revoke &&& c.revoke := by rw [h5]
    _ = a.revoke &&& (b.revoke &&& c.revoke) := BitVec.and_assoc ..
    _ = a.revoke := by rw [k5, h5]

theorem Keeps.refl (s : State) : Keeps s s := ⟨rfl, Nat.le_refl _, Fuses.follow_refl _, id⟩

theorem Keeps.trans {s t u : State} (h : Keeps s t) (k : Keeps t u) : Keeps s u :=
  ⟨k.pending.trans h.pending, h.drawn.trans k.drawn, Fuses.follow_trans h.fuses k.fuses, fun c => k.form (h.form c)⟩

/-! ### Updates of fields that the relation does not look at -/

theorem keeps_mk {s t : State} {suTime suTimeHi sch mapouts mapoutCmds resumeWaits hbmCfg kakCmd fences snapWaiting parity fenceFull
    hub fab err pw boot board nextTag out} :
    Keeps s ⟨t.pending, suTime, suTimeHi, t.cores, t.ctxs, sch, t.hbm, t.lid, t.store, t.granules, t.granOwner, t.lidUnits,
      t.cache, t.lines, t.chans, mapouts, mapoutCmds, resumeWaits, hbmCfg, kakCmd, t.ports, t.links, fences, snapWaiting, parity,
      fenceFull, hub, fab, err, pw, t.fuses, boot, board, nextTag, t.freeCount, out⟩ ↔ Keeps s t :=
  ⟨fun h => ⟨h.pending, h.drawn, h.fuses, h.form⟩, fun h => ⟨h.pending, h.drawn, h.fuses, h.form⟩⟩

/-- The canonical form, table by table. -/
theorem State.canonical_iff (s : State) : s.canonical = true ↔
    s.hbm.wf = true ∧ s.lid.wf = true ∧ s.store.wf = true ∧ s.lines.wf = true ∧ Tbl.wf Core.reset s.cores = true ∧
    Tbl.wf Ctx.reset s.ctxs = true ∧ Tbl.wf Port.reset s.ports = true ∧ Tbl.wf Link.reset s.links = true ∧
    Tbl.wf Chan.reset s.chans = true ∧ Tbl.wf LidUnit.reset s.lidUnits = true ∧ Tbl.wf 0 s.granules = true ∧
    Tbl.wf none s.granOwner = true ∧ Tbl.wf CacheSet.reset s.cache = true := by
  simp only [State.canonical, Bool.and_eq_true, and_assoc]

/-! ### One table written -/

theorem State.setCore_keeps {s t : State} (h : Keeps s t) (p : Nat) (c : Core) : Keeps s (t.setCore p c) :=
  ⟨h.pending, h.drawn, h.fuses, fun k => by
    have := h.form k
    simp_all [State.canonical_iff, Tbl.set_wf]⟩

theorem State.setCtx_keeps {s t : State} (h : Keeps s t) (c : Nat) (x : Ctx) : Keeps s (t.setCtx c x) :=
  ⟨h.pending, h.drawn, h.fuses, fun k => by
    have := h.form k
    simp_all [State.canonical_iff, Tbl.set_wf]⟩

theorem State.setPort_keeps {s t : State} (h : Keeps s t) (p : Nat) (x : Port) : Keeps s (t.setPort p x) :=
  ⟨h.pending, h.drawn, h.fuses, fun k => by
    have := h.form k
    simp_all [State.canonical_iff, Tbl.set_wf]⟩

theorem State.setLink_keeps {s t : State} (h : Keeps s t) (l : Nat) (x : Link) : Keeps s (t.setLink l x) :=
  ⟨h.pending, h.drawn, h.fuses, fun k => by
    have := h.form k
    simp_all [State.canonical_iff, Tbl.set_wf]⟩

theorem State.setChan_keeps {s t : State} (h : Keeps s t) (c : Nat) (x : Chan) : Keeps s (t.setChan c x) :=
  ⟨h.pending, h.drawn, h.fuses, fun k => by
    have := h.form k
    simp_all [State.canonical_iff, Tbl.set_wf]⟩

theorem State.setLidUnit_keeps {s t : State} (h : Keeps s t) (u : Nat) (x : LidUnit) : Keeps s (t.setLidUnit u x) :=
  ⟨h.pending, h.drawn, h.fuses, fun k => by
    have := h.form k
    simp_all [State.canonical_iff, Tbl.set_wf]⟩

theorem State.setGran_keeps {s t : State} (h : Keeps s t) (g : Nat) (w : DWord) : Keeps s (t.setGran g w) :=
  ⟨h.pending, h.drawn, h.fuses, fun k => by
    have := h.form k
    simp_all [State.canonical_iff, State.setGran, Tbl.set_wf]⟩

theorem State.setGranOwner_keeps {s t : State} (h : Keeps s t) (g : Nat) (o : Option Nat) : Keeps s (t.setGranOwner g o) :=
  ⟨h.pending, h.drawn, h.fuses, fun k => by
    have := h.form k
    simp_all [State.canonical_iff, State.setGranOwner, Tbl.set_wf]⟩

/-- One set of the lid cache is written. -/
theorem keeps_cache {s t : State} (h : Keeps s t) (k : Nat) (v : CacheSet) :
    Keeps s { t with cache := Tbl.set CacheSet.reset t.cache k v } :=
  ⟨h.pending, h.drawn, h.fuses, fun c => by
    have := h.form c
    simp_all [State.canonical_iff, Tbl.set_wf]⟩

/-- A memory is replaced by one in canonical form. -/
theorem State.setMem_keeps {s t : State} (h : Keeps s t) (sp : Nat) (m : Memory)
    (hm : t.canonical = true → m.wf = true) : Keeps s (t.setMem sp m) := by
  refine ⟨?_, ?_, ?_, fun c => ?_⟩
  · unfold State.setMem; split <;> exact h.pending
  · unfold State.setMem; split <;> exact h.drawn
  · unfold State.setMem; split <;> exact h.fuses
  · have hc := h.form c
    have := hm hc
    unfold State.setMem
    split <;> simp_all [State.canonical_iff]

theorem keeps_hbm {s t : State} (h : Keeps s t) (m : Memory) (hm : t.canonical = true → m.wf = true) :
    Keeps s { t with hbm := m } := State.setMem_keeps h 0 m hm

theorem keeps_store {s t : State} (h : Keeps s t) (m : Memory) (hm : t.canonical = true → m.wf = true) :
    Keeps s { t with store := m } := State.setMem_keeps h 2 m hm

theorem keeps_lines {s t : State} (h : Keeps s t) (m : Memory) (hm : t.canonical = true → m.wf = true) :
    Keeps s { t with lines := m } := State.setMem_keeps h 3 m hm

/-- HBM is put back to what another state that follows holds. -/
theorem keeps_hbmOf {s t u : State} (h : Keeps s t) (k : Keeps s u) : Keeps s { t with hbm := u.hbm } :=
  ⟨h.pending, h.drawn, h.fuses, fun c => by
    have a := h.form c
    have b := k.form c
    simp_all [State.canonical_iff]⟩

/-- A free value is drawn. -/
theorem keeps_draw {s t : State} (h : Keeps s t) : Keeps s { t with freeCount := t.freeCount + 1 } :=
  ⟨h.pending, h.drawn.trans (Nat.le_succ _), h.fuses, h.form⟩

/-! ### Answers that carry a state -/

/-- Every state an operation answers with follows. -/
def KeepsO (s : State) (o : Option State) : Prop := ∀ u, o = some u → Keeps s u

theorem keeps_pair {α : Type} {s u : State} {x : α} {p : α × State} (h : Keeps s p.2) (e : p = (x, u)) : Keeps s u := by
  rw [e] at h
  exact h

theorem keeps_pairL {α : Type} {s u : State} {x : α} {p : State × α} (h : Keeps s p.1) (e : p = (u, x)) : Keeps s u := by
  rw [e] at h
  exact h

theorem keeps_opt {s u : State} {o : Option State} (h : KeepsO s o) (e : o = some u) : Keeps s u := h u e

/-- Both branches of a choice follow. -/
theorem keeps_ite {s a b : State} {p : Prop} [Decidable p] (ha : Keeps s a) (hb : Keeps s b) :
    Keeps s (if p then a else b) := by
  split <;> assumption

theorem keepsO_none (s : State) : KeepsO s none := fun _ h => nomatch h

theorem keepsO_some {s u : State} (h : Keeps s u) : KeepsO s (some u) := fun _ e => by
  injection e with e
  exact e ▸ h

theorem keeps_getD {s t : State} {o : Option State} (h : Keeps s t) (k : KeepsO s o) : Keeps s (o.getD t) := by
  cases o with
  | none => exact h
  | some u => exact k u rfl

theorem keeps_foldl {α : Type} {s t : State} {f : State → α → State} {l : List α} (h : Keeps s t)
    (hf : ∀ u x, Keeps s u → Keeps s (f u x)) : Keeps s (l.foldl f t) := by
  induction l generalizing t with
  | nil => exact h
  | cons x r ih => exact ih (hf t x h)

/-- A fold whose accumulator carries a state. -/
theorem keeps_foldl_by {α γ : Type} (π : γ → State) {s : State} {f : γ → α → γ} {l : List α} {b : γ} (h : Keeps s (π b))
    (hf : ∀ u x, Keeps s (π u) → Keeps s (π (f u x))) : Keeps s (π (l.foldl f b)) := by
  induction l generalizing b with
  | nil => exact h
  | cons x r ih => exact ih (hf b x h)

theorem keeps_foldl_snd {α β : Type} {s : State} {f : β × State → α → β × State} {l : List α} {b : β × State}
    (h : Keeps s b.2) (hf : ∀ u x, Keeps s u.2 → Keeps s (f u x).2) : Keeps s (l.foldl f b).2 := by
  induction l generalizing b with
  | nil => exact h
  | cons x r ih => exact ih (hf b x h)

theorem keeps_foldl_fst {α β : Type} {s : State} {f : State × β → α → State × β} {l : List α} {b : State × β}
    (h : Keeps s b.1) (hf : ∀ u x, Keeps s u.1 → Keeps s (f u x).1) : Keeps s (l.foldl f b).1 := by
  induction l generalizing b with
  | nil => exact h
  | cons x r ih => exact ih (hf b x h)

end Sys2Proof.Machine
end

