-- ==== Sys2Proof/Laws/Memory.lean ====
section
/-! SUPPORT. Every operation on a memory keeps its canonical form. -/

namespace Sys2Proof.Machine

theorem Memory.wf_iff (m : Memory) : m.wf = true ↔
    Tbl.wf 0 m.bytes = true ∧ keysOkFrom 0 m.poison = true ∧ Tbl.wf none m.errs = true := by
  simp only [Memory.wf, Bool.and_eq_true, and_assoc]

theorem Memory.reset_wf : Memory.reset.wf = true := by decide

theorem markUnit_wf {l : List Nat} (h : keysOkFrom 0 l = true) (u : Nat) (bm po : Bool) :
    keysOkFrom 0 (markUnit l u bm po) = true := by
  unfold markUnit
  split
  · exact keyInsert_wf u h
  · exact keyRemoveRun_wf u 1 h

/-- Writing the bytes of one piece. -/
theorem Memory.put_wf {m : Memory} (h : m.wf = true) (key : Nat) (bs : List Byte) (bm po : Bool) :
    (m.put key bs bm po).wf = true := by
  rw [Memory.wf_iff] at h ⊢
  refine ⟨Tbl.setRun_wf h.1 _ _, ?_, ?_⟩
  · simp only [Memory.put]
    split
    · exact markUnit_wf h.2.1 _ _ _
    · exact h.2.1
  · simp only [Memory.put]
    split
    · exact Tbl.set_wf h.2.2 _ _
    · exact h.2.2

/-- Zeroing a range. -/
theorem Memory.clear_wf {m : Memory} (h : m.wf = true) (key n : Nat) : (m.clear key n).wf = true := by
  rw [Memory.wf_iff] at h ⊢
  exact ⟨Tbl.clearRun_wf h.1 _ _, keyRemoveRun_wf _ _ h.2.1, Tbl.clearRun_wf h.2.2 _ _⟩

/-- New marks, and stored errors found. -/
theorem Memory.marks_wf {m : Memory} (h : m.wf = true) {p : List Nat} (hp : keysOkFrom 0 p = true)
    {e : Tbl (Option Bool)} (he : Tbl.wf none e = true) : ({ m with poison := p, errs := e } : Memory).wf = true := by
  rw [Memory.wf_iff] at h ⊢
  exact ⟨h.1, hp, he⟩

/-- New bytes and marks. -/
theorem Memory.fill_wf {m : Memory} (h : m.wf = true) {b : Tbl Byte} (hb : Tbl.wf 0 b = true) {p : List Nat}
    (hp : keysOkFrom 0 p = true) : ({ m with bytes := b, poison := p } : Memory).wf = true := by
  rw [Memory.wf_iff] at h ⊢
  exact ⟨hb, hp, h.2.2⟩

theorem State.mem_wf {s : State} (h : s.canonical = true) (sp : Nat) : (s.mem sp).wf = true := by
  rw [State.canonical_iff] at h
  unfold State.mem
  split
  · exact h.1
  · exact h.2.1
  · exact h.2.2.2.1
  · exact h.2.2.1

theorem State.hbm_wf {s : State} (h : s.canonical = true) : s.hbm.wf = true := State.mem_wf h 0
theorem State.lid_wf {s : State} (h : s.canonical = true) : s.lid.wf = true := State.mem_wf h 1
theorem State.store_wf {s : State} (h : s.canonical = true) : s.store.wf = true := State.mem_wf h 2
theorem State.lines_wf {s : State} (h : s.canonical = true) : s.lines.wf = true := State.mem_wf h 3

/-- The memories at reset. -/
theorem State.reset_memories_wf : State.reset.hbm.wf = true ∧ State.reset.lid.wf = true ∧ State.reset.store.wf = true ∧
    State.reset.lines.wf = true := by
  decide

end Sys2Proof.Machine
end

