-- ==== Sys2Proof/Laws/KeepsUnits.lean ====
section
/-! SUPPORT. The shared operations: reports, memory, windows, flags, operands, counters keep what `Keeps` says: one lemma per operation. -/

namespace Sys2Proof.Machine

/-! ### `Machine/Ops.lean` -/

theorem State.modCore_keeps {s t : State} (h : Keeps s t) (p : Nat) (f : Core → Core) :
    Keeps s (State.modCore t p f) := by
  unfold State.modCore
  try dsimp -iota only
  repeat' (first | with_reducible assumption | simp only [↓keeps_mk] | with_reducible apply State.setCore_keeps)

theorem State.modCtx_keeps {s t : State} (h : Keeps s t) (c : Nat) (f : Ctx → Ctx) :
    Keeps s (State.modCtx t c f) := by
  unfold State.modCtx
  try dsimp -iota only
  repeat' (first | with_reducible assumption | simp only [↓keeps_mk] | with_reducible apply State.setCtx_keeps)

theorem State.modPort_keeps {s t : State} (h : Keeps s t) (p : Nat) (f : Port → Port) :
    Keeps s (State.modPort t p f) := by
  unfold State.modPort
  try dsimp -iota only
  repeat' (first | with_reducible assumption | simp only [↓keeps_mk] | with_reducible apply State.setPort_keeps)

theorem State.modLink_keeps {s t : State} (h : Keeps s t) (l : Nat) (f : Link → Link) :
    Keeps s (State.modLink t l f) := by
  unfold State.modLink
  try dsimp -iota only
  repeat' (first | with_reducible assumption | simp only [↓keeps_mk] | with_reducible apply State.setLink_keeps)

theorem State.modChan_keeps {s t : State} (h : Keeps s t) (c : Nat) (f : Chan → Chan) :
    Keeps s (State.modChan t c f) := by
  unfold State.modChan
  try dsimp -iota only
  repeat' (first | with_reducible assumption | simp only [↓keeps_mk] | with_reducible apply State.setChan_keeps)

theorem State.setCluster_keeps {s t : State} (h : Keeps s t) (c : Nat) (x : Cluster) :
    Keeps s (State.setCluster t c x) := by
  unfold State.setCluster
  try dsimp -iota only
  repeat' (first | with_reducible assumption | simp only [↓keeps_mk])

theorem State.draw_keeps {s t : State} (h : Keeps s t) : Keeps s (State.draw t).2 := keeps_draw h

theorem State.clearParity_keeps {s t : State} (h : Keeps s t) (x : ParitySite) :
    Keeps s (State.clearParity t x) := by
  unfold State.clearParity
  try dsimp -iota only
  repeat' (first | with_reducible assumption | simp only [↓keeps_mk])

theorem State.emit_keeps {s t : State} (h : Keeps s t) (o : Out) :
    Keeps s (State.emit t o) := by
  unfold State.emit
  try dsimp -iota only
  repeat' (first | with_reducible assumption | simp only [↓keeps_mk])

theorem State.modStep_keeps {s t : State} (h : Keeps s t) (c : Nat) (f : StepSt → StepSt) :
    Keeps s (State.modStep t c f) := by
  unfold State.modStep
  try dsimp -iota only
  repeat' (first | with_reducible assumption | simp only [↓keeps_mk] | with_reducible apply State.modCtx_keeps)

theorem State.modRegs_keeps {s t : State} (h : Keeps s t) (c : Nat) (f : CtxRegs → CtxRegs) :
    Keeps s (State.modRegs t c f) := by
  unfold State.modRegs
  try dsimp -iota only
  repeat' (first | with_reducible assumption | simp only [↓keeps_mk] | with_reducible apply State.modCtx_keeps)

theorem State.each_keeps {s t : State} (h : Keeps s t) (l : List Nat) (f : State → Nat → State) (hf : ∀ u x1, Keeps s u → Keeps s (f u x1)) :
    Keeps s (State.each t l f) := by
  unfold State.each
  try dsimp -iota only
  repeat' (first | with_reducible assumption | simp only [↓keeps_mk] | with_reducible apply keeps_foldl)

theorem State.raiseVector_keeps {s t : State} (h : Keeps s t) (port vec : Nat) :
    Keeps s (State.raiseVector t port vec) := by
  unfold State.raiseVector
  try dsimp -iota only
  repeat' (first
    | with_reducible assumption | simp only [↓keeps_mk] | with_reducible apply State.emit_keeps
    | with_reducible apply State.setPort_keeps | intro _ | split)

theorem State.storeRecord_keeps {s t : State} (h : Keeps s t) (port : Nat) (r : List Byte) (irq : Bool) :
    Keeps s (State.storeRecord t port r irq) := by
  unfold State.storeRecord
  try dsimp -iota only
  repeat' (first
    | with_reducible assumption | simp only [↓keeps_mk] | with_reducible apply State.raiseVector_keeps
    | with_reducible apply State.setPort_keeps | intro _ | split)

theorem State.postRecord_keeps {s t : State} (h : Keeps s t) (port : Nat) (r : List Byte) (irq : Bool) :
    Keeps s (State.postRecord t port r irq) := by
  unfold State.postRecord
  try dsimp -iota only
  repeat' (first
    | with_reducible assumption | simp only [↓keeps_mk] | with_reducible apply State.setPort_keeps
    | with_reducible apply State.storeRecord_keeps | intro _ | split)

theorem State.drainWaiting_keeps {s t : State} (h : Keeps s t) (port : Nat) (l : List (List Byte × Nat × Bool)) :
    Keeps s (State.drainWaiting t port l) := by
  induction l generalizing t with
  | nil => exact State.modPort_keeps h _ _
  | cons e r ih =>
    unfold State.drainWaiting
    split
    · exact State.modPort_keeps h _ _
    · exact ih (State.storeRecord_keeps h _ _ _)

theorem State.event_keeps {s t : State} (h : Keeps s t) (c op : Nat) (code : Word) :
    Keeps s (State.event t c op code) := by
  unfold State.event
  try dsimp -iota only
  repeat' (first | with_reducible assumption | simp only [↓keeps_mk] | with_reducible apply State.postRecord_keeps)

theorem State.complete_keeps {s t : State} (h : Keeps s t) (h0 : HostCmd) (status : Nat) (code : Word) (ctx aux : Nat) (result : List Byte) :
    Keeps s (State.complete t h0 status code ctx aux result) := by
  unfold State.complete
  try dsimp -iota only
  repeat' (first | with_reducible assumption | simp only [↓keeps_mk] | with_reducible apply State.postRecord_keeps)

theorem State.finish_keeps {s t : State} (h : Keeps s t) (h0 : HostCmd) (status : Nat) (code : Word) :
    Keeps s (State.finish t h0 status code) := by
  unfold State.finish
  try dsimp -iota only
  repeat' (first | with_reducible assumption | simp only [↓keeps_mk] | with_reducible apply State.complete_keeps)

theorem State.signalPort_keeps {s t : State} (h : Keeps s t) (sevs : List Nat) (port : Nat) :
    Keeps s (State.signalPort t sevs port) := by
  unfold State.signalPort
  try dsimp -iota only
  repeat' (first
    | with_reducible assumption | simp only [↓keeps_mk] | with_reducible apply State.emit_keeps
    | with_reducible apply State.raiseVector_keeps | with_reducible apply State.setPort_keeps | intro _ | split)

theorem State.report_keeps {s t : State} (h : Keeps s t) (code : Word) (w : Where) :
    Keeps s (State.report t code w) := by
  unfold State.report
  try dsimp -iota only
  repeat' (first | with_reducible assumption | simp only [↓keeps_mk] | with_reducible apply State.signalPort_keeps)

theorem State.ckFail_keeps {s t : State} (h : Keeps s t) (c code : Nat) :
    Keeps s (State.ckFail t c code) := by
  unfold State.ckFail
  try dsimp -iota only
  repeat' (first
    | with_reducible assumption | simp only [↓keeps_mk] | with_reducible apply State.complete_keeps
    | with_reducible apply State.modCtx_keeps | with_reducible apply State.report_keeps
    | with_reducible apply keeps_foldl | with_reducible apply keeps_foldl_snd
    | with_reducible apply keeps_foldl_fst | refine keeps_pair ?_ (by with_reducible assumption)
    | refine keeps_opt ?_ (by with_reducible assumption) | refine keeps_pairL ?_ (by with_reducible assumption)
    | intro _ | split)

theorem State.faultCtx_keeps {s t : State} (h : Keeps s t) (c : Nat) (code : Word) :
    Keeps s (State.faultCtx t c code) := by
  unfold State.faultCtx
  try dsimp -iota only
  repeat' (first
    | with_reducible assumption | simp only [↓keeps_mk] | with_reducible apply State.ckFail_keeps
    | with_reducible apply State.each_keeps | with_reducible apply State.event_keeps
    | with_reducible apply State.modCore_keeps | with_reducible apply State.setCtx_keeps
    | with_reducible apply keeps_foldl | with_reducible apply keeps_foldl_snd
    | with_reducible apply keeps_foldl_fst | intro _ | split)

theorem State.raise_keeps {s t : State} (h : Keeps s t) (code : Word) (w : Where) :
    Keeps s (State.raise t code w) := by
  unfold State.raise
  try dsimp -iota only
  repeat' (first
    | with_reducible assumption | simp only [↓keeps_mk] | with_reducible apply State.faultCtx_keeps
    | with_reducible apply State.report_keeps | refine keeps_pair ?_ (by with_reducible assumption)
    | refine keeps_opt ?_ (by with_reducible assumption) | refine keeps_pairL ?_ (by with_reducible assumption)
    | intro _ | split)

theorem State.raiseCore_keeps {s t : State} (h : Keeps s t) (code p addr : Nat) :
    Keeps s (State.raiseCore t code p addr) := by
  unfold State.raiseCore
  try dsimp -iota only
  repeat' (first | with_reducible assumption | simp only [↓keeps_mk] | with_reducible apply State.raise_keeps)

/-! ### `Machine/Mem.lean` -/

theorem State.noteHbm_keeps {s t : State} (h : Keeps s t) (ch x : Nat) (a : Option Nat) (ue : Bool) :
    Keeps s (State.noteHbm t ch x a ue) := by
  unfold State.noteHbm
  try dsimp -iota only
  repeat' (first
    | with_reducible assumption | simp only [↓keeps_mk] | with_reducible apply State.modChan_keeps
    | with_reducible apply State.report_keeps)

theorem State.noteLid_keeps {s t : State} (h : Keeps s t) (sl : Nat) (c : Option Nat) (addr : Nat) (ue : Bool) :
    Keeps s (State.noteLid t sl c addr ue) := by
  unfold State.noteLid
  try dsimp -iota only
  repeat' (first
    | with_reducible assumption | simp only [↓keeps_mk] | with_reducible apply State.report_keeps
    | with_reducible apply State.setCluster_keeps)

theorem State.noteError_keeps {s t : State} (h : Keeps s t) (sp key addr : Nat) (ue : Bool) :
    Keeps s (State.noteError t sp key addr ue) := by
  unfold State.noteError
  try dsimp -iota only
  repeat' (first
    | with_reducible assumption | simp only [↓keeps_mk] | with_reducible apply State.modCore_keeps
    | with_reducible apply State.noteLid_keeps | with_reducible apply State.report_keeps
    | refine keeps_pair ?_ (by with_reducible assumption) | refine keeps_opt ?_ (by with_reducible assumption)
    | refine keeps_pairL ?_ (by with_reducible assumption) | intro _ | split)

theorem State.memoryPause_keeps {s t : State} (h : Keeps s t) (c : Nat) :
    Keeps s (State.memoryPause t c) := by
  unfold State.memoryPause
  try dsimp -iota only
  repeat' (first
    | with_reducible assumption | simp only [↓keeps_mk] | with_reducible apply State.setCtx_keeps | intro _ | split)

theorem State.refuseMapout_keeps {s t : State} (h : Keeps s t) (ch : Nat) (owners : List Nat) :
    Keeps s (State.refuseMapout t ch owners) := by
  unfold State.refuseMapout
  try dsimp -iota only
  repeat' (first
    | with_reducible assumption | simp only [↓keeps_mk] | with_reducible apply State.raise_keeps
    | with_reducible apply State.report_keeps | with_reducible apply keeps_foldl
    | with_reducible apply keeps_foldl_snd | with_reducible apply keeps_foldl_fst | intro _ | split)

theorem State.triggerMapout_keeps {s t : State} (h : Keeps s t) (ch : Nat) :
    Keeps s (State.triggerMapout t ch) := by
  unfold State.triggerMapout
  try dsimp -iota only
  repeat' (first
    | with_reducible assumption | simp only [↓keeps_mk] | with_reducible apply State.each_keeps
    | with_reducible apply State.memoryPause_keeps | with_reducible apply State.refuseMapout_keeps
    | with_reducible apply State.setChan_keeps | with_reducible apply keeps_foldl
    | with_reducible apply keeps_foldl_snd | with_reducible apply keeps_foldl_fst | intro _ | split)

theorem State.retirePage_keeps {s t : State} (h : Keeps s t) (ch x : Nat) :
    Keeps s (State.retirePage t ch x) := by
  unfold State.retirePage
  try dsimp -iota only
  repeat' (first
    | with_reducible assumption | simp only [↓keeps_mk] | with_reducible apply State.memoryPause_keeps
    | with_reducible apply State.report_keeps | with_reducible apply State.setChan_keeps
    | with_reducible apply State.triggerMapout_keeps | refine keeps_pair ?_ (by with_reducible assumption)
    | refine keeps_opt ?_ (by with_reducible assumption) | refine keeps_pairL ?_ (by with_reducible assumption)
    | intro _ | split)

theorem State.poisonCode_keeps {s t : State} (h : Keeps s t) (ch x : Nat) : Keeps s (State.poisonCode t ch x) := by
  unfold State.poisonCode
  split
  · exact keeps_hbm h _ fun c => Memory.marks_wf (State.hbm_wf c) (keyInsert_wf _ ((Memory.wf_iff _).1 (State.hbm_wf c)).2.1)
      ((Memory.wf_iff _).1 (State.hbm_wf c)).2.2
  · exact State.modChan_keeps h _ _

theorem State.clearError_keeps {s t : State} (h : Keeps s t) (ch x : Nat) :
    Keeps s (State.clearError t ch x) := by
  unfold State.clearError
  try dsimp -iota only
  repeat' (first
    | with_reducible assumption | simp only [↓keeps_mk] | with_reducible apply State.modChan_keeps
    | with_reducible apply State.poisonCode_keeps | refine keeps_pair ?_ (by with_reducible assumption)
    | refine keeps_opt ?_ (by with_reducible assumption) | refine keeps_pairL ?_ (by with_reducible assumption)
    | intro _ | split)

theorem State.copyRow_keeps {s t : State} (h : Keeps s t) (ch x : Nat) :
    Keeps s (State.copyRow t ch x) := by
  unfold State.copyRow
  try dsimp -iota only
  repeat' (first
    | with_reducible assumption | simp only [↓keeps_mk] | with_reducible apply State.clearError_keeps
    | with_reducible apply keeps_foldl | with_reducible apply keeps_foldl_snd
    | with_reducible apply keeps_foldl_fst | intro _)

theorem State.repairRow_keeps {s t : State} (h : Keeps s t) (ch x : Nat) :
    Keeps s (State.repairRow t ch x) := by
  unfold State.repairRow
  try dsimp -iota only
  repeat' (first
    | with_reducible assumption | simp only [↓keeps_mk] | with_reducible apply State.copyRow_keeps
    | with_reducible apply State.modChan_keeps | with_reducible apply State.report_keeps
    | with_reducible apply State.retirePage_keeps | with_reducible apply State.setChan_keeps
    | refine keeps_pair ?_ (by with_reducible assumption) | refine keeps_opt ?_ (by with_reducible assumption)
    | refine keeps_pairL ?_ (by with_reducible assumption) | intro _ | split)

theorem State.rowEvent_keeps {s t : State} (h : Keeps s t) (ch x : Nat) (ue : Bool) :
    Keeps s (State.rowEvent t ch x ue) := by
  unfold State.rowEvent
  try dsimp -iota only
  repeat' (first
    | with_reducible assumption | simp only [↓keeps_mk] | with_reducible apply State.modChan_keeps
    | with_reducible apply State.repairRow_keeps | intro _ | split)

theorem State.readUnit_keeps {s t : State} (h : Keeps s t) (ch x : Nat) :
    Keeps s (State.readUnit t ch x) := by
  unfold State.readUnit
  try dsimp -iota only
  repeat' (first
    | with_reducible assumption | simp only [↓keeps_mk] | with_reducible apply State.clearError_keeps
    | with_reducible apply State.noteHbm_keeps | with_reducible apply State.rowEvent_keeps
    | refine keeps_pair ?_ (by with_reducible assumption) | refine keeps_opt ?_ (by with_reducible assumption)
    | refine keeps_pairL ?_ (by with_reducible assumption) | intro _ | split)

theorem State.countRead_keeps {s t : State} (h : Keeps s t) (ch : Nat) : Keeps s (State.countRead t ch) := by
  refine keeps_foldl h fun u p hu => ?_
  dsimp only
  split
  · exact keeps_draw (State.setPort_keeps hu _ _)
  · exact hu

theorem State.resends_keeps {s t : State} (h : Keeps s t) (ch a n : Nat) : Keeps s (State.resends t ch a n) := by
  induction n generalizing t with
  | zero => exact h
  | succ n ih => exact ih (State.report_keeps (State.modChan_keeps h _ _) _ _)

theorem State.popXfer_keeps {s t : State} (h : Keeps s t) (ch : Nat) :
    Keeps s (State.popXfer t ch).2 := by
  unfold State.popXfer
  try dsimp -iota only
  repeat' (first
    | with_reducible assumption | with_reducible apply State.modChan_keeps
    | refine keeps_pair ?_ (by with_reducible assumption) | refine keeps_opt ?_ (by with_reducible assumption)
    | refine keeps_pairL ?_ (by with_reducible assumption) | intro _ | split)

theorem State.xferFail_keeps {s t : State} (h : Keeps s t) (ch a : Nat) :
    Keeps s (State.xferFail t ch a) := by
  unfold State.xferFail
  try dsimp -iota only
  repeat' (first
    | with_reducible assumption | simp only [↓keeps_mk] | with_reducible apply State.modChan_keeps
    | with_reducible apply State.report_keeps)

theorem State.channelFault_keeps {s t : State} (h : Keeps s t) (ch : Nat) :
    Keeps s (State.channelFault t ch) := by
  unfold State.channelFault
  try dsimp -iota only
  repeat' (first
    | with_reducible assumption | simp only [↓keeps_mk] | with_reducible apply State.modChan_keeps
    | with_reducible apply State.report_keeps | with_reducible apply State.triggerMapout_keeps | intro _ | split)

theorem State.chanRead_keeps {s t : State} (h : Keeps s t) (ch a x : Nat) (named found : List Nat) :
    Keeps s (State.chanRead t ch a x named found).2 := by
  unfold State.chanRead
  try dsimp -iota only
  repeat' (first
    | with_reducible assumption | with_reducible apply State.countRead_keeps
    | with_reducible apply State.popXfer_keeps | with_reducible apply State.readUnit_keeps
    | with_reducible apply State.resends_keeps | with_reducible apply State.xferFail_keeps
    | with_reducible apply keeps_foldl | with_reducible apply keeps_foldl_snd
    | with_reducible apply keeps_foldl_fst | refine keeps_pair ?_ (by with_reducible assumption)
    | refine keeps_opt ?_ (by with_reducible assumption) | refine keeps_pairL ?_ (by with_reducible assumption)
    | intro _ | split)

theorem State.markBlock_keeps {s t : State} (h : Keeps s t) (b : Nat) : Keeps s (State.markBlock t b) :=
  keeps_hbm h _ fun c => Memory.marks_wf (State.hbm_wf c)
    (keyInsert_foldl_wf _ _ ((Memory.wf_iff _).1 (State.hbm_wf c)).2.1) ((Memory.wf_iff _).1 (State.hbm_wf c)).2.2

theorem State.discardBlock_keeps {s t : State} (h : Keeps s t) (b : Nat) (e : Buffered) :
    Keeps s (State.discardBlock t b e) :=
  keeps_hbm h _ fun c => by
    have hw := (Memory.wf_iff _).1 (State.hbm_wf c)
    exact Memory.fill_wf (State.hbm_wf c) (Tbl.setRun_wf hw.1 _ _) hw.2.1

theorem State.sendBlock_keeps {s t : State} (h : Keeps s t) (ch b : Nat) (e : Buffered) :
    Keeps s (State.sendBlock t ch b e) := by
  unfold State.sendBlock
  try dsimp -iota only
  repeat' (first
    | with_reducible assumption | with_reducible apply State.channelFault_keeps
    | with_reducible apply State.discardBlock_keeps | with_reducible apply State.markBlock_keeps
    | with_reducible apply State.popXfer_keeps | with_reducible apply State.resends_keeps
    | with_reducible apply State.xferFail_keeps | refine keeps_pair ?_ (by with_reducible assumption)
    | refine keeps_opt ?_ (by with_reducible assumption) | refine keeps_pairL ?_ (by with_reducible assumption)
    | intro _ | split)

theorem State.turnBus_keeps {s t : State} (h : Keeps s t) (ch : Nat) :
    Keeps s (State.turnBus t ch) := by
  unfold State.turnBus
  try dsimp -iota only
  repeat' (first
    | with_reducible assumption | simp only [↓keeps_mk] | with_reducible apply State.modChan_keeps
    | with_reducible apply State.sendBlock_keeps | with_reducible apply keeps_foldl
    | with_reducible apply keeps_foldl_snd | with_reducible apply keeps_foldl_fst | intro _)

theorem State.chanWrite_keeps {s t : State} (h : Keeps s t) (ch a x : Nat) (old : List Byte) (units whole : List Nat) :
    Keeps s (State.chanWrite t ch a x old units whole) := by
  unfold State.chanWrite
  try dsimp -iota only
  repeat' (first
    | with_reducible assumption | simp only [↓keeps_mk] | with_reducible apply State.modChan_keeps
    | with_reducible apply State.turnBus_keeps | with_reducible apply keeps_foldl
    | with_reducible apply keeps_foldl_snd | with_reducible apply keeps_foldl_fst | intro _ | split)

theorem State.discover_keeps {s t : State} (h : Keeps s t) (sp key addr : Nat) : Keeps s (State.discover t sp key addr) := by
  unfold State.discover
  dsimp only
  split
  · exact h
  · refine State.noteError_keeps (State.setMem_keeps h sp _ fun c => ?_) _ _ _ _
    have hw := (Memory.wf_iff _).1 (State.mem_wf c sp)
    refine Memory.marks_wf (State.mem_wf c sp) ?_ (Tbl.set_wf hw.2.2 _ _)
    split
    · exact markUnit_wf hw.2.1 _ _ _
    · exact hw.2.1

theorem State.writeBack_keeps {s t : State} (h : Keeps s t) (b : Nat) : Keeps s (State.writeBack t b) := by
  have h1 : Keeps s ([0, 1, 2, 3].foldl (fun t i => t.discover 3 (b * 256 + 64 * i) (b * 256 + 64 * i)) t) :=
    keeps_foldl h fun u i hu => State.discover_keeps hu _ _ _
  unfold State.writeBack
  dsimp only
  generalize ([0, 1, 2, 3].foldl (fun t i => t.discover 3 (b * 256 + 64 * i) (b * 256 + 64 * i)) t) = u at h1 ⊢
  split
  · exact h1
  · split
    · exact h1
    · refine State.chanWrite_keeps (keeps_hbm h1 _ fun c => ?_) _ _ _ _ _ _
      have hw := (Memory.wf_iff _).1 (State.hbm_wf c)
      exact Memory.fill_wf (State.hbm_wf c) (Tbl.setRun_wf hw.1 _ _)
        (keys_foldl_wf (fun l i hl => markUnit_wf hl _ _ _) _ hw.2.1)

theorem State.dropWay_keeps {s t : State} (h : Keeps s t) (key w b : Nat) : Keeps s (State.dropWay t key w b) :=
  keeps_cache (keeps_lines h _ fun c => Memory.clear_wf (State.lines_wf c) _ _) _ _

theorem State.checkTags_keeps {s t : State} (h : Keeps s t) (key a : Nat) : Keeps s (State.checkTags t key a) := by
  unfold State.checkTags
  dsimp only
  split
  · exact h
  · exact State.noteLid_keeps (keeps_cache h _ _) _ _ _ _
  · refine State.raise_keeps (State.setCluster_keeps ?_ _ _) _ _
    split
    · exact State.dropWay_keeps (keeps_cache h _ _) _ _ _
    · exact keeps_cache h _ _

theorem State.evictWay_keeps {s t : State} (h : Keeps s t) (key w a : Nat) :
    Keeps s (State.evictWay t key w a) := by
  unfold State.evictWay
  try dsimp -iota only
  repeat' (first
    | with_reducible assumption | simp only [↓keeps_mk] | with_reducible apply State.checkTags_keeps
    | with_reducible apply State.dropWay_keeps | with_reducible apply State.writeBack_keeps
    | refine keeps_pair ?_ (by with_reducible assumption) | refine keeps_opt ?_ (by with_reducible assumption)
    | refine keeps_pairL ?_ (by with_reducible assumption) | intro _ | split)

theorem State.evict_keeps {s t : State} (h : Keeps s t) (a : Nat) :
    Keeps s (State.evict t a) := by
  unfold State.evict
  try dsimp -iota only
  repeat' (first
    | with_reducible assumption | simp only [↓keeps_mk] | with_reducible apply State.evictWay_keeps
    | refine keeps_pair ?_ (by with_reducible assumption) | refine keeps_opt ?_ (by with_reducible assumption)
    | refine keeps_pairL ?_ (by with_reducible assumption) | intro _ | split)

theorem State.useWay_keeps {s t : State} (h : Keeps s t) (key w b : Nat) (dirty : Bool) :
    Keeps s (State.useWay t key w b dirty) := keeps_cache h _ _

theorem State.fillLine_keeps {s t : State} (h : Keeps s t) (ch b x : Nat) : Keeps s (State.fillLine t ch b x) := by
  refine keeps_lines (State.chanRead_keeps h _ _ _ _ _) _ fun c => ?_
  have hw := (Memory.wf_iff _).1 (State.lines_wf c)
  exact Memory.fill_wf (State.lines_wf c) (Tbl.setRun_wf hw.1 _ _)
    (keys_foldl_wf (fun l i hl => markUnit_wf hl _ _ _) _ hw.2.1)

theorem State.allocate_keeps {s t : State} (h : Keeps s t) (key ch b x : Nat) (fill dirty : Bool) :
    Keeps s (State.allocate t key ch b x fill dirty) := by
  unfold State.allocate
  try dsimp -iota only
  repeat' (first
    | with_reducible assumption | simp only [↓keeps_mk] | with_reducible apply State.evictWay_keeps
    | with_reducible apply State.fillLine_keeps | with_reducible apply State.useWay_keeps | intro _ | split)

theorem State.lookUp_keeps {s t : State} (h : Keeps s t) (c ch b x : Nat) (hint fill dirty : Bool) :
    Keeps s (State.lookUp t c ch b x hint fill dirty).2 := by
  unfold State.lookUp
  try dsimp -iota only
  repeat' (first
    | with_reducible assumption | with_reducible apply State.allocate_keeps
    | with_reducible apply State.checkTags_keeps | with_reducible apply State.useWay_keeps
    | refine keeps_pair ?_ (by with_reducible assumption) | refine keeps_opt ?_ (by with_reducible assumption)
    | refine keeps_pairL ?_ (by with_reducible assumption) | intro _ | split)

theorem State.fetchBlock_keeps {s t : State} (h : Keeps s t) (t0 : Target) (a n : Nat) (hint : Bool) :
    Keeps s (State.fetchBlock t t0 a n hint).2 := by
  unfold State.fetchBlock
  try dsimp -iota only
  repeat' (first
    | with_reducible assumption | with_reducible apply State.chanRead_keeps
    | with_reducible apply State.lookUp_keeps | refine keeps_pair ?_ (by with_reducible assumption)
    | refine keeps_opt ?_ (by with_reducible assumption) | refine keeps_pairL ?_ (by with_reducible assumption)
    | intro _ | split)

theorem State.readPiece_keeps {s t : State} (h : Keeps s t) (t0 : Target) (bad : List Nat) (d : Data) (a n : Nat) :
    Keeps s (State.readPiece t t0 bad d a n).2 := by
  unfold State.readPiece
  try dsimp -iota only
  repeat' (first
    | with_reducible assumption | with_reducible apply State.discover_keeps
    | refine keeps_pair ?_ (by with_reducible assumption) | refine keeps_opt ?_ (by with_reducible assumption)
    | refine keeps_pairL ?_ (by with_reducible assumption) | intro _ | split)

theorem State.read_keeps {s t : State} (h : Keeps s t) (t0 : Target) (a n : Nat) (hint : Bool) :
    Keeps s (State.read t t0 a n hint).2 := by
  unfold State.read
  try dsimp -iota only
  repeat' (first
    | with_reducible assumption | with_reducible apply State.fetchBlock_keeps
    | with_reducible apply State.readPiece_keeps | with_reducible apply keeps_foldl
    | with_reducible apply keeps_foldl_snd | with_reducible apply keeps_foldl_fst
    | refine keeps_pair ?_ (by with_reducible assumption) | refine keeps_opt ?_ (by with_reducible assumption)
    | refine keeps_pairL ?_ (by with_reducible assumption) | intro _)

theorem State.writePiece_keeps {s t : State} (h : Keeps s t) (t0 : Target) (a : Nat) (bs : List Byte) (po : Bool) :
    Keeps s (State.writePiece t t0 a bs po) := by
  unfold State.writePiece
  dsimp only
  split
  · exact h
  · refine State.setMem_keeps ?_ _ _ fun c => Memory.put_wf (State.mem_wf c _) _ _ _ _
    split
    · exact State.discover_keeps h _ _ _
    · exact h

theorem State.writePieces_keeps {s t : State} (h : Keeps s t) (t0 : Target) (a : Nat) (bs : List Byte) (pois : List Bool) (bad : List Nat) :
    Keeps s (State.writePieces t t0 a bs pois bad) := by
  unfold State.writePieces
  try dsimp -iota only
  repeat' (first
    | with_reducible assumption | simp only [↓keeps_mk] | with_reducible apply State.writePiece_keeps
    | with_reducible apply keeps_foldl | with_reducible apply keeps_foldl_snd
    | with_reducible apply keeps_foldl_fst | intro _)

theorem State.writeBlock_keeps {s t : State} (h : Keeps s t) (t0 : Target) (a : Nat) (bs : List Byte) (pois : List Bool) (hint : Bool) :
    Keeps s (State.writeBlock t t0 a bs pois hint) := by
  unfold State.writeBlock
  try dsimp -iota only
  repeat' (first
    | with_reducible assumption | with_reducible apply State.chanRead_keeps
    | with_reducible apply State.chanWrite_keeps | with_reducible apply State.lookUp_keeps
    | with_reducible apply State.writePieces_keeps | refine keeps_pair ?_ (by with_reducible assumption)
    | refine keeps_opt ?_ (by with_reducible assumption) | refine keeps_pairL ?_ (by with_reducible assumption)
    | intro _ | split)

theorem State.write_keeps {s t : State} (h : Keeps s t) (t0 : Target) (a : Nat) (bs : List Byte) (pois : List Bool) (hint : Bool) :
    Keeps s (State.write t t0 a bs pois hint) := by
  unfold State.write
  try dsimp -iota only
  repeat' (first
    | with_reducible assumption | simp only [↓keeps_mk] | with_reducible apply State.writeBlock_keeps
    | with_reducible apply keeps_foldl | with_reducible apply keeps_foldl_snd
    | with_reducible apply keeps_foldl_fst | intro _)

theorem State.touch_keeps {s t : State} (h : Keeps s t) (t0 : Target) (a n : Nat) :
    Keeps s (State.touch t t0 a n) := by
  unfold State.touch
  try dsimp -iota only
  repeat' (first | with_reducible assumption | simp only [↓keeps_mk] | with_reducible apply State.read_keeps)

theorem State.releaseCore_keeps {s t : State} (h : Keeps s t) (p : Nat) : Keeps s (State.releaseCore t p) := by
  have k := keeps_store (State.modCore_keeps h p fun k => { k.fresh with lost := none }) _ fun c =>
    Memory.clear_wf (State.store_wf c) (p * 2 ^ 22) (2 ^ 22)
  exact ⟨k.pending, k.drawn, k.fuses, k.form⟩

theorem State.countPoison_keeps {s t : State} (h : Keeps s t) (p n : Nat) :
    Keeps s (State.countPoison t p n) := by
  unfold State.countPoison
  try dsimp -iota only
  repeat' (first
    | with_reducible assumption | simp only [↓keeps_mk] | with_reducible apply State.modCtx_keeps
    | refine keeps_pair ?_ (by with_reducible assumption) | refine keeps_opt ?_ (by with_reducible assumption)
    | refine keeps_pairL ?_ (by with_reducible assumption) | intro _ | split)

/-! ### `Machine/Fabric.lean` -/

theorem State.sendCtl_keeps {s t : State} (h : Keeps s t) (c dst type : Nat) (epoch : Option Nat) (data : List Byte) :
    Keeps s (State.sendCtl t c dst type epoch data) := by
  unfold State.sendCtl
  try dsimp -iota only
  repeat' (first | with_reducible assumption | simp only [↓keeps_mk] | with_reducible apply State.emit_keeps)

theorem State.sendMgmt_keeps {s t : State} (h : Keeps s t) (dst type : Nat) (data : List Byte) :
    Keeps s (State.sendMgmt t dst type data) := by
  unfold State.sendMgmt
  try dsimp -iota only
  repeat' (first | with_reducible assumption | simp only [↓keeps_mk] | with_reducible apply State.emit_keeps)

/-! ### `Machine/Protect.lean` -/

theorem State.moverTake_keeps {s t : State} (h : Keeps s t) (c : Nat) (k : Nat × Nat) :
    Keeps s (State.moverTake t c k) := by
  unfold State.moverTake
  try dsimp -iota only
  repeat' (first
    | with_reducible assumption | with_reducible apply State.ckFail_keeps | with_reducible apply State.modCtx_keeps
    | with_reducible apply State.read_keeps | with_reducible apply State.write_keeps
    | refine keeps_pair ?_ (by with_reducible assumption) | refine keeps_opt ?_ (by with_reducible assumption)
    | refine keeps_pairL ?_ (by with_reducible assumption) | intro _ | split)

theorem State.savePage_keeps {s t : State} (h : Keeps s t) (c : Nat) (k : Nat × Nat) (i : Nat) :
    Keeps s (State.savePage t c k i) := by
  unfold State.savePage
  try dsimp -iota only
  repeat' (first
    | with_reducible assumption | with_reducible apply State.modCtx_keeps | with_reducible apply State.read_keeps
    | with_reducible apply State.write_keeps)

theorem State.holdPage_keeps {s t : State} (h : Keeps s t) (c : Nat) (k : Nat × Nat) :
    Keeps s (State.holdPage t c k) := by
  unfold State.holdPage
  try dsimp -iota only
  repeat' (first
    | with_reducible assumption | simp only [↓keeps_mk] | with_reducible apply State.moverTake_keeps
    | with_reducible apply State.savePage_keeps | refine keeps_pair ?_ (by with_reducible assumption)
    | refine keeps_opt ?_ (by with_reducible assumption) | refine keeps_pairL ?_ (by with_reducible assumption)
    | intro _ | split)

theorem State.noteWrite_keeps {s t : State} (h : Keeps s t) (c a n : Nat) :
    Keeps s (State.noteWrite t c a n) := by
  unfold State.noteWrite
  try dsimp -iota only
  repeat' (first
    | with_reducible assumption | simp only [↓keeps_mk] | with_reducible apply State.holdPage_keeps
    | with_reducible apply State.modCtx_keeps | with_reducible apply keeps_foldl
    | with_reducible apply keeps_foldl_snd | with_reducible apply keeps_foldl_fst
    | refine keeps_pair ?_ (by with_reducible assumption) | refine keeps_opt ?_ (by with_reducible assumption)
    | refine keeps_pairL ?_ (by with_reducible assumption) | intro _ | split)

theorem State.devWrite_keeps {s t : State} (h : Keeps s t) (c a : Nat) (bs : List Byte) (pois : List Bool) (hint : Bool) :
    Keeps s (State.devWrite t c a bs pois hint) := by
  unfold State.devWrite
  try dsimp -iota only
  repeat' (first
    | with_reducible assumption | simp only [↓keeps_mk] | with_reducible apply State.noteWrite_keeps
    | with_reducible apply State.write_keeps)

theorem State.waitForSnap_keeps {s t : State} (h : Keeps s t) (c : Nat) (i : Instr) :
    Keeps s (State.waitForSnap t c i) := by
  unfold State.waitForSnap
  try dsimp -iota only
  repeat' (first | with_reducible assumption | simp only [↓keeps_mk] | with_reducible apply State.modCtx_keeps)

theorem State.writeRing_keeps {s t : State} (h : Keeps s t) (c : Nat) :
    Keeps s (State.writeRing t c) := by
  unfold State.writeRing
  try dsimp -iota only
  repeat' (first
    | with_reducible assumption | simp only [↓keeps_mk] | with_reducible apply State.devWrite_keeps
    | refine keeps_pair ?_ (by with_reducible assumption) | refine keeps_opt ?_ (by with_reducible assumption)
    | refine keeps_pairL ?_ (by with_reducible assumption) | intro _ | split)

theorem State.writeUndoFields_keeps {s t : State} (h : Keeps s t) (c n : Nat) :
    Keeps s (State.writeUndoFields t c n) := by
  unfold State.writeUndoFields
  try dsimp -iota only
  repeat' (first
    | with_reducible assumption | simp only [↓keeps_mk] | with_reducible apply State.devWrite_keeps
    | refine keeps_pair ?_ (by with_reducible assumption) | refine keeps_opt ?_ (by with_reducible assumption)
    | refine keeps_pairL ?_ (by with_reducible assumption) | intro _ | split)

theorem State.convertAt_keeps {s t : State} (h : Keeps s t) (c : Nat) (k : Skein) (u : Undo) :
    Keeps s (State.convertAt t c k u) := by
  unfold State.convertAt
  try dsimp -iota only
  repeat' (first
    | with_reducible assumption | simp only [↓keeps_mk] | with_reducible apply State.devWrite_keeps
    | with_reducible apply State.modStep_keeps | with_reducible apply State.read_keeps)

theorem State.convertUndo_keeps {s t : State} (h : Keeps s t) (c : Nat) (u : Undo) :
    Keeps s (State.convertUndo t c u) := by
  unfold State.convertUndo
  try dsimp -iota only
  repeat' (first
    | with_reducible assumption | simp only [↓keeps_mk] | with_reducible apply State.convertAt_keeps
    | refine keeps_pair ?_ (by with_reducible assumption) | refine keeps_opt ?_ (by with_reducible assumption)
    | refine keeps_pairL ?_ (by with_reducible assumption) | intro _ | split)

theorem State.markSlot_keeps {s t : State} (h : Keeps s t) (c n state : Nat) :
    Keeps s (State.markSlot t c n state) := by
  unfold State.markSlot
  try dsimp -iota only
  repeat' (first
    | with_reducible assumption | simp only [↓keeps_mk] | with_reducible apply State.devWrite_keeps
    | refine keeps_pair ?_ (by with_reducible assumption) | refine keeps_opt ?_ (by with_reducible assumption)
    | refine keeps_pairL ?_ (by with_reducible assumption) | intro _ | split)

theorem State.dropWindow_keeps {s t : State} (h : Keeps s t) (c : Nat) :
    Keeps s (State.dropWindow t c) := by
  unfold State.dropWindow
  try dsimp -iota only
  repeat' (first
    | with_reducible assumption | simp only [↓keeps_mk] | with_reducible apply State.markSlot_keeps
    | with_reducible apply State.modRegs_keeps | with_reducible apply State.modStep_keeps
    | with_reducible apply State.report_keeps | with_reducible apply State.writeRing_keeps
    | refine keeps_pair ?_ (by with_reducible assumption) | refine keeps_opt ?_ (by with_reducible assumption)
    | refine keeps_pairL ?_ (by with_reducible assumption) | intro _ | split)

theorem State.ringRoom_keeps {s t : State} (h : Keeps s t) (c slots n : Nat) : Keeps s (State.ringRoom t c slots n) := by
  induction n generalizing t with
  | zero => exact h
  | succ n ih =>
    unfold State.ringRoom
    split
    · exact ih (State.dropWindow_keeps h c)
    · exact h

theorem State.capturePage_keeps {s t : State} (h : Keeps s t) (c e page : Nat) :
    Keeps s (State.capturePage t c e page) := by
  unfold State.capturePage
  try dsimp -iota only
  repeat' (first
    | with_reducible assumption | with_reducible apply State.convertUndo_keeps
    | with_reducible apply State.devWrite_keeps | with_reducible apply State.modStep_keeps
    | with_reducible apply State.read_keeps | with_reducible apply State.ringRoom_keeps
    | with_reducible apply State.writeRing_keeps | with_reducible apply State.writeUndoFields_keeps
    | refine keeps_pair ?_ (by with_reducible assumption) | refine keeps_opt ?_ (by with_reducible assumption)
    | refine keeps_pairL ?_ (by with_reducible assumption) | intro _ | split)

theorem State.capture_keeps {s t : State} (h : Keeps s t) (c : Nat) (epoch : Option Nat) (a n : Nat) :
    Keeps s (State.capture t c epoch a n) := by
  unfold State.capture
  try dsimp -iota only
  repeat' (first
    | with_reducible assumption | simp only [↓keeps_mk] | with_reducible apply State.capturePage_keeps
    | with_reducible apply keeps_foldl | with_reducible apply keeps_foldl_snd
    | with_reducible apply keeps_foldl_fst | refine keeps_pair ?_ (by with_reducible assumption)
    | refine keeps_opt ?_ (by with_reducible assumption) | refine keeps_pairL ?_ (by with_reducible assumption)
    | intro _ | split)

theorem State.epochWrite_keeps {s t : State} (h : Keeps s t) (c : Nat) (epoch : Option Nat) (a : Nat) (bs : List Byte) (pois : List Bool) (hint : Bool) :
    Keeps s (State.epochWrite t c epoch a bs pois hint) := by
  unfold State.epochWrite
  try dsimp -iota only
  repeat' (first
    | with_reducible assumption | simp only [↓keeps_mk] | with_reducible apply State.capture_keeps
    | with_reducible apply State.devWrite_keeps)

theorem State.engineWrite_keeps {s t : State} (h : Keeps s t) (c : Nat) (epoch : Option Nat) (t0 : Target) (a : Nat) (bs : List Byte) (pois : List Bool) (hint : Bool) :
    Keeps s (State.engineWrite t c epoch t0 a bs pois hint) := by
  unfold State.engineWrite
  try dsimp -iota only
  repeat' (first
    | with_reducible assumption | simp only [↓keeps_mk] | with_reducible apply State.epochWrite_keeps
    | with_reducible apply State.write_keeps | refine keeps_pair ?_ (by with_reducible assumption)
    | refine keeps_opt ?_ (by with_reducible assumption) | refine keeps_pairL ?_ (by with_reducible assumption)
    | intro _ | split)

/-! ### `Machine/Flags.lean` -/

theorem State.flagEvt_keeps {s t : State} (h : Keeps s t) (c : Nat) (e : Evt) :
    Keeps s (State.flagEvt t c e) := by
  unfold State.flagEvt
  try dsimp -iota only
  repeat' (first | with_reducible assumption | simp only [↓keeps_mk] | with_reducible apply State.modRegs_keeps)

theorem State.writeHeader_keeps {s t : State} (h : Keeps s t) (c bank : Nat) :
    Keeps s (State.writeHeader t c bank) := by
  unfold State.writeHeader
  try dsimp -iota only
  repeat' (first | with_reducible assumption | simp only [↓keeps_mk] | with_reducible apply State.devWrite_keeps)

theorem State.emptyBank_keeps {s t : State} (h : Keeps s t) (c step : Nat) (e : Int) :
    Keeps s (State.emptyBank t c step e) := by
  unfold State.emptyBank
  try dsimp -iota only
  repeat' (first
    | with_reducible assumption | simp only [↓keeps_mk] | with_reducible apply State.modCtx_keeps
    | with_reducible apply State.writeHeader_keeps)

theorem State.traceRecord_keeps {s t : State} (h : Keeps s t) (c : Nat) (id : CmdId) (kind : Nat) (body : List Byte) :
    Keeps s (State.traceRecord t c id kind body) := by
  unfold State.traceRecord
  try dsimp -iota only
  repeat' (first
    | with_reducible assumption | simp only [↓keeps_mk] | with_reducible apply State.devWrite_keeps
    | with_reducible apply State.touch_keeps | refine keeps_pair ?_ (by with_reducible assumption)
    | refine keeps_opt ?_ (by with_reducible assumption) | refine keeps_pairL ?_ (by with_reducible assumption)
    | intro _ | split)

theorem State.mergeTaps_keeps {s t : State} (h : Keeps s t) (id : CmdId) (t0 : Taps) :
    Keeps s (State.mergeTaps t id t0) := by
  unfold State.mergeTaps
  try dsimp -iota only
  repeat' (first
    | with_reducible assumption | simp only [↓keeps_mk] | with_reducible apply State.clearParity_keeps
    | with_reducible apply State.modCtx_keeps | with_reducible apply State.raise_keeps
    | with_reducible apply State.traceRecord_keeps | refine keeps_pair ?_ (by with_reducible assumption)
    | refine keeps_opt ?_ (by with_reducible assumption) | refine keeps_pairL ?_ (by with_reducible assumption)
    | intro _ | split)

/-! ### `Machine/Operands.lean` -/

theorem State.putAll_keeps {s t : State} (h : Keeps s t) (t0 : Target) (ps : List Put) :
    Keeps s (State.putAll t t0 ps) := by
  unfold State.putAll
  try dsimp -iota only
  repeat' (first
    | with_reducible assumption | simp only [↓keeps_mk] | with_reducible apply State.write_keeps
    | with_reducible apply keeps_foldl | with_reducible apply keeps_foldl_snd
    | with_reducible apply keeps_foldl_fst | intro _)

theorem State.storePuts_keeps {s t : State} (h : Keeps s t) (p : Nat) (ps : List Put) :
    Keeps s (State.storePuts t p ps) := by
  unfold State.storePuts
  try dsimp -iota only
  repeat' (first
    | with_reducible assumption | simp only [↓keeps_mk] | with_reducible apply State.countPoison_keeps
    | with_reducible apply State.putAll_keeps)

theorem State.readStore_keeps {s t : State} (h : Keeps s t) (p : Nat) (spans : List (Nat × Nat)) :
    Keeps s (State.readStore t p spans).2 := by
  unfold State.readStore
  try dsimp -iota only
  repeat' (first
    | with_reducible assumption | with_reducible apply State.read_keeps | with_reducible apply keeps_foldl
    | with_reducible apply keeps_foldl_snd | with_reducible apply keeps_foldl_fst
    | refine keeps_pair ?_ (by with_reducible assumption) | refine keeps_opt ?_ (by with_reducible assumption)
    | refine keeps_pairL ?_ (by with_reducible assumption) | intro _)

/-! ### `Machine/Counters.lean` -/

theorem State.evaluate_keeps {s t : State} (h : Keeps s t) (p c : Nat) :
    Keeps s (State.evaluate t p c) := by
  unfold State.evaluate
  try dsimp -iota only
  repeat' (first | with_reducible assumption | simp only [↓keeps_mk] | with_reducible apply State.setCore_keeps)

theorem State.putCtr_keeps {s t : State} (h : Keeps s t) (p c v : Nat) :
    Keeps s (State.putCtr t p c v) := by
  unfold State.putCtr
  try dsimp -iota only
  repeat' (first
    | with_reducible assumption | simp only [↓keeps_mk] | with_reducible apply State.evaluate_keeps
    | with_reducible apply State.modCore_keeps)

theorem State.suError_keeps {s t : State} (h : Keeps s t) (p code : Nat) :
    Keeps s (State.suError t p code) := by
  unfold State.suError
  try dsimp -iota only
  repeat' (first | with_reducible assumption | simp only [↓keeps_mk] | with_reducible apply State.raise_keeps)

theorem State.suSound_keeps {s r t : State} (hr : Keeps s r) (ht : Keeps s t) (p : Nat) :
    Keeps s (State.suSound r p t) := by
  unfold State.suSound
  split
  · exact State.suError_keeps (State.clearParity_keeps hr _) _ _
  · exact ht

theorem State.addCtr_keeps {s t : State} (h : Keeps s t) (p c n : Nat) :
    Keeps s (State.addCtr t p c n) := by
  unfold State.addCtr
  try dsimp -iota only
  repeat' (first
    | with_reducible assumption | simp only [↓keeps_mk] | with_reducible apply State.putCtr_keeps
    | with_reducible apply State.suError_keeps | with_reducible apply State.suSound_keeps | intro _ | split)

theorem State.subCtr_keeps {s t : State} (h : Keeps s t) (p c n : Nat) :
    Keeps s (State.subCtr t p c n) := by
  unfold State.subCtr
  try dsimp -iota only
  repeat' (first
    | with_reducible assumption | simp only [↓keeps_mk] | with_reducible apply State.putCtr_keeps
    | with_reducible apply State.suError_keeps | with_reducible apply State.suSound_keeps | intro _ | split)

theorem State.placeWatch_keeps {s t : State} (h : Keeps s t) (p : Nat) (w : Watch) :
    Keeps s (State.placeWatch t p w) := by
  unfold State.placeWatch
  try dsimp -iota only
  repeat' (first
    | with_reducible assumption | simp only [↓keeps_mk] | with_reducible apply State.evaluate_keeps
    | with_reducible apply State.modCore_keeps | with_reducible apply State.suError_keeps
    | with_reducible apply State.suSound_keeps | intro _ | split)

theorem State.applySu_keeps {s t : State} (h : Keeps s t) (p : Nat) (m : SuMsg) : Keeps s (State.applySu t p m) := by
  unfold State.applySu
  split
  · exact State.suSound_keeps h (State.putCtr_keeps h _ _ _) _
  · exact State.addCtr_keeps h _ _ _
  · exact State.subCtr_keeps h _ _ _
  · exact State.placeWatch_keeps h _ _

theorem State.retire_keeps {s t : State} (h : Keeps s t) (p : Nat) (q : QCmd) :
    Keeps s (State.retire t p q) := by
  unfold State.retire
  try dsimp -iota only
  repeat' (first
    | with_reducible assumption | simp only [↓keeps_mk] | with_reducible apply State.modCore_keeps
    | refine keeps_pair ?_ (by with_reducible assumption) | refine keeps_opt ?_ (by with_reducible assumption)
    | refine keeps_pairL ?_ (by with_reducible assumption) | intro _ | split)

theorem State.signalSlot_keeps {s t : State} (h : Keeps s t) (p : Nat) (slot : List Byte) :
    Keeps s (State.signalSlot t p slot) := by
  unfold State.signalSlot
  try dsimp -iota only
  repeat' (first
    | with_reducible assumption | simp only [↓keeps_mk] | with_reducible apply State.addCtr_keeps | intro _ | split)

theorem State.goTo_keeps {s t : State} (h : Keeps s t) (p a : Nat) :
    Keeps s (State.goTo t p a) := by
  unfold State.goTo
  try dsimp -iota only
  repeat' (first
    | with_reducible assumption | simp only [↓keeps_mk] | with_reducible apply State.modCore_keeps
    | with_reducible apply State.raiseCore_keeps | intro _ | split)

theorem State.countDispatch_keeps {s t : State} (h : Keeps s t) (p : Nat) :
    Keeps s (State.countDispatch t p) := by
  unfold State.countDispatch
  try dsimp -iota only
  repeat' (first | with_reducible assumption | simp only [↓keeps_mk] | with_reducible apply State.modCore_keeps)

end Sys2Proof.Machine
end

