-- ==== Sys2Proof/Laws/KeepsEngines.lean ====
section
/-! SUPPORT. The engines of a core keep what `Keeps` says: one lemma per operation. -/

namespace Sys2Proof.Machine

/-! ### `Machine/Array.lean` -/

theorem State.modArr_keeps {s t : State} (h : Keeps s t) (p : Nat) (a : Arr) (f : Array → Array) :
    Keeps s (State.modArr t p a f) := by
  unfold State.modArr
  try dsimp -iota only
  repeat' (first | with_reducible assumption | simp only [↓keeps_mk] | with_reducible apply State.modCore_keeps)

theorem State.arrError_keeps {s t : State} (h : Keeps s t) (p code : Nat) (q : QCmd) :
    Keeps s (State.arrError t p code q) := by
  unfold State.arrError
  try dsimp -iota only
  repeat' (first | with_reducible assumption | simp only [↓keeps_mk] | with_reducible apply State.raiseCore_keeps)

theorem State.poisonCtrl_keeps {s t : State} (h : Keeps s t) (p : Nat) (q : QCmd) :
    Keeps s (State.poisonCtrl t p q) := by
  unfold State.poisonCtrl
  try dsimp -iota only
  repeat' (first
    | with_reducible assumption | simp only [↓keeps_mk] | with_reducible apply State.raise_keeps
    | refine keeps_pair ?_ (by with_reducible assumption) | refine keeps_opt ?_ (by with_reducible assumption)
    | refine keeps_pairL ?_ (by with_reducible assumption) | intro _ | split)

theorem State.readDesc_keeps {s t : State} (h : Keeps s t) (p : Nat) (q : QCmd) (addr n code : Nat) :
    Keeps s (State.readDesc t p q addr n code).2 := by
  unfold State.readDesc
  try dsimp -iota only
  repeat' (first
    | with_reducible assumption | with_reducible apply State.poisonCtrl_keeps
    | with_reducible apply State.raiseCore_keeps | with_reducible apply State.read_keeps
    | refine keeps_pair ?_ (by with_reducible assumption) | refine keeps_opt ?_ (by with_reducible assumption)
    | refine keeps_pairL ?_ (by with_reducible assumption) | intro _ | split)

theorem State.noteQuarantine_keeps {s t : State} (h : Keeps s t) (p : Nat) :
    Keeps s (State.noteQuarantine t p) := by
  unfold State.noteQuarantine
  try dsimp -iota only
  repeat' (first
    | with_reducible assumption | simp only [↓keeps_mk] | with_reducible apply State.modStep_keeps
    | refine keeps_pair ?_ (by with_reducible assumption) | refine keeps_opt ?_ (by with_reducible assumption)
    | refine keeps_pairL ?_ (by with_reducible assumption) | intro _ | split)

theorem State.coreQuarantine_keeps {s t : State} (h : Keeps s t) (p : Nat) (q : QCmd) :
    Keeps s (State.coreQuarantine t p q) := by
  unfold State.coreQuarantine
  try dsimp -iota only
  repeat' (first
    | with_reducible assumption | simp only [↓keeps_mk] | with_reducible apply State.modCore_keeps
    | with_reducible apply State.noteQuarantine_keeps | with_reducible apply State.raiseCore_keeps)

theorem State.flushSignals_keeps {s t : State} (h : Keeps s t) (p : Nat) (e : Eng) (n : Nat) :
    Keeps s (State.flushSignals t p e n) := by
  induction n generalizing t with
  | zero => exact h
  | succ n ih =>
    unfold State.flushSignals
    split
    · exact h
    · exact ih (State.signalSlot_keeps (State.modCore_keeps h _ _) _ _)

theorem State.quarantineDue_keeps {s t : State} (h : Keeps s t) (p : Nat) :
    Keeps s (State.quarantineDue t p) := by
  unfold State.quarantineDue
  try dsimp -iota only
  repeat' (first
    | with_reducible assumption | simp only [↓keeps_mk] | with_reducible apply State.coreQuarantine_keeps
    | with_reducible apply State.flushSignals_keeps | refine keeps_pair ?_ (by with_reducible assumption)
    | refine keeps_opt ?_ (by with_reducible assumption) | refine keeps_pairL ?_ (by with_reducible assumption)
    | intro _ | split)

theorem State.arrDone_keeps {s t : State} (h : Keeps s t) (p : Nat) (q : QCmd) :
    Keeps s (State.arrDone t p q) := by
  unfold State.arrDone
  try dsimp -iota only
  repeat' (first
    | with_reducible assumption | simp only [↓keeps_mk] | with_reducible apply State.modCore_keeps
    | with_reducible apply State.quarantineDue_keeps | with_reducible apply State.retire_keeps | intro _ | split)

theorem State.readBias_keeps {s t : State} (h : Keeps s t) (p : Nat) (d : Mat) :
    Keeps s (State.readBias t p d).2.2 := by
  unfold State.readBias
  try dsimp -iota only
  repeat' (first | with_reducible assumption | with_reducible apply State.readStore_keeps)

theorem State.drainBank_keeps {s t : State} (h : Keeps s t) (p : Nat) (a : Arr) (q : QCmd) (d : Mat) (bias : List Area) :
    Keeps s (State.drainBank t p a q d bias) := by
  unfold State.drainBank
  try dsimp -iota only
  repeat' (first
    | with_reducible assumption | with_reducible apply State.arrError_keeps
    | with_reducible apply State.flagEvt_keeps | with_reducible apply State.mergeTaps_keeps
    | with_reducible apply State.modArr_keeps | with_reducible apply State.storePuts_keeps
    | refine keeps_pair ?_ (by with_reducible assumption) | refine keeps_opt ?_ (by with_reducible assumption)
    | refine keeps_pairL ?_ (by with_reducible assumption) | intro _ | split)

theorem State.drainDone_keeps {s t : State} (h : Keeps s t) (p : Nat) (a : Arr) :
    Keeps s (State.drainDone t p a) := by
  unfold State.drainDone
  try dsimp -iota only
  repeat' (first
    | with_reducible assumption | simp only [↓keeps_mk] | with_reducible apply State.arrDone_keeps
    | with_reducible apply State.modArr_keeps | refine keeps_pair ?_ (by with_reducible assumption)
    | refine keeps_opt ?_ (by with_reducible assumption) | refine keeps_pairL ?_ (by with_reducible assumption)
    | intro _ | split)

theorem State.settle_keeps {s t : State} (h : Keeps s t) (p : Nat) (a : Arr) (q : QCmd) (d : Mat) (e : Exec) (poison : List Nat) (bias : List Area) :
    Keeps s (State.settle t p a q d e poison bias) := by
  unfold State.settle
  try dsimp -iota only
  repeat' (first
    | with_reducible assumption | simp only [↓keeps_mk] | with_reducible apply State.arrDone_keeps
    | with_reducible apply State.drainBank_keeps | with_reducible apply State.flagEvt_keeps
    | with_reducible apply State.modArr_keeps | intro _ | split)

theorem State.mismatch_keeps {s t : State} (h : Keeps s t) (p : Nat) (a : Arr) (q : QCmd) (n : Nat) :
    Keeps s (State.mismatch t p a q n) := by
  induction n generalizing t with
  | zero => exact h
  | succ n ih => exact ih (State.report_keeps (State.modArr_keeps h _ _ _) _ _)

theorem State.quarantineArr_keeps {s t : State} (h : Keeps s t) (p : Nat) (a : Arr) (q : QCmd) :
    Keeps s (State.quarantineArr t p a q) := by
  unfold State.quarantineArr
  try dsimp -iota only
  repeat' (first
    | with_reducible assumption | simp only [↓keeps_mk] | with_reducible apply State.coreQuarantine_keeps
    | with_reducible apply State.modArr_keeps | with_reducible apply State.noteQuarantine_keeps
    | with_reducible apply State.report_keeps | intro _ | split)

theorem State.brdFault_keeps {s t : State} (h : Keeps s t) (p : Nat) (z : Arr) (q : QCmd) :
    Keeps s (State.brdFault t p z q) := by
  unfold State.brdFault
  try dsimp -iota only
  repeat' (first
    | with_reducible assumption | simp only [↓keeps_mk] | with_reducible apply State.modArr_keeps
    | with_reducible apply State.modCore_keeps | with_reducible apply State.quarantineArr_keeps
    | with_reducible apply State.quarantineDue_keeps | with_reducible apply State.report_keeps | intro _ | split)

theorem State.biasOf_keeps {s t : State} (h : Keeps s t) (p : Nat) (d : Mat) :
    Keeps s (State.biasOf t p d).2.2 := by
  unfold State.biasOf
  try dsimp -iota only
  repeat' (first
    | with_reducible assumption | simp only [↓keeps_mk] | with_reducible apply State.readBias_keeps | intro _
    | split)

theorem State.runMatmul_keeps {s t : State} (h : Keeps s t) (p : Nat) (a : Arr) (q : QCmd) (b : List Byte) (e1 e2 : ArrFault) :
    Keeps s (State.runMatmul t p a q b e1 e2) := by
  unfold State.runMatmul
  try dsimp -iota only
  repeat' (first
    | with_reducible assumption | simp only [↓keeps_mk] | with_reducible apply State.arrDone_keeps
    | with_reducible apply State.biasOf_keeps | with_reducible apply State.brdFault_keeps
    | with_reducible apply State.flagEvt_keeps | with_reducible apply State.mismatch_keeps
    | with_reducible apply State.modArr_keeps | with_reducible apply State.poisonCtrl_keeps
    | with_reducible apply State.readStore_keeps | with_reducible apply State.settle_keeps
    | refine keeps_pair ?_ (by with_reducible assumption) | refine keeps_opt ?_ (by with_reducible assumption)
    | refine keeps_pairL ?_ (by with_reducible assumption) | intro _ | split | dsimp -iota only)

theorem State.runWeft_keeps {s t : State} (h : Keeps s t) (p : Nat) (q : QCmd) :
    Keeps s (State.runWeft t p q) := by
  unfold State.runWeft
  try dsimp -iota only
  repeat' (first
    | with_reducible assumption | simp only [↓keeps_mk] | with_reducible apply State.arrDone_keeps
    | with_reducible apply State.modCore_keeps | with_reducible apply State.runMatmul_keeps
    | refine keeps_pair ?_ (by with_reducible assumption) | refine keeps_opt ?_ (by with_reducible assumption)
    | refine keeps_pairL ?_ (by with_reducible assumption) | intro _ | split)

theorem State.tieBreak_keeps {s t : State} (h : Keeps s t) (p : Nat) (a : Arr) (e3 : ArrFault) :
    Keeps s (State.tieBreak t p a e3) := by
  unfold State.tieBreak
  try dsimp -iota only
  repeat' (first
    | with_reducible assumption | simp only [↓keeps_mk] | with_reducible apply State.biasOf_keeps
    | with_reducible apply State.brdFault_keeps | with_reducible apply State.coreQuarantine_keeps
    | with_reducible apply State.mismatch_keeps | with_reducible apply State.modArr_keeps
    | with_reducible apply State.quarantineArr_keeps | with_reducible apply State.readStore_keeps
    | with_reducible apply State.runWeft_keeps | with_reducible apply State.settle_keeps
    | refine keeps_pair ?_ (by with_reducible assumption) | refine keeps_opt ?_ (by with_reducible assumption)
    | refine keeps_pairL ?_ (by with_reducible assumption) | intro _ | split | dsimp -iota only)

theorem State.runEpilogue_keeps {s t : State} (h : Keeps s t) (p : Nat) (a : Arr) (q : QCmd) (d : Mat) :
    Keeps s (State.runEpilogue t p a q d) := by
  unfold State.runEpilogue
  try dsimp -iota only
  repeat' (first
    | with_reducible assumption | simp only [↓keeps_mk] | with_reducible apply State.arrDone_keeps
    | with_reducible apply State.drainBank_keeps | with_reducible apply State.modArr_keeps
    | with_reducible apply State.poisonCtrl_keeps | with_reducible apply State.readBias_keeps
    | refine keeps_pair ?_ (by with_reducible assumption) | refine keeps_opt ?_ (by with_reducible assumption)
    | refine keeps_pairL ?_ (by with_reducible assumption) | intro _ | split | dsimp -iota only)

theorem State.matDesc_keeps {s t : State} (h : Keeps s t) (p : Nat) (q : QCmd) (addr : Nat) (product : Bool) :
    Keeps s (State.matDesc t p q addr product).2 := by
  unfold State.matDesc
  try dsimp -iota only
  repeat' (first
    | with_reducible assumption | with_reducible apply State.arrError_keeps
    | with_reducible apply State.readDesc_keeps | refine keeps_pair ?_ (by with_reducible assumption)
    | refine keeps_opt ?_ (by with_reducible assumption) | refine keeps_pairL ?_ (by with_reducible assumption)
    | intro _ | split)

theorem State.startMat_keeps {s t : State} (h : Keeps s t) (p : Nat) (a : Arr) (q : QCmd) (product : Bool) (e1 e2 : ArrFault) :
    Keeps s (State.startMat t p a q product e1 e2) := by
  unfold State.startMat
  try dsimp -iota only
  repeat' (first
    | with_reducible assumption | simp only [↓keeps_mk] | with_reducible apply State.matDesc_keeps
    | with_reducible apply State.runEpilogue_keeps | with_reducible apply State.runMatmul_keeps
    | refine keeps_pair ?_ (by with_reducible assumption) | refine keeps_opt ?_ (by with_reducible assumption)
    | refine keeps_pairL ?_ (by with_reducible assumption) | intro _ | split)

theorem State.pairRun_keeps {s t : State} (h : Keeps s t) (p : Nat) (q : QCmd) (bw bf : List Byte) :
    Keeps s (State.pairRun t p q bw bf) := by
  unfold State.pairRun
  try dsimp -iota only
  repeat' (first
    | with_reducible assumption | simp only [↓keeps_mk] | with_reducible apply State.modCore_keeps
    | with_reducible apply State.runMatmul_keeps | with_reducible apply State.runWeft_keeps)

theorem State.startPair_keeps {s t : State} (h : Keeps s t) (p : Nat) (q : QCmd) :
    Keeps s (State.startPair t p q) := by
  unfold State.startPair
  try dsimp -iota only
  repeat' (first
    | with_reducible assumption | simp only [↓keeps_mk] | with_reducible apply State.arrError_keeps
    | with_reducible apply State.biasOf_keeps | with_reducible apply State.matDesc_keeps
    | with_reducible apply State.pairRun_keeps | with_reducible apply State.poisonCtrl_keeps
    | refine keeps_pair ?_ (by with_reducible assumption) | refine keeps_opt ?_ (by with_reducible assumption)
    | refine keeps_pairL ?_ (by with_reducible assumption) | intro _ | split | dsimp -iota only)

theorem State.startAccStore_keeps {s t : State} (h : Keeps s t) (p : Nat) (a : Arr) (q : QCmd) :
    Keeps s (State.startAccStore t p a q) := by
  unfold State.startAccStore
  try dsimp -iota only
  repeat' (first
    | with_reducible assumption | simp only [↓keeps_mk] | with_reducible apply State.arrDone_keeps
    | with_reducible apply State.arrError_keeps | with_reducible apply State.flagEvt_keeps
    | with_reducible apply State.modArr_keeps | with_reducible apply State.storePuts_keeps | intro _ | split)

theorem State.startAccLoad_keeps {s t : State} (h : Keeps s t) (p : Nat) (a : Arr) (q : QCmd) :
    Keeps s (State.startAccLoad t p a q) := by
  unfold State.startAccLoad
  try dsimp -iota only
  repeat' (first
    | with_reducible assumption | with_reducible apply State.arrDone_keeps
    | with_reducible apply State.arrError_keeps | with_reducible apply State.flagEvt_keeps
    | with_reducible apply State.modArr_keeps | with_reducible apply State.readStore_keeps
    | refine keeps_pair ?_ (by with_reducible assumption) | refine keeps_opt ?_ (by with_reducible assumption)
    | refine keeps_pairL ?_ (by with_reducible assumption) | intro _ | split)

/-! ### `Machine/Vector.lean` -/

theorem State.vecFinish_keeps {s t : State} (h : Keeps s t) (p : Nat) (q : QCmd) (tag : Nat) (w : Written) (t0 : Taps) :
    Keeps s (State.vecFinish t p q tag w t0) := by
  unfold State.vecFinish
  try dsimp -iota only
  repeat' (first
    | with_reducible assumption | simp only [↓keeps_mk] | with_reducible apply State.flagEvt_keeps
    | with_reducible apply State.mergeTaps_keeps | with_reducible apply State.raiseCore_keeps
    | with_reducible apply State.retire_keeps | with_reducible apply State.storePuts_keeps | intro _ | split)

theorem State.runElem_keeps {s t : State} (h : Keeps s t) (p : Nat) (q : QCmd) (d : ElemD) :
    Keeps s (State.runElem t p q d) := by
  unfold State.runElem
  try dsimp -iota only
  repeat' (first
    | with_reducible assumption | with_reducible apply State.readStore_keeps
    | with_reducible apply State.vecFinish_keeps)

theorem State.startElem_keeps {s t : State} (h : Keeps s t) (p : Nat) (q : QCmd) :
    Keeps s (State.startElem t p q) := by
  unfold State.startElem
  try dsimp -iota only
  repeat' (first
    | with_reducible assumption | simp only [↓keeps_mk] | with_reducible apply State.raiseCore_keeps
    | with_reducible apply State.readDesc_keeps | with_reducible apply State.retire_keeps
    | with_reducible apply State.runElem_keeps | refine keeps_pair ?_ (by with_reducible assumption)
    | refine keeps_opt ?_ (by with_reducible assumption) | refine keeps_pairL ?_ (by with_reducible assumption)
    | intro _ | split)

theorem State.runReduce_keeps {s t : State} (h : Keeps s t) (p : Nat) (q : QCmd) (d : RedD) (es : List (Nat × Nat)) :
    Keeps s (State.runReduce t p q d es) := by
  unfold State.runReduce
  try dsimp -iota only
  repeat' (first
    | with_reducible assumption | with_reducible apply State.readStore_keeps
    | with_reducible apply State.vecFinish_keeps)

theorem State.startReduce_keeps {s t : State} (h : Keeps s t) (p : Nat) (q : QCmd) :
    Keeps s (State.startReduce t p q) := by
  unfold State.startReduce
  try dsimp -iota only
  repeat' (first
    | with_reducible assumption | with_reducible apply State.raiseCore_keeps
    | with_reducible apply State.readDesc_keeps | with_reducible apply State.retire_keeps
    | with_reducible apply State.runReduce_keeps | refine keeps_pair ?_ (by with_reducible assumption)
    | refine keeps_opt ?_ (by with_reducible assumption) | refine keeps_pairL ?_ (by with_reducible assumption)
    | intro _ | split)

theorem State.runUpdate_keeps {s t : State} (h : Keeps s t) (p : Nat) (q : QCmd) (d : UpdD) :
    Keeps s (State.runUpdate t p q d) := by
  unfold State.runUpdate
  try dsimp -iota only
  repeat' (first
    | with_reducible assumption | with_reducible apply State.readStore_keeps
    | with_reducible apply State.vecFinish_keeps)

theorem State.startUpdate_keeps {s t : State} (h : Keeps s t) (p : Nat) (q : QCmd) :
    Keeps s (State.startUpdate t p q) := by
  unfold State.startUpdate
  try dsimp -iota only
  repeat' (first
    | with_reducible assumption | simp only [↓keeps_mk] | with_reducible apply State.raiseCore_keeps
    | with_reducible apply State.readDesc_keeps | with_reducible apply State.retire_keeps
    | with_reducible apply State.runUpdate_keeps | refine keeps_pair ?_ (by with_reducible assumption)
    | refine keeps_opt ?_ (by with_reducible assumption) | refine keeps_pairL ?_ (by with_reducible assumption)
    | intro _ | split)

theorem State.startTableLoad_keeps {s t : State} (h : Keeps s t) (p : Nat) (q : QCmd) :
    Keeps s (State.startTableLoad t p q) := by
  unfold State.startTableLoad
  try dsimp -iota only
  repeat' (first
    | with_reducible assumption | simp only [↓keeps_mk] | with_reducible apply State.modCore_keeps
    | with_reducible apply State.raiseCore_keeps | with_reducible apply State.readDesc_keeps
    | with_reducible apply State.retire_keeps | refine keeps_pair ?_ (by with_reducible assumption)
    | refine keeps_opt ?_ (by with_reducible assumption) | refine keeps_pairL ?_ (by with_reducible assumption)
    | intro _ | split)

/-! ### `Machine/CopyBase.lean` -/

theorem State.ceError_keeps {s t : State} (h : Keeps s t) (p : Nat) (q : QCmd) (code : Nat) :
    Keeps s (State.ceError t p q code) := by
  unfold State.ceError
  try dsimp -iota only
  repeat' (first | with_reducible assumption | simp only [↓keeps_mk] | with_reducible apply State.raiseCore_keeps)

theorem State.readAreas_keeps {s t : State} (h : Keeps s t) (t0 : Target) (want : List (Nat × Nat)) (hint : Bool) :
    Keeps s (State.readAreas t t0 want hint).2 := by
  unfold State.readAreas
  try dsimp -iota only
  repeat' (first
    | with_reducible assumption | with_reducible apply State.read_keeps | with_reducible apply keeps_foldl
    | with_reducible apply keeps_foldl_snd | with_reducible apply keeps_foldl_fst
    | refine keeps_pair ?_ (by with_reducible assumption) | refine keeps_opt ?_ (by with_reducible assumption)
    | refine keeps_pairL ?_ (by with_reducible assumption) | intro _)

theorem State.ceApply_keeps {s t : State} (h : Keeps s t) (p : Nat) (q : QCmd) (t0 : Target) (ps : List Put) (hint : Bool) :
    Keeps s (State.ceApply t p q t0 ps hint).2 := by
  unfold State.ceApply
  try dsimp -iota only
  repeat' (first
    | with_reducible assumption | with_reducible apply State.countPoison_keeps
    | with_reducible apply State.engineWrite_keeps | with_reducible apply State.raise_keeps
    | with_reducible apply keeps_foldl | with_reducible apply keeps_foldl_snd
    | with_reducible apply keeps_foldl_fst | refine keeps_pair ?_ (by with_reducible assumption)
    | refine keeps_opt ?_ (by with_reducible assumption) | refine keeps_pairL ?_ (by with_reducible assumption)
    | intro _ | split)

theorem State.startCe_keeps {s t : State} (h : Keeps s t) (p : Nat) (q : QCmd) (size : Nat) (plan : State → List Byte → CePlan) (run : State → List Byte → State) (hrun : ∀ u x1, Keeps s u → Keeps s (run u x1)) :
    Keeps s (State.startCe t p q size plan run) := by
  unfold State.startCe
  try dsimp -iota only
  repeat' (first
    | with_reducible assumption | with_reducible apply State.ceError_keeps | with_reducible apply State.raise_keeps
    | with_reducible apply State.read_keeps | with_reducible apply State.retire_keeps | with_reducible apply hrun
    | refine keeps_pair ?_ (by with_reducible assumption) | refine keeps_opt ?_ (by with_reducible assumption)
    | refine keeps_pairL ?_ (by with_reducible assumption) | intro _ | split)

/-! ### `Machine/Copy.lean` -/

theorem State.sendWrite_keeps {s t : State} (h : Keeps s t) (p chip cls : Nat) (epoch : Option Nat) (a : Nat) (bs : List Byte) (po : List Bool) :
    Keeps s (State.sendWrite t p chip cls epoch a bs po) := by
  unfold State.sendWrite
  try dsimp -iota only
  repeat' (first
    | with_reducible assumption | simp only [↓keeps_mk] | with_reducible apply State.emit_keeps
    | with_reducible apply State.setCore_keeps)

theorem State.sendSignal_keeps {s t : State} (h : Keeps s t) (p chip lcore cls tag : Nat) (epoch : Option Nat) (ctr inc : Nat) :
    Keeps s (State.sendSignal t p chip lcore cls tag epoch ctr inc) := by
  unfold State.sendSignal
  try dsimp -iota only
  repeat' (first | with_reducible assumption | simp only [↓keeps_mk] | with_reducible apply State.emit_keeps)

theorem State.sendRsig_keeps {s t : State} (h : Keeps s t) (p chip : Nat) (d : CopyD) (epoch : Option Nat) :
    Keeps s (State.sendRsig t p chip d epoch) := by
  unfold State.sendRsig
  try dsimp -iota only
  repeat' (first
    | with_reducible assumption | simp only [↓keeps_mk] | with_reducible apply State.modCore_keeps
    | with_reducible apply State.modCtx_keeps | with_reducible apply State.sendSignal_keeps)

theorem State.sendPuts_keeps {s t : State} (h : Keeps s t) (p chip cls : Nat) (epoch : Option Nat) (ps : List Put) :
    Keeps s (State.sendPuts t p chip cls epoch ps) := by
  unfold State.sendPuts
  try dsimp -iota only
  repeat' (first
    | with_reducible assumption | simp only [↓keeps_mk] | with_reducible apply State.sendWrite_keeps
    | with_reducible apply keeps_foldl | with_reducible apply keeps_foldl_snd
    | with_reducible apply keeps_foldl_fst | intro _)

theorem State.localRsig_keeps {s t : State} (h : Keeps s t) (p : Nat) (d : CopyD) (epoch : Option Nat) :
    Keeps s (State.localRsig t p d epoch) := by
  unfold State.localRsig
  try dsimp -iota only
  repeat' (first
    | with_reducible assumption | simp only [↓keeps_mk] | refine keeps_pair ?_ (by with_reducible assumption)
    | refine keeps_opt ?_ (by with_reducible assumption) | refine keeps_pairL ?_ (by with_reducible assumption)
    | intro _ | split)

theorem State.holdCe_keeps {s t : State} (h : Keeps s t) (p : Nat) (q : QCmd) (b : List Byte) (wait : CeWait) :
    Keeps s (State.holdCe t p q b wait) := by
  unfold State.holdCe
  try dsimp -iota only
  repeat' (first | with_reducible assumption | simp only [↓keeps_mk] | with_reducible apply State.modCore_keeps)

theorem State.copyDeliver_keeps {s t : State} (h : Keeps s t) (p : Nat) (q : QCmd) (b : List Byte) (as : List Area) :
    Keeps s (State.copyDeliver t p q b as) := by
  unfold State.copyDeliver
  try dsimp -iota only
  repeat' (first
    | with_reducible assumption | with_reducible apply State.ceApply_keeps
    | with_reducible apply State.countPoison_keeps | with_reducible apply State.emit_keeps
    | with_reducible apply State.flagEvt_keeps | with_reducible apply State.holdCe_keeps
    | with_reducible apply State.localRsig_keeps | with_reducible apply State.modRegs_keeps
    | with_reducible apply State.raise_keeps | with_reducible apply State.retire_keeps
    | with_reducible apply State.sendPuts_keeps | with_reducible apply State.sendRsig_keeps
    | with_reducible apply keeps_foldl | with_reducible apply keeps_foldl_snd
    | with_reducible apply keeps_foldl_fst | refine keeps_pair ?_ (by with_reducible assumption)
    | refine keeps_opt ?_ (by with_reducible assumption) | refine keeps_pairL ?_ (by with_reducible assumption)
    | intro _ | split)

theorem State.runCopy_keeps {s t : State} (h : Keeps s t) (p : Nat) (q : QCmd) (b : List Byte) :
    Keeps s (State.runCopy p q t b) := by
  unfold State.runCopy
  try dsimp -iota only
  repeat' (first
    | with_reducible assumption | simp only [↓keeps_mk] | with_reducible apply State.ceError_keeps
    | with_reducible apply State.copyDeliver_keeps | with_reducible apply State.emit_keeps
    | with_reducible apply State.holdCe_keeps | with_reducible apply State.readAreas_keeps
    | with_reducible apply keeps_foldl | with_reducible apply keeps_foldl_snd
    | with_reducible apply keeps_foldl_fst | refine keeps_pair ?_ (by with_reducible assumption)
    | refine keeps_opt ?_ (by with_reducible assumption) | refine keeps_pairL ?_ (by with_reducible assumption)
    | intro _ | split)

theorem State.startCopy_keeps {s t : State} (h : Keeps s t) (p : Nat) (q : QCmd) :
    Keeps s (State.startCopy t p q) := by
  unfold State.startCopy
  try dsimp -iota only
  repeat' (first
    | with_reducible assumption | simp only [↓keeps_mk] | with_reducible apply State.runCopy_keeps
    | with_reducible apply State.startCe_keeps | intro _)

theorem State.dropCe_keeps {s t : State} (h : Keeps s t) (p : Nat) (q : QCmd) :
    Keeps s (State.dropCe t p q) := by
  unfold State.dropCe
  try dsimp -iota only
  repeat' (first | with_reducible assumption | simp only [↓keeps_mk] | with_reducible apply State.modCore_keeps)

/-! ### `Machine/CopyIdx.lean` -/

theorem State.readRow_keeps {s t : State} (h : Keeps s t) (t0 : Target) (a n : Nat) (hint : Bool) :
    Keeps s (State.readRow t t0 a n hint).2 := by
  unfold State.readRow
  try dsimp -iota only
  repeat' (first | with_reducible assumption | with_reducible apply State.read_keeps)

theorem IdxD.writes_keeps {s t : State} (h : Keeps s t) (d : IdxD) (op : Nat) (p : Nat) (xs : List Nat) :
    Keeps s (IdxD.writes d op t p xs).2 := by
  unfold IdxD.writes
  try dsimp -iota only
  repeat' (first
    | with_reducible assumption | with_reducible apply State.readAreas_keeps
    | with_reducible apply State.readRow_keeps | with_reducible apply keeps_foldl
    | with_reducible apply keeps_foldl_snd | with_reducible apply keeps_foldl_fst
    | refine keeps_pair ?_ (by with_reducible assumption) | refine keeps_opt ?_ (by with_reducible assumption)
    | refine keeps_pairL ?_ (by with_reducible assumption) | intro _ | split)

theorem State.ceFinish_keeps {s t : State} (h : Keeps s t) (p : Nat) (q : QCmd) (t0 : Target) (w : Written) (hint : Bool) :
    Keeps s (State.ceFinish t p q t0 w hint) := by
  unfold State.ceFinish
  try dsimp -iota only
  repeat' (first
    | with_reducible assumption | with_reducible apply State.ceApply_keeps
    | with_reducible apply State.flagEvt_keeps | with_reducible apply State.retire_keeps
    | refine keeps_pair ?_ (by with_reducible assumption) | refine keeps_opt ?_ (by with_reducible assumption)
    | refine keeps_pairL ?_ (by with_reducible assumption) | intro _ | split)

theorem State.runIdx_keeps {s t : State} (h : Keeps s t) (op p : Nat) (q : QCmd) (b : List Byte) :
    Keeps s (State.runIdx op p q t b) := by
  unfold State.runIdx
  try dsimp -iota only
  repeat' (first
    | with_reducible assumption | with_reducible apply IdxD.writes_keeps | with_reducible apply State.ceApply_keeps
    | with_reducible apply State.ceError_keeps | with_reducible apply State.ceFinish_keeps
    | with_reducible apply State.draw_keeps | with_reducible apply State.flagEvt_keeps
    | with_reducible apply State.readRow_keeps | refine keeps_pair ?_ (by with_reducible assumption)
    | refine keeps_opt ?_ (by with_reducible assumption) | refine keeps_pairL ?_ (by with_reducible assumption)
    | intro _ | split)

theorem State.runSeg_keeps {s t : State} (h : Keeps s t) (p : Nat) (q : QCmd) (b : List Byte) :
    Keeps s (State.runSeg p q t b) := by
  unfold State.runSeg
  try dsimp -iota only
  repeat' (first
    | with_reducible assumption | with_reducible apply IdxD.writes_keeps | with_reducible apply State.ceError_keeps
    | with_reducible apply State.ceFinish_keeps | with_reducible apply State.readAreas_keeps
    | with_reducible apply State.readRow_keeps | with_reducible apply keeps_foldl
    | with_reducible apply keeps_foldl_snd | with_reducible apply keeps_foldl_fst
    | refine keeps_pair ?_ (by with_reducible assumption) | refine keeps_opt ?_ (by with_reducible assumption)
    | refine keeps_pairL ?_ (by with_reducible assumption) | intro _ | split)

theorem State.startGather_keeps {s t : State} (h : Keeps s t) (p : Nat) (q : QCmd) :
    Keeps s (State.startGather t p q) := by
  unfold State.startGather
  try dsimp -iota only
  repeat' (first
    | with_reducible assumption | simp only [↓keeps_mk] | with_reducible apply State.runIdx_keeps
    | with_reducible apply State.startCe_keeps | intro _)

theorem State.startScatter_keeps {s t : State} (h : Keeps s t) (p : Nat) (q : QCmd) :
    Keeps s (State.startScatter t p q) := by
  unfold State.startScatter
  try dsimp -iota only
  repeat' (first
    | with_reducible assumption | simp only [↓keeps_mk] | with_reducible apply State.runIdx_keeps
    | with_reducible apply State.startCe_keeps | intro _)

theorem State.startScatterAdd_keeps {s t : State} (h : Keeps s t) (p : Nat) (q : QCmd) :
    Keeps s (State.startScatterAdd t p q) := by
  unfold State.startScatterAdd
  try dsimp -iota only
  repeat' (first
    | with_reducible assumption | simp only [↓keeps_mk] | with_reducible apply State.runIdx_keeps
    | with_reducible apply State.startCe_keeps | intro _)

theorem State.startSegReduce_keeps {s t : State} (h : Keeps s t) (p : Nat) (q : QCmd) :
    Keeps s (State.startSegReduce t p q) := by
  unfold State.startSegReduce
  try dsimp -iota only
  repeat' (first
    | with_reducible assumption | simp only [↓keeps_mk] | with_reducible apply State.runSeg_keeps
    | with_reducible apply State.startCe_keeps | intro _)

theorem State.runRoute_keeps {s t : State} (h : Keeps s t) (p : Nat) (q : QCmd) (b : List Byte) :
    Keeps s (State.runRoute p q t b) := by
  unfold State.runRoute
  try dsimp -iota only
  repeat' (first
    | with_reducible assumption | with_reducible apply State.ceError_keeps
    | with_reducible apply State.ceFinish_keeps | with_reducible apply State.readRow_keeps
    | refine keeps_pair ?_ (by with_reducible assumption) | refine keeps_opt ?_ (by with_reducible assumption)
    | refine keeps_pairL ?_ (by with_reducible assumption) | intro _ | split)

theorem State.startRoute_keeps {s t : State} (h : Keeps s t) (p : Nat) (q : QCmd) :
    Keeps s (State.startRoute t p q) := by
  unfold State.startRoute
  try dsimp -iota only
  repeat' (first
    | with_reducible assumption | simp only [↓keeps_mk] | with_reducible apply State.runRoute_keeps
    | with_reducible apply State.startCe_keeps | intro _)

theorem State.runSet_keeps {s t : State} (h : Keeps s t) (p : Nat) (q : QCmd) (b : List Byte) :
    Keeps s (State.runSet p q t b) := by
  unfold State.runSet
  try dsimp -iota only
  repeat' (first
    | with_reducible assumption | with_reducible apply State.ceError_keeps
    | with_reducible apply State.ceFinish_keeps | with_reducible apply State.readRow_keeps
    | refine keeps_pair ?_ (by with_reducible assumption) | refine keeps_opt ?_ (by with_reducible assumption)
    | refine keeps_pairL ?_ (by with_reducible assumption) | intro _ | split)

theorem State.startSet_keeps {s t : State} (h : Keeps s t) (p : Nat) (q : QCmd) :
    Keeps s (State.startSet t p q) := by
  unfold State.startSet
  try dsimp -iota only
  repeat' (first
    | with_reducible assumption | simp only [↓keeps_mk] | with_reducible apply State.runSet_keeps
    | with_reducible apply State.startCe_keeps | intro _)

theorem State.runPos_keeps {s t : State} (h : Keeps s t) (p : Nat) (q : QCmd) (b : List Byte) :
    Keeps s (State.runPos p q t b) := by
  unfold State.runPos
  try dsimp -iota only
  repeat' (first
    | with_reducible assumption | with_reducible apply IdxD.writes_keeps | with_reducible apply State.ceError_keeps
    | with_reducible apply State.ceFinish_keeps | with_reducible apply State.readAreas_keeps
    | refine keeps_pair ?_ (by with_reducible assumption) | refine keeps_opt ?_ (by with_reducible assumption)
    | refine keeps_pairL ?_ (by with_reducible assumption) | intro _ | split)

theorem State.startPos_keeps {s t : State} (h : Keeps s t) (p : Nat) (q : QCmd) :
    Keeps s (State.startPos t p q) := by
  unfold State.startPos
  try dsimp -iota only
  repeat' (first
    | with_reducible assumption | simp only [↓keeps_mk] | with_reducible apply State.runPos_keeps
    | with_reducible apply State.startCe_keeps | intro _)

theorem State.runXdelta_keeps {s t : State} (h : Keeps s t) (p : Nat) (q : QCmd) (b : List Byte) :
    Keeps s (State.runXdelta p q t b) := by
  unfold State.runXdelta
  try dsimp -iota only
  repeat' (first
    | with_reducible assumption | with_reducible apply State.ceFinish_keeps | with_reducible apply State.read_keeps)

theorem State.startXdelta_keeps {s t : State} (h : Keeps s t) (p : Nat) (q : QCmd) :
    Keeps s (State.startXdelta t p q) := by
  unfold State.startXdelta
  try dsimp -iota only
  repeat' (first
    | with_reducible assumption | simp only [↓keeps_mk] | with_reducible apply State.runXdelta_keeps
    | with_reducible apply State.startCe_keeps | intro _)

theorem State.runXapply_keeps {s t : State} (h : Keeps s t) (p : Nat) (q : QCmd) (b : List Byte) :
    Keeps s (State.runXapply p q t b) := by
  unfold State.runXapply
  try dsimp -iota only
  repeat' (first
    | with_reducible assumption | with_reducible apply IdxD.writes_keeps | with_reducible apply State.ceError_keeps
    | with_reducible apply State.ceFinish_keeps | with_reducible apply State.read_keeps
    | refine keeps_pair ?_ (by with_reducible assumption) | refine keeps_opt ?_ (by with_reducible assumption)
    | refine keeps_pairL ?_ (by with_reducible assumption) | intro _ | split)

theorem State.startXapply_keeps {s t : State} (h : Keeps s t) (p : Nat) (q : QCmd) :
    Keeps s (State.startXapply t p q) := by
  unfold State.startXapply
  try dsimp -iota only
  repeat' (first
    | with_reducible assumption | simp only [↓keeps_mk] | with_reducible apply State.runXapply_keeps
    | with_reducible apply State.startCe_keeps | intro _)

theorem State.runHash_keeps {s t : State} (h : Keeps s t) (p : Nat) (q : QCmd) (b : List Byte) :
    Keeps s (State.runHash p q t b) := by
  unfold State.runHash
  try dsimp -iota only
  repeat' (first
    | with_reducible assumption | with_reducible apply State.ceFinish_keeps | with_reducible apply State.read_keeps
    | refine keeps_pair ?_ (by with_reducible assumption) | refine keeps_opt ?_ (by with_reducible assumption)
    | refine keeps_pairL ?_ (by with_reducible assumption) | intro _ | split)

theorem State.startHash_keeps {s t : State} (h : Keeps s t) (p : Nat) (q : QCmd) :
    Keeps s (State.startHash t p q) := by
  unfold State.startHash
  try dsimp -iota only
  repeat' (first
    | with_reducible assumption | simp only [↓keeps_mk] | with_reducible apply State.runHash_keeps
    | with_reducible apply State.startCe_keeps | intro _)

/-! ### `Machine/Sync.lean` -/

theorem State.startSu_keeps {s t : State} (h : Keeps s t) (p : Nat) (q : QCmd) :
    Keeps s (State.startSu t p q) := by
  unfold State.startSu
  try dsimp -iota only
  repeat' (first
    | with_reducible assumption | simp only [↓keeps_mk] | with_reducible apply State.applySu_keeps
    | with_reducible apply State.modCore_keeps | with_reducible apply State.raiseCore_keeps
    | with_reducible apply State.readDesc_keeps | with_reducible apply State.retire_keeps
    | with_reducible apply State.sendSignal_keeps | refine keeps_pair ?_ (by with_reducible assumption)
    | refine keeps_opt ?_ (by with_reducible assumption) | refine keeps_pairL ?_ (by with_reducible assumption)
    | intro _ | split)

theorem State.suDone_keeps {s t : State} (h : Keeps s t) (p : Nat) :
    Keeps s (State.suDone t p) := by
  unfold State.suDone
  try dsimp -iota only
  repeat' (first
    | with_reducible assumption | simp only [↓keeps_mk] | with_reducible apply State.modCore_keeps
    | with_reducible apply State.retire_keeps | refine keeps_pair ?_ (by with_reducible assumption)
    | refine keeps_opt ?_ (by with_reducible assumption) | refine keeps_pairL ?_ (by with_reducible assumption)
    | intro _ | split)

theorem State.applyHub_keeps {s t : State} (h : Keeps s t) (p : Nat) :
    Keeps s (State.applyHub t p) := by
  unfold State.applyHub
  try dsimp -iota only
  repeat' (first
    | with_reducible assumption | simp only [↓keeps_mk] | with_reducible apply State.applySu_keeps
    | with_reducible apply State.raise_keeps | with_reducible apply State.report_keeps
    | with_reducible apply State.suDone_keeps | refine keeps_pair ?_ (by with_reducible assumption)
    | refine keeps_opt ?_ (by with_reducible assumption) | refine keeps_pairL ?_ (by with_reducible assumption)
    | intro _ | split)

/-! ### `Machine/Engines.lean` -/

theorem State.startCmd_keeps {s t : State} (h : Keeps s t) (p : Nat) (q : QCmd) :
    Keeps s (State.startCmd t p q) := by
  unfold State.startCmd
  try dsimp -iota only
  repeat' (first
    | with_reducible assumption | simp only [↓keeps_mk] | with_reducible apply State.startAccLoad_keeps
    | with_reducible apply State.startAccStore_keeps | with_reducible apply State.startCopy_keeps
    | with_reducible apply State.startElem_keeps | with_reducible apply State.startGather_keeps
    | with_reducible apply State.startHash_keeps | with_reducible apply State.startMat_keeps
    | with_reducible apply State.startPair_keeps | with_reducible apply State.startPos_keeps
    | with_reducible apply State.startReduce_keeps | with_reducible apply State.startRoute_keeps
    | with_reducible apply State.startScatter_keeps | with_reducible apply State.startScatterAdd_keeps
    | with_reducible apply State.startSegReduce_keeps | with_reducible apply State.startSet_keeps
    | with_reducible apply State.startSu_keeps | with_reducible apply State.startTableLoad_keeps
    | with_reducible apply State.startUpdate_keeps | with_reducible apply State.startXapply_keeps
    | with_reducible apply State.startXdelta_keeps | refine keeps_pair ?_ (by with_reducible assumption)
    | refine keeps_opt ?_ (by with_reducible assumption) | refine keeps_pairL ?_ (by with_reducible assumption)
    | intro _ | split)

theorem State.startSound_keeps {s t : State} (h : Keeps s t) (p : Nat) (q : QCmd) :
    Keeps s (State.startSound t p q) := by
  unfold State.startSound
  try dsimp -iota only
  repeat' (first
    | with_reducible assumption | simp only [↓keeps_mk] | with_reducible apply State.clearParity_keeps
    | with_reducible apply State.raiseCore_keeps | with_reducible apply State.startCmd_keeps
    | refine keeps_pair ?_ (by with_reducible assumption) | refine keeps_opt ?_ (by with_reducible assumption)
    | refine keeps_pairL ?_ (by with_reducible assumption) | intro _ | split)

theorem State.noteHold_keeps {s t : State} (h : Keeps s t) (p : Nat) :
    Keeps s (State.noteHold t p) := by
  unfold State.noteHold
  try dsimp -iota only
  repeat' (first
    | with_reducible assumption | simp only [↓keeps_mk] | with_reducible apply State.modCore_keeps
    | with_reducible apply State.modCtx_keeps | refine keeps_pair ?_ (by with_reducible assumption)
    | refine keeps_opt ?_ (by with_reducible assumption) | refine keeps_pairL ?_ (by with_reducible assumption)
    | intro _ | split)

theorem State.pumpFrom_keeps {s t : State} (h : Keeps s t) (p : Nat) (e : Eng) (n : Nat) :
    Keeps s (State.pumpFrom t p e n) := by
  induction n generalizing t with
  | zero => exact h
  | succ n ih =>
    unfold State.pumpFrom
    split
    · exact h
    · exact ih (State.startSound_keeps (State.modCore_keeps h _ _) _ _)

theorem State.pump_keeps {s t : State} (h : Keeps s t) (p : Nat) (e : Eng) :
    Keeps s (State.pump t p e) := by
  unfold State.pump
  try dsimp -iota only
  repeat' (first
    | with_reducible assumption | simp only [↓keeps_mk] | with_reducible apply State.noteHold_keeps
    | with_reducible apply State.pumpFrom_keeps | intro _ | split)

/-- Where a fetch can leave the machine. -/
def FetchKeeps (s : State) : Fetch → Prop
  | .stop u => Keeps s u
  | .slot _ u => Keeps s u

theorem State.fetchFor_keeps {s t : State} (h : Keeps s t) (p eng op : Nat) : FetchKeeps s (t.fetchFor p eng op) := by
  unfold State.fetchFor
  dsimp only
  split
  · exact h
  · split
    · exact State.raiseCore_keeps h _ _ _
    · have h1 := State.read_keeps h (t.streamTarget p) (t.core p).seq.pos 32 false
      split
      · exact State.raiseCore_keeps h1 _ _ _
      · split
        · exact State.raiseCore_keeps h1 _ _ _
        · split
          · exact h1
          · exact h

theorem keeps_stop {s u : State} {f : Fetch} (h : FetchKeeps s f) (e : f = .stop u) : Keeps s u := by
  rw [e] at h
  exact h

theorem keeps_slot {s u : State} {f : Fetch} {b : List Byte} (h : FetchKeeps s f) (e : f = .slot b u) : Keeps s u := by
  rw [e] at h
  exact h

theorem State.engineRow_keeps {s t : State} (h : Keeps s t) (p eng op : Nat) (f : Faults) :
    Keeps s (State.engineRow t p eng op f) := by
  have h1 := State.fetchFor_keeps h p eng op
  unfold State.engineRow
  split
  · exact keeps_stop h1 (by assumption)
  · rename_i b u e
    have hu := keeps_slot h1 e
    dsimp only
    split
    · exact h
    · have h2 := fun a f => State.goTo_keeps (State.countDispatch_keeps (State.modCore_keeps hu p f) p) p a
      split
      · exact h2 _ _
      · exact State.pump_keeps (h2 _ _) _ _

theorem State.pumpArrays_keeps {s t : State} (h : Keeps s t) (p : Nat) :
    Keeps s (State.pumpArrays t p) := by
  unfold State.pumpArrays
  try dsimp -iota only
  repeat' (first | with_reducible assumption | simp only [↓keeps_mk] | with_reducible apply State.pump_keeps)

end Sys2Proof.Machine
end

