-- ==== Sys2Proof/Laws/KeepsStep.lean ====
section
/-! SUPPORT. The step protocol and loss scaling keep what `Keeps` says: one lemma per operation. -/

namespace Sys2Proof.Machine

/-! ### `Machine/Scaling.lean` -/

theorem State.startPublish_keeps {s t : State} (h : Keeps s t) (c n : Nat) :
    Keeps s (State.startPublish t c n) := by
  unfold State.startPublish
  try dsimp -iota only
  repeat' (first | with_reducible assumption | simp only [↓keeps_mk] | with_reducible apply State.modRegs_keeps)

theorem State.writeSet_keeps {s t : State} (h : Keeps s t) (c bank k : Nat) :
    Keeps s (State.writeSet t c bank k) := by
  unfold State.writeSet
  try dsimp -iota only
  repeat' (first | with_reducible assumption | simp only [↓keeps_mk] | with_reducible apply State.devWrite_keeps)

theorem State.publish_keeps {s t : State} (h : Keeps s t) (c : Nat) :
    Keeps s (State.publish t c) := by
  unfold State.publish
  try dsimp -iota only
  repeat' (first
    | with_reducible assumption | simp only [↓keeps_mk] | with_reducible apply State.modCtx_keeps
    | with_reducible apply State.modRegs_keeps | with_reducible apply State.writeHeader_keeps
    | with_reducible apply State.writeSet_keeps | with_reducible apply keeps_foldl
    | with_reducible apply keeps_foldl_snd | with_reducible apply keeps_foldl_fst
    | refine keeps_pair ?_ (by with_reducible assumption) | refine keeps_opt ?_ (by with_reducible assumption)
    | refine keeps_pairL ?_ (by with_reducible assumption) | intro _ | split)

theorem State.ckSnapshot_keeps {s t : State} (h : Keeps s t) (c : Nat) :
    Keeps s (State.ckSnapshot t c) := by
  unfold State.ckSnapshot
  try dsimp -iota only
  repeat' (first
    | with_reducible assumption | simp only [↓keeps_mk] | with_reducible apply State.modCtx_keeps
    | refine keeps_pair ?_ (by with_reducible assumption) | refine keeps_opt ?_ (by with_reducible assumption)
    | refine keeps_pairL ?_ (by with_reducible assumption) | intro _ | split)

theorem State.enterPaused_keeps {s t : State} (h : Keeps s t) (c : Nat) (code : Word) :
    Keeps s (State.enterPaused t c code) := by
  unfold State.enterPaused
  try dsimp -iota only
  repeat' (first
    | with_reducible assumption | simp only [↓keeps_mk] | with_reducible apply State.ckSnapshot_keeps
    | with_reducible apply State.event_keeps | with_reducible apply State.modCtx_keeps)

theorem State.openGate_keeps {s t : State} (h : Keeps s t) (c : Nat) :
    Keeps s (State.openGate t c) := by
  unfold State.openGate
  try dsimp -iota only
  repeat' (first
    | with_reducible assumption | simp only [↓keeps_mk] | with_reducible apply State.enterPaused_keeps
    | with_reducible apply State.modStep_keeps | refine keeps_pair ?_ (by with_reducible assumption)
    | refine keeps_opt ?_ (by with_reducible assumption) | refine keeps_pairL ?_ (by with_reducible assumption)
    | intro _ | split)

theorem State.tryFinish_keeps {s t : State} (h : Keeps s t) (c : Nat) :
    Keeps s (State.tryFinish t c) := by
  unfold State.tryFinish
  try dsimp -iota only
  repeat' (first
    | with_reducible assumption | simp only [↓keeps_mk] | with_reducible apply State.ckSnapshot_keeps
    | with_reducible apply State.event_keeps | with_reducible apply State.modCtx_keeps | intro _ | split)

/-! ### `Machine/StepProto.lean` -/

theorem State.writeSlot_keeps {s t : State} (h : Keeps s t) (c n state : Nat) :
    Keeps s (State.writeSlot t c n state) := by
  unfold State.writeSlot
  try dsimp -iota only
  repeat' (first
    | with_reducible assumption | simp only [↓keeps_mk] | with_reducible apply State.devWrite_keeps
    | refine keeps_pair ?_ (by with_reducible assumption) | refine keeps_opt ?_ (by with_reducible assumption)
    | refine keeps_pairL ?_ (by with_reducible assumption) | intro _ | split)

theorem State.writeRecord_keeps {s t : State} (h : Keeps s t) (c p lcore n : Nat) :
    Keeps s (State.writeRecord t c p lcore n) := by
  unfold State.writeRecord
  try dsimp -iota only
  repeat' (first
    | with_reducible assumption | simp only [↓keeps_mk] | with_reducible apply State.devWrite_keeps
    | refine keeps_pair ?_ (by with_reducible assumption) | refine keeps_opt ?_ (by with_reducible assumption)
    | refine keeps_pairL ?_ (by with_reducible assumption) | intro _ | split)

theorem State.pairSend_keeps {s t : State} (h : Keeps s t) (p chip : Nat) (epoch : Option Nat) (src dst n : Nat) :
    Keeps s (State.pairSend t p chip epoch src dst n) := by
  unfold State.pairSend
  try dsimp -iota only
  repeat' (first
    | with_reducible assumption | with_reducible apply State.read_keeps | with_reducible apply State.sendPuts_keeps)

theorem State.pairSlot_keeps {s t : State} (h : Keeps s t) (c p n off len : Nat) :
    Keeps s (State.pairSlot t c p n off len) := by
  unfold State.pairSlot
  try dsimp -iota only
  repeat' (first
    | with_reducible assumption | simp only [↓keeps_mk] | with_reducible apply State.pairSend_keeps
    | refine keeps_pair ?_ (by with_reducible assumption) | refine keeps_opt ?_ (by with_reducible assumption)
    | refine keeps_pairL ?_ (by with_reducible assumption) | intro _ | split)

theorem State.declare_keeps {s t : State} (h : Keeps s t) (c n : Nat) :
    Keeps s (State.declare t c n) := by
  unfold State.declare
  try dsimp -iota only
  repeat' (first
    | with_reducible assumption | simp only [↓keeps_mk] | with_reducible apply State.emptyBank_keeps
    | with_reducible apply State.memoryPause_keeps | with_reducible apply State.openGate_keeps
    | with_reducible apply State.setCtx_keeps | with_reducible apply State.writeSlot_keeps | intro _ | split)

theorem State.noteCore_keeps {s t : State} (h : Keeps s t) (c lcore n : Nat) :
    Keeps s (State.noteCore t c lcore n) := by
  unfold State.noteCore
  try dsimp -iota only
  repeat' (first | with_reducible assumption | simp only [↓keeps_mk] | with_reducible apply State.modStep_keeps)

theorem State.doStep_keeps {s t : State} (h : Keeps s t) (p : Nat) (slot : List Byte) (n : Nat) :
    Keeps s (State.doStep t p slot n) := by
  unfold State.doStep
  try dsimp -iota only
  repeat' (first
    | with_reducible assumption | simp only [↓keeps_mk] | with_reducible apply State.declare_keeps
    | with_reducible apply State.goTo_keeps | with_reducible apply State.modCore_keeps
    | with_reducible apply State.noteCore_keeps | with_reducible apply State.pairSlot_keeps
    | with_reducible apply State.signalSlot_keeps | with_reducible apply State.writeRecord_keeps
    | refine keeps_pair ?_ (by with_reducible assumption) | refine keeps_opt ?_ (by with_reducible assumption)
    | refine keeps_pairL ?_ (by with_reducible assumption) | intro _ | split)

theorem State.sendDigests_keeps {s t : State} (h : Keeps s t) (c : Nat) :
    Keeps s (State.sendDigests t c) := by
  unfold State.sendDigests
  try dsimp -iota only
  repeat' (first
    | with_reducible assumption | simp only [↓keeps_mk] | with_reducible apply State.sendCtl_keeps
    | with_reducible apply keeps_foldl | with_reducible apply keeps_foldl_snd
    | with_reducible apply keeps_foldl_fst | intro _ | split)

theorem State.compareDigest_keeps {s t : State} (h : Keeps s t) (c : Nat) (shard : Word) (d : BitVec 128) :
    Keeps s (State.compareDigest t c shard d) := by
  unfold State.compareDigest
  try dsimp -iota only
  repeat' (first
    | with_reducible assumption | simp only [↓keeps_mk] | with_reducible apply State.modRegs_keeps
    | with_reducible apply State.modStep_keeps | with_reducible apply State.report_keeps
    | refine keeps_pair ?_ (by with_reducible assumption) | refine keeps_opt ?_ (by with_reducible assumption)
    | refine keeps_pairL ?_ (by with_reducible assumption) | intro _ | split)

theorem State.useHeld_keeps {s t : State} (h : Keeps s t) (c : Nat) :
    Keeps s (State.useHeld t c) := by
  unfold State.useHeld
  try dsimp -iota only
  repeat' (first
    | with_reducible assumption | simp only [↓keeps_mk] | with_reducible apply State.compareDigest_keeps
    | with_reducible apply State.modStep_keeps | with_reducible apply keeps_foldl
    | with_reducible apply keeps_foldl_snd | with_reducible apply keeps_foldl_fst | intro _)

theorem State.histogram_keeps {s t : State} (h : Keeps s t) (c n : Nat) :
    Keeps s (State.histogram t c n) := by
  unfold State.histogram
  try dsimp -iota only
  repeat' (first | with_reducible assumption | simp only [↓keeps_mk] | with_reducible apply State.modRegs_keeps)

theorem State.dropFences_keeps {s t : State} (h : Keeps s t) (c : Nat) (sel : Nat → Bool) :
    Keeps s (State.dropFences t c sel) := by
  unfold State.dropFences
  try dsimp -iota only
  repeat' (first
    | with_reducible assumption | simp only [↓keeps_mk] | with_reducible apply State.modCore_keeps
    | with_reducible apply keeps_foldl | with_reducible apply keeps_foldl_snd
    | with_reducible apply keeps_foldl_fst | intro _)

theorem State.releaseUndo_keeps {s t : State} (h : Keeps s t) (c : Nat) (sel : Undo → Bool) :
    Keeps s (State.releaseUndo t c sel) := by
  unfold State.releaseUndo
  try dsimp -iota only
  repeat' (first
    | with_reducible assumption | simp only [↓keeps_mk] | with_reducible apply State.modStep_keeps
    | with_reducible apply State.writeRing_keeps)

theorem State.wrapRing_keeps {s t : State} (h : Keeps s t) (c : Nat) :
    Keeps s (State.wrapRing t c) := by
  unfold State.wrapRing
  try dsimp -iota only
  repeat' (first
    | with_reducible assumption | simp only [↓keeps_mk] | with_reducible apply State.modStep_keeps
    | with_reducible apply State.writeRing_keeps | refine keeps_pair ?_ (by with_reducible assumption)
    | refine keeps_opt ?_ (by with_reducible assumption) | refine keeps_pairL ?_ (by with_reducible assumption)
    | intro _ | split)

theorem State.commitStep_keeps {s t : State} (h : Keeps s t) (c n : Nat) :
    Keeps s (State.commitStep t c n) := by
  unfold State.commitStep
  try dsimp -iota only
  repeat' (first
    | with_reducible assumption | simp only [↓keeps_mk] | with_reducible apply State.ckSnapshot_keeps
    | with_reducible apply State.dropFences_keeps | with_reducible apply State.dropWindow_keeps
    | with_reducible apply State.histogram_keeps | with_reducible apply State.markSlot_keeps
    | with_reducible apply State.modCtx_keeps | with_reducible apply State.modStep_keeps
    | with_reducible apply State.openGate_keeps | with_reducible apply State.releaseUndo_keeps
    | with_reducible apply State.startPublish_keeps | with_reducible apply State.tryFinish_keeps
    | with_reducible apply State.wrapRing_keeps | intro _ | split)

theorem State.touchParts_keeps {s t : State} (h : Keeps s t) (c n : Nat) :
    Keeps s (State.touchParts t c n) := by
  unfold State.touchParts
  try dsimp -iota only
  repeat' (first
    | with_reducible assumption | simp only [↓keeps_mk] | with_reducible apply State.touch_keeps
    | with_reducible apply keeps_foldl | with_reducible apply keeps_foldl_snd
    | with_reducible apply keeps_foldl_fst | refine keeps_pair ?_ (by with_reducible assumption)
    | refine keeps_opt ?_ (by with_reducible assumption) | refine keeps_pairL ?_ (by with_reducible assumption)
    | intro _ | split)

theorem State.completeStep_keeps {s t : State} (h : Keeps s t) (c n : Nat) :
    Keeps s (State.completeStep t c n) := by
  unfold State.completeStep
  try dsimp -iota only
  repeat' (first
    | with_reducible assumption | simp only [↓keeps_mk] | with_reducible apply State.commitStep_keeps
    | with_reducible apply State.complete_keeps | with_reducible apply State.modStep_keeps
    | with_reducible apply State.report_keeps | with_reducible apply State.sendDigests_keeps
    | with_reducible apply State.touchParts_keeps | with_reducible apply State.useHeld_keeps
    | with_reducible apply State.writeSlot_keeps | refine keeps_pair ?_ (by with_reducible assumption)
    | refine keeps_opt ?_ (by with_reducible assumption) | refine keeps_pairL ?_ (by with_reducible assumption)
    | intro _ | split)

theorem State.sendDecision_keeps {s t : State} (h : Keeps s t) (c : Nat) (d : Decision) (dst : Nat) :
    Keeps s (State.sendDecision t c d dst) := by
  unfold State.sendDecision
  try dsimp -iota only
  repeat' (first | with_reducible assumption | simp only [↓keeps_mk] | with_reducible apply State.sendCtl_keeps)

theorem State.sendVote_keeps {s t : State} (h : Keeps s t) (c : Nat) :
    Keeps s (State.sendVote t c) := by
  unfold State.sendVote
  try dsimp -iota only
  repeat' (first
    | with_reducible assumption | with_reducible apply State.modStep_keeps
    | with_reducible apply State.report_keeps | with_reducible apply State.sendCtl_keeps
    | with_reducible apply State.sendDecision_keeps | with_reducible apply State.writeSlot_keeps
    | refine keeps_pair ?_ (by with_reducible assumption) | refine keeps_opt ?_ (by with_reducible assumption)
    | refine keeps_pairL ?_ (by with_reducible assumption) | intro _ | split)

theorem State.voteNow_keeps {s t : State} (h : Keeps s t) (c : Nat) :
    Keeps s (State.voteNow t c) := by
  unfold State.voteNow
  try dsimp -iota only
  repeat' (first
    | with_reducible assumption | simp only [↓keeps_mk] | with_reducible apply State.raise_keeps
    | with_reducible apply State.sendVote_keeps | intro _ | split)

theorem State.toChildren_keeps {s t : State} (h : Keeps s t) (c type n : Nat) (data : List Byte) :
    Keeps s (State.toChildren t c type n data) := by
  unfold State.toChildren
  try dsimp -iota only
  repeat' (first
    | with_reducible assumption | simp only [↓keeps_mk] | with_reducible apply State.sendCtl_keeps
    | with_reducible apply keeps_foldl | with_reducible apply keeps_foldl_snd
    | with_reducible apply keeps_foldl_fst | intro _)

theorem State.dropHub_keeps {s t : State} (h : Keeps s t) (c n : Nat) :
    Keeps s (State.dropHub t c n) := by
  unfold State.dropHub
  try dsimp -iota only
  repeat' (first | with_reducible assumption | simp only [↓keeps_mk])

theorem State.stopForRollback_keeps {s t : State} (h : Keeps s t) (c : Nat) (d : Decision) :
    Keeps s (State.stopForRollback t c d) := by
  unfold State.stopForRollback
  try dsimp -iota only
  repeat' (first
    | with_reducible assumption | simp only [↓keeps_mk] | with_reducible apply State.dropHub_keeps
    | with_reducible apply State.modCore_keeps | with_reducible apply State.modStep_keeps
    | with_reducible apply keeps_foldl | with_reducible apply keeps_foldl_snd
    | with_reducible apply keeps_foldl_fst | intro _ | split)

theorem State.loadRecord_keeps {s t : State} (h : Keeps s t) (c p lcore n : Nat) :
    Keeps s (State.loadRecord t c p lcore n) := by
  unfold State.loadRecord
  try dsimp -iota only
  repeat' (first
    | with_reducible assumption | with_reducible apply State.modCore_keeps | with_reducible apply State.read_keeps
    | refine keeps_pair ?_ (by with_reducible assumption) | refine keeps_opt ?_ (by with_reducible assumption)
    | refine keeps_pairL ?_ (by with_reducible assumption) | intro _ | split)

theorem State.loadRecords_keeps {s t : State} (h : Keeps s t) (c n : Nat) :
    Keeps s (State.loadRecords t c n) := by
  unfold State.loadRecords
  try dsimp -iota only
  repeat' (first
    | with_reducible assumption | with_reducible apply State.loadRecord_keeps
    | with_reducible apply State.modCore_keeps | with_reducible apply keeps_foldl
    | with_reducible apply keeps_foldl_snd | with_reducible apply keeps_foldl_fst
    | refine keeps_pair ?_ (by with_reducible assumption) | refine keeps_opt ?_ (by with_reducible assumption)
    | refine keeps_pairL ?_ (by with_reducible assumption) | intro _ | split)

theorem State.undoOk_keeps {s t : State} (h : Keeps s t) (c : Nat) (k : Skein) (u : Undo) :
    Keeps s (State.undoOk t c k u).2 := by
  unfold State.undoOk
  try dsimp -iota only
  repeat' (first | with_reducible assumption | with_reducible apply State.read_keeps)

theorem State.applyUndo_keeps {s t : State} (h : Keeps s t) (c : Nat) (k : Skein) (u : Undo) :
    Keeps s (State.applyUndo t c k u) := by
  unfold State.applyUndo
  try dsimp -iota only
  repeat' (first
    | with_reducible assumption | with_reducible apply State.devWrite_keeps | with_reducible apply State.read_keeps
    | refine keeps_pair ?_ (by with_reducible assumption) | refine keeps_opt ?_ (by with_reducible assumption)
    | refine keeps_pairL ?_ (by with_reducible assumption) | intro _ | split)

theorem State.applyUndos_keeps {s t : State} (h : Keeps s t) (c : Nat) (k : Skein) (l : List Undo) :
    Keeps s (State.applyUndos t c k l).2 := by
  induction l generalizing t with
  | nil => exact h
  | cons u r ih =>
    have h1 := State.undoOk_keeps h c k u
    unfold State.applyUndos
    split
    · exact ih (State.applyUndo_keeps (keeps_pair h1 (by assumption)) _ _ _)
    · exact keeps_pair h1 (by assumption)

theorem State.rollbackFail_keeps {s t : State} (h : Keeps s t) (c n : Nat) :
    Keeps s (State.rollbackFail t c n) := by
  unfold State.rollbackFail
  try dsimp -iota only
  repeat' (first
    | with_reducible assumption | simp only [↓keeps_mk] | with_reducible apply State.modStep_keeps
    | with_reducible apply State.raise_keeps)

theorem State.forgetEpochs_keeps {s t : State} (h : Keeps s t) (c n : Nat) :
    Keeps s (State.forgetEpochs t c n) := by
  unfold State.forgetEpochs
  try dsimp -iota only
  repeat' (first
    | with_reducible assumption | simp only [↓keeps_mk] | with_reducible apply State.dropFences_keeps
    | with_reducible apply State.modCtx_keeps)

theorem State.rollback_keeps {s t : State} (h : Keeps s t) (c n : Nat) (overflow : Bool) :
    Keeps s (State.rollback t c n overflow) := by
  unfold State.rollback
  try dsimp -iota only
  repeat' (first
    | with_reducible assumption | with_reducible apply State.applyUndos_keeps
    | with_reducible apply State.emptyBank_keeps | with_reducible apply State.forgetEpochs_keeps
    | with_reducible apply State.loadRecords_keeps | with_reducible apply State.markSlot_keeps
    | with_reducible apply State.modCtx_keeps | with_reducible apply State.modStep_keeps
    | with_reducible apply State.releaseUndo_keeps | with_reducible apply State.rollbackFail_keeps
    | with_reducible apply State.wrapRing_keeps | with_reducible apply State.writeUndoFields_keeps
    | refine keeps_pair ?_ (by with_reducible assumption) | refine keeps_opt ?_ (by with_reducible assumption)
    | refine keeps_pairL ?_ (by with_reducible assumption) | intro _ | split)

theorem State.keepEnded_keeps {s t : State} (h : Keeps s t) (c n : Nat) :
    Keeps s (State.keepEnded t c n) := by
  unfold State.keepEnded
  try dsimp -iota only
  repeat' (first | with_reducible assumption | with_reducible apply State.modStep_keeps)

theorem State.loadAfterDiag_keeps {s t : State} (h : Keeps s t) (c n : Nat) :
    Keeps s (State.loadAfterDiag t c n) := by
  unfold State.loadAfterDiag
  try dsimp -iota only
  repeat' (first
    | with_reducible assumption | with_reducible apply State.loadRecord_keeps
    | with_reducible apply State.modCore_keeps | with_reducible apply State.modStep_keeps
    | with_reducible apply keeps_foldl | with_reducible apply keeps_foldl_snd
    | with_reducible apply keeps_foldl_fst | refine keeps_pair ?_ (by with_reducible assumption)
    | refine keeps_opt ?_ (by with_reducible assumption) | refine keeps_pairL ?_ (by with_reducible assumption)
    | intro _ | split)

theorem State.applyWindow_keeps {s t : State} (h : Keeps s t) (c : Nat) (k : Skein) (lo hi : Nat) (down : Bool) :
    Keeps s (State.applyWindow t c k lo hi down).2 := by
  unfold State.applyWindow
  try dsimp -iota only
  repeat' (first | with_reducible assumption | simp only [↓keeps_mk] | with_reducible apply State.applyUndos_keeps)

theorem State.convertAll_keeps {s t : State} (h : Keeps s t) (c : Nat) :
    Keeps s (State.convertAll t c) := by
  unfold State.convertAll
  try dsimp -iota only
  repeat' (first
    | with_reducible assumption | simp only [↓keeps_mk] | with_reducible apply State.convertUndo_keeps
    | with_reducible apply keeps_foldl | with_reducible apply keeps_foldl_snd
    | with_reducible apply keeps_foldl_fst | intro _)

theorem State.diagBack_keeps {s t : State} (h : Keeps s t) (c d : Nat) :
    Keeps s (State.diagBack t c d) := by
  unfold State.diagBack
  try dsimp -iota only
  repeat' (first
    | with_reducible assumption | with_reducible apply State.applyWindow_keeps
    | with_reducible apply State.convertAll_keeps | with_reducible apply State.keepEnded_keeps
    | with_reducible apply State.loadRecords_keeps | with_reducible apply State.modStep_keeps
    | with_reducible apply State.report_keeps | with_reducible apply State.rollbackFail_keeps
    | refine keeps_pair ?_ (by with_reducible assumption) | refine keeps_opt ?_ (by with_reducible assumption)
    | refine keeps_pairL ?_ (by with_reducible assumption) | intro _ | split)

theorem State.restartCores_keeps {s t : State} (h : Keeps s t) (c : Nat) :
    Keeps s (State.restartCores t c) := by
  unfold State.restartCores
  try dsimp -iota only
  repeat' (first
    | with_reducible assumption | simp only [↓keeps_mk] | with_reducible apply State.modCore_keeps
    | with_reducible apply keeps_foldl | with_reducible apply keeps_foldl_snd
    | with_reducible apply keeps_foldl_fst | intro _)

theorem State.diagEnd_keeps {s t : State} (h : Keeps s t) (c : Nat) :
    Keeps s (State.diagEnd t c) := by
  unfold State.diagEnd
  try dsimp -iota only
  repeat' (first
    | with_reducible assumption | simp only [↓keeps_mk] | with_reducible apply State.dropFences_keeps
    | with_reducible apply State.dropHub_keeps | with_reducible apply State.loadAfterDiag_keeps
    | with_reducible apply State.modCore_keeps | with_reducible apply State.modStep_keeps
    | with_reducible apply State.restartCores_keeps | with_reducible apply keeps_foldl
    | with_reducible apply keeps_foldl_snd | with_reducible apply keeps_foldl_fst | intro _ | split)

theorem State.diagDone_keeps {s t : State} (h : Keeps s t) (c reason : Nat) :
    Keeps s (State.diagDone t c reason) := by
  unfold State.diagDone
  try dsimp -iota only
  repeat' (first
    | with_reducible assumption | simp only [↓keeps_mk] | with_reducible apply State.applyUndos_keeps
    | with_reducible apply State.applyWindow_keeps | with_reducible apply State.diagEnd_keeps
    | with_reducible apply State.modStep_keeps | with_reducible apply State.releaseUndo_keeps
    | with_reducible apply State.wrapRing_keeps | with_reducible apply State.writeUndoFields_keeps
    | refine keeps_pair ?_ (by with_reducible assumption) | refine keeps_opt ?_ (by with_reducible assumption)
    | refine keeps_pairL ?_ (by with_reducible assumption) | intro _ | split)

theorem State.rolledCheck_keeps {s t : State} (h : Keeps s t) (c : Nat) :
    Keeps s (State.rolledCheck t c) := by
  unfold State.rolledCheck
  try dsimp -iota only
  repeat' (first
    | with_reducible assumption | simp only [↓keeps_mk] | with_reducible apply State.sendCtl_keeps
    | with_reducible apply State.sendDecision_keeps | refine keeps_pair ?_ (by with_reducible assumption)
    | refine keeps_opt ?_ (by with_reducible assumption) | refine keeps_pairL ?_ (by with_reducible assumption)
    | intro _ | split)

theorem State.rerunStep_keeps {s t : State} (h : Keeps s t) (c attempt : Nat) :
    Keeps s (State.rerunStep t c attempt) := by
  unfold State.rerunStep
  try dsimp -iota only
  repeat' (first
    | with_reducible assumption | simp only [↓keeps_mk] | with_reducible apply State.dropFences_keeps
    | with_reducible apply State.modStep_keeps | with_reducible apply State.openGate_keeps
    | with_reducible apply State.restartCores_keeps | with_reducible apply State.writeSlot_keeps)

/-! ### `Machine/Control.lean` -/

theorem State.taken_keeps {s t : State} (h : Keeps s t) (p : Packet) :
    Keeps s (State.taken t p) := by
  unfold State.taken
  try dsimp -iota only
  repeat' (first
    | with_reducible assumption | simp only [↓keeps_mk] | with_reducible apply State.modLink_keeps
    | refine keeps_pair ?_ (by with_reducible assumption) | refine keeps_opt ?_ (by with_reducible assumption)
    | refine keeps_pairL ?_ (by with_reducible assumption) | intro _ | split)

theorem State.refuseAt_keeps {s t : State} (h : Keeps s t) (port : Option Nat) (p : Packet) (reason : Nat) :
    Keeps s (State.refuseAt t port p reason) := by
  unfold State.refuseAt
  try dsimp -iota only
  repeat' (first
    | with_reducible assumption | with_reducible apply State.draw_keeps | with_reducible apply State.emit_keeps
    | with_reducible apply State.report_keeps)

theorem State.refuse_keeps {s t : State} (h : Keeps s t) (p : Packet) (reason : Nat) :
    Keeps s (State.refuse t p reason) := by
  unfold State.refuse
  try dsimp -iota only
  repeat' (first | with_reducible assumption | simp only [↓keeps_mk] | with_reducible apply State.refuseAt_keeps)

theorem State.viaFab_keeps {s t : State} (h : Keeps s t) (i : Instr) (f : State → State) (hf : ∀ u , Keeps s u → Keeps s (f u)) :
    Keeps s (State.viaFab t i f) := by
  unfold State.viaFab
  try dsimp -iota only
  repeat' (first
    | with_reducible assumption | simp only [↓keeps_mk] | with_reducible apply State.report_keeps
    | with_reducible apply hf | intro _ | split)

theorem State.whenFab_keeps {s t : State} (h : Keeps s t) (i : Instr) (f : State → State) (hf : ∀ u , Keeps s u → Keeps s (f u)) :
    Keeps s (State.whenFab t i f) := by
  unfold State.whenFab
  try dsimp -iota only
  repeat' (first | with_reducible assumption | simp only [↓keeps_mk] | with_reducible apply hf | intro _ | split)

/-! ### `Machine/StepCmds.lean` -/

theorem State.stepCompleteRow_keeps {s t : State} (h : Keeps s t) (c : Nat) :
    Keeps s (State.stepCompleteRow t c) := by
  unfold State.stepCompleteRow
  try dsimp -iota only
  repeat' (first
    | with_reducible assumption | simp only [↓keeps_mk] | with_reducible apply State.complete_keeps
    | with_reducible apply State.completeStep_keeps | refine keeps_pair ?_ (by with_reducible assumption)
    | refine keeps_opt ?_ (by with_reducible assumption) | refine keeps_pairL ?_ (by with_reducible assumption)
    | intro _ | split)

theorem State.recvDigest_keeps {s t : State} (h : Keeps s t) (p : Packet) :
    Keeps s (State.recvDigest t p) := by
  unfold State.recvDigest
  try dsimp -iota only
  repeat' (first
    | with_reducible assumption | simp only [↓keeps_mk] | with_reducible apply State.compareDigest_keeps
    | with_reducible apply State.complete_keeps | with_reducible apply State.modStep_keeps
    | refine keeps_pair ?_ (by with_reducible assumption) | refine keeps_opt ?_ (by with_reducible assumption)
    | refine keeps_pairL ?_ (by with_reducible assumption) | intro _ | split)

theorem State.voteRow_keeps {s t : State} (h : Keeps s t) (c : Nat) :
    Keeps s (State.voteRow t c) := by
  unfold State.voteRow
  try dsimp -iota only
  repeat' (first
    | with_reducible assumption | simp only [↓keeps_mk] | with_reducible apply State.voteNow_keeps | intro _
    | split)

theorem State.recvVote_keeps {s t : State} (h : Keeps s t) (p : Packet) :
    Keeps s (State.recvVote t p) := by
  unfold State.recvVote
  try dsimp -iota only
  repeat' (first
    | with_reducible assumption | simp only [↓keeps_mk] | with_reducible apply State.modStep_keeps
    | with_reducible apply State.voteRow_keeps | refine keeps_pair ?_ (by with_reducible assumption)
    | refine keeps_opt ?_ (by with_reducible assumption) | refine keeps_pairL ?_ (by with_reducible assumption)
    | intro _ | split)

theorem State.withDecision_keeps {s t : State} (h : Keeps s t) (p : Packet) (kind : Nat) (f : Nat → Decision → State → State) (hf : ∀ u x1 x2, Keeps s u → Keeps s (f x1 x2 u)) :
    Keeps s (State.withDecision t p kind f) := by
  unfold State.withDecision
  try dsimp -iota only
  repeat' (first
    | with_reducible assumption | with_reducible apply State.toChildren_keeps | with_reducible apply hf
    | refine keeps_pair ?_ (by with_reducible assumption) | refine keeps_opt ?_ (by with_reducible assumption)
    | refine keeps_pairL ?_ (by with_reducible assumption) | intro _ | split)

theorem State.actReplay_keeps {s t : State} (h : Keeps s t) (c : Nat) (d : Decision) :
    Keeps s (State.actReplay t c d) := by
  unfold State.actReplay
  try dsimp -iota only
  repeat' (first
    | with_reducible assumption | simp only [↓keeps_mk] | with_reducible apply State.modRegs_keeps
    | with_reducible apply State.modStep_keeps | with_reducible apply State.report_keeps
    | with_reducible apply State.stopForRollback_keeps)

theorem State.actPause_keeps {s t : State} (h : Keeps s t) (c : Nat) (d : Decision) :
    Keeps s (State.actPause t c d) := by
  unfold State.actPause
  try dsimp -iota only
  repeat' (first
    | with_reducible assumption | simp only [↓keeps_mk] | with_reducible apply State.modRegs_keeps
    | with_reducible apply State.report_keeps | with_reducible apply State.stopForRollback_keeps
    | refine keeps_pair ?_ (by with_reducible assumption) | refine keeps_opt ?_ (by with_reducible assumption)
    | refine keeps_pairL ?_ (by with_reducible assumption) | intro _ | split)

theorem State.refuseDiag_keeps {s t : State} (h : Keeps s t) (c : Nat) (d : Decision) :
    Keeps s (State.refuseDiag t c d) := by
  unfold State.refuseDiag
  try dsimp -iota only
  repeat' (first | with_reducible assumption | simp only [↓keeps_mk] | with_reducible apply State.modStep_keeps)

theorem State.diagComplete_keeps {s t : State} (h : Keeps s t) (c reason : Nat) :
    Keeps s (State.diagComplete t c reason) := by
  unfold State.diagComplete
  try dsimp -iota only
  repeat' (first
    | with_reducible assumption | simp only [↓keeps_mk] | with_reducible apply State.finish_keeps
    | with_reducible apply State.modCtx_keeps | with_reducible apply State.modStep_keeps
    | refine keeps_pair ?_ (by with_reducible assumption) | refine keeps_opt ?_ (by with_reducible assumption)
    | refine keeps_pairL ?_ (by with_reducible assumption) | intro _ | split)

theorem State.restoreRow_keeps {s t : State} (h : Keeps s t) (c : Nat) :
    Keeps s (State.restoreRow t c) := by
  unfold State.restoreRow
  try dsimp -iota only
  repeat' (first
    | with_reducible assumption | simp only [↓keeps_mk] | with_reducible apply State.diagBack_keeps
    | with_reducible apply State.modStep_keeps | with_reducible apply State.rollback_keeps
    | with_reducible apply State.rolledCheck_keeps | refine keeps_pair ?_ (by with_reducible assumption)
    | refine keeps_opt ?_ (by with_reducible assumption) | refine keeps_pairL ?_ (by with_reducible assumption)
    | intro _ | split)

theorem State.recvRolled_keeps {s t : State} (h : Keeps s t) (p : Packet) :
    Keeps s (State.recvRolled t p) := by
  unfold State.recvRolled
  try dsimp -iota only
  repeat' (first
    | with_reducible assumption | simp only [↓keeps_mk] | with_reducible apply State.modStep_keeps
    | with_reducible apply State.rolledCheck_keeps | refine keeps_pair ?_ (by with_reducible assumption)
    | refine keeps_opt ?_ (by with_reducible assumption) | refine keeps_pairL ?_ (by with_reducible assumption)
    | intro _ | split)

theorem State.withGo_keeps {s t : State} (h : Keeps s t) (p : Packet) (action : Nat) (f : Nat → Decision → State → State) (hf : ∀ u x1 x2, Keeps s u → Keeps s (f x1 x2 u)) :
    Keeps s (State.withGo t p action f) := by
  unfold State.withGo
  try dsimp -iota only
  repeat' (first
    | with_reducible assumption | simp only [↓keeps_mk] | with_reducible apply State.toChildren_keeps
    | with_reducible apply hf | refine keeps_pair ?_ (by with_reducible assumption)
    | refine keeps_opt ?_ (by with_reducible assumption) | refine keeps_pairL ?_ (by with_reducible assumption)
    | intro _ | split)

theorem State.hold_keeps {s t : State} (h : Keeps s t) (c : Nat) (d : Decision) :
    Keeps s (State.hold t c d) := by
  unfold State.hold
  try dsimp -iota only
  repeat' (first
    | with_reducible assumption | simp only [↓keeps_mk] | with_reducible apply State.enterPaused_keeps
    | with_reducible apply State.markSlot_keeps | with_reducible apply State.modStep_keeps | intro _ | split)

theorem State.diagRun_keeps {s t : State} (h : Keeps s t) (c : Nat) (d : Decision) :
    Keeps s (State.diagRun t c d) := by
  unfold State.diagRun
  try dsimp -iota only
  repeat' (first
    | with_reducible assumption | simp only [↓keeps_mk] | with_reducible apply State.modCtx_keeps
    | with_reducible apply State.restartCores_keeps | with_reducible apply State.touch_keeps
    | refine keeps_pair ?_ (by with_reducible assumption) | refine keeps_opt ?_ (by with_reducible assumption)
    | refine keeps_pairL ?_ (by with_reducible assumption) | intro _ | split)

theorem State.convertOne_keeps {s t : State} (h : Keeps s t) (c : Nat) :
    Keeps s (State.convertOne t c) := by
  unfold State.convertOne
  try dsimp -iota only
  repeat' (first
    | with_reducible assumption | simp only [↓keeps_mk] | with_reducible apply State.convertUndo_keeps
    | refine keeps_pair ?_ (by with_reducible assumption) | refine keeps_opt ?_ (by with_reducible assumption)
    | refine keeps_pairL ?_ (by with_reducible assumption) | intro _ | split)

end Sys2Proof.Machine
end

