-- ==== Sys2Proof/Laws/KeepsHost.lean ====
section
/-! SUPPORT. Host commands, contexts, checkpoints and memory health keep what `Keeps` says: one lemma per operation. -/

namespace Sys2Proof.Machine

/-! ### `Machine/HostCmd.lean` -/

theorem State.acceptBlock_keeps {s t : State} (h : Keeps s t) (port : Nat) (b : List Byte) :
    Keeps s (State.acceptBlock t port b) := by
  unfold State.acceptBlock
  try dsimp -iota only
  repeat' (first
    | with_reducible assumption | simp only [↓keeps_mk] | with_reducible apply State.finish_keeps
    | with_reducible apply State.report_keeps | refine keeps_pair ?_ (by with_reducible assumption)
    | refine keeps_opt ?_ (by with_reducible assumption) | refine keeps_pairL ?_ (by with_reducible assumption)
    | intro _ | split)

theorem State.postRefused_keeps {s t : State} (h : Keeps s t) (port status : Nat) (code : Word) :
    Keeps s (State.postRefused t port status code) := by
  unfold State.postRefused
  try dsimp -iota only
  repeat' (first | with_reducible assumption | simp only [↓keeps_mk] | with_reducible apply State.postRecord_keeps)

theorem State.fetchPost_keeps {s t : State} (h : Keeps s t) (port : Nat) (r : PcieRead) :
    Keeps s (State.fetchPost t port r) := by
  unfold State.fetchPost
  try dsimp -iota only
  repeat' (first
    | with_reducible assumption | simp only [↓keeps_mk] | with_reducible apply State.acceptBlock_keeps
    | with_reducible apply State.postRefused_keeps | with_reducible apply State.report_keeps
    | with_reducible apply State.setPort_keeps | refine keeps_pair ?_ (by with_reducible assumption)
    | refine keeps_opt ?_ (by with_reducible assumption) | refine keeps_pairL ?_ (by with_reducible assumption)
    | intro _ | split)

theorem State.ctxCmd_keeps {s t : State} (h : Keeps s t) (c op : Nat) (f : HostCmd → State → State) (hf : ∀ u x1, Keeps s u → Keeps s (f x1 u)) :
    Keeps s (State.ctxCmd t c op f) := by
  unfold State.ctxCmd
  try dsimp -iota only
  repeat' (first
    | with_reducible assumption | simp only [↓keeps_mk] | with_reducible apply State.finish_keeps
    | with_reducible apply hf | refine keeps_pair ?_ (by with_reducible assumption)
    | refine keeps_opt ?_ (by with_reducible assumption) | refine keeps_pairL ?_ (by with_reducible assumption)
    | intro _ | split)

theorem State.moduleCmd_keeps {s t : State} (h : Keeps s t) (op : Nat) (f : HostCmd → State → State) (hf : ∀ u x1, Keeps s u → Keeps s (f x1 u)) :
    Keeps s (State.moduleCmd t op f) := by
  unfold State.moduleCmd
  try dsimp -iota only
  repeat' (first
    | with_reducible assumption | simp only [↓keeps_mk] | with_reducible apply State.finish_keeps
    | with_reducible apply hf | refine keeps_pair ?_ (by with_reducible assumption)
    | refine keeps_opt ?_ (by with_reducible assumption) | refine keeps_pairL ?_ (by with_reducible assumption)
    | intro _ | split)

theorem State.setBusy_keeps {s t : State} (h : Keeps s t) (c : Nat) (h0 : HostCmd) :
    Keeps s (State.setBusy t c h0) := by
  unfold State.setBusy
  try dsimp -iota only
  repeat' (first | with_reducible assumption | simp only [↓keeps_mk] | with_reducible apply State.modCtx_keeps)

theorem State.clearBusy_keeps {s t : State} (h : Keeps s t) (c : Nat) :
    Keeps s (State.clearBusy t c) := by
  unfold State.clearBusy
  try dsimp -iota only
  repeat' (first | with_reducible assumption | simp only [↓keeps_mk] | with_reducible apply State.modCtx_keeps)

/-! ### `Machine/Bar0.lean` -/

theorem State.platformEvent_keeps {s t : State} (h : Keeps s t) (sensor : Nat) (value : Int) :
    Keeps s (State.platformEvent t sensor value) := by
  unfold State.platformEvent
  try dsimp -iota only
  repeat' (first
    | with_reducible assumption | simp only [↓keeps_mk] | with_reducible apply State.emit_keeps
    | with_reducible apply State.event_keeps | refine keeps_pair ?_ (by with_reducible assumption)
    | refine keeps_opt ?_ (by with_reducible assumption) | refine keeps_pairL ?_ (by with_reducible assumption)
    | intro _ | split)

theorem State.tell_keeps {s t : State} (h : Keeps s t) (old : Nat) :
    Keeps s (State.tell t old) := by
  unfold State.tell
  try dsimp -iota only
  repeat' (first
    | with_reducible assumption | simp only [↓keeps_mk] | with_reducible apply State.platformEvent_keeps | intro _
    | split)

theorem State.bar0_keeps {s t : State} (h : Keeps s t) (i : Instr) (f : State → State) (hf : ∀ u , Keeps s u → Keeps s (f u)) :
    Keeps s (State.bar0 t i f) := by
  unfold State.bar0
  try dsimp -iota only
  repeat' (first | with_reducible assumption | simp only [↓keeps_mk] | with_reducible apply hf | intro _ | split)

theorem State.mbxPost_keeps {s t : State} (h : Keeps s t) (port : Nat) (hi : Word) :
    Keeps s (State.mbxPost t port hi) := by
  unfold State.mbxPost
  try dsimp -iota only
  repeat' (first
    | with_reducible assumption | simp only [↓keeps_mk] | with_reducible apply State.report_keeps
    | with_reducible apply State.setPort_keeps | intro _ | split)

/-! ### `Machine/MemHealth.lean` -/

theorem State.takeMarks_keeps {s t : State} (h : Keeps s t) :
    Keeps s (State.takeMarks t) := by
  unfold State.takeMarks
  try dsimp -iota only
  repeat' (first
    | with_reducible assumption | simp only [↓keeps_mk] | with_reducible apply State.modChan_keeps
    | with_reducible apply State.poisonCode_keeps | with_reducible apply keeps_foldl
    | with_reducible apply keeps_foldl_snd | with_reducible apply keeps_foldl_fst
    | refine keeps_pair ?_ (by with_reducible assumption) | refine keeps_opt ?_ (by with_reducible assumption)
    | refine keeps_pairL ?_ (by with_reducible assumption) | intro _ | split)

theorem State.mapGranules_keepsO {s t : State} (h : Keeps s t) (c mode set : Nat) (l : List Nat) :
    KeepsO s (State.mapGranules t c mode set l) := by
  induction l generalizing t with
  | nil => exact keepsO_some h
  | cons g r ih =>
    unfold State.mapGranules
    split
    · exact keepsO_none _
    · exact ih (State.takeMarks_keeps (State.setGranOwner_keeps (State.setGran_keeps h _ _) _ _))

theorem mapTbl_wf {α : Type} [DecidableEq α] {d : α} (f : Nat → α → α) {t : Tbl α} (h : Tbl.wf d t = true) :
    Tbl.wf d (mapTbl d f t) = true := by
  refine Tbl.filterMap_wf _ (fun e x hx => ?_) h
  split at hx
  · exact nomatch hx
  · rename_i hne
    injection hx with hx
    subst hx
    exact ⟨rfl, hne⟩

/-- The tables that hold what belongs to a granule are rewritten. -/
theorem keeps_forget {s t : State} (h : Keeps s t) {hbm lines : Memory} {cache : Tbl CacheSet} {chans : Tbl Chan}
    (h1 : t.canonical = true → hbm.wf = true) (h2 : t.canonical = true → lines.wf = true)
    (h3 : t.canonical = true → Tbl.wf CacheSet.reset cache = true) (h4 : t.canonical = true → Tbl.wf Chan.reset chans = true) :
    Keeps s { t with hbm := hbm, lines := lines, cache := cache, chans := chans } :=
  ⟨h.pending, h.drawn, h.fuses, fun k => by
    have c := h.form k
    have := h1 c
    have := h2 c
    have := h3 c
    have := h4 c
    simp_all [State.canonical_iff]⟩

theorem State.freeGranule_keeps {s t : State} (h : Keeps s t) (g : Nat) : Keeps s (State.freeGranule t g) := by
  have k := State.setGranOwner_keeps (State.setGran_keeps h g { t.gran g with valid := false }.toWord) g none
  refine keeps_forget k (fun c => Memory.clear_wf (State.hbm_wf c) _ _) (fun c => Memory.clear_wf (State.lines_wf c) _ _)
    (fun c => mapTbl_wf _ ?_) (fun c => mapTbl_wf _ ?_)
  · exact ((State.canonical_iff _).1 c).2.2.2.2.2.2.2.2.2.2.2.2
  · exact ((State.canonical_iff _).1 c).2.2.2.2.2.2.2.2.1

theorem State.copyOut_keeps {s t : State} (h : Keeps s t) (a : Nat) :
    Keeps s (State.copyOut t a).2 := by
  unfold State.copyOut
  try dsimp -iota only
  repeat' (first
    | with_reducible assumption | simp only [↓keeps_mk] | with_reducible apply State.chanRead_keeps
    | refine keeps_pair ?_ (by with_reducible assumption) | refine keeps_opt ?_ (by with_reducible assumption)
    | refine keeps_pairL ?_ (by with_reducible assumption) | intro _ | split)

theorem State.copyIn_keeps {s t : State} (h : Keeps s t) (a : Nat) :
    Keeps s (State.copyIn t a) := by
  unfold State.copyIn
  try dsimp -iota only
  repeat' (first
    | with_reducible assumption | simp only [↓keeps_mk] | with_reducible apply State.chanWrite_keeps
    | refine keeps_pair ?_ (by with_reducible assumption) | refine keeps_opt ?_ (by with_reducible assumption)
    | refine keeps_pairL ?_ (by with_reducible assumption) | intro _ | split)

theorem State.moveOut_keeps {s t : State} (h : Keeps s t) (ch : Nat) (blocks : List Nat) :
    Keeps s (State.moveOut t ch blocks).2 := by
  unfold State.moveOut
  try dsimp -iota only
  repeat' (first
    | with_reducible assumption | with_reducible apply State.copyOut_keeps | with_reducible apply State.evict_keeps
    | with_reducible apply State.turnBus_keeps | with_reducible apply keeps_foldl
    | with_reducible apply keeps_foldl_snd | with_reducible apply keeps_foldl_fst
    | refine keeps_pair ?_ (by with_reducible assumption) | refine keeps_opt ?_ (by with_reducible assumption)
    | refine keeps_pairL ?_ (by with_reducible assumption) | intro _)

theorem State.moveIn_keeps {s t : State} (h : Keeps s t) (g : Nat) (e : Gran) (blocks bad : List Nat) :
    Keeps s (State.moveIn t g e blocks bad) := by
  have h1 := keeps_hbm (State.setGran_keeps h g e.toWord)
    { (t.setGran g e.toWord).hbm with poison := bad.foldl (fun l u => keyInsert u l) (t.setGran g e.toWord).hbm.poison }
    fun c => Memory.marks_wf (State.hbm_wf c)
      (keys_foldl_wf (fun l u hl => keyInsert_wf u hl) _ ((Memory.wf_iff _).1 (State.hbm_wf c)).2.1)
      ((Memory.wf_iff _).1 (State.hbm_wf c)).2.2
  exact State.turnBus_keeps (keeps_foldl h1 fun u a hu => State.copyIn_keeps hu a) _

theorem State.relocatePart_keeps {s t : State} (h : Keeps s t) (g ch : Nat) (q : Part) (last : Option Nat) (n : Nat) :
    Keeps s (State.relocatePart t g ch q last n).2 := by
  induction n generalizing t with
  | zero => exact h
  | succ n ih =>
    rw [State.relocatePart]
    dsimp only
    split
    · exact h
    · have h1 : ∀ l, Keeps s (t.moveOut ch l).2 := fun l => State.moveOut_keeps h _ _
      split
      · exact ih (keeps_hbmOf (State.setGran_keeps (State.moveIn_keeps (h1 _) _ _ _ _) _ _) (h1 _))
      · exact State.moveIn_keeps (h1 _) _ _ _ _

theorem State.relocateGranule_keeps {s t : State} (h : Keeps s t) (ch g : Nat) (last : Option Nat) :
    Keeps s (State.relocateGranule t ch g last).2.2 := by
  unfold State.relocateGranule
  dsimp only
  refine keeps_foldl_by (fun r : Bool × Option Nat × State => r.2.2) h fun u q hu => ?_
  have k : ∀ l, Keeps s (u.2.2.relocatePart g ch q l 256).2 := fun l => State.relocatePart_keeps hu _ _ _ _ _
  split
  · exact hu
  · split
    · exact keeps_pair (k _) (by assumption)
    · exact keeps_pair (k _) (by assumption)

theorem State.moveAll_keeps {s t : State} (h : Keeps s t) (ch : Nat) (l : List (Nat × Nat)) :
    Keeps s (State.moveAll t ch l).2 := by
  unfold State.moveAll
  dsimp only
  exact keeps_foldl_by (fun r : List (Nat × Nat) × Option Nat × State => r.2.2) h fun u x hu => State.relocateGranule_keeps hu _ _ _

theorem State.endMapouts_keeps {s t : State} (h : Keeps s t) (ch status code : Nat) :
    Keeps s (State.endMapouts t ch status code) := by
  unfold State.endMapouts
  try dsimp -iota only
  repeat' (first
    | with_reducible assumption | simp only [↓keeps_mk] | with_reducible apply State.finish_keeps
    | with_reducible apply keeps_foldl | with_reducible apply keeps_foldl_snd
    | with_reducible apply keeps_foldl_fst | intro _)

theorem State.resumePaused_keeps {s t : State} (h : Keeps s t) :
    Keeps s (State.resumePaused t) := by
  unfold State.resumePaused
  try dsimp -iota only
  repeat' (first
    | with_reducible assumption | simp only [↓keeps_mk] | with_reducible apply State.openGate_keeps
    | with_reducible apply State.setCtx_keeps | with_reducible apply keeps_foldl
    | with_reducible apply keeps_foldl_snd | with_reducible apply keeps_foldl_fst | intro _ | split)

theorem State.mapoutCmd_keeps {s t : State} (h : Keeps s t) (h0 : HostCmd) :
    Keeps s (State.mapoutCmd t h0) := by
  unfold State.mapoutCmd
  try dsimp -iota only
  repeat' (first
    | with_reducible assumption | simp only [↓keeps_mk] | with_reducible apply State.endMapouts_keeps
    | with_reducible apply State.finish_keeps | with_reducible apply State.triggerMapout_keeps | intro _ | split)

theorem State.scrub_keeps {s t : State} (h : Keeps s t) (ch : Nat) :
    Keeps s (State.scrub t ch) := by
  unfold State.scrub
  try dsimp -iota only
  repeat' (first
    | with_reducible assumption | simp only [↓keeps_mk] | with_reducible apply State.countRead_keeps
    | with_reducible apply State.readUnit_keeps | with_reducible apply State.setChan_keeps | intro _ | split)

theorem State.bar2Get_keeps {s t : State} (h : Keeps s t) (port offset len : Nat) :
    Keeps s (State.bar2Get t port offset len) := by
  unfold State.bar2Get
  try dsimp -iota only
  repeat' (first
    | with_reducible assumption | with_reducible apply State.emit_keeps | with_reducible apply State.read_keeps
    | with_reducible apply State.waitForSnap_keeps | refine keeps_pair ?_ (by with_reducible assumption)
    | refine keeps_opt ?_ (by with_reducible assumption) | refine keeps_pairL ?_ (by with_reducible assumption)
    | intro _ | split)

theorem State.bar2Put_keeps {s t : State} (h : Keeps s t) (port offset : Nat) (bs : List Byte) :
    Keeps s (State.bar2Put t port offset bs) := by
  unfold State.bar2Put
  try dsimp -iota only
  repeat' (first
    | with_reducible assumption | simp only [↓keeps_mk] | with_reducible apply State.emit_keeps
    | with_reducible apply State.epochWrite_keeps | with_reducible apply State.waitForSnap_keeps
    | refine keeps_pair ?_ (by with_reducible assumption) | refine keeps_opt ?_ (by with_reducible assumption)
    | refine keeps_pairL ?_ (by with_reducible assumption) | intro _ | split)

/-! ### `Machine/Ckpt.lean` -/

theorem State.touchExtra_keeps {s t : State} (h : Keeps s t) (c : Nat) :
    Keeps s (State.touchExtra t c) := by
  unfold State.touchExtra
  try dsimp -iota only
  repeat' (first | with_reducible assumption | simp only [↓keeps_mk] | with_reducible apply State.touch_keeps)

theorem State.ckStart_keeps {s t : State} (h : Keeps s t) (c : Nat) (h0 : HostCmd) :
    Keeps s (State.ckStart t c h0) := by
  unfold State.ckStart
  try dsimp -iota only
  repeat' (first
    | with_reducible assumption | with_reducible apply State.ckSnapshot_keeps
    | with_reducible apply State.finish_keeps | with_reducible apply State.modCtx_keeps
    | with_reducible apply State.read_keeps | with_reducible apply State.report_keeps
    | with_reducible apply State.touchExtra_keeps | refine keeps_pair ?_ (by with_reducible assumption)
    | refine keeps_opt ?_ (by with_reducible assumption) | refine keeps_pairL ?_ (by with_reducible assumption)
    | intro _ | split)

theorem State.poolWrite_keeps {s t : State} (h : Keeps s t) (c off : Nat) (b : List Byte) :
    Keeps s (State.poolWrite t c off b) := by
  unfold State.poolWrite
  try dsimp -iota only
  repeat' (first
    | with_reducible assumption | simp only [↓keeps_mk] | with_reducible apply State.emit_keeps
    | with_reducible apply State.modCtx_keeps | with_reducible apply keeps_foldl
    | with_reducible apply keeps_foldl_snd | with_reducible apply keeps_foldl_fst | intro _)

theorem State.sendShards_keeps {s t : State} (h : Keeps s t) (c : Nat) :
    Keeps s (State.sendShards t c) := by
  unfold State.sendShards
  try dsimp -iota only
  repeat' (first
    | with_reducible assumption | simp only [↓keeps_mk] | with_reducible apply State.ckFail_keeps
    | with_reducible apply State.modCtx_keeps | with_reducible apply State.poolWrite_keeps
    | with_reducible apply keeps_foldl | with_reducible apply keeps_foldl_snd
    | with_reducible apply keeps_foldl_fst | intro _ | split)

theorem State.moverStep_keeps {s t : State} (h : Keeps s t) (c : Nat) :
    Keeps s (State.moverStep t c) := by
  unfold State.moverStep
  try dsimp -iota only
  repeat' (first
    | with_reducible assumption | simp only [↓keeps_mk] | with_reducible apply State.moverTake_keeps
    | with_reducible apply State.sendShards_keeps | refine keeps_pair ?_ (by with_reducible assumption)
    | refine keeps_opt ?_ (by with_reducible assumption) | refine keeps_pairL ?_ (by with_reducible assumption)
    | intro _ | split)

theorem State.manifestStep_keeps {s t : State} (h : Keeps s t) (c : Nat) :
    Keeps s (State.manifestStep t c) := by
  unfold State.manifestStep
  try dsimp -iota only
  repeat' (first
    | with_reducible assumption | simp only [↓keeps_mk] | with_reducible apply State.modCtx_keeps
    | with_reducible apply State.poolWrite_keeps | intro _ | split)

theorem State.sendJob_keeps {s t : State} (h : Keeps s t) (c dst type : Nat) (data : List Byte) :
    Keeps s (State.sendJob t c dst type data) := by
  unfold State.sendJob
  try dsimp -iota only
  repeat' (first | with_reducible assumption | simp only [↓keeps_mk] | with_reducible apply State.sendCtl_keeps)

theorem State.poolAcked_keeps {s t : State} (h : Keeps s t) (c n : Nat) :
    Keeps s (State.poolAcked t c n) := by
  unfold State.poolAcked
  try dsimp -iota only
  repeat' (first
    | with_reducible assumption | simp only [↓keeps_mk] | with_reducible apply State.modCtx_keeps
    | with_reducible apply State.sendJob_keeps | intro _ | split)

theorem State.recvCkAck_keeps {s t : State} (h : Keeps s t) (p : Packet) :
    Keeps s (State.recvCkAck t p) := by
  unfold State.recvCkAck
  try dsimp -iota only
  repeat' (first
    | with_reducible assumption | simp only [↓keeps_mk] | with_reducible apply State.ckFail_keeps
    | with_reducible apply State.complete_keeps | with_reducible apply State.modCtx_keeps
    | with_reducible apply State.report_keeps | refine keeps_pair ?_ (by with_reducible assumption)
    | refine keeps_opt ?_ (by with_reducible assumption) | refine keeps_pairL ?_ (by with_reducible assumption)
    | intro _ | split)

theorem State.poolTimeout_keeps {s t : State} (h : Keeps s t) (c : Nat) :
    Keeps s (State.poolTimeout t c) := by
  unfold State.poolTimeout
  try dsimp -iota only
  repeat' (first
    | with_reducible assumption | simp only [↓keeps_mk] | with_reducible apply State.ckFail_keeps | intro _ | split)

/-! ### `Machine/SyncCmds.lean` -/

theorem State.hubStep_keeps {s t : State} (h : Keeps s t) (p : Nat) :
    Keeps s (State.hubStep t p) := by
  unfold State.hubStep
  try dsimp -iota only
  repeat' (first
    | with_reducible assumption | simp only [↓keeps_mk] | with_reducible apply State.applyHub_keeps
    | with_reducible apply State.pump_keeps | refine keeps_pair ?_ (by with_reducible assumption)
    | refine keeps_opt ?_ (by with_reducible assumption) | refine keeps_pairL ?_ (by with_reducible assumption)
    | intro _ | split)

/-! ### `Machine/CopyCmds.lean` -/

theorem State.windowData_keeps {s t : State} (h : Keeps s t) (p : Nat) (r : PcieRead) :
    Keeps s (State.windowData t p r) := by
  unfold State.windowData
  try dsimp -iota only
  repeat' (first
    | with_reducible assumption | simp only [↓keeps_mk] | with_reducible apply State.ceError_keeps
    | with_reducible apply State.copyDeliver_keeps | with_reducible apply State.dropCe_keeps
    | with_reducible apply State.modCore_keeps | with_reducible apply State.pump_keeps
    | refine keeps_pair ?_ (by with_reducible assumption) | refine keeps_opt ?_ (by with_reducible assumption)
    | refine keeps_pairL ?_ (by with_reducible assumption) | intro _ | split)

/-! ### `Machine/SeqCmds.lean` -/

theorem State.seqDone_keeps {s t : State} (h : Keeps s t) (p : Nat) (b : List Byte) (next : Nat) :
    Keeps s (State.seqDone t p b next) := by
  unfold State.seqDone
  try dsimp -iota only
  repeat' (first
    | with_reducible assumption | simp only [↓keeps_mk] | with_reducible apply State.countDispatch_keeps
    | with_reducible apply State.goTo_keeps | with_reducible apply State.signalSlot_keeps | intro _ | split)

theorem State.seqJump_keeps {s t : State} (h : Keeps s t) (p : Nat) (b : List Byte) (target : Nat) (f : Seq → Seq) :
    Keeps s (State.seqJump t p b target f) := by
  unfold State.seqJump
  try dsimp -iota only
  repeat' (first
    | with_reducible assumption | simp only [↓keeps_mk] | with_reducible apply State.modCore_keeps
    | with_reducible apply State.raiseCore_keeps | with_reducible apply State.seqDone_keeps | intro _ | split)

theorem State.afterLoop_keeps {s t : State} (h : Keeps s t) (p n a depth : Nat) :
    Keeps s (State.afterLoop t p n a depth).2 := by
  induction n generalizing t a depth with
  | zero => exact h
  | succ n ih =>
    have hr : ∀ u x, Keeps s u → Keeps s (u.read x a 32).2 := fun u x hu => State.read_keeps hu _ _ _ _
    rw [State.afterLoop]
    split
    · exact h
    · dsimp only
      split
      · exact hr _ _ h
      · split
        · exact ih (hr _ _ h) _ _
        · split
          · split
            · exact hr _ _ h
            · exact ih (hr _ _ h) _ _
          · exact ih (hr _ _ h) _ _

theorem State.raisePoisonEnd_keeps {s t : State} (h : Keeps s t) (p : Nat) :
    Keeps s (State.raisePoisonEnd t p) := by
  unfold State.raisePoisonEnd
  try dsimp -iota only
  repeat' (first | with_reducible assumption | simp only [↓keeps_mk] | with_reducible apply State.raise_keeps)

theorem State.seqEndAct_keeps {s t : State} (h : Keeps s t) (p : Nat) (b : List Byte) :
    Keeps s (State.seqEndAct t p b) := by
  unfold State.seqEndAct
  try dsimp -iota only
  repeat' (first
    | with_reducible assumption | simp only [↓keeps_mk] | with_reducible apply State.countDispatch_keeps
    | with_reducible apply State.modCore_keeps | with_reducible apply State.noteCore_keeps
    | with_reducible apply State.raisePoisonEnd_keeps | with_reducible apply State.signalSlot_keeps
    | with_reducible apply State.tryFinish_keeps | refine keeps_pair ?_ (by with_reducible assumption)
    | refine keeps_opt ?_ (by with_reducible assumption) | refine keeps_pairL ?_ (by with_reducible assumption)
    | intro _ | split)

theorem State.seqCallAct_keeps {s t : State} (h : Keeps s t) (p : Nat) (b : List Byte) :
    Keeps s (State.seqCallAct t p b) := by
  unfold State.seqCallAct
  try dsimp -iota only
  repeat' (first
    | with_reducible assumption | simp only [↓keeps_mk] | with_reducible apply State.raiseCore_keeps
    | with_reducible apply State.seqJump_keeps | intro _ | split)

theorem State.seqRetAct_keeps {s t : State} (h : Keeps s t) (p : Nat) (b : List Byte) :
    Keeps s (State.seqRetAct t p b) := by
  unfold State.seqRetAct
  try dsimp -iota only
  repeat' (first
    | with_reducible assumption | simp only [↓keeps_mk] | with_reducible apply State.raiseCore_keeps
    | with_reducible apply State.seqJump_keeps | refine keeps_pair ?_ (by with_reducible assumption)
    | refine keeps_opt ?_ (by with_reducible assumption) | refine keeps_pairL ?_ (by with_reducible assumption)
    | intro _ | split)

theorem State.seqLoopAct_keeps {s t : State} (h : Keeps s t) (p : Nat) (b : List Byte) :
    Keeps s (State.seqLoopAct t p b) := by
  unfold State.seqLoopAct
  try dsimp -iota only
  repeat' (first
    | with_reducible assumption | simp only [↓keeps_mk] | with_reducible apply State.afterLoop_keeps
    | with_reducible apply State.modCore_keeps | with_reducible apply State.raiseCore_keeps
    | with_reducible apply State.seqDone_keeps | refine keeps_pair ?_ (by with_reducible assumption)
    | refine keeps_opt ?_ (by with_reducible assumption) | refine keeps_pairL ?_ (by with_reducible assumption)
    | intro _ | split)

theorem State.seqEndloopAct_keeps {s t : State} (h : Keeps s t) (p : Nat) (b : List Byte) :
    Keeps s (State.seqEndloopAct t p b) := by
  unfold State.seqEndloopAct
  try dsimp -iota only
  repeat' (first
    | with_reducible assumption | simp only [↓keeps_mk] | with_reducible apply State.modCore_keeps
    | with_reducible apply State.raiseCore_keeps | with_reducible apply State.seqDone_keeps
    | refine keeps_pair ?_ (by with_reducible assumption) | refine keeps_opt ?_ (by with_reducible assumption)
    | refine keeps_pairL ?_ (by with_reducible assumption) | intro _ | split)

theorem State.seqStepAct_keeps {s t : State} (h : Keeps s t) (p : Nat) (b : List Byte) :
    Keeps s (State.seqStepAct t p b) := by
  unfold State.seqStepAct
  try dsimp -iota only
  repeat' (first
    | with_reducible assumption | simp only [↓keeps_mk] | with_reducible apply State.countDispatch_keeps
    | with_reducible apply State.doStep_keeps | with_reducible apply State.raiseCore_keeps | intro _ | split)

theorem State.dropNotify_keeps {s t : State} (h : Keeps s t) (p : Nat) (b : List Byte) :
    Keeps s (State.dropNotify t p b) := by
  unfold State.dropNotify
  try dsimp -iota only
  repeat' (first
    | with_reducible assumption | simp only [↓keeps_mk] | with_reducible apply State.enterPaused_keeps
    | with_reducible apply State.modPort_keeps | with_reducible apply State.modStep_keeps
    | with_reducible apply State.report_keeps | with_reducible apply State.seqDone_keeps | intro _ | split)

theorem State.seqNotifyAct_keeps {s t : State} (h : Keeps s t) (p : Nat) (b : List Byte) :
    Keeps s (State.seqNotifyAct t p b) := by
  unfold State.seqNotifyAct
  try dsimp -iota only
  repeat' (first
    | with_reducible assumption | simp only [↓keeps_mk] | with_reducible apply State.dropNotify_keeps
    | with_reducible apply State.raisePoisonEnd_keeps | with_reducible apply State.seqDone_keeps
    | with_reducible apply State.storeRecord_keeps | intro _ | split)

theorem State.markPhase_keeps {s t : State} (h : Keeps s t) (p id : Nat) :
    Keeps s (State.markPhase t p id) := by
  unfold State.markPhase
  try dsimp -iota only
  repeat' (first | with_reducible assumption | simp only [↓keeps_mk] | with_reducible apply State.modCore_keeps)

theorem State.seqAct_keeps {s t : State} (h : Keeps s t) (p : Nat) (b : List Byte) :
    Keeps s (State.seqAct t p b) := by
  unfold State.seqAct
  try dsimp -iota only
  repeat' (first
    | with_reducible assumption | simp only [↓keeps_mk] | with_reducible apply State.markPhase_keeps
    | with_reducible apply State.seqCallAct_keeps | with_reducible apply State.seqDone_keeps
    | with_reducible apply State.seqEndAct_keeps | with_reducible apply State.seqEndloopAct_keeps
    | with_reducible apply State.seqJump_keeps | with_reducible apply State.seqLoopAct_keeps
    | with_reducible apply State.seqNotifyAct_keeps | with_reducible apply State.seqRetAct_keeps
    | with_reducible apply State.seqStepAct_keeps | refine keeps_pair ?_ (by with_reducible assumption)
    | refine keeps_opt ?_ (by with_reducible assumption) | refine keeps_pairL ?_ (by with_reducible assumption)
    | intro _ | split)

theorem State.seqRow_keeps {s t : State} (h : Keeps s t) (p op : Nat) :
    Keeps s (State.seqRow t p op) := by
  unfold State.seqRow
  try dsimp -iota only
  repeat' (first
    | with_reducible assumption | simp only [↓keeps_mk] | with_reducible apply State.seqAct_keeps
    | refine keeps_pair ?_ (by with_reducible assumption) | refine keeps_opt ?_ (by with_reducible assumption)
    | refine keeps_pairL ?_ (by with_reducible assumption) | refine keeps_stop ?_ (by with_reducible assumption)
    | refine keeps_slot ?_ (by with_reducible assumption) | with_reducible apply State.fetchFor_keeps | intro _
    | split)

theorem State.release_keeps {s t : State} (h : Keeps s t) (p : Nat) (e : Eng) :
    Keeps s (State.release t p e) := by
  unfold State.release
  try dsimp -iota only
  repeat' (first
    | with_reducible assumption | simp only [↓keeps_mk] | with_reducible apply State.pump_keeps
    | with_reducible apply State.seqRow_keeps | intro _ | split)

theorem State.slotSignalStep_keeps {s t : State} (h : Keeps s t) (p : Nat) (e : Eng) :
    Keeps s (State.slotSignalStep t p e) := by
  unfold State.slotSignalStep
  try dsimp -iota only
  repeat' (first
    | with_reducible assumption | simp only [↓keeps_mk] | with_reducible apply State.modCore_keeps
    | with_reducible apply State.signalSlot_keeps | refine keeps_pair ?_ (by with_reducible assumption)
    | refine keeps_opt ?_ (by with_reducible assumption) | refine keeps_pairL ?_ (by with_reducible assumption)
    | intro _ | split)

/-! ### `Machine/Context.lean` -/

theorem State.build_keepsO {s t : State} (h : Keeps s t) (b : List Byte) (port : Nat) (g : Grant) :
    KeepsO s (State.build t b port g) := by
  unfold State.build
  extract_lets bytes base d save area old
  clear_value bytes base d save area old
  split
  · exact keepsO_none _
  · rename_i s1 e
    have h1 : Keeps s s1 := State.mapGranules_keepsO h _ _ _ _ _ e
    extract_lets s2 s3
    have h2 : Keeps s s2 := keeps_foldl h1 fun u x hu => State.modCore_keeps hu _ _
    have h3 : Keeps s s3 := keeps_foldl h2 fun u x hu => State.setLidUnit_keeps hu _ _
    clear_value s3
    exact keepsO_some (State.setCtx_keeps h3 _ _)

theorem State.createCmd_keeps {s t : State} (h : Keeps s t) (h0 : HostCmd) :
    Keeps s (State.createCmd t h0) := by
  unfold State.createCmd
  try dsimp -iota only
  repeat' (first
    | with_reducible assumption | simp only [↓keeps_mk] | with_reducible apply State.build_keepsO
    | with_reducible apply State.complete_keeps | with_reducible apply State.finish_keeps
    | refine keeps_pair ?_ (by with_reducible assumption) | refine keeps_opt ?_ (by with_reducible assumption)
    | refine keeps_pairL ?_ (by with_reducible assumption) | intro _ | split)

theorem State.readTable_keeps {s t : State} (h : Keeps s t) (c addr : Nat) :
    Keeps s (State.readTable t c addr).2 := by
  unfold State.readTable
  try dsimp -iota only
  repeat' (first
    | with_reducible assumption | with_reducible apply State.read_keeps
    | refine keeps_pair ?_ (by with_reducible assumption) | refine keeps_opt ?_ (by with_reducible assumption)
    | refine keeps_pairL ?_ (by with_reducible assumption) | intro _ | split)

theorem State.touchPair_keeps {s t : State} (h : Keeps s t) (c : Nat) :
    Keeps s (State.touchPair t c) := by
  unfold State.touchPair
  try dsimp -iota only
  repeat' (first
    | with_reducible assumption | simp only [↓keeps_mk] | with_reducible apply State.touch_keeps
    | refine keeps_pair ?_ (by with_reducible assumption) | refine keeps_opt ?_ (by with_reducible assumption)
    | refine keeps_pairL ?_ (by with_reducible assumption) | intro _ | split)

theorem State.pairImage_keeps {s t : State} (h : Keeps s t) (c : Nat) :
    Keeps s (State.pairImage t c) := by
  unfold State.pairImage
  try dsimp -iota only
  repeat' (first
    | with_reducible assumption | with_reducible apply State.modStep_keeps
    | with_reducible apply State.pairSend_keeps | with_reducible apply State.sendPuts_keeps
    | with_reducible apply keeps_foldl | with_reducible apply keeps_foldl_snd
    | with_reducible apply keeps_foldl_fst | refine keeps_pair ?_ (by with_reducible assumption)
    | refine keeps_opt ?_ (by with_reducible assumption) | refine keeps_pairL ?_ (by with_reducible assumption)
    | intro _ | split)

theorem State.skeinHeader_keeps {s t : State} (h : Keeps s t) (c : Nat) :
    Keeps s (State.skeinHeader t c) := by
  unfold State.skeinHeader
  try dsimp -iota only
  repeat' (first
    | with_reducible assumption | simp only [↓keeps_mk] | with_reducible apply State.devWrite_keeps
    | refine keeps_pair ?_ (by with_reducible assumption) | refine keeps_opt ?_ (by with_reducible assumption)
    | refine keeps_pairL ?_ (by with_reducible assumption) | intro _ | split)

theorem State.clearPhases_keeps {s t : State} (h : Keeps s t) (cores : List Nat) :
    Keeps s (State.clearPhases t cores) := by
  unfold State.clearPhases
  try dsimp -iota only
  repeat' (first | with_reducible assumption | simp only [↓keeps_mk])

theorem State.startCtx_keeps {s t : State} (h : Keeps s t) (c addr : Nat) (es : List (Nat × Nat × Bool)) :
    Keeps s (State.startCtx t c addr es) := by
  unfold State.startCtx
  try dsimp -iota only
  repeat' (first
    | with_reducible assumption | simp only [↓keeps_mk] | with_reducible apply State.clearPhases_keeps
    | with_reducible apply State.modCore_keeps | with_reducible apply State.pairImage_keeps
    | with_reducible apply State.setCtx_keeps | with_reducible apply State.skeinHeader_keeps
    | with_reducible apply State.tryFinish_keeps | with_reducible apply keeps_foldl
    | with_reducible apply keeps_foldl_snd | with_reducible apply keeps_foldl_fst | intro _)

theorem State.startCmdCtx_keeps {s t : State} (h : Keeps s t) (c : Nat) (h0 : HostCmd) :
    Keeps s (State.startCmdCtx t c h0) := by
  unfold State.startCmdCtx
  try dsimp -iota only
  repeat' (first
    | with_reducible assumption | with_reducible apply State.finish_keeps
    | with_reducible apply State.readTable_keeps | with_reducible apply State.startCtx_keeps
    | with_reducible apply State.touchPair_keeps | refine keeps_pair ?_ (by with_reducible assumption)
    | refine keeps_opt ?_ (by with_reducible assumption) | refine keeps_pairL ?_ (by with_reducible assumption)
    | intro _ | split)

theorem State.readWhole_keeps {s t : State} (h : Keeps s t) (p : Nat) : Keeps s (State.readWhole t p).2 := by
  unfold State.readWhole
  exact State.read_keeps h _ _ _ _

theorem State.saveCore_keeps {s t : State} (h : Keeps s t) (c p l : Nat) : Keeps s (State.saveCore t c p l) := by
  have h1 := State.readWhole_keeps h p
  unfold State.saveCore
  generalize State.readWhole t p = r at h1
  exact State.devWrite_keeps h1 _ _ _ _ _

theorem State.loadCore_keeps {s t : State} (h : Keeps s t) (c p l : Nat) :
    Keeps s (State.loadCore t c p l) := by
  unfold State.loadCore
  try dsimp -iota only
  repeat' (first
    | with_reducible assumption | with_reducible apply State.modCore_keeps | with_reducible apply State.read_keeps
    | with_reducible apply State.write_keeps)

theorem State.suspendCmd_keeps {s t : State} (h : Keeps s t) (c : Nat) (h0 : HostCmd) :
    Keeps s (State.suspendCmd t c h0) := by
  unfold State.suspendCmd
  try dsimp -iota only
  repeat' (first
    | with_reducible assumption | simp only [↓keeps_mk] | with_reducible apply State.finish_keeps
    | with_reducible apply State.setBusy_keeps | intro _ | split)

theorem State.saveDone_keeps {s t : State} (h : Keeps s t) (c : Nat) :
    Keeps s (State.saveDone t c) := by
  unfold State.saveDone
  try dsimp -iota only
  repeat' (first
    | with_reducible assumption | with_reducible apply State.ckSnapshot_keeps
    | with_reducible apply State.clearBusy_keeps | with_reducible apply State.finish_keeps
    | with_reducible apply State.modCtx_keeps | with_reducible apply State.releaseCore_keeps
    | with_reducible apply State.saveCore_keeps | with_reducible apply keeps_foldl
    | with_reducible apply keeps_foldl_snd | with_reducible apply keeps_foldl_fst
    | refine keeps_pair ?_ (by with_reducible assumption) | refine keeps_opt ?_ (by with_reducible assumption)
    | refine keeps_pairL ?_ (by with_reducible assumption) | intro _ | split)

theorem State.recordSignalAt_keeps {s t : State} (h : Keeps s t) (c lcore ctr inc n : Nat) :
    Keeps s (State.recordSignalAt t c lcore ctr inc n) := by
  unfold State.recordSignalAt
  try dsimp -iota only
  repeat' (first
    | with_reducible assumption | simp only [↓keeps_mk] | with_reducible apply State.devWrite_keeps
    | refine keeps_pair ?_ (by with_reducible assumption) | refine keeps_opt ?_ (by with_reducible assumption)
    | refine keeps_pairL ?_ (by with_reducible assumption) | intro _ | split)

theorem State.recordSignal_keeps {s t : State} (h : Keeps s t) (c p lcore ctr inc key : Nat) :
    Keeps s (State.recordSignal t c p lcore ctr inc key) := by
  unfold State.recordSignal
  try dsimp -iota only
  repeat' (first
    | with_reducible assumption | simp only [↓keeps_mk] | with_reducible apply State.recordSignalAt_keeps
    | with_reducible apply keeps_foldl | with_reducible apply keeps_foldl_snd
    | with_reducible apply keeps_foldl_fst | intro _)

theorem State.applyHeldOne_keeps {s t : State} (h : Keeps s t) (c : Nat) (g : HeldSignal) :
    Keeps s (State.applyHeldOne t c g) := by
  unfold State.applyHeldOne
  try dsimp -iota only
  repeat' (first
    | with_reducible assumption | simp only [↓keeps_mk] | with_reducible apply State.addCtr_keeps
    | with_reducible apply State.recordSignal_keeps | with_reducible apply State.refuseAt_keeps
    | with_reducible apply State.suError_keeps | refine keeps_pair ?_ (by with_reducible assumption)
    | refine keeps_opt ?_ (by with_reducible assumption) | refine keeps_pairL ?_ (by with_reducible assumption)
    | intro _ | split)

theorem State.applyHeld_keeps {s t : State} (h : Keeps s t) (c : Nat) :
    Keeps s (State.applyHeld t c) := by
  unfold State.applyHeld
  try dsimp -iota only
  repeat' (first
    | with_reducible assumption | simp only [↓keeps_mk] | with_reducible apply State.applyHeldOne_keeps
    | with_reducible apply State.modCtx_keeps | with_reducible apply keeps_foldl
    | with_reducible apply keeps_foldl_snd | with_reducible apply keeps_foldl_fst | intro _)

theorem State.evaluateAll_keeps {s t : State} (h : Keeps s t) (p : Nat) :
    Keeps s (State.evaluateAll t p) := by
  unfold State.evaluateAll
  try dsimp -iota only
  repeat' (first
    | with_reducible assumption | simp only [↓keeps_mk] | with_reducible apply State.evaluate_keeps
    | with_reducible apply keeps_foldl | with_reducible apply keeps_foldl_snd
    | with_reducible apply keeps_foldl_fst | intro _)

theorem State.resumePausedCtx_keeps {s t : State} (h : Keeps s t) (c : Nat) :
    Keeps s (State.resumePausedCtx t c) := by
  unfold State.resumePausedCtx
  try dsimp -iota only
  repeat' (first
    | with_reducible assumption | simp only [↓keeps_mk] | with_reducible apply State.openGate_keeps
    | with_reducible apply State.rerunStep_keeps | with_reducible apply State.setCtx_keeps
    | with_reducible apply State.tryFinish_keeps | refine keeps_pair ?_ (by with_reducible assumption)
    | refine keeps_opt ?_ (by with_reducible assumption) | refine keeps_pairL ?_ (by with_reducible assumption)
    | intro _ | split)

theorem State.resumeCmd_keeps {s t : State} (h : Keeps s t) (c : Nat) (h0 : HostCmd) :
    Keeps s (State.resumeCmd t c h0) := by
  unfold State.resumeCmd
  try dsimp -iota only
  repeat' (first
    | with_reducible assumption | simp only [↓keeps_mk] | with_reducible apply State.applyHeld_keeps
    | with_reducible apply State.complete_keeps | with_reducible apply State.each_keeps
    | with_reducible apply State.evaluateAll_keeps | with_reducible apply State.finish_keeps
    | with_reducible apply State.loadCore_keeps | with_reducible apply State.modCtx_keeps
    | with_reducible apply State.openGate_keeps | with_reducible apply State.resumePausedCtx_keeps
    | with_reducible apply State.touch_keeps | with_reducible apply State.tryFinish_keeps
    | with_reducible apply keeps_foldl | with_reducible apply keeps_foldl_snd
    | with_reducible apply keeps_foldl_fst | refine keeps_pair ?_ (by with_reducible assumption)
    | refine keeps_opt ?_ (by with_reducible assumption) | refine keeps_pairL ?_ (by with_reducible assumption)
    | intro _ | split)

theorem State.destroyCtx_keeps {s t : State} (h : Keeps s t) (c : Nat) :
    Keeps s (State.destroyCtx t c) := by
  unfold State.destroyCtx
  try dsimp -iota only
  repeat' (first
    | with_reducible assumption | simp only [↓keeps_mk] | with_reducible apply State.ckFail_keeps
    | with_reducible apply State.modCore_keeps | with_reducible apply State.modCtx_keeps
    | with_reducible apply State.report_keeps | with_reducible apply keeps_foldl
    | with_reducible apply keeps_foldl_snd | with_reducible apply keeps_foldl_fst | intro _ | split)

/-- A lid memory is cleared, and lines leave the cache. -/
theorem keeps_lidGone {s t : State} (h : Keeps s t) (m : Memory) (k n : Nat) (hm : t.canonical = true → m.wf = true) :
    Keeps s { t with lid := m, cache := Tbl.clearRun t.cache k n } :=
  ⟨h.pending, h.drawn, h.fuses, fun c => by
    have hc := h.form c
    have hw := hm hc
    simp_all [State.canonical_iff, Tbl.clearRun_wf]⟩

theorem State.releaseLid_keeps {s t : State} (h : Keeps s t) (u : Nat) : Keeps s (State.releaseLid t u) :=
  keeps_lidGone (State.setLidUnit_keeps h u _) _ _ _ fun c => Memory.clear_wf (State.lid_wf c) _ _

theorem State.freeCtx_keeps {s t : State} (h : Keeps s t) (c : Nat) :
    Keeps s (State.freeCtx t c) := by
  unfold State.freeCtx
  try dsimp -iota only
  repeat' (first
    | with_reducible assumption | simp only [↓keeps_mk] | with_reducible apply State.freeGranule_keeps
    | with_reducible apply State.releaseCore_keeps | with_reducible apply State.releaseLid_keeps
    | with_reducible apply State.setCtx_keeps | with_reducible apply keeps_foldl
    | with_reducible apply keeps_foldl_snd | with_reducible apply keeps_foldl_fst | intro _)

theorem State.zeroingDone_keeps {s t : State} (h : Keeps s t) (c : Nat) :
    Keeps s (State.zeroingDone t c) := by
  unfold State.zeroingDone
  try dsimp -iota only
  repeat' (first
    | with_reducible assumption | simp only [↓keeps_mk] | with_reducible apply State.finish_keeps
    | with_reducible apply State.freeCtx_keeps | refine keeps_pair ?_ (by with_reducible assumption)
    | refine keeps_opt ?_ (by with_reducible assumption) | refine keeps_pairL ?_ (by with_reducible assumption)
    | intro _ | split)

/-! ### `Machine/Commands.lean` -/

theorem State.regionMapCmd_keeps {s t : State} (h : Keeps s t) (c : Nat) (h0 : HostCmd) :
    Keeps s (State.regionMapCmd t c h0) := by
  unfold State.regionMapCmd
  extract_lets x b n base
  clear_value x b n base
  have hf := fun k => State.finish_keeps h h0 k 0
  refine keeps_ite (hf _) (keeps_ite (hf _) (keeps_ite (hf _) ?_))
  split
  · exact hf _
  · rename_i g _
    generalize (List.range n).map (· + g) = l
    split
    · exact hf _
    · rename_i u e
      exact State.finish_keeps (State.modCtx_keeps (State.mapGranules_keepsO h _ _ _ _ _ e) _ _) _ _ _

theorem State.regionUnmapCmd_keeps {s t : State} (h : Keeps s t) (c : Nat) (h0 : HostCmd) :
    Keeps s (State.regionUnmapCmd t c h0) := by
  unfold State.regionUnmapCmd
  try dsimp -iota only
  repeat' (first
    | with_reducible assumption | simp only [↓keeps_mk] | with_reducible apply State.finish_keeps
    | with_reducible apply State.freeGranule_keeps | with_reducible apply State.modCtx_keeps
    | with_reducible apply keeps_foldl | with_reducible apply keeps_foldl_snd
    | with_reducible apply keeps_foldl_fst | refine keeps_pair ?_ (by with_reducible assumption)
    | refine keeps_opt ?_ (by with_reducible assumption) | refine keeps_pairL ?_ (by with_reducible assumption)
    | intro _ | split)

theorem State.lidConfigCmd_keeps {s t : State} (h : Keeps s t) (c : Nat) (h0 : HostCmd) :
    Keeps s (State.lidConfigCmd t c h0) := by
  unfold State.lidConfigCmd
  try dsimp -iota only
  repeat' (first
    | with_reducible assumption | with_reducible apply State.finish_keeps | with_reducible apply State.modCtx_keeps
    | with_reducible apply State.setLidUnit_keeps | with_reducible apply keeps_foldl
    | with_reducible apply keeps_foldl_snd | with_reducible apply keeps_foldl_fst | intro _ | split)

theorem State.windowRegCmd_keeps {s t : State} (h : Keeps s t) (c : Nat) (h0 : HostCmd) :
    Keeps s (State.windowRegCmd t c h0) := by
  unfold State.windowRegCmd
  try dsimp -iota only
  repeat' (first
    | with_reducible assumption | simp only [↓keeps_mk] | with_reducible apply State.finish_keeps
    | with_reducible apply State.modCtx_keeps | refine keeps_pair ?_ (by with_reducible assumption)
    | refine keeps_opt ?_ (by with_reducible assumption) | refine keeps_pairL ?_ (by with_reducible assumption)
    | intro _ | split)

theorem State.windowDeregCmd_keeps {s t : State} (h : Keeps s t) (c : Nat) (h0 : HostCmd) :
    Keeps s (State.windowDeregCmd t c h0) := by
  unfold State.windowDeregCmd
  try dsimp -iota only
  repeat' (first
    | with_reducible assumption | simp only [↓keeps_mk] | with_reducible apply State.finish_keeps
    | with_reducible apply State.modCtx_keeps | refine keeps_pair ?_ (by with_reducible assumption)
    | refine keeps_opt ?_ (by with_reducible assumption) | refine keeps_pairL ?_ (by with_reducible assumption)
    | intro _ | split)

theorem State.diagCmd_keeps {s t : State} (h : Keeps s t) (c : Nat) (h0 : HostCmd) :
    Keeps s (State.diagCmd t c h0) := by
  unfold State.diagCmd
  try dsimp -iota only
  repeat' (first
    | with_reducible assumption | simp only [↓keeps_mk] | with_reducible apply State.finish_keeps
    | with_reducible apply State.modStep_keeps | with_reducible apply State.sendDecision_keeps
    | with_reducible apply State.setBusy_keeps | intro _ | split)

theorem State.replanCmd_keeps {s t : State} (h : Keeps s t) (c : Nat) (h0 : HostCmd) :
    Keeps s (State.replanCmd t c h0) := by
  unfold State.replanCmd
  try dsimp -iota only
  repeat' (first
    | with_reducible assumption | with_reducible apply State.finish_keeps
    | with_reducible apply State.modCore_keeps | with_reducible apply State.modCtx_keeps
    | with_reducible apply State.readTable_keeps | with_reducible apply keeps_foldl
    | with_reducible apply keeps_foldl_snd | with_reducible apply keeps_foldl_fst
    | refine keeps_pair ?_ (by with_reducible assumption) | refine keeps_opt ?_ (by with_reducible assumption)
    | refine keeps_pairL ?_ (by with_reducible assumption) | intro _ | split)

theorem State.kakRunCmd_keeps {s t : State} (h : Keeps s t) (h0 : HostCmd) :
    Keeps s (State.kakRunCmd t h0) := by
  unfold State.kakRunCmd
  try dsimp -iota only
  repeat' (first
    | with_reducible assumption | simp only [↓keeps_mk] | with_reducible apply State.finish_keeps | intro _ | split)

theorem State.kakFailed_keeps {s t : State} (h : Keeps s t) (r : KakResult) :
    Keeps s (State.kakFailed t r) := by
  unfold State.kakFailed
  try dsimp -iota only
  repeat' (first
    | with_reducible assumption | simp only [↓keeps_mk] | with_reducible apply State.modCore_keeps
    | with_reducible apply State.report_keeps | with_reducible apply State.setLidUnit_keeps
    | with_reducible apply State.triggerMapout_keeps | with_reducible apply keeps_foldl
    | with_reducible apply keeps_foldl_snd | with_reducible apply keeps_foldl_fst | intro _ | split)

theorem State.kernelsRun_keeps {s t : State} (h : Keeps s t) (p : Nat) :
    Keeps s (State.kernelsRun t p) := by
  unfold State.kernelsRun
  try dsimp -iota only
  repeat' (first
    | with_reducible assumption | simp only [↓keeps_mk] | with_reducible apply State.modCore_keeps | intro _
    | split)

theorem State.kakDone_keeps {s t : State} (h : Keeps s t) (r : KakResult) :
    Keeps s (State.kakDone t r) := by
  unfold State.kakDone
  try dsimp -iota only
  repeat' (first
    | with_reducible assumption | simp only [↓keeps_mk] | with_reducible apply State.finish_keeps
    | with_reducible apply State.kakFailed_keeps | with_reducible apply State.kernelsRun_keeps
    | with_reducible apply keeps_foldl | with_reducible apply keeps_foldl_snd
    | with_reducible apply keeps_foldl_fst | refine keeps_pair ?_ (by with_reducible assumption)
    | refine keeps_opt ?_ (by with_reducible assumption) | refine keeps_pairL ?_ (by with_reducible assumption)
    | intro _ | split)

end Sys2Proof.Machine
end

