-- ==== Sys2Proof/Laws/KeepsFabric.lean ====
section
/-! SUPPORT. Links, topology, detection and recovery keep what `Keeps` says: one lemma per operation. -/

namespace Sys2Proof.Machine

/-! ### `Machine/Flits.lean` -/

theorem State.putFlit_keeps {s t : State} (h : Keeps s t) (l kind : Nat) (f : TxFlit) :
    Keeps s (State.putFlit t l kind f) := by
  unfold State.putFlit
  try dsimp -iota only
  repeat' (first
    | with_reducible assumption | simp only [↓keeps_mk] | with_reducible apply State.emit_keeps
    | with_reducible apply State.setLink_keeps)

theorem State.putMaintenance_keeps {s t : State} (h : Keeps s t) (l : Nat) :
    Keeps s (State.putMaintenance t l) := by
  unfold State.putMaintenance
  try dsimp -iota only
  repeat' (first | with_reducible assumption | simp only [↓keeps_mk] | with_reducible apply State.putFlit_keeps)

theorem State.putData_keeps {s t : State} (h : Keeps s t) (l : Nat) (f : TxFlit) (rest : List TxFlit) :
    Keeps s (State.putData t l f rest) := by
  unfold State.putData
  try dsimp -iota only
  repeat' (first
    | with_reducible assumption | simp only [↓keeps_mk] | with_reducible apply State.putFlit_keeps
    | with_reducible apply State.setLink_keeps)

theorem State.fillSlot_keeps {s t : State} (h : Keeps s t) (l : Nat) :
    Keeps s (State.fillSlot t l) := by
  unfold State.fillSlot
  try dsimp -iota only
  repeat' (first
    | with_reducible assumption | simp only [↓keeps_mk] | with_reducible apply State.putData_keeps
    | with_reducible apply State.putFlit_keeps | with_reducible apply State.putMaintenance_keeps
    | refine keeps_pair ?_ (by with_reducible assumption) | refine keeps_opt ?_ (by with_reducible assumption)
    | refine keeps_pairL ?_ (by with_reducible assumption) | intro _ | split)

theorem State.fillRound_keeps {s t : State} (h : Keeps s t) (l n : Nat) : Keeps s (State.fillRound t l n) := by
  induction n generalizing t with
  | zero => exact h
  | succ n ih =>
    unfold State.fillRound
    split
    · exact State.putMaintenance_keeps h _
    · exact ih (State.fillSlot_keeps h _)

theorem State.pumpLink_keeps {s t : State} (h : Keeps s t) (l n : Nat) : Keeps s (State.pumpLink t l n) := by
  induction n generalizing t with
  | zero => exact h
  | succ n ih =>
    unfold State.pumpLink
    split
    · exact h
    · exact ih (State.fillSlot_keeps h _)

theorem State.pumpAll_keeps {s t : State} (h : Keeps s t) (l : Nat) :
    Keeps s (State.pumpAll t l) := by
  unfold State.pumpAll
  try dsimp -iota only
  repeat' (first | with_reducible assumption | simp only [↓keeps_mk] | with_reducible apply State.pumpLink_keeps)

theorem State.enqueue_keeps {s t : State} (h : Keeps s t) (l vc : Nat) (fs : List TxFlit) :
    Keeps s (State.enqueue t l vc fs) := by
  unfold State.enqueue
  try dsimp -iota only
  repeat' (first | with_reducible assumption | simp only [↓keeps_mk] | with_reducible apply State.modLink_keeps)

theorem State.releaseHeld_keeps {s t : State} (h : Keeps s t) (l vc : Nat) :
    Keeps s (State.releaseHeld t l vc) := by
  unfold State.releaseHeld
  try dsimp -iota only
  repeat' (first
    | with_reducible assumption | simp only [↓keeps_mk] | with_reducible apply State.modLink_keeps
    | with_reducible apply State.pumpAll_keeps | intro _ | split)

theorem State.sendOn_keeps {s t : State} (h : Keeps s t) (l : Nat) (p : Packet) :
    Keeps s (State.sendOn t l p) := by
  unfold State.sendOn
  try dsimp -iota only
  repeat' (first
    | with_reducible assumption | simp only [↓keeps_mk] | with_reducible apply State.enqueue_keeps
    | with_reducible apply State.pumpAll_keeps)

/-! ### `Machine/Topology.lean` -/

theorem State.storeRec_keepsO {s t : State} (h : Keeps s t) (r : LinkRec) : KeepsO s (State.storeRec t r) := by
  unfold State.storeRec
  dsimp only
  split
  · exact keepsO_none _
  · exact keepsO_some (keeps_mk.2 h)

theorem State.rebuildEntry_keeps {s t : State} (h : Keeps s t) (h0 : Nat) :
    Keeps s (State.rebuildEntry t h0) := by
  unfold State.rebuildEntry
  try dsimp -iota only
  repeat' (first | with_reducible assumption | simp only [↓keeps_mk])

theorem State.rebuildTables_keeps {s t : State} (h : Keeps s t) :
    Keeps s (State.rebuildTables t) := by
  unfold State.rebuildTables
  try dsimp -iota only
  repeat' (first
    | with_reducible assumption | simp only [↓keeps_mk] | with_reducible apply State.rebuildEntry_keeps
    | with_reducible apply keeps_foldl | with_reducible apply keeps_foldl_snd
    | with_reducible apply keeps_foldl_fst | intro _)

theorem State.discard_keeps {s t : State} (h : Keeps s t) (arrival : Option Nat) :
    Keeps s (State.discard t arrival) := by
  unfold State.discard
  try dsimp -iota only
  repeat' (first | with_reducible assumption | simp only [↓keeps_mk] | with_reducible apply State.report_keeps)

theorem State.overGlobals_keeps {s t : State} (h : Keeps s t) (p : Packet) :
    Keeps s (State.overGlobals t p) := by
  unfold State.overGlobals
  try dsimp -iota only
  repeat' (first
    | with_reducible assumption | with_reducible apply State.discard_keeps
    | with_reducible apply State.sendOn_keeps | with_reducible apply keeps_foldl
    | with_reducible apply keeps_foldl_snd | with_reducible apply keeps_foldl_fst | intro _ | split)

theorem State.copies_keeps {s t : State} (h : Keeps s t) (p : Packet) (l : List Nat) :
    Keeps s (State.copies t p l) := by
  unfold State.copies
  try dsimp -iota only
  repeat' (first
    | with_reducible assumption | simp only [↓keeps_mk] | with_reducible apply State.emit_keeps
    | with_reducible apply keeps_foldl | with_reducible apply keeps_foldl_snd
    | with_reducible apply keeps_foldl_fst | intro _)

theorem State.flood_keeps {s t : State} (h : Keeps s t) (p : Packet) :
    Keeps s (State.flood t p) := by
  unfold State.flood
  try dsimp -iota only
  repeat' (first
    | with_reducible assumption | simp only [↓keeps_mk] | with_reducible apply State.copies_keeps
    | with_reducible apply State.overGlobals_keeps)

theorem State.passOn_keeps {s t : State} (h : Keeps s t) (p : Packet) :
    Keeps s (State.passOn t p) := by
  unfold State.passOn
  try dsimp -iota only
  repeat' (first
    | with_reducible assumption | simp only [↓keeps_mk] | with_reducible apply State.copies_keeps
    | with_reducible apply State.overGlobals_keeps | intro _ | split)

theorem State.announce_keeps {s t : State} (h : Keeps s t) (l : Nat) (up : Bool) :
    Keeps s (State.announce t l up) := by
  unfold State.announce
  try dsimp -iota only
  repeat' (first
    | with_reducible assumption | simp only [↓keeps_mk]
    | with_reducible refine keeps_getD ?_ (State.storeRec_keepsO ?_ _)
    | with_reducible apply State.overGlobals_keeps | with_reducible apply State.rebuildTables_keeps
    | with_reducible apply State.sendMgmt_keeps | with_reducible apply State.storeRec_keepsO
    | with_reducible apply keeps_foldl | with_reducible apply keeps_foldl_snd
    | with_reducible apply keeps_foldl_fst | intro _ | split)

theorem State.recvLinkState_keeps {s t : State} (h : Keeps s t) (link : Nat) (p : Packet) :
    Keeps s (State.recvLinkState t link p) := by
  unfold State.recvLinkState
  try dsimp -iota only
  repeat' (first
    | with_reducible assumption | simp only [↓keeps_mk] | with_reducible apply State.overGlobals_keeps
    | with_reducible apply State.rebuildTables_keeps | with_reducible apply State.sendMgmt_keeps
    | with_reducible apply State.storeRec_keepsO | with_reducible apply keeps_foldl
    | with_reducible apply keeps_foldl_snd | with_reducible apply keeps_foldl_fst
    | refine keeps_pair ?_ (by with_reducible assumption) | refine keeps_opt ?_ (by with_reducible assumption)
    | refine keeps_pairL ?_ (by with_reducible assumption) | intro _ | split)

theorem State.updateTopo_keeps {s t : State} (h : Keeps s t) :
    Keeps s (State.updateTopo t) := by
  unfold State.updateTopo
  try dsimp -iota only
  repeat' (first | with_reducible assumption | simp only [↓keeps_mk])

theorem State.tableRebuild_keeps {s t : State} (h : Keeps s t) (table index : Nat) :
    Keeps s (State.tableRebuild t table index) := by
  unfold State.tableRebuild
  try dsimp -iota only
  repeat' (first
    | with_reducible assumption | simp only [↓keeps_mk] | with_reducible apply State.rebuildEntry_keeps
    | with_reducible apply State.report_keeps | intro _ | split)

/-! ### `Machine/Detect.lean` -/

theorem State.takeSeq_keeps {s t : State} (h : Keeps s t) (type : Nat) :
    Keeps s (State.takeSeq t type).2 := by
  unfold State.takeSeq
  try dsimp -iota only
  repeat' (first | with_reducible assumption | simp only [↓keeps_mk])

theorem State.sendFd_keeps {s t : State} (h : Keeps s t) (type : Nat) (m : RcMsg) (to' : List Nat) :
    Keeps s (State.sendFd t type m to') := by
  unfold State.sendFd
  try dsimp -iota only
  repeat' (first
    | with_reducible assumption | with_reducible apply State.sendMgmt_keeps
    | with_reducible apply State.takeSeq_keeps | with_reducible apply keeps_foldl
    | with_reducible apply keeps_foldl_snd | with_reducible apply keeps_foldl_fst
    | refine keeps_pair ?_ (by with_reducible assumption) | refine keeps_opt ?_ (by with_reducible assumption)
    | refine keeps_pairL ?_ (by with_reducible assumption) | intro _)

theorem State.floodFd_keeps {s t : State} (h : Keeps s t) (type : Nat) (m : RcMsg) :
    Keeps s (State.floodFd t type m) := by
  unfold State.floodFd
  try dsimp -iota only
  repeat' (first
    | with_reducible assumption | with_reducible apply State.flood_keeps | with_reducible apply State.takeSeq_keeps)

theorem State.sendRc_keeps {s t : State} (h : Keeps s t) (c dst type : Nat) (m : RcMsg) :
    Keeps s (State.sendRc t c dst type m) := by
  unfold State.sendRc
  try dsimp -iota only
  repeat' (first
    | with_reducible assumption | with_reducible apply State.sendCtl_keeps
    | with_reducible apply State.takeSeq_keeps)

theorem State.firstOf_keepsO {s t : State} (h : Keeps s t) (p : Packet) :
    KeepsO s (State.firstOf t p) := by
  unfold State.firstOf
  try dsimp -iota only
  repeat' (first
    | with_reducible assumption | simp only [↓keeps_mk] | split | with_reducible apply keepsO_none
    | with_reducible apply keepsO_some | with_reducible apply State.passOn_keeps)

theorem State.markFenced_keeps {s t : State} (h : Keeps s t) (pos : Nat) (b : Bool) :
    Keeps s (State.markFenced t pos b) := by
  unfold State.markFenced
  try dsimp -iota only
  repeat' (first
    | with_reducible assumption | simp only [↓keeps_mk] | with_reducible apply State.modLink_keeps
    | with_reducible apply keeps_foldl | with_reducible apply keeps_foldl_snd
    | with_reducible apply keeps_foldl_fst | intro _ | split)

theorem State.fenceEntry_keeps {s t : State} (h : Keeps s t) (c : Nat) :
    Keeps s (State.fenceEntry t c) := by
  unfold State.fenceEntry
  try dsimp -iota only
  repeat' (first
    | with_reducible assumption | simp only [↓keeps_mk] | with_reducible apply State.markFenced_keeps | intro _
    | split)

theorem State.judge_keeps {s t : State} (h : Keeps s t) (t0 : Nat) :
    Keeps s (State.judge t t0) := by
  unfold State.judge
  try dsimp -iota only
  repeat' (first
    | with_reducible assumption | simp only [↓keeps_mk] | with_reducible apply State.fenceEntry_keeps
    | with_reducible apply State.floodFd_keeps | with_reducible apply State.report_keeps
    | refine keeps_pair ?_ (by with_reducible assumption) | refine keeps_opt ?_ (by with_reducible assumption)
    | refine keeps_pairL ?_ (by with_reducible assumption) | intro _ | split)

theorem State.suspect_keeps {s t : State} (h : Keeps s t) (t0 : Nat) (requested : Bool) :
    Keeps s (State.suspect t t0 requested) := by
  unfold State.suspect
  try dsimp -iota only
  repeat' (first
    | with_reducible assumption | simp only [↓keeps_mk] | with_reducible apply State.judge_keeps
    | with_reducible apply State.sendFd_keeps | refine keeps_pair ?_ (by with_reducible assumption)
    | refine keeps_opt ?_ (by with_reducible assumption) | refine keeps_pairL ?_ (by with_reducible assumption)
    | intro _ | split)

theorem State.withdraw_keeps {s t : State} (h : Keeps s t) (t0 : Nat) :
    Keeps s (State.withdraw t t0) := by
  unfold State.withdraw
  try dsimp -iota only
  repeat' (first
    | with_reducible assumption | simp only [↓keeps_mk] | with_reducible apply State.sendFd_keeps
    | refine keeps_pair ?_ (by with_reducible assumption) | refine keeps_opt ?_ (by with_reducible assumption)
    | refine keeps_pairL ?_ (by with_reducible assumption) | intro _ | split)

theorem State.recvSuspect_keeps {s t : State} (h : Keeps s t) (p : Packet) :
    Keeps s (State.recvSuspect t p) := by
  unfold State.recvSuspect
  try dsimp -iota only
  repeat' (first
    | with_reducible assumption | simp only [↓keeps_mk] | with_reducible apply State.judge_keeps | intro _ | split)

theorem State.recvFenceReq_keeps {s t : State} (h : Keeps s t) (p : Packet) :
    Keeps s (State.recvFenceReq t p) := by
  unfold State.recvFenceReq
  try dsimp -iota only
  repeat' (first
    | with_reducible assumption | simp only [↓keeps_mk] | with_reducible apply State.suspect_keeps | intro _
    | split)

theorem State.sendFenceReq_keeps {s t : State} (h : Keeps s t) (c target : Nat) (code : Word) :
    Keeps s (State.sendFenceReq t c target code) := by
  unfold State.sendFenceReq
  try dsimp -iota only
  repeat' (first
    | with_reducible assumption | with_reducible apply State.sendCtl_keeps
    | with_reducible apply State.takeSeq_keeps | with_reducible apply keeps_foldl
    | with_reducible apply keeps_foldl_snd | with_reducible apply keeps_foldl_fst
    | refine keeps_pair ?_ (by with_reducible assumption) | refine keeps_opt ?_ (by with_reducible assumption)
    | refine keeps_pairL ?_ (by with_reducible assumption) | intro _ | split)

theorem State.selfFence_keeps {s t : State} (h : Keeps s t) :
    Keeps s (State.selfFence t) := by
  unfold State.selfFence
  try dsimp -iota only
  repeat' (first
    | with_reducible assumption | simp only [↓keeps_mk] | with_reducible apply State.raise_keeps
    | with_reducible apply keeps_foldl | with_reducible apply keeps_foldl_snd
    | with_reducible apply keeps_foldl_fst | intro _ | split)

/-! ### `Machine/Links.lean` -/

theorem State.cutOff_keeps {s t : State} (h : Keeps s t) (l : Nat) :
    Keeps s (State.cutOff t l) := by
  unfold State.cutOff
  try dsimp -iota only
  repeat' (first
    | with_reducible assumption | simp only [↓keeps_mk] | with_reducible apply State.modLink_keeps
    | with_reducible apply keeps_foldl | with_reducible apply keeps_foldl_snd
    | with_reducible apply keeps_foldl_fst | intro _)

theorem State.portLost_keeps {s t : State} (h : Keeps s t) (l : Nat) :
    Keeps s (State.portLost t l) := by
  unfold State.portLost
  try dsimp -iota only
  repeat' (first
    | with_reducible assumption | simp only [↓keeps_mk] | with_reducible apply State.announce_keeps
    | with_reducible apply State.cutOff_keeps | with_reducible apply State.releaseHeld_keeps
    | with_reducible apply State.setLink_keeps | with_reducible apply State.updateTopo_keeps
    | with_reducible apply keeps_foldl | with_reducible apply keeps_foldl_snd
    | with_reducible apply keeps_foldl_fst | refine keeps_pair ?_ (by with_reducible assumption)
    | refine keeps_opt ?_ (by with_reducible assumption) | refine keeps_pairL ?_ (by with_reducible assumption)
    | intro _ | split)

theorem State.portDown_keeps {s t : State} (h : Keeps s t) (l : Nat) :
    Keeps s (State.portDown t l) := by
  unfold State.portDown
  try dsimp -iota only
  repeat' (first
    | with_reducible assumption | simp only [↓keeps_mk] | with_reducible apply State.portLost_keeps
    | with_reducible apply State.report_keeps)

theorem State.protocolError_keeps {s t : State} (h : Keeps s t) (l seq : Nat) :
    Keeps s (State.protocolError t l seq) := by
  unfold State.protocolError
  try dsimp -iota only
  repeat' (first
    | with_reducible assumption | simp only [↓keeps_mk] | with_reducible apply State.portLost_keeps
    | with_reducible apply State.report_keeps)

theorem State.countDown_keeps {s t : State} (h : Keeps s t) (l lane : Nat) :
    Keeps s (State.countDown t l lane) := by
  unfold State.countDown
  try dsimp -iota only
  repeat' (first
    | with_reducible assumption | simp only [↓keeps_mk] | with_reducible apply State.report_keeps
    | with_reducible apply State.setLink_keeps | intro _ | split)

theorem State.bufferFault_keeps {s t : State} (h : Keeps s t) (l : Nat) :
    Keeps s (State.bufferFault t l) := by
  unfold State.bufferFault
  try dsimp -iota only
  repeat' (first
    | with_reducible assumption | simp only [↓keeps_mk] | with_reducible apply State.clearParity_keeps
    | with_reducible apply State.portLost_keeps | with_reducible apply State.report_keeps)

theorem State.replayAll_keeps {s t : State} (h : Keeps s t) (l : Nat) :
    Keeps s (State.replayAll t l) := by
  unfold State.replayAll
  try dsimp -iota only
  repeat' (first
    | with_reducible assumption | simp only [↓keeps_mk] | with_reducible apply State.bufferFault_keeps
    | with_reducible apply State.putFlit_keeps | with_reducible apply State.putMaintenance_keeps
    | with_reducible apply keeps_foldl | with_reducible apply keeps_foldl_snd
    | with_reducible apply keeps_foldl_fst | intro _ | split)

theorem State.laneDown_keeps {s t : State} (h : Keeps s t) (l lane : Nat) :
    Keeps s (State.laneDown t l lane) := by
  unfold State.laneDown
  try dsimp -iota only
  repeat' (first
    | with_reducible assumption | simp only [↓keeps_mk] | with_reducible apply State.countDown_keeps
    | with_reducible apply State.modLink_keeps | with_reducible apply State.portDown_keeps
    | with_reducible apply State.replayAll_keeps | with_reducible apply State.report_keeps
    | with_reducible apply State.setLink_keeps | intro _ | split)

theorem State.takeCodewords_keeps {s t : State} (h : Keeps s t) (l : Nat) (f : Flit) :
    Keeps s (State.takeCodewords t l f) := by
  unfold State.takeCodewords
  try dsimp -iota only
  repeat' (first
    | with_reducible assumption | simp only [↓keeps_mk] | with_reducible apply State.laneDown_keeps
    | with_reducible apply State.setLink_keeps | intro _ | split)

theorem State.sendNegotiation_keeps {s t : State} (h : Keeps s t) (l : Nat) :
    Keeps s (State.sendNegotiation t l) := by
  unfold State.sendNegotiation
  try dsimp -iota only
  repeat' (first
    | with_reducible assumption | simp only [↓keeps_mk] | with_reducible apply State.putFlit_keeps
    | with_reducible apply State.putMaintenance_keeps | intro _ | split)

theorem State.negotiationTick_keeps {s t : State} (h : Keeps s t) :
    Keeps s (State.negotiationTick t) := by
  unfold State.negotiationTick
  try dsimp -iota only
  repeat' (first
    | with_reducible assumption | simp only [↓keeps_mk] | with_reducible apply State.sendNegotiation_keeps
    | with_reducible apply keeps_foldl | with_reducible apply keeps_foldl_snd
    | with_reducible apply keeps_foldl_fst | intro _ | split)

theorem State.portTrain_keeps {s t : State} (h : Keeps s t) (l : Nat) (lock0 lock1 : Bool) :
    Keeps s (State.portTrain t l lock0 lock1) := by
  unfold State.portTrain
  try dsimp -iota only
  repeat' (first
    | with_reducible assumption | simp only [↓keeps_mk] | with_reducible apply State.sendNegotiation_keeps
    | with_reducible apply State.setLink_keeps | with_reducible apply State.updateTopo_keeps | intro _ | split)

theorem State.flitDropped_keeps {s t : State} (h : Keeps s t) (l seq : Nat) :
    Keeps s (State.flitDropped t l seq) := by
  unfold State.flitDropped
  try dsimp -iota only
  repeat' (first
    | with_reducible assumption | simp only [↓keeps_mk] | with_reducible apply State.modLink_keeps
    | with_reducible apply State.report_keeps)

theorem State.admitPort_keeps {s t : State} (h : Keeps s t) (l : Nat) :
    Keeps s (State.admitPort t l) := by
  unfold State.admitPort
  try dsimp -iota only
  repeat' (first
    | with_reducible assumption | simp only [↓keeps_mk] | with_reducible apply State.announce_keeps
    | with_reducible apply State.setLink_keeps | with_reducible apply State.updateTopo_keeps
    | with_reducible apply keeps_foldl | with_reducible apply keeps_foldl_snd
    | with_reducible apply keeps_foldl_fst | intro _ | split)

theorem State.holdPort_keeps {s t : State} (h : Keeps s t) (l outcome code : Nat) :
    Keeps s (State.holdPort t l outcome code) := by
  unfold State.holdPort
  try dsimp -iota only
  repeat' (first
    | with_reducible assumption | simp only [↓keeps_mk] | with_reducible apply State.modLink_keeps
    | with_reducible apply State.report_keeps | with_reducible apply State.updateTopo_keeps)

theorem State.discover'_keeps {s t : State} (h : Keeps s t) (l : Nat) :
    Keeps s (State.discover' t l) := by
  unfold State.discover'
  try dsimp -iota only
  repeat' (first
    | with_reducible assumption | simp only [↓keeps_mk] | with_reducible apply State.admitPort_keeps
    | with_reducible apply State.holdPort_keeps | with_reducible apply State.modLink_keeps | intro _ | split)

theorem State.negotiateWith_keeps {s t : State} (h : Keeps s t) (l : Nat) (f : Flit) :
    Keeps s (State.negotiateWith t l f) := by
  unfold State.negotiateWith
  try dsimp -iota only
  repeat' (first
    | with_reducible assumption | simp only [↓keeps_mk] | with_reducible apply State.discover'_keeps
    | with_reducible apply State.modLink_keeps | with_reducible apply State.portLost_keeps
    | with_reducible apply State.report_keeps | with_reducible apply State.sendNegotiation_keeps
    | with_reducible apply State.setLink_keeps | refine keeps_pair ?_ (by with_reducible assumption)
    | refine keeps_opt ?_ (by with_reducible assumption) | refine keeps_pairL ?_ (by with_reducible assumption)
    | intro _ | split)

theorem State.negotiate_keeps {s t : State} (h : Keeps s t) (l : Nat) (f : Flit) :
    Keeps s (State.negotiate t l f) := by
  unfold State.negotiate
  try dsimp -iota only
  repeat' (first
    | with_reducible assumption | simp only [↓keeps_mk] | with_reducible apply State.flitDropped_keeps
    | with_reducible apply State.modLink_keeps | with_reducible apply State.negotiateWith_keeps
    | with_reducible apply State.protocolError_keeps | with_reducible apply State.sendNegotiation_keeps
    | with_reducible apply State.takeCodewords_keeps | intro _ | split)

theorem State.negotiationOver_keeps {s t : State} (h : Keeps s t) (l : Nat) :
    Keeps s (State.negotiationOver t l) := by
  unfold State.negotiationOver
  try dsimp -iota only
  repeat' (first
    | with_reducible assumption | simp only [↓keeps_mk] | with_reducible apply State.countDown_keeps
    | with_reducible apply State.portLost_keeps | with_reducible apply State.report_keeps | intro _ | split)

theorem State.discoveryOver_keeps {s t : State} (h : Keeps s t) (l : Nat) :
    Keeps s (State.discoveryOver t l) := by
  unfold State.discoveryOver
  try dsimp -iota only
  repeat' (first
    | with_reducible assumption | simp only [↓keeps_mk] | with_reducible apply State.holdPort_keeps
    | with_reducible apply State.modLink_keeps | intro _ | split)

theorem State.laneRetrain_keeps {s t : State} (h : Keeps s t) (l : Nat) (locks : Bool) :
    Keeps s (State.laneRetrain t l locks) := by
  unfold State.laneRetrain
  try dsimp -iota only
  repeat' (first
    | with_reducible assumption | simp only [↓keeps_mk] | with_reducible apply State.setLink_keeps | intro _
    | split)

theorem State.portDisable_keeps {s t : State} (h : Keeps s t) (l : Nat) (b : Bool) :
    Keeps s (State.portDisable t l b) := by
  unfold State.portDisable
  try dsimp -iota only
  repeat' (first
    | with_reducible assumption | simp only [↓keeps_mk] | with_reducible apply State.portDown_keeps
    | with_reducible apply State.setLink_keeps | intro _ | split)

theorem State.laneRelease_keeps {s t : State} (h : Keeps s t) (l lane : Nat) :
    Keeps s (State.laneRelease t l lane) := by
  unfold State.laneRelease
  try dsimp -iota only
  repeat' (first | with_reducible assumption | simp only [↓keeps_mk] | with_reducible apply State.modLink_keeps)

theorem State.ovrWrite_keeps {s t : State} (h : Keeps s t) (g : Nat) (v : Word) :
    Keeps s (State.ovrWrite t g v) := by
  unfold State.ovrWrite
  try dsimp -iota only
  repeat' (first
    | with_reducible assumption | simp only [↓keeps_mk] | with_reducible apply State.modLink_keeps
    | with_reducible apply State.portLost_keeps | with_reducible apply State.updateTopo_keeps | intro _ | split)

theorem State.gap_keeps {s t : State} (h : Keeps s t) (l : Nat) :
    Keeps s (State.gap t l) := by
  unfold State.gap
  try dsimp -iota only
  repeat' (first | with_reducible assumption | simp only [↓keeps_mk] | with_reducible apply State.modLink_keeps)

theorem State.takeReport_keepsO {s t : State} (h : Keeps s t) (l : Nat) (f : Flit) :
    KeepsO s (State.takeReport t l f) := by
  unfold State.takeReport
  try dsimp -iota only
  repeat' (first
    | with_reducible assumption | simp only [↓keeps_mk] | with_reducible apply State.modLink_keeps
    | with_reducible apply State.replayAll_keeps | with_reducible apply State.setLink_keeps
    | with_reducible apply keepsO_none | with_reducible apply keepsO_some | with_reducible intro _ | split)

theorem State.transit_keeps {s t : State} (h : Keeps s t) (l x : Nat) (f : Flit) :
    Keeps s (State.transit t l x f) := by
  unfold State.transit
  try dsimp -iota only
  repeat' (first
    | with_reducible assumption | simp only [↓keeps_mk] | with_reducible apply State.bufferFault_keeps
    | with_reducible apply State.modLink_keeps | with_reducible apply State.pumpAll_keeps
    | with_reducible apply State.releaseHeld_keeps | intro _ | split)

theorem State.keepData_keeps {s t : State} (h : Keeps s t) (l : Nat) (f : Flit) :
    Keeps s (State.keepData t l f) := by
  unfold State.keepData
  try dsimp -iota only
  repeat' (first | with_reducible assumption | simp only [↓keeps_mk] | with_reducible apply State.modLink_keeps)

theorem State.endCut_keeps {s t : State} (h : Keeps s t) (l vc : Nat) :
    Keeps s (State.endCut t l vc) := by
  unfold State.endCut
  try dsimp -iota only
  repeat' (first
    | with_reducible assumption | simp only [↓keeps_mk] | with_reducible apply State.modLink_keeps
    | with_reducible apply State.releaseHeld_keeps | refine keeps_pair ?_ (by with_reducible assumption)
    | refine keeps_opt ?_ (by with_reducible assumption) | refine keeps_pairL ?_ (by with_reducible assumption)
    | intro _ | split)

theorem State.takeData_keeps {s t : State} (h : Keeps s t) (l : Nat) (f : Flit) :
    Keeps s (State.takeData t l f) := by
  unfold State.takeData
  try dsimp -iota only
  repeat' (first
    | with_reducible assumption | simp only [↓keeps_mk] | with_reducible apply State.endCut_keeps
    | with_reducible apply State.gap_keeps | with_reducible apply State.keepData_keeps
    | with_reducible apply State.protocolError_keeps | with_reducible apply State.setLink_keeps
    | with_reducible apply State.transit_keeps | refine keeps_pair ?_ (by with_reducible assumption)
    | refine keeps_opt ?_ (by with_reducible assumption) | refine keeps_pairL ?_ (by with_reducible assumption)
    | intro _ | split)

theorem State.takeMaintenance_keeps {s t : State} (h : Keeps s t) (l : Nat) (b : List Byte) :
    Keeps s (State.takeMaintenance t l b) := by
  unfold State.takeMaintenance
  try dsimp -iota only
  repeat' (first
    | with_reducible assumption | simp only [↓keeps_mk] | with_reducible apply State.modLink_keeps
    | with_reducible apply State.selfFence_keeps | with_reducible apply State.withdraw_keeps | intro _ | split)

theorem State.takeFlit_keeps {s t : State} (h : Keeps s t) (l : Nat) (f : Flit) :
    Keeps s (State.takeFlit t l f) := by
  unfold State.takeFlit
  try dsimp -iota only
  repeat' (first
    | with_reducible assumption | simp only [↓keeps_mk] | with_reducible apply State.flitDropped_keeps
    | with_reducible apply State.gap_keeps | with_reducible apply State.protocolError_keeps
    | with_reducible apply State.sendNegotiation_keeps | with_reducible apply State.takeData_keeps
    | with_reducible apply State.takeMaintenance_keeps | with_reducible apply State.takeReport_keepsO
    | refine keeps_pair ?_ (by with_reducible assumption) | refine keeps_opt ?_ (by with_reducible assumption)
    | refine keeps_pairL ?_ (by with_reducible assumption) | intro _ | split)

theorem State.answerFlit_keeps {s t : State} (h : Keeps s t) (l : Nat) :
    Keeps s (State.answerFlit t l) := by
  unfold State.answerFlit
  try dsimp -iota only
  repeat' (first
    | with_reducible assumption | simp only [↓keeps_mk] | with_reducible apply State.fillSlot_keeps
    | with_reducible apply State.pumpAll_keeps | intro _ | split)

theorem State.recvFlit_keeps {s t : State} (h : Keeps s t) (l : Nat) (f : Flit) :
    Keeps s (State.recvFlit t l f) := by
  unfold State.recvFlit
  try dsimp -iota only
  repeat' (first
    | with_reducible assumption | simp only [↓keeps_mk] | with_reducible apply State.answerFlit_keeps
    | with_reducible apply State.negotiate_keeps | with_reducible apply State.takeCodewords_keeps
    | with_reducible apply State.takeFlit_keeps | intro _ | split)

theorem State.noteClass3_keeps {s t : State} (h : Keeps s t) (p : Packet) (l : Nat) :
    Keeps s (State.noteClass3 t p l) := by
  unfold State.noteClass3
  try dsimp -iota only
  repeat' (first | with_reducible assumption | simp only [↓keeps_mk])

theorem State.freeFlits_keeps {s t : State} (h : Keeps s t) (arrival : Option Nat) (p : Packet) :
    Keeps s (State.freeFlits t arrival p) := by
  unfold State.freeFlits
  try dsimp -iota only
  repeat' (first
    | with_reducible assumption | simp only [↓keeps_mk] | with_reducible apply State.modLink_keeps
    | refine keeps_pair ?_ (by with_reducible assumption) | refine keeps_opt ?_ (by with_reducible assumption)
    | refine keeps_pairL ?_ (by with_reducible assumption) | intro _ | split)

theorem State.deliver_keeps {s t : State} (h : Keeps s t) (arrival : Option Nat) (p : Packet) :
    Keeps s (State.deliver t arrival p) := by
  unfold State.deliver
  try dsimp -iota only
  repeat' (first
    | with_reducible assumption | simp only [↓keeps_mk] | with_reducible apply State.modLink_keeps
    | with_reducible apply State.refuse_keeps | with_reducible apply State.taken_keeps
    | refine keeps_pair ?_ (by with_reducible assumption) | refine keeps_opt ?_ (by with_reducible assumption)
    | refine keeps_pairL ?_ (by with_reducible assumption) | intro _ | split)

theorem State.routePacket_keeps {s t : State} (h : Keeps s t) (arrival : Option Nat) (p : Packet) :
    Keeps s (State.routePacket t arrival p) := by
  unfold State.routePacket
  try dsimp -iota only
  repeat' (first
    | with_reducible assumption | simp only [↓keeps_mk] | with_reducible apply State.deliver_keeps
    | with_reducible apply State.discard_keeps | with_reducible apply State.freeFlits_keeps
    | with_reducible apply State.noteClass3_keeps | with_reducible apply State.sendOn_keeps
    | refine keeps_pair ?_ (by with_reducible assumption) | refine keeps_opt ?_ (by with_reducible assumption)
    | refine keeps_pairL ?_ (by with_reducible assumption) | intro _ | split)

theorem State.forward_keeps {s t : State} (h : Keeps s t) (arrival : Option Nat) (p : Packet) :
    Keeps s (State.forward t arrival p) := by
  unfold State.forward
  try dsimp -iota only
  repeat' (first
    | with_reducible assumption | simp only [↓keeps_mk] | with_reducible apply State.bufferFault_keeps
    | with_reducible apply State.routePacket_keeps | refine keeps_pair ?_ (by with_reducible assumption)
    | refine keeps_opt ?_ (by with_reducible assumption) | refine keeps_pairL ?_ (by with_reducible assumption)
    | intro _ | split)

/-! ### `Machine/Load.lean` -/

theorem State.mapRegions_keepsO {s t : State} (h : Keeps s t) (c : Nat) (l : List (Nat × Region)) :
    KeepsO s (State.mapRegions t c l) := by
  induction l generalizing t with
  | nil => exact keepsO_some h
  | cons e r ih =>
    unfold State.mapRegions
    split
    · exact keepsO_none _
    · split
      · exact keepsO_none _
      · rename_i e2
        exact ih (State.modCtx_keeps (State.mapGranules_keepsO h _ _ _ _ _ e2) _ _)

/-- Every state a numbered answer carries follows. -/
def KeepsNO (s : State) (o : Option (Nat × State)) : Prop := ∀ k u, o = some (k, u) → Keeps s u

theorem keepsNO_none (s : State) : KeepsNO s none := fun _ _ h => nomatch h

theorem keepsNO_some {s u : State} {k : Nat} (h : Keeps s u) : KeepsNO s (some (k, u)) := fun _ _ e => by
  injection e with e
  exact (Prod.mk.inj e).2 ▸ h

theorem keeps_numbered {s u : State} {k : Nat} {o : Option (Nat × State)} (h : KeepsNO s o) (e : o = some (k, u)) :
    Keeps s u := h k u e

theorem State.createFrom_keepsNO {s t : State} (h : Keeps s t) (b : List Byte) : KeepsNO s (State.createFrom t b) := by
  unfold State.createFrom
  extract_lets raw port
  clear_value raw port
  split
  · exact keepsNO_none _
  · split
    · exact keepsNO_none _
    · split
      · exact keepsNO_none _
      · rename_i t1 e1
        have h1 := State.build_keepsO h _ _ _ _ e1
        split
        · exact keepsNO_none _
        · rename_i u e2
          have h2 := State.mapRegions_keepsO h1 _ _ _ e2
          extract_lets m l
          exact keepsNO_some (State.modCtx_keeps (keeps_foldl h2 fun u x hu => State.setLidUnit_keeps hu _ _) _ _)

theorem State.clearSlot_keeps {s t : State} (h : Keeps s t) (c : Nat) :
    Keeps s (State.clearSlot t c) := by
  unfold State.clearSlot
  try dsimp -iota only
  repeat' (first
    | with_reducible assumption | simp only [↓keeps_mk] | with_reducible apply State.freeCtx_keeps
    | with_reducible apply State.modCtx_keeps)

theorem State.sendSlice_keeps {s t : State} (h : Keeps s t) (c p target : Nat) (d : LoadData) (i : Nat) (a : LoadArea) :
    Keeps s (State.sendSlice t c p target d i a) := by
  unfold State.sendSlice
  try dsimp -iota only
  repeat' (first
    | with_reducible assumption | simp only [↓keeps_mk] | with_reducible apply State.modCtx_keeps
    | with_reducible apply State.pairSend_keeps | refine keeps_pair ?_ (by with_reducible assumption)
    | refine keeps_opt ?_ (by with_reducible assumption) | refine keeps_pairL ?_ (by with_reducible assumption)
    | intro _ | split)

theorem State.sendAreas_keeps {s t : State} (h : Keeps s t) (c p target : Nat) (d : LoadData) (l : List LoadArea) :
    Keeps s (State.sendAreas t c p target d l) := by
  unfold State.sendAreas
  try dsimp -iota only
  repeat' (first
    | with_reducible assumption | simp only [↓keeps_mk] | with_reducible apply State.sendSlice_keeps
    | with_reducible apply keeps_foldl | with_reducible apply keeps_foldl_snd
    | with_reducible apply keeps_foldl_fst | intro _)

theorem State.sendRecord_keeps {s t : State} (h : Keeps s t) (c p target : Nat) (y : Ctx) :
    Keeps s (State.sendRecord t c p target y) := by
  unfold State.sendRecord
  try dsimp -iota only
  repeat' (first
    | with_reducible assumption | simp only [↓keeps_mk] | with_reducible apply State.sendPuts_keeps
    | refine keeps_pair ?_ (by with_reducible assumption) | refine keeps_opt ?_ (by with_reducible assumption)
    | refine keeps_pairL ?_ (by with_reducible assumption) | intro _ | split)

theorem State.sendLoad_keeps {s t : State} (h : Keeps s t) (c target : Nat) (own mirror : Bool) (d : LoadData) :
    Keeps s (State.sendLoad t c target own mirror d) := by
  unfold State.sendLoad
  try dsimp -iota only
  repeat' (first
    | with_reducible assumption | simp only [↓keeps_mk] | with_reducible apply State.modCtx_keeps
    | with_reducible apply State.sendAreas_keeps | with_reducible apply State.sendRecord_keeps
    | with_reducible apply State.touchPair_keeps | refine keeps_pair ?_ (by with_reducible assumption)
    | refine keeps_opt ?_ (by with_reducible assumption) | refine keeps_pairL ?_ (by with_reducible assumption)
    | intro _ | split)

theorem State.resendSlice_keeps {s t : State} (h : Keeps s t) (c p : Nat) (e : Relayed) :
    Keeps s (State.resendSlice t c p e) := by
  unfold State.resendSlice
  try dsimp -iota only
  repeat' (first
    | with_reducible assumption | simp only [↓keeps_mk] | with_reducible apply State.modCtx_keeps
    | with_reducible apply State.pairSend_keeps | refine keeps_pair ?_ (by with_reducible assumption)
    | refine keeps_opt ?_ (by with_reducible assumption) | refine keeps_pairL ?_ (by with_reducible assumption)
    | intro _ | split)

theorem State.relayLost_keeps {s t : State} (h : Keeps s t) (c chip : Nat) :
    Keeps s (State.relayLost t c chip) := by
  unfold State.relayLost
  try dsimp -iota only
  repeat' (first
    | with_reducible assumption | simp only [↓keeps_mk] | with_reducible apply State.modCtx_keeps
    | with_reducible apply State.resendSlice_keeps | with_reducible apply keeps_foldl
    | with_reducible apply keeps_foldl_snd | with_reducible apply keeps_foldl_fst
    | refine keeps_pair ?_ (by with_reducible assumption) | refine keeps_opt ?_ (by with_reducible assumption)
    | refine keeps_pairL ?_ (by with_reducible assumption) | intro _ | split)

theorem State.beginRelay_keeps {s t : State} (h : Keeps s t) (c target : Nat) (d : LoadData) :
    Keeps s (State.beginRelay t c target d) := by
  unfold State.beginRelay
  try dsimp -iota only
  repeat' (first
    | with_reducible assumption | simp only [↓keeps_mk] | with_reducible apply State.modCtx_keeps | intro _ | split)

theorem State.passSlice_keeps {s t : State} (h : Keeps s t) (c a : Nat) (b : List Byte) (po : List Bool) :
    Keeps s (State.passSlice t c a b po) := by
  unfold State.passSlice
  try dsimp -iota only
  repeat' (first
    | with_reducible assumption | simp only [↓keeps_mk] | with_reducible apply State.modCtx_keeps
    | with_reducible apply State.sendPuts_keeps | refine keeps_pair ?_ (by with_reducible assumption)
    | refine keeps_opt ?_ (by with_reducible assumption) | refine keeps_pairL ?_ (by with_reducible assumption)
    | intro _ | split)

theorem State.loadCores_keeps {s t : State} (h : Keeps s t) (c r : Nat) :
    Keeps s (State.loadCores t c r) := by
  unfold State.loadCores
  try dsimp -iota only
  repeat' (first
    | with_reducible assumption | with_reducible apply State.loadRecord_keeps
    | with_reducible apply State.modCore_keeps | with_reducible apply State.touch_keeps
    | with_reducible apply keeps_foldl | with_reducible apply keeps_foldl_snd
    | with_reducible apply keeps_foldl_fst | refine keeps_pair ?_ (by with_reducible assumption)
    | refine keeps_opt ?_ (by with_reducible assumption) | refine keeps_pairL ?_ (by with_reducible assumption)
    | intro _ | split)

theorem State.finishLoad_keeps {s t : State} (h : Keeps s t) (c : Nat) (d : LoadData) :
    Keeps s (State.finishLoad t c d) := by
  unfold State.finishLoad
  try dsimp -iota only
  repeat' (first
    | with_reducible assumption | simp only [↓keeps_mk] | with_reducible apply State.emptyBank_keeps
    | with_reducible apply State.loadCores_keeps | with_reducible apply State.modCtx_keeps
    | with_reducible apply State.report_keeps | with_reducible apply State.sendRc_keeps
    | with_reducible apply State.skeinHeader_keeps | with_reducible apply State.writeSlot_keeps)

theorem State.loadLanded_keeps {s t : State} (h : Keeps s t) (c a n : Nat) (d : LoadData) :
    Keeps s (State.loadLanded t c a n d) := by
  unfold State.loadLanded
  try dsimp -iota only
  repeat' (first
    | with_reducible assumption | simp only [↓keeps_mk] | with_reducible apply State.finishLoad_keeps
    | with_reducible apply State.modCtx_keeps | intro _ | split)

theorem State.loadWrite_keeps {s t : State} (h : Keeps s t) (c a : Nat) (b : List Byte) (po : List Bool) :
    Keeps s (State.loadWrite t c a b po) := by
  unfold State.loadWrite
  try dsimp -iota only
  repeat' (first
    | with_reducible assumption | simp only [↓keeps_mk] | with_reducible apply State.loadLanded_keeps
    | with_reducible apply State.passSlice_keeps | refine keeps_pair ?_ (by with_reducible assumption)
    | refine keeps_opt ?_ (by with_reducible assumption) | refine keeps_pairL ?_ (by with_reducible assumption)
    | intro _ | split)

theorem State.replyRc_keeps {s t : State} (h : Keeps s t) (p : Packet) (type : Nat) (m : RcMsg) :
    Keeps s (State.replyRc t p type m) := by
  unfold State.replyRc
  try dsimp -iota only
  repeat' (first
    | with_reducible assumption | with_reducible apply State.emit_keeps | with_reducible apply State.takeSeq_keeps)

theorem State.loadFailed_keeps {s t : State} (h : Keeps s t) (p : Packet) (code : Word) :
    Keeps s (State.loadFailed t p code) := by
  unfold State.loadFailed
  try dsimp -iota only
  repeat' (first
    | with_reducible assumption | simp only [↓keeps_mk] | with_reducible apply State.replyRc_keeps
    | with_reducible apply State.report_keeps)

theorem State.targetCtx_keepsNO {s t : State} (h : Keeps s t) (c : Option Nat) (d : LoadData) :
    KeepsNO s (State.targetCtx t c d) := by
  unfold State.targetCtx
  split
  · split
    · exact fun _ _ e => nomatch e
    · split
      · exact State.createFrom_keepsNO (State.clearSlot_keeps (State.destroyCtx_keeps h _) _) _
      · intro k u e
        injection e with e
        injection e with _ e
        exact e ▸ h
  · exact State.createFrom_keepsNO h _

theorem State.loadHere_keeps {s t : State} (h : Keeps s t) (p : Packet) (c : Option Nat) (d : LoadData) :
    Keeps s (State.loadHere t p c d) := by
  unfold State.loadHere
  try dsimp -iota only
  repeat' (first
    | with_reducible assumption | simp only [↓keeps_mk] | refine keeps_numbered ?_ (by with_reducible assumption)
    | with_reducible apply State.targetCtx_keepsNO | with_reducible apply State.clearSlot_keeps
    | with_reducible apply State.finishLoad_keeps | with_reducible apply State.kakFailed_keeps
    | with_reducible apply State.loadFailed_keeps | with_reducible apply State.modCtx_keeps
    | with_reducible apply State.replyRc_keeps | with_reducible apply State.targetCtx_keeps
    | refine keeps_pair ?_ (by with_reducible assumption) | refine keeps_opt ?_ (by with_reducible assumption)
    | refine keeps_pairL ?_ (by with_reducible assumption) | intro _ | split)

theorem State.orderLoad'_keeps {s t : State} (h : Keeps s t) (p : Packet) (m : RcMsg) (c : Option Nat) (d : LoadData) :
    Keeps s (State.orderLoad' t p m c d) := by
  unfold State.orderLoad'
  try dsimp -iota only
  repeat' (first
    | with_reducible assumption | simp only [↓keeps_mk] | with_reducible apply State.beginRelay_keeps
    | with_reducible apply State.loadHere_keeps | with_reducible apply State.sendLoad_keeps
    | refine keeps_pair ?_ (by with_reducible assumption) | refine keeps_opt ?_ (by with_reducible assumption)
    | refine keeps_pairL ?_ (by with_reducible assumption) | intro _ | split)

/-! ### `Machine/Recovery.lean` -/

theorem State.recvProbe_keeps {s t : State} (h : Keeps s t) (p : Packet) :
    Keeps s (State.recvProbe t p) := by
  unfold State.recvProbe
  try dsimp -iota only
  repeat' (first
    | with_reducible assumption | simp only [↓keeps_mk] | with_reducible apply State.sendCtl_keeps
    | with_reducible apply State.sendRc_keeps | refine keeps_pair ?_ (by with_reducible assumption)
    | refine keeps_opt ?_ (by with_reducible assumption) | refine keeps_pairL ?_ (by with_reducible assumption)
    | intro _ | split)

theorem State.substituteChild_keeps {s t : State} (h : Keeps s t) (c ch : Nat) (code : Word) :
    Keeps s (State.substituteChild t c ch code) := by
  unfold State.substituteChild
  try dsimp -iota only
  repeat' (first
    | with_reducible assumption | simp only [↓keeps_mk] | with_reducible apply State.modCtx_keeps
    | with_reducible apply State.modStep_keeps | with_reducible apply State.rolledCheck_keeps
    | with_reducible apply State.voteRow_keeps | intro _ | split)

theorem State.stepTimeout_keeps {s t : State} (h : Keeps s t) (c : Nat) :
    Keeps s (State.stepTimeout t c) := by
  unfold State.stepTimeout
  try dsimp -iota only
  repeat' (first
    | with_reducible assumption | simp only [↓keeps_mk] | with_reducible apply State.modCtx_keeps
    | with_reducible apply State.sendRc_keeps | with_reducible apply State.substituteChild_keeps
    | with_reducible apply keeps_foldl | with_reducible apply keeps_foldl_snd
    | with_reducible apply keeps_foldl_fst | intro _)

theorem State.recvProbeReply_keeps {s t : State} (h : Keeps s t) (p : Packet) :
    Keeps s (State.recvProbeReply t p) := by
  unfold State.recvProbeReply
  try dsimp -iota only
  repeat' (first
    | with_reducible assumption | simp only [↓keeps_mk] | with_reducible apply State.modCtx_keeps
    | with_reducible apply State.report_keeps | with_reducible apply State.sendFenceReq_keeps
    | with_reducible apply State.substituteChild_keeps | refine keeps_pair ?_ (by with_reducible assumption)
    | refine keeps_opt ?_ (by with_reducible assumption) | refine keeps_pairL ?_ (by with_reducible assumption)
    | intro _ | split)

theorem State.probeOver_keeps {s t : State} (h : Keeps s t) (c ch : Nat) :
    Keeps s (State.probeOver t c ch) := by
  unfold State.probeOver
  try dsimp -iota only
  repeat' (first
    | with_reducible assumption | simp only [↓keeps_mk] | with_reducible apply State.report_keeps
    | with_reducible apply State.sendFenceReq_keeps | with_reducible apply State.substituteChild_keeps | intro _
    | split)

theorem State.sendStatus_keeps {s t : State} (h : Keeps s t) (c : Nat) :
    Keeps s (State.sendStatus t c) := by
  unfold State.sendStatus
  try dsimp -iota only
  repeat' (first | with_reducible assumption | simp only [↓keeps_mk] | with_reducible apply State.sendRc_keeps)

theorem State.recovBegin_keeps {s t : State} (h : Keeps s t) (c rstate : Nat) :
    Keeps s (State.recovBegin t c rstate) := by
  unfold State.recovBegin
  try dsimp -iota only
  repeat' (first
    | with_reducible assumption | simp only [↓keeps_mk] | with_reducible apply State.modCtx_keeps
    | with_reducible apply State.sendStatus_keeps | with_reducible apply State.touchPair_keeps)

theorem State.memberFenced_keeps {s t : State} (h : Keeps s t) (c chip : Nat) :
    Keeps s (State.memberFenced t c chip) := by
  unfold State.memberFenced
  try dsimp -iota only
  repeat' (first
    | with_reducible assumption | simp only [↓keeps_mk] | with_reducible apply State.modCore_keeps
    | with_reducible apply State.modCtx_keeps | with_reducible apply State.modStep_keeps
    | with_reducible apply State.recovBegin_keeps | with_reducible apply State.relayLost_keeps
    | with_reducible apply State.report_keeps | with_reducible apply State.touchPair_keeps
    | with_reducible apply keeps_foldl | with_reducible apply keeps_foldl_snd
    | with_reducible apply keeps_foldl_fst | intro _ | split)

theorem State.order_keeps {s t : State} (h : Keeps s t) (c : Nat) (m : RcMsg) :
    Keeps s (State.order t c m) := by
  unfold State.order
  try dsimp -iota only
  repeat' (first
    | with_reducible assumption | with_reducible apply State.flood_keeps | with_reducible apply State.takeSeq_keeps)

theorem State.orderHold_keeps {s t : State} (h : Keeps s t) (c code : Nat) :
    Keeps s (State.orderHold t c code) := by
  unfold State.orderHold
  try dsimp -iota only
  repeat' (first | with_reducible assumption | simp only [↓keeps_mk] | with_reducible apply State.order_keeps)

theorem State.orderLoad_keeps {s t : State} (h : Keeps s t) (c target : Nat) :
    Keeps s (State.orderLoad t c target).2 := by
  unfold State.orderLoad
  try dsimp -iota only
  repeat' (first
    | with_reducible assumption | with_reducible apply State.modCtx_keeps | with_reducible apply State.order_keeps
    | with_reducible apply State.orderHold_keeps | refine keeps_pair ?_ (by with_reducible assumption)
    | refine keeps_opt ?_ (by with_reducible assumption) | refine keeps_pairL ?_ (by with_reducible assumption)
    | intro _ | split)

theorem State.orderLost_keeps {s t : State} (h : Keeps s t) (c chip : Nat) :
    Keeps s (State.orderLost t c chip).2 := by
  unfold State.orderLost
  try dsimp -iota only
  repeat' (first
    | with_reducible assumption | with_reducible apply State.modCtx_keeps | with_reducible apply State.order_keeps
    | with_reducible apply State.orderHold_keeps | with_reducible apply State.orderLoad_keeps
    | refine keeps_pair ?_ (by with_reducible assumption) | refine keeps_opt ?_ (by with_reducible assumption)
    | refine keeps_pairL ?_ (by with_reducible assumption) | intro _ | split)

theorem State.orderAll_keeps {s t : State} (h : Keeps s t) (c : Nat) (l : List (Nat × Due)) :
    Keeps s (State.orderAll t c l) := by
  induction l generalizing t with
  | nil => exact h
  | cons e r ih =>
    obtain ⟨chip, due⟩ := e
    cases due with
    | lost =>
      have k := State.orderLost_keeps h c chip
      unfold State.orderAll
      dsimp only
      split
      · exact ih k
      · exact k
    | rebuild =>
      have k := State.orderLoad_keeps (State.order_keeps h c { action := 3, chipA := chip }) c chip
      unfold State.orderAll
      dsimp only
      split
      · exact ih k
      · exact k
    | load =>
      have k := State.orderLoad_keeps h c chip
      unfold State.orderAll
      dsimp only
      split
      · exact ih k
      · exact k
    | fence =>
      unfold State.orderAll
      exact ih (State.sendFenceReq_keeps h _ _ _)

theorem State.leaderActs_keeps {s t : State} (h : Keeps s t) (c : Nat) :
    Keeps s (State.leaderActs t c) := by
  unfold State.leaderActs
  try dsimp -iota only
  repeat' (first
    | with_reducible assumption | simp only [↓keeps_mk] | with_reducible apply State.modCtx_keeps
    | with_reducible apply State.order_keeps | with_reducible apply State.orderAll_keeps
    | refine keeps_pair ?_ (by with_reducible assumption) | refine keeps_opt ?_ (by with_reducible assumption)
    | refine keeps_pairL ?_ (by with_reducible assumption) | intro _ | split)

theorem State.leaderCheck_keeps {s t : State} (h : Keeps s t) (c : Nat) :
    Keeps s (State.leaderCheck t c) := by
  unfold State.leaderCheck
  try dsimp -iota only
  repeat' (first
    | with_reducible assumption | simp only [↓keeps_mk] | with_reducible apply State.leaderActs_keeps
    | with_reducible apply State.touchPair_keeps | intro _ | split)

theorem State.recvStatus_keeps {s t : State} (h : Keeps s t) (p : Packet) :
    Keeps s (State.recvStatus t p) := by
  unfold State.recvStatus
  try dsimp -iota only
  repeat' (first
    | with_reducible assumption | simp only [↓keeps_mk] | with_reducible apply State.leaderCheck_keeps
    | with_reducible apply State.modCtx_keeps | refine keeps_pair ?_ (by with_reducible assumption)
    | refine keeps_opt ?_ (by with_reducible assumption) | refine keeps_pairL ?_ (by with_reducible assumption)
    | intro _ | split)

theorem State.childFenced_keeps {s t : State} (h : Keeps s t) (c chip : Nat) :
    Keeps s (State.childFenced t c chip) := by
  unfold State.childFenced
  try dsimp -iota only
  repeat' (first
    | with_reducible assumption | simp only [↓keeps_mk] | with_reducible apply State.substituteChild_keeps
    | intro _ | split)

theorem State.recvFence_keeps {s t : State} (h : Keeps s t) (p : Packet) :
    Keeps s (State.recvFence t p) := by
  unfold State.recvFence
  try dsimp -iota only
  repeat' (first
    | with_reducible assumption | simp only [↓keeps_mk] | with_reducible apply State.childFenced_keeps
    | with_reducible apply State.fenceEntry_keeps | with_reducible apply State.firstOf_keepsO
    | with_reducible apply State.leaderCheck_keeps | with_reducible apply State.memberFenced_keeps
    | with_reducible apply keeps_foldl | with_reducible apply keeps_foldl_snd
    | with_reducible apply keeps_foldl_fst | refine keeps_pair ?_ (by with_reducible assumption)
    | refine keeps_opt ?_ (by with_reducible assumption) | refine keeps_pairL ?_ (by with_reducible assumption)
    | intro _ | split)

theorem State.withOrder_keeps {s t : State} (h : Keeps s t) (p : Packet) (action : Nat) (f : RcMsg → Option Nat → State → State) (hf : ∀ u x1 x2, Keeps s u → Keeps s (f x1 x2 u)) :
    Keeps s (State.withOrder t p action f) := by
  unfold State.withOrder
  try dsimp -iota only
  repeat' (first
    | with_reducible assumption | simp only [↓keeps_mk] | with_reducible apply State.firstOf_keepsO
    | with_reducible apply hf | refine keeps_pair ?_ (by with_reducible assumption)
    | refine keeps_opt ?_ (by with_reducible assumption) | refine keeps_pairL ?_ (by with_reducible assumption)
    | intro _ | split)

theorem State.orderRollback_keeps {s t : State} (h : Keeps s t) (c r : Nat) :
    Keeps s (State.orderRollback t c r) := by
  unfold State.orderRollback
  try dsimp -iota only
  repeat' (first
    | with_reducible assumption | simp only [↓keeps_mk] | with_reducible apply State.commitStep_keeps
    | with_reducible apply State.enterPaused_keeps | with_reducible apply State.modCtx_keeps
    | with_reducible apply State.rollback_keeps | with_reducible apply State.sendStatus_keeps | intro _ | split)

theorem State.adopt_keeps {s t : State} (h : Keeps s t) (p : Packet) (lost stake : Nat) :
    Keeps s (State.adopt t p lost stake) := by
  unfold State.adopt
  try dsimp -iota only
  repeat' (first
    | with_reducible assumption | simp only [↓keeps_mk] | with_reducible apply State.markFenced_keeps
    | with_reducible apply State.replyRc_keeps | with_reducible apply State.report_keeps | intro _ | split)

theorem State.whenFree_keeps {s t : State} (h : Keeps s t) (i : Instr) (f : State → State) (hf : ∀ u , Keeps s u → Keeps s (f u)) :
    Keeps s (State.whenFree t i f) := by
  unfold State.whenFree
  try dsimp -iota only
  repeat' (first | with_reducible assumption | simp only [↓keeps_mk] | with_reducible apply hf | intro _ | split)

theorem State.rebuild_keeps {s t : State} (h : Keeps s t) (c : Nat) (creation : List Byte) :
    Keeps s (State.rebuild t c creation) := by
  unfold State.rebuild
  try dsimp -iota only
  repeat' (first
    | with_reducible assumption | simp only [↓keeps_mk] | refine keeps_numbered ?_ (by with_reducible assumption)
    | with_reducible apply State.createFrom_keepsNO | with_reducible apply State.clearSlot_keeps
    | with_reducible apply State.createFrom_keeps | with_reducible apply State.destroyCtx_keeps
    | with_reducible apply State.modCtx_keeps | refine keeps_pair ?_ (by with_reducible assumption)
    | refine keeps_opt ?_ (by with_reducible assumption) | refine keeps_pairL ?_ (by with_reducible assumption)
    | intro _ | split)

theorem State.orderResume_keeps {s t : State} (h : Keeps s t) (c attempt : Nat) :
    Keeps s (State.orderResume t c attempt) := by
  unfold State.orderResume
  try dsimp -iota only
  repeat' (first
    | with_reducible assumption | simp only [↓keeps_mk] | with_reducible apply State.modStep_keeps
    | with_reducible apply State.rerunStep_keeps | with_reducible apply State.setCtx_keeps | intro _ | split)

theorem State.orderHoldHere_keeps {s t : State} (h : Keeps s t) (c : Nat) (code : Word) (creation : List Byte) :
    Keeps s (State.orderHoldHere t c code creation) := by
  unfold State.orderHoldHere
  try dsimp -iota only
  repeat' (first
    | with_reducible assumption | simp only [↓keeps_mk] | with_reducible apply State.modCtx_keeps
    | with_reducible apply State.report_keeps | with_reducible apply State.touchPair_keeps | intro _ | split)

theorem State.stakeAt_keeps {s t : State} (h : Keeps s t) (chip pos : Nat) :
    Keeps s (State.stakeAt t chip pos) := by
  unfold State.stakeAt
  try dsimp -iota only
  repeat' (first | with_reducible assumption | simp only [↓keeps_mk] | with_reducible apply State.markFenced_keeps)

theorem State.recvStakeAdd_keeps {s t : State} (h : Keeps s t) (p : Packet) :
    Keeps s (State.recvStakeAdd t p) := by
  unfold State.recvStakeAdd
  try dsimp -iota only
  repeat' (first
    | with_reducible assumption | simp only [↓keeps_mk] | with_reducible apply State.firstOf_keepsO
    | with_reducible apply State.stakeAt_keeps | refine keeps_pair ?_ (by with_reducible assumption)
    | refine keeps_opt ?_ (by with_reducible assumption) | refine keeps_pairL ?_ (by with_reducible assumption)
    | intro _ | split)

theorem State.stakeAddCmd_keeps {s t : State} (h : Keeps s t) (c : Nat) (h0 : HostCmd) :
    Keeps s (State.stakeAddCmd t c h0) := by
  unfold State.stakeAddCmd
  try dsimp -iota only
  repeat' (first
    | with_reducible assumption | simp only [↓keeps_mk] | with_reducible apply State.finish_keeps
    | with_reducible apply State.order_keeps | with_reducible apply State.stakeAt_keeps
    | with_reducible apply State.taken_keeps | refine keeps_pair ?_ (by with_reducible assumption)
    | refine keeps_opt ?_ (by with_reducible assumption) | refine keeps_pairL ?_ (by with_reducible assumption)
    | intro _ | split)

theorem State.recvReady_keeps {s t : State} (h : Keeps s t) (p : Packet) :
    Keeps s (State.recvReady t p) := by
  unfold State.recvReady
  try dsimp -iota only
  repeat' (first
    | with_reducible assumption | simp only [↓keeps_mk] | with_reducible apply State.leaderCheck_keeps
    | with_reducible apply State.modCtx_keeps | with_reducible apply State.orderLost_keeps
    | with_reducible apply State.sendFenceReq_keeps | refine keeps_pair ?_ (by with_reducible assumption)
    | refine keeps_opt ?_ (by with_reducible assumption) | refine keeps_pairL ?_ (by with_reducible assumption)
    | intro _ | split)

end Sys2Proof.Machine
end

