-- ==== Sys2Proof/Laws/KeepsModule.lean ====
section
/-! SUPPORT. Resets, power, registers, start, services, restore and packets received keep what `Keeps` says: one lemma per operation. -/

namespace Sys2Proof.Machine

/-! ### `Machine/Reset.lean` -/

theorem State.keep_keeps {s t : State} (h : Keeps s t) (code : Word) :
    Keeps s (State.keep t code) := by
  unfold State.keep
  try dsimp -iota only
  repeat' (first | with_reducible assumption | simp only [↓keeps_mk] | intro _ | split)

theorem State.coldCore_keeps {s t : State} (h : Keeps s t) (kind : Nat) : Keeps s (State.coldCore t kind) := by
  have hf := Fuses.follow_refl t.fuses
  refine h.trans ⟨rfl, Nat.le_refl _, ⟨hf.1, hf.2.1, hf.2.2.1, hf.2.2.2.1, hf.2.2.2.2.1, hf.2.2.2.2.2.1, hf.2.2.2.2.2.2.1, rfl,
    rfl, rfl⟩, fun _ => ?_⟩
  exact (State.canonical_iff _).2 ⟨State.reset_memories_wf.1, State.reset_memories_wf.2.1, State.reset_memories_wf.2.2.1,
    State.reset_memories_wf.2.2.2, rfl, rfl, rfl, rfl, rfl, rfl, rfl, rfl, rfl⟩

theorem State.coldReset_keeps {s t : State} (h : Keeps s t) (kind : Nat) :
    Keeps s (State.coldReset t kind) := by
  unfold State.coldReset
  try dsimp -iota only
  repeat' (first
    | with_reducible assumption | simp only [↓keeps_mk] | with_reducible apply State.coldCore_keeps
    | with_reducible apply State.tell_keeps)

theorem State.warmStart_keeps {s t : State} (h : Keeps s t) :
    Keeps s (State.warmStart t) := by
  unfold State.warmStart
  try dsimp -iota only
  repeat' (first
    | with_reducible assumption | simp only [↓keeps_mk] | with_reducible apply State.destroyCtx_keeps
    | with_reducible apply State.modStep_keeps | with_reducible apply State.tell_keeps
    | with_reducible apply keeps_foldl | with_reducible apply keeps_foldl_snd
    | with_reducible apply keeps_foldl_fst | intro _ | split)

theorem State.fatalReset_keeps {s t : State} (h : Keeps s t) :
    Keeps s (State.fatalReset t) := by
  unfold State.fatalReset
  try dsimp -iota only
  repeat' (first
    | with_reducible assumption | simp only [↓keeps_mk] | with_reducible apply State.coldReset_keeps
    | with_reducible apply State.warmStart_keeps | refine keeps_pair ?_ (by with_reducible assumption)
    | refine keeps_opt ?_ (by with_reducible assumption) | refine keeps_pairL ?_ (by with_reducible assumption)
    | intro _ | split)

theorem State.fatal_keeps {s t : State} (h : Keeps s t) (code : Word) (w : Where) :
    Keeps s (State.fatal t code w) := by
  unfold State.fatal
  try dsimp -iota only
  repeat' (first
    | with_reducible assumption | simp only [↓keeps_mk] | with_reducible apply State.fatalReset_keeps
    | with_reducible apply State.faultCtx_keeps | with_reducible apply State.keep_keeps
    | with_reducible apply State.report_keeps | with_reducible apply State.tell_keeps
    | with_reducible apply keeps_foldl | with_reducible apply keeps_foldl_snd
    | with_reducible apply keeps_foldl_fst | intro _ | split)

theorem State.requestWarm_keeps {s t : State} (h : Keeps s t) (by' : Nat) :
    Keeps s (State.requestWarm t by') := by
  unfold State.requestWarm
  try dsimp -iota only
  repeat' (first
    | with_reducible assumption | simp only [↓keeps_mk] | with_reducible apply State.keep_keeps
    | with_reducible apply State.report_keeps | with_reducible apply State.warmStart_keeps)

theorem State.requestCold_keeps {s t : State} (h : Keeps s t) (by' : Nat) :
    Keeps s (State.requestCold t by') := by
  unfold State.requestCold
  try dsimp -iota only
  repeat' (first
    | with_reducible assumption | simp only [↓keeps_mk] | with_reducible apply State.coldReset_keeps
    | with_reducible apply State.keep_keeps | with_reducible apply State.report_keeps)

theorem State.railsUp_keeps {s t : State} (h : Keeps s t) :
    Keeps s (State.railsUp t) := by
  unfold State.railsUp
  try dsimp -iota only
  repeat' (first | with_reducible assumption | simp only [↓keeps_mk])

theorem State.railsOff_keeps {s t : State} (h : Keeps s t) :
    Keeps s (State.railsOff t) := by
  unfold State.railsOff
  try dsimp -iota only
  repeat' (first | with_reducible assumption | simp only [↓keeps_mk])

/-- The host ports are set up anew. -/
theorem keeps_ports {s t : State} (h : Keeps s t) (g : Nat → Port) :
    Keeps s { t with ports := [0, 1].foldl (fun p i => Tbl.set Port.reset p i (g i)) [] } :=
  ⟨h.pending, h.drawn, h.fuses, fun c => by
    have hc := h.form c
    have hp : Tbl.wf Port.reset ([0, 1].foldl (fun p i => Tbl.set Port.reset p i (g i)) []) = true :=
      Tbl.set_wf (Tbl.set_wf rfl _ _) _ _
    simp only [State.canonical_iff] at hc ⊢
    exact ⟨hc.1, hc.2.1, hc.2.2.1, hc.2.2.2.1, hc.2.2.2.2.1, hc.2.2.2.2.2.1, hp, hc.2.2.2.2.2.2.2⟩⟩

theorem State.warmDone_keeps {s t : State} (h : Keeps s t) : Keeps s (State.warmDone t) := by
  unfold State.warmDone
  split
  · exact h
  · have h1 : Keeps s (ctxNums.foldl (fun t c => if (t.ctx c).zeroing then t.freeCtx c else t) t) :=
      keeps_foldl h fun u c hu => keeps_ite (State.freeCtx_keeps hu _) hu
    dsimp only
    generalize ctxNums.foldl (fun t c => if (t.ctx c).zeroing then t.freeCtx c else t) t = u at h1
    exact State.tell_keeps (keeps_mk.2 (keeps_ports h1 fun i => (u.port i).warm)) _

theorem State.lossPause_keeps {s t : State} (h : Keeps s t) (c : Nat) (code : Word) :
    Keeps s (State.lossPause t c code) := by
  unfold State.lossPause
  try dsimp -iota only
  repeat' (first
    | with_reducible assumption | simp only [↓keeps_mk] | with_reducible apply State.enterPaused_keeps
    | with_reducible apply State.event_keeps | with_reducible apply State.modStep_keeps
    | refine keeps_pair ?_ (by with_reducible assumption) | refine keeps_opt ?_ (by with_reducible assumption)
    | refine keeps_pairL ?_ (by with_reducible assumption) | intro _ | split)

theorem State.handOver_keeps {s t : State} (h : Keeps s t) (c : Nat) :
    Keeps s (State.handOver t c) := by
  unfold State.handOver
  try dsimp -iota only
  repeat' (first
    | with_reducible assumption | simp only [↓keeps_mk] | with_reducible apply State.event_keeps
    | with_reducible apply State.modCtx_keeps | with_reducible apply State.modPort_keeps
    | with_reducible apply State.postRecord_keeps | with_reducible apply State.report_keeps
    | with_reducible apply keeps_foldl | with_reducible apply keeps_foldl_snd
    | with_reducible apply keeps_foldl_fst | intro _)

theorem State.lossPolicy_keeps {s t : State} (h : Keeps s t) (c port : Nat) :
    Keeps s (State.lossPolicy t c port) := by
  unfold State.lossPolicy
  try dsimp -iota only
  repeat' (first
    | with_reducible assumption | simp only [↓keeps_mk] | with_reducible apply State.handOver_keeps
    | with_reducible apply State.lossPause_keeps | with_reducible apply State.modCtx_keeps
    | refine keeps_pair ?_ (by with_reducible assumption) | refine keeps_opt ?_ (by with_reducible assumption)
    | refine keeps_pairL ?_ (by with_reducible assumption) | intro _ | split)

theorem State.discardPosts_keeps {s t : State} (h : Keeps s t) (port : Nat) :
    Keeps s (State.discardPosts t port) := by
  unfold State.discardPosts
  try dsimp -iota only
  repeat' (first
    | with_reducible assumption | simp only [↓keeps_mk] | with_reducible apply State.setPort_keeps | intro _
    | split)

theorem State.hostLoss_keeps {s t : State} (h : Keeps s t) (port : Nat) :
    Keeps s (State.hostLoss t port) := by
  unfold State.hostLoss
  try dsimp -iota only
  repeat' (first
    | with_reducible assumption | simp only [↓keeps_mk] | with_reducible apply State.discardPosts_keeps
    | with_reducible apply State.lossPolicy_keeps | with_reducible apply State.modCtx_keeps
    | with_reducible apply State.modPort_keeps | with_reducible apply State.report_keeps
    | with_reducible apply keeps_foldl | with_reducible apply keeps_foldl_snd
    | with_reducible apply keeps_foldl_fst | intro _)

theorem State.resetPort_keeps {s t : State} (h : Keeps s t) (port : Nat) :
    Keeps s (State.resetPort t port) := by
  unfold State.resetPort
  try dsimp -iota only
  repeat' (first
    | with_reducible assumption | simp only [↓keeps_mk] | with_reducible apply State.hostLoss_keeps
    | with_reducible apply State.modPort_keeps)

theorem State.assertPerst_keeps {s t : State} (h : Keeps s t) (port : Nat) :
    Keeps s (State.assertPerst t port) := by
  unfold State.assertPerst
  try dsimp -iota only
  repeat' (first | with_reducible assumption | simp only [↓keeps_mk])

theorem State.setGates_keeps {s t : State} (h : Keeps s t) (members : List Nat) (head : Option Nat) (all : Bool) :
    Keeps s (State.setGates t members head all) := by
  unfold State.setGates
  try dsimp -iota only
  repeat' (first
    | with_reducible assumption | simp only [↓keeps_mk] | with_reducible apply State.modStep_keeps
    | with_reducible apply State.openGate_keeps | with_reducible apply keeps_foldl
    | with_reducible apply keeps_foldl_snd | with_reducible apply keeps_foldl_fst | intro _ | split)

theorem State.startResolve_keeps {s t : State} (h : Keeps s t) (buf : SharedBuf) (l : List Nat) (queued : List (SharedBuf × List Nat)) :
    Keeps s (State.startResolve t buf l queued) := by
  unfold State.startResolve
  try dsimp -iota only
  repeat' (first
    | with_reducible assumption | simp only [↓keeps_mk] | with_reducible apply State.modStep_keeps
    | with_reducible apply State.raise_keeps | with_reducible apply State.report_keeps
    | with_reducible apply State.setGates_keeps | with_reducible apply keeps_foldl
    | with_reducible apply keeps_foldl_snd | with_reducible apply keeps_foldl_fst | intro _)

theorem State.resolveStep_keeps {s t : State} (h : Keeps s t) :
    Keeps s (State.resolveStep t) := by
  unfold State.resolveStep
  try dsimp -iota only
  repeat' (first
    | with_reducible assumption | simp only [↓keeps_mk] | with_reducible apply State.setGates_keeps
    | with_reducible apply State.startResolve_keeps | refine keeps_pair ?_ (by with_reducible assumption)
    | refine keeps_opt ?_ (by with_reducible assumption) | refine keeps_pairL ?_ (by with_reducible assumption)
    | intro _ | split)

theorem State.sharedUe_keeps {s t : State} (h : Keeps s t) (buf : SharedBuf) (recent : List Nat) :
    Keeps s (State.sharedUe t buf recent) := by
  unfold State.sharedUe
  try dsimp -iota only
  repeat' (first
    | with_reducible assumption | simp only [↓keeps_mk] | with_reducible apply State.raise_keeps
    | with_reducible apply State.report_keeps | with_reducible apply State.startResolve_keeps
    | refine keeps_pair ?_ (by with_reducible assumption) | refine keeps_opt ?_ (by with_reducible assumption)
    | refine keeps_pairL ?_ (by with_reducible assumption) | intro _ | split)

theorem State.wdWait_keeps {s t : State} (h : Keeps s t) (p : Nat) (e : Eng) :
    Keeps s (State.wdWait t p e) := by
  unfold State.wdWait
  try dsimp -iota only
  repeat' (first
    | with_reducible assumption | simp only [↓keeps_mk] | with_reducible apply State.report_keeps
    | refine keeps_pair ?_ (by with_reducible assumption) | refine keeps_opt ?_ (by with_reducible assumption)
    | refine keeps_pairL ?_ (by with_reducible assumption) | intro _ | split)

theorem State.wdExec_keeps {s t : State} (h : Keeps s t) (p : Nat) (e : Eng) :
    Keeps s (State.wdExec t p e) := by
  unfold State.wdExec
  try dsimp -iota only
  repeat' (first
    | with_reducible assumption | simp only [↓keeps_mk] | with_reducible apply State.modCore_keeps
    | with_reducible apply State.raise_keeps | refine keeps_pair ?_ (by with_reducible assumption)
    | refine keeps_opt ?_ (by with_reducible assumption) | refine keeps_pairL ?_ (by with_reducible assumption)
    | intro _ | split)

theorem State.setMonitor_keeps {s t : State} (h : Keeps s t) (i : Nat) (m : Monitor) :
    Keeps s (State.setMonitor t i m) := by
  unfold State.setMonitor
  try dsimp -iota only
  repeat' (first | with_reducible assumption | simp only [↓keeps_mk])

theorem State.takeSample_keeps {s t : State} (h : Keeps s t) (i : Nat) (v : Int) :
    Keeps s (State.takeSample t i v) := by
  unfold State.takeSample
  try dsimp -iota only
  repeat' (first
    | with_reducible assumption | with_reducible apply State.report_keeps
    | with_reducible apply State.setMonitor_keeps | refine keeps_pair ?_ (by with_reducible assumption)
    | refine keeps_opt ?_ (by with_reducible assumption) | refine keeps_pairL ?_ (by with_reducible assumption)
    | intro _ | split)

theorem State.noteStretch_keeps {s t : State} (h : Keeps s t) (cl : Nat) :
    Keeps s (State.noteStretch t cl) := by
  unfold State.noteStretch
  try dsimp -iota only
  repeat' (first
    | with_reducible assumption | simp only [↓keeps_mk] | with_reducible apply State.setMonitor_keeps
    | with_reducible apply keeps_foldl | with_reducible apply keeps_foldl_snd
    | with_reducible apply keeps_foldl_fst | intro _ | split)

theorem State.monCfg_keeps {s t : State} (h : Keeps s t) (i : Nat) (v : Word) :
    Keeps s (State.monCfg t i v) := by
  unfold State.monCfg
  try dsimp -iota only
  repeat' (first | with_reducible assumption | simp only [↓keeps_mk] | with_reducible apply State.setMonitor_keeps)

theorem State.dueHandovers_keeps {s t : State} (h : Keeps s t) :
    Keeps s (State.dueHandovers t) := by
  unfold State.dueHandovers
  try dsimp -iota only
  repeat' (first
    | with_reducible assumption | simp only [↓keeps_mk] | with_reducible apply State.handOver_keeps
    | with_reducible apply keeps_foldl | with_reducible apply keeps_foldl_snd
    | with_reducible apply keeps_foldl_fst | intro _ | split)

/-! ### `Machine/Power.lean` -/

theorem State.wantStep_keeps {s t : State} (h : Keeps s t) (cl v : Nat) :
    Keeps s (State.wantStep t cl v) := by
  unfold State.wantStep
  try dsimp -iota only
  repeat' (first | with_reducible assumption | simp only [↓keeps_mk] | with_reducible apply State.setCluster_keeps)

theorem State.chooseAll_keeps {s t : State} (h : Keeps s t) (period : Bool) :
    Keeps s (State.chooseAll t period) := by
  unfold State.chooseAll
  try dsimp -iota only
  repeat' (first
    | with_reducible assumption | simp only [↓keeps_mk] | with_reducible apply State.draw_keeps
    | with_reducible apply State.hold_keeps | with_reducible apply State.report_keeps
    | with_reducible apply State.wantStep_keeps | with_reducible apply keeps_foldl
    | with_reducible apply keeps_foldl_snd | with_reducible apply keeps_foldl_fst
    | refine keeps_pair ?_ (by with_reducible assumption) | refine keeps_opt ?_ (by with_reducible assumption)
    | refine keeps_pairL ?_ (by with_reducible assumption) | intro _ | split)

theorem State.shareOut_keeps {s t : State} (h : Keeps s t) :
    Keeps s (State.shareOut t) := by
  unfold State.shareOut
  try dsimp -iota only
  repeat' (first
    | with_reducible assumption | simp only [↓keeps_mk] | with_reducible apply State.draw_keeps
    | with_reducible apply State.modRegs_keeps | with_reducible apply keeps_foldl
    | with_reducible apply keeps_foldl_snd | with_reducible apply keeps_foldl_fst
    | refine keeps_pair ?_ (by with_reducible assumption) | refine keeps_opt ?_ (by with_reducible assumption)
    | refine keeps_pairL ?_ (by with_reducible assumption) | intro _)

theorem State.advance_keeps {s t : State} (h : Keeps s t) (cl : Nat) :
    Keeps s (State.advance t cl) := by
  unfold State.advance
  try dsimp -iota only
  repeat' (first
    | with_reducible assumption | simp only [↓keeps_mk] | with_reducible apply State.setCluster_keeps
    | refine keeps_pair ?_ (by with_reducible assumption) | refine keeps_opt ?_ (by with_reducible assumption)
    | refine keeps_pairL ?_ (by with_reducible assumption) | intro _ | split)

theorem State.beginChange_keeps {s t : State} (h : Keeps s t) (cl : Nat) :
    Keeps s (State.beginChange t cl) := by
  unfold State.beginChange
  try dsimp -iota only
  repeat' (first
    | with_reducible assumption | simp only [↓keeps_mk] | with_reducible apply State.advance_keeps
    | with_reducible apply State.setCluster_keeps | intro _ | split)

theorem State.pointChange_keeps {s t : State} (h : Keeps s t) (cl : Nat) :
    Keeps s (State.pointChange t cl) := by
  unfold State.pointChange
  try dsimp -iota only
  repeat' (first
    | with_reducible assumption | simp only [↓keeps_mk] | with_reducible apply State.beginChange_keeps | intro _
    | split)

theorem State.rampTick_keeps {s t : State} (h : Keeps s t) :
    Keeps s (State.rampTick t) := by
  unfold State.rampTick
  try dsimp -iota only
  repeat' (first
    | with_reducible assumption | simp only [↓keeps_mk] | with_reducible apply State.advance_keeps
    | with_reducible apply State.setCluster_keeps | with_reducible apply keeps_foldl
    | with_reducible apply keeps_foldl_snd | with_reducible apply keeps_foldl_fst | intro _ | split)

theorem State.sensed_keeps {s t : State} (h : Keeps s t) (old : State) (id : Nat) : Keeps s (State.sensed t old id) := by
  unfold State.sensed
  split
  · exact State.platformEvent_keeps h _ _
  · exact h

theorem State.meter_keeps {s t : State} (h : Keeps s t) (r : MeterReading) :
    Keeps s (State.meter t r) := by
  unfold State.meter
  try dsimp -iota only
  repeat' (first
    | with_reducible assumption | simp only [↓keeps_mk] | with_reducible apply State.report_keeps
    | with_reducible apply State.sensed_keeps | with_reducible apply keeps_foldl
    | with_reducible apply keeps_foldl_snd | with_reducible apply keeps_foldl_fst | intro _ | split)

theorem State.readTemp_keeps {s t : State} (h : Keeps s t) (cl : Nat) (temp : Int) :
    Keeps s (State.readTemp t cl temp) := by
  unfold State.readTemp
  try dsimp -iota only
  repeat' (first
    | with_reducible assumption | simp only [↓keeps_mk] | with_reducible apply State.sensed_keeps
    | with_reducible apply State.setCluster_keeps)

theorem State.thermTrip_keeps {s t : State} (h : Keeps s t) (cl : Nat) :
    Keeps s (State.thermTrip t cl) := by
  unfold State.thermTrip
  try dsimp -iota only
  repeat' (first
    | with_reducible assumption | simp only [↓keeps_mk] | with_reducible apply State.fatal_keeps
    | with_reducible apply State.railsOff_keeps | with_reducible apply State.readTemp_keeps
    | with_reducible apply State.tell_keeps)

theorem State.throttleTick_keeps {s t : State} (h : Keeps s t) (cl : Nat) (temp : Int) :
    Keeps s (State.throttleTick t cl temp) := by
  unfold State.throttleTick
  try dsimp -iota only
  repeat' (first
    | with_reducible assumption | simp only [↓keeps_mk] | with_reducible apply State.fatalReset_keeps
    | with_reducible apply State.readTemp_keeps | with_reducible apply State.report_keeps
    | with_reducible apply State.setCluster_keeps | with_reducible apply State.thermTrip_keeps | intro _ | split)

theorem State.stackTemp_keeps {s t : State} (h : Keeps s t) (stack : Nat) (temp : Int) :
    Keeps s (State.stackTemp t stack temp) := by
  unfold State.stackTemp
  try dsimp -iota only
  repeat' (first
    | with_reducible assumption | simp only [↓keeps_mk] | with_reducible apply State.fatalReset_keeps
    | with_reducible apply State.report_keeps | with_reducible apply State.sensed_keeps | intro _ | split)

theorem State.loseCores_keeps {s t : State} (h : Keeps s t) : Keeps s (State.loseCores t) := by
  unfold State.loseCores
  split
  rename_i d s1 e
  generalize List.range 192 = l
  have h1 : Keeps s (l.foldl (fun u p => u.modCore p fun k => k.lose d p (t.coreOwner p).isSome) s1) :=
    keeps_foldl (keeps_pair (State.draw_keeps h) e) fun u p hu => State.modCore_keeps hu _ _
  generalize l.foldl (fun u p => u.modCore p fun k => k.lose d p (t.coreOwner p).isSome) s1 = u at h1
  exact keeps_mk.2 (keeps_store h1 Memory.reset fun _ => Memory.reset_wf)

theorem State.flushSet_keeps {s t : State} (h : Keeps s t) (key : Nat) :
    Keeps s (State.flushSet t key) := by
  unfold State.flushSet
  try dsimp -iota only
  repeat' (first
    | with_reducible assumption | simp only [↓keeps_mk] | with_reducible apply State.checkTags_keeps
    | with_reducible apply State.writeBack_keeps | with_reducible apply keeps_foldl
    | with_reducible apply keeps_foldl_snd | with_reducible apply keeps_foldl_fst | intro _)

/-- Every line leaves the lid cache. -/
theorem keeps_noCache {s t : State} (h : Keeps s t) : Keeps s { t with cache := [], lines := Memory.reset } :=
  ⟨h.pending, h.drawn, h.fuses, fun c => by
    have hc := h.form c
    have hm := Memory.reset_wf
    have hr : Tbl.wf CacheSet.reset [] = true := rfl
    simp_all [State.canonical_iff]⟩

theorem State.flushCache_keeps {s t : State} (h : Keeps s t) : Keeps s (State.flushCache t) :=
  keeps_noCache (keeps_foldl h fun u x hu => State.flushSet_keeps hu x.1)

theorem State.enterStandby_keeps {s t : State} (h : Keeps s t) :
    Keeps s (State.enterStandby t) := by
  unfold State.enterStandby
  try dsimp -iota only
  repeat' (first
    | with_reducible assumption | simp only [↓keeps_mk] | with_reducible apply State.flushCache_keeps
    | with_reducible apply State.portLost_keeps | with_reducible apply State.report_keeps
    | with_reducible apply State.tell_keeps | with_reducible apply State.turnBus_keeps
    | with_reducible apply keeps_foldl | with_reducible apply keeps_foldl_snd
    | with_reducible apply keeps_foldl_fst | intro _ | split)

theorem State.leaveStandby_keeps {s t : State} (h : Keeps s t) :
    Keeps s (State.leaveStandby t) := by
  unfold State.leaveStandby
  try dsimp -iota only
  repeat' (first
    | with_reducible assumption | simp only [↓keeps_mk] | with_reducible apply State.railsUp_keeps
    | with_reducible apply State.tell_keeps | intro _ | split)

theorem State.standbyTick_keeps {s t : State} (h : Keeps s t) :
    Keeps s (State.standbyTick t) := by
  unfold State.standbyTick
  try dsimp -iota only
  repeat' (first
    | with_reducible assumption | simp only [↓keeps_mk] | with_reducible apply State.leaveStandby_keeps
    | with_reducible apply State.loseCores_keeps | with_reducible apply State.railsOff_keeps
    | with_reducible apply State.tell_keeps | intro _ | split)

theorem State.standbyDone_keeps {s t : State} (h : Keeps s t) :
    Keeps s (State.standbyDone t) := by
  unfold State.standbyDone
  try dsimp -iota only
  repeat' (first
    | with_reducible assumption | simp only [↓keeps_mk] | with_reducible apply State.discover_keeps
    | with_reducible apply State.enterStandby_keeps | with_reducible apply State.tell_keeps
    | with_reducible apply keeps_foldl | with_reducible apply keeps_foldl_snd
    | with_reducible apply keeps_foldl_fst | intro _ | split)

theorem State.askStandby_keeps {s t : State} (h : Keeps s t) (i : Instr) :
    Keeps s (State.askStandby t i) := by
  unfold State.askStandby
  try dsimp -iota only
  repeat' (first
    | with_reducible assumption | simp only [↓keeps_mk] | with_reducible apply State.bar0_keeps
    | with_reducible apply State.enterStandby_keeps | intro _ | split)

/-! ### `Machine/RegRead.lean` -/

theorem State.answerRead_keeps {s t : State} (h : Keeps s t) (port off : Nat) :
    Keeps s (State.answerRead t port off) := by
  unfold State.answerRead
  try dsimp -iota only
  repeat' (first | with_reducible assumption | simp only [↓keeps_mk] | with_reducible apply State.modPort_keeps)

theorem State.readLatch_keeps {s t : State} (h : Keeps s t) (port off : Nat) (f : Port → Port) :
    Keeps s (State.readLatch t port off f) := by
  unfold State.readLatch
  try dsimp -iota only
  repeat' (first | with_reducible assumption | simp only [↓keeps_mk] | with_reducible apply State.modPort_keeps)

/-! ### `Machine/RegWrite.lean` -/

theorem State.versionWrite_keeps {s t : State} (h : Keeps s t) (port : Nat) (v : Word) :
    Keeps s (State.versionWrite t port v) := by
  unfold State.versionWrite
  try dsimp -iota only
  repeat' (first
    | with_reducible assumption | simp only [↓keeps_mk] | with_reducible apply State.setPort_keeps | intro _
    | split)

theorem State.consWrite_keeps {s t : State} (h : Keeps s t) (port : Nat) (v : Word) :
    Keeps s (State.consWrite t port v) := by
  unfold State.consWrite
  try dsimp -iota only
  repeat' (first
    | with_reducible assumption | simp only [↓keeps_mk] | with_reducible apply State.drainWaiting_keeps
    | with_reducible apply State.setPort_keeps | intro _ | split)

theorem State.beatWrite_keeps {s t : State} (h : Keeps s t) (port : Nat) (v : Word) :
    Keeps s (State.beatWrite t port v) := by
  unfold State.beatWrite
  try dsimp -iota only
  repeat' (first | with_reducible assumption | simp only [↓keeps_mk] | with_reducible apply State.modPort_keeps)

theorem State.latSelWrite_keeps {s t : State} (h : Keeps s t) (port : Nat) (v : Word) :
    Keeps s (State.latSelWrite t port v) := by
  unfold State.latSelWrite
  try dsimp -iota only
  repeat' (first | with_reducible assumption | simp only [↓keeps_mk] | with_reducible apply State.modPort_keeps)

theorem State.hbmCfgWrite_keeps {s t : State} (h : Keeps s t) (v : Word) :
    Keeps s (State.hbmCfgWrite t v) := by
  unfold State.hbmCfgWrite
  try dsimp -iota only
  repeat' (first
    | with_reducible assumption | simp only [↓keeps_mk] | with_reducible apply State.turnBus_keeps
    | with_reducible apply keeps_foldl | with_reducible apply keeps_foldl_snd
    | with_reducible apply keeps_foldl_fst | intro _ | split)

theorem State.logClear_keeps {s t : State} (h : Keeps s t) (port : Nat) :
    Keeps s (State.logClear t port) := by
  unfold State.logClear
  try dsimp -iota only
  repeat' (first | with_reducible assumption | simp only [↓keeps_mk] | intro _ | split)

theorem State.writeHost_keeps {s t : State} (h : Keeps s t) (port i : Nat) (v : Word) :
    Keeps s (State.writeHost t port i v) := by
  unfold State.writeHost
  try dsimp -iota only
  repeat' (first
    | with_reducible assumption | simp only [↓keeps_mk] | with_reducible apply State.beatWrite_keeps
    | with_reducible apply State.consWrite_keeps | with_reducible apply State.mbxPost_keeps
    | with_reducible apply State.modPort_keeps | with_reducible apply State.versionWrite_keeps
    | refine keeps_pair ?_ (by with_reducible assumption) | refine keeps_opt ?_ (by with_reducible assumption)
    | refine keeps_pairL ?_ (by with_reducible assumption) | intro _ | split)

theorem State.writeSu_keeps {s t : State} (h : Keeps s t) (port i : Nat) (v : Word) :
    Keeps s (State.writeSu t port i v) := by
  unfold State.writeSu
  try dsimp -iota only
  repeat' (first
    | with_reducible assumption | simp only [↓keeps_mk] | with_reducible apply State.modPort_keeps
    | refine keeps_pair ?_ (by with_reducible assumption) | refine keeps_opt ?_ (by with_reducible assumption)
    | refine keeps_pairL ?_ (by with_reducible assumption) | intro _ | split)

theorem State.writeMem_keeps {s t : State} (h : Keeps s t) (port i : Nat) (v : Word) :
    Keeps s (State.writeMem t port i v) := by
  unfold State.writeMem
  try dsimp -iota only
  repeat' (first
    | with_reducible assumption | simp only [↓keeps_mk] | with_reducible apply State.hbmCfgWrite_keeps
    | with_reducible apply State.latSelWrite_keeps | with_reducible apply State.modPort_keeps
    | refine keeps_pair ?_ (by with_reducible assumption) | refine keeps_opt ?_ (by with_reducible assumption)
    | refine keeps_pairL ?_ (by with_reducible assumption) | intro _ | split)

theorem State.writeTopo_keeps {s t : State} (h : Keeps s t) (port i : Nat) (v : Word) :
    Keeps s (State.writeTopo t port i v) := by
  unfold State.writeTopo
  try dsimp -iota only
  repeat' (first
    | with_reducible assumption | simp only [↓keeps_mk] | with_reducible apply State.modPort_keeps
    | with_reducible apply State.ovrWrite_keeps | refine keeps_pair ?_ (by with_reducible assumption)
    | refine keeps_opt ?_ (by with_reducible assumption) | refine keeps_pairL ?_ (by with_reducible assumption)
    | intro _ | split)

theorem State.writeErr_keeps {s t : State} (h : Keeps s t) (port i : Nat) (v : Word) :
    Keeps s (State.writeErr t port i v) := by
  unfold State.writeErr
  try dsimp -iota only
  repeat' (first
    | with_reducible assumption | simp only [↓keeps_mk] | with_reducible apply State.logClear_keeps
    | with_reducible apply State.modPort_keeps | refine keeps_pair ?_ (by with_reducible assumption)
    | refine keeps_opt ?_ (by with_reducible assumption) | refine keeps_pairL ?_ (by with_reducible assumption)
    | intro _ | split)

theorem State.writePower_keeps {s t : State} (h : Keeps s t) (port i : Nat) (v : Word) :
    Keeps s (State.writePower t port i v) := by
  unfold State.writePower
  try dsimp -iota only
  repeat' (first
    | with_reducible assumption | simp only [↓keeps_mk] | with_reducible apply State.modPort_keeps
    | refine keeps_pair ?_ (by with_reducible assumption) | refine keeps_opt ?_ (by with_reducible assumption)
    | refine keeps_pairL ?_ (by with_reducible assumption) | intro _ | split)

theorem State.writeMon_keeps {s t : State} (h : Keeps s t) (m i : Nat) (v : Word) :
    Keeps s (State.writeMon t m i v) := by
  unfold State.writeMon
  try dsimp -iota only
  repeat' (first
    | with_reducible assumption | simp only [↓keeps_mk] | with_reducible apply State.monCfg_keeps
    | with_reducible apply State.setMonitor_keeps | refine keeps_pair ?_ (by with_reducible assumption)
    | refine keeps_opt ?_ (by with_reducible assumption) | refine keeps_pairL ?_ (by with_reducible assumption)
    | intro _ | split)

theorem State.writeCluster_keeps {s t : State} (h : Keeps s t) (cl i : Nat) (v : Word) :
    Keeps s (State.writeCluster t cl i v) := by
  unfold State.writeCluster
  try dsimp -iota only
  repeat' (first
    | with_reducible assumption | simp only [↓keeps_mk] | with_reducible apply State.setCluster_keeps
    | refine keeps_pair ?_ (by with_reducible assumption) | refine keeps_opt ?_ (by with_reducible assumption)
    | refine keeps_pairL ?_ (by with_reducible assumption) | intro _ | split)

theorem State.writeLink_keeps {s t : State} (h : Keeps s t) (l i : Nat) (v : Word) :
    Keeps s (State.writeLink t l i v) := by
  unfold State.writeLink
  try dsimp -iota only
  repeat' (first
    | with_reducible assumption | simp only [↓keeps_mk] | with_reducible apply State.laneRelease_keeps
    | with_reducible apply State.modLink_keeps | with_reducible apply State.portDisable_keeps
    | refine keeps_pair ?_ (by with_reducible assumption) | refine keeps_opt ?_ (by with_reducible assumption)
    | refine keeps_pairL ?_ (by with_reducible assumption) | intro _ | split)

theorem State.writeCore_keeps {s t : State} (h : Keeps s t) (p i : Nat) (v : Word) :
    Keeps s (State.writeCore t p i v) := by
  unfold State.writeCore
  try dsimp -iota only
  repeat' (first
    | with_reducible assumption | simp only [↓keeps_mk] | with_reducible apply State.modCore_keeps
    | refine keeps_pair ?_ (by with_reducible assumption) | refine keeps_opt ?_ (by with_reducible assumption)
    | refine keeps_pairL ?_ (by with_reducible assumption) | intro _ | split)

theorem State.writeCtx_keeps {s t : State} (h : Keeps s t) (c i : Nat) (v : Word) :
    Keeps s (State.writeCtx t c i v) := by
  unfold State.writeCtx
  try dsimp -iota only
  repeat' (first | with_reducible assumption | simp only [↓keeps_mk] | with_reducible apply State.modCtx_keeps)

theorem State.regWrite_keeps {s t : State} (h : Keeps s t) (port off : Nat) (v : Word) :
    Keeps s (State.regWrite t port off v) := by
  unfold State.regWrite
  try dsimp -iota only
  repeat' (first
    | with_reducible assumption | simp only [↓keeps_mk] | with_reducible apply State.modChan_keeps
    | with_reducible apply State.modPort_keeps | with_reducible apply State.writeCluster_keeps
    | with_reducible apply State.writeCore_keeps | with_reducible apply State.writeCtx_keeps
    | with_reducible apply State.writeErr_keeps | with_reducible apply State.writeHost_keeps
    | with_reducible apply State.writeLink_keeps | with_reducible apply State.writeMem_keeps
    | with_reducible apply State.writeMon_keeps | with_reducible apply State.writePower_keeps
    | with_reducible apply State.writeSu_keeps | with_reducible apply State.writeTopo_keeps
    | refine keeps_pair ?_ (by with_reducible assumption) | refine keeps_opt ?_ (by with_reducible assumption)
    | refine keeps_pairL ?_ (by with_reducible assumption) | intro _ | split)

theorem State.standbyWrite_keeps {s t : State} (h : Keeps s t) (port : Nat) (v : Word) :
    Keeps s (State.standbyWrite t port v) := by
  unfold State.standbyWrite
  try dsimp -iota only
  repeat' (first
    | with_reducible assumption | simp only [↓keeps_mk] | with_reducible apply State.askStandby_keeps
    | with_reducible apply State.leaveStandby_keeps | intro _ | split)

/-! ### `Machine/Boot.lean` -/

theorem State.bootFail_keeps {s t : State} (h : Keeps s t) (stage code : Nat) :
    Keeps s (State.bootFail t stage code) := by
  unfold State.bootFail
  try dsimp -iota only
  repeat' (first
    | with_reducible assumption | simp only [↓keeps_mk] | with_reducible apply State.report_keeps | intro _ | split)

theorem State.applyRepair_keeps {s t : State} (h : Keeps s t) (r : Repair) :
    Keeps s (State.applyRepair t r) := by
  unfold State.applyRepair
  try dsimp -iota only
  repeat' (first
    | with_reducible assumption | simp only [↓keeps_mk] | with_reducible apply State.modChan_keeps
    | refine keeps_pair ?_ (by with_reducible assumption) | refine keeps_opt ?_ (by with_reducible assumption)
    | refine keeps_pairL ?_ (by with_reducible assumption) | intro _ | split)

theorem State.fromRecord_keeps {s t : State} (h : Keeps s t) (r : List Byte) :
    Keeps s (State.fromRecord t r) := by
  unfold State.fromRecord
  try dsimp -iota only
  repeat' (first
    | with_reducible assumption | simp only [↓keeps_mk] | with_reducible apply State.modLink_keeps
    | with_reducible apply keeps_foldl | with_reducible apply keeps_foldl_snd
    | with_reducible apply keeps_foldl_fst | intro _)

theorem State.lmsStart_keeps {s t : State} (h : Keeps s t) (journalOk : Bool) :
    Keeps s (State.lmsStart t journalOk) := by
  unfold State.lmsStart
  try dsimp -iota only
  repeat' (first | with_reducible assumption | simp only [↓keeps_mk])

theorem State.lmsReports_keeps {s t : State} (h : Keeps s t) :
    Keeps s (State.lmsReports t) := by
  unfold State.lmsReports
  try dsimp -iota only
  repeat' (first
    | with_reducible assumption | simp only [↓keeps_mk] | with_reducible apply State.report_keeps | intro _ | split)

/-- The fuses are blown further. -/
theorem keeps_fuses {s t : State} (h : Keeps s t) {f : Fuses} (hf : t.fuses.follow f) : Keeps s { t with fuses := f } :=
  ⟨h.pending, h.drawn, Fuses.follow_trans h.fuses hf, fun c => h.form c⟩

theorem State.commitSvn_keeps {s t : State} (h : Keeps s t) : Keeps s (State.commitSvn t) := by
  unfold State.commitSvn
  extract_lets d svn
  clear_value svn
  split
  · rename_i hs
    have hf := Fuses.follow_refl t.fuses
    exact State.report_keeps (keeps_fuses h (f := { t.fuses with svn := svn }) ⟨hf.1, hf.2.1, hf.2.2.1, hf.2.2.2.1,
      hf.2.2.2.2.1, Nat.le_of_lt hs.2, hf.2.2.2.2.2.2.1, rfl, rfl, rfl⟩) _ _
  · exact h

theorem State.bootLate_keeps {s t : State} (h : Keeps s t) (env : BootEnv) :
    Keeps s (State.bootLate t env) := by
  unfold State.bootLate
  try dsimp -iota only
  repeat' (first
    | with_reducible assumption | simp only [↓keeps_mk] | with_reducible apply State.bootFail_keeps
    | with_reducible apply State.commitSvn_keeps | with_reducible apply State.kakFailed_keeps
    | with_reducible apply State.kernelsRun_keeps | intro _ | split)

theorem State.bootCores_keeps {s t : State} (h : Keeps s t) (env : BootEnv) :
    Keeps s (State.bootCores t env) := by
  unfold State.bootCores
  try dsimp -iota only
  repeat' (first
    | with_reducible assumption | simp only [↓keeps_mk] | with_reducible apply State.bootFail_keeps
    | with_reducible apply State.bootLate_keeps | with_reducible apply State.fatal_keeps
    | with_reducible apply State.keep_keeps | with_reducible apply State.lmsReports_keeps
    | with_reducible apply State.railsUp_keeps | with_reducible apply State.report_keeps | intro _ | split)

/-- The ports' registers are rewritten. -/
theorem keeps_portTbl {s t : State} (h : Keeps s t) (q : Tbl Port) (hq : t.canonical = true → Tbl.wf Port.reset q = true) :
    Keeps s { t with ports := q } :=
  ⟨h.pending, h.drawn, h.fuses, fun c => by
    have hw := hq (h.form c)
    have hc := h.form c
    simp only [State.canonical_iff] at hc ⊢
    exact ⟨hc.1, hc.2.1, hc.2.2.1, hc.2.2.2.1, hc.2.2.2.2.1, hc.2.2.2.2.2.1, hw, hc.2.2.2.2.2.2.2⟩⟩

theorem State.bootBegin_keeps {s t : State} (h : Keeps s t) (env : BootEnv) : Keeps s (State.bootBegin t env) := by
  have h1 := fun g : Nat → Port => keeps_portTbl h ([0, 1].foldl (fun q i => Tbl.set Port.reset q i (g i)) t.ports) fun c =>
    Tbl.foldl_set_wf id (fun _ => g) _ ((State.canonical_iff _).1 c).2.2.2.2.2.2.1
  have h2 := h1 fun i => { t.port i with linkUp := (t.port i).linkUp || t.board.perstHigh.contains i }
  unfold State.bootBegin
  exact keeps_mk.2 h2

theorem State.bootSec_keeps {s t : State} (h : Keeps s t) (env : BootEnv) (r : List Byte) :
    Keeps s (State.bootSec t env r) := by
  unfold State.bootSec
  try dsimp -iota only
  repeat' (first
    | with_reducible assumption | simp only [↓keeps_mk] | with_reducible apply State.applyRepair_keeps
    | with_reducible apply State.bootCores_keeps | with_reducible apply State.bootFail_keeps
    | with_reducible apply State.fromRecord_keeps | with_reducible apply State.lmsStart_keeps
    | with_reducible apply keeps_foldl | with_reducible apply keeps_foldl_snd
    | with_reducible apply keeps_foldl_fst | intro _ | split)

theorem State.bootRun_keeps {s t : State} (h : Keeps s t) (env : BootEnv) :
    Keeps s (State.bootRun t env) := by
  unfold State.bootRun
  try dsimp -iota only
  repeat' (first
    | with_reducible assumption | simp only [↓keeps_mk] | with_reducible apply State.bootBegin_keeps
    | with_reducible apply State.bootFail_keeps | with_reducible apply State.bootSec_keeps
    | refine keeps_pair ?_ (by with_reducible assumption) | refine keeps_opt ?_ (by with_reducible assumption)
    | refine keeps_pairL ?_ (by with_reducible assumption) | intro _ | split)

theorem State.retry_keeps {s t : State} (h : Keeps s t) (backoff : Nat) : Keeps s (State.retry t backoff) := by
  have h1 := keeps_ports (State.coldReset_keeps h t.err.resetKind) fun i => { Port.reset with linkUp := (t.port i).linkUp }
  unfold State.retry
  exact keeps_mk.2 h1

theorem State.losePower_keeps {s t : State} (h : Keeps s t) :
    Keeps s (State.losePower t) := by
  unfold State.losePower
  try dsimp -iota only
  repeat' (first | with_reducible assumption | simp only [↓keeps_mk] | with_reducible apply State.coldCore_keeps)

theorem State.resetLow_keeps {s t : State} (h : Keeps s t) :
    Keeps s (State.resetLow t) := by
  unfold State.resetLow
  try dsimp -iota only
  repeat' (first
    | with_reducible assumption | simp only [↓keeps_mk] | with_reducible apply State.coldCore_keeps
    | with_reducible apply State.keep_keeps | with_reducible apply State.report_keeps
    | with_reducible apply State.tell_keeps | intro _ | split)

theorem State.resetHigh_keeps {s t : State} (h : Keeps s t) :
    Keeps s (State.resetHigh t) := by
  unfold State.resetHigh
  try dsimp -iota only
  repeat' (first
    | with_reducible assumption | simp only [↓keeps_mk] | with_reducible apply State.resetLow_keeps
    | with_reducible apply State.tell_keeps)

theorem State.resetPin_keeps {s t : State} (h : Keeps s t) (us : Nat) (causes released : Bool) :
    Keeps s (State.resetPin t us causes released) := by
  unfold State.resetPin
  try dsimp -iota only
  repeat' (first
    | with_reducible assumption | simp only [↓keeps_mk] | with_reducible apply State.resetHigh_keeps
    | with_reducible apply State.resetLow_keeps | intro _ | split)

/-! ### `Machine/Svc.lean` -/

theorem State.svcAnswer_keeps {s t : State} (h : Keeps s t) (src : SvcSource) (req : SvcReq) (status : Nat) (code : Word) :
    Keeps s (State.svcAnswer t src req status code) := by
  unfold State.svcAnswer
  try dsimp -iota only
  repeat' (first | with_reducible assumption | simp only [↓keeps_mk] | with_reducible apply State.emit_keeps)

theorem State.bootReport_keeps {s t : State} (h : Keeps s t) (code : Word) :
    Keeps s (State.bootReport t code) := by
  unfold State.bootReport
  try dsimp -iota only
  repeat' (first
    | with_reducible assumption | simp only [↓keeps_mk] | with_reducible apply State.report_keeps | intro _ | split)

theorem State.updOutcome_keeps {s t : State} (h : Keeps s t) (st : Nat) (code : Word) :
    Keeps s (State.updOutcome t st code) := by
  unfold State.updOutcome
  try dsimp -iota only
  repeat' (first | with_reducible assumption | simp only [↓keeps_mk] | with_reducible apply State.bootReport_keeps)

theorem State.updRefused_keeps {s t : State} (h : Keeps s t) (src : SvcSource) :
    Keeps s (State.updRefused t src) := by
  unfold State.updRefused
  try dsimp -iota only
  repeat' (first | with_reducible assumption | simp only [↓keeps_mk] | with_reducible apply State.updOutcome_keeps)

theorem State.svcRefuse_keeps {s t : State} (h : Keeps s t) (src : SvcSource) (req : SvcReq) (status : Nat) :
    Keeps s (State.svcRefuse t src req status) := by
  unfold State.svcRefuse
  try dsimp -iota only
  repeat' (first
    | with_reducible assumption | simp only [↓keeps_mk] | with_reducible apply State.svcAnswer_keeps
    | with_reducible apply State.updRefused_keeps)

theorem State.releaseStaging_keeps {s t : State} (h : Keeps s t) :
    Keeps s (State.releaseStaging t) := by
  unfold State.releaseStaging
  try dsimp -iota only
  repeat' (first
    | with_reducible assumption | simp only [↓keeps_mk] | with_reducible apply State.retry_keeps | intro _ | split)

theorem State.svcRow_keeps {s t : State} (h : Keeps s t) (src : SvcSource) (req : SvcReq) (op : Nat) (guarded : Bool) (f : State → State) (hf : ∀ u , Keeps s u → Keeps s (f u)) :
    Keeps s (State.svcRow t src req op guarded f) := by
  unfold State.svcRow
  try dsimp -iota only
  repeat' (first
    | with_reducible assumption | simp only [↓keeps_mk] | with_reducible apply State.svcAnswer_keeps
    | with_reducible apply State.svcRefuse_keeps | with_reducible apply hf | intro _ | split)

theorem State.stage_keeps {s t : State} (h : Keeps s t) (src : SvcSource) (kind off : Nat) (data : List Byte) :
    Keeps s (State.stage t src kind off data) := by
  unfold State.stage
  try dsimp -iota only
  repeat' (first | with_reducible assumption | simp only [↓keeps_mk])

theorem State.commit_keeps {s t : State} (h : Keeps s t) (src : SvcSource) (kind : Nat) :
    Keeps s (State.commit t src kind).1 := by
  unfold State.commit
  try dsimp -iota only
  repeat' (first
    | with_reducible assumption | simp only [↓keeps_mk] | with_reducible apply State.releaseStaging_keeps
    | with_reducible apply State.stage_keeps | intro _ | split)

theorem State.updDone_keeps {s t : State} (h : Keeps s t) (src : Nat) :
    Keeps s (State.updDone t src) := by
  unfold State.updDone
  try dsimp -iota only
  repeat' (first | with_reducible assumption | simp only [↓keeps_mk] | with_reducible apply State.updOutcome_keeps)

theorem State.flashDone_keeps {s t : State} (h : Keeps s t) :
    Keeps s (State.flashDone t) := by
  unfold State.flashDone
  try dsimp -iota only
  repeat' (first
    | with_reducible assumption | simp only [↓keeps_mk] | with_reducible apply State.retry_keeps
    | with_reducible apply State.stage_keeps | with_reducible apply State.updDone_keeps | intro _ | split)

theorem State.useIndex_keeps {s t : State} (h : Keeps s t) : Keeps s (State.useIndex t).2 := by
  unfold State.useIndex
  extract_lets q f j left fu bo s1 s2
  have hf := Fuses.follow_refl t.fuses
  have hl : t.fuses.lmsCkpt ≤ f := by
    show t.fuses.lmsCkpt ≤ if _ then _ else _
    split
    · exact Nat.le_succ _
    · exact Nat.le_refl _
  have h1 : Keeps s s1 := keeps_mk.2 (keeps_fuses h (f := { t.fuses with lmsCkpt := f }) ⟨hf.1, hf.2.1, hf.2.2.1,
    hf.2.2.2.1, hf.2.2.2.2.1, Nat.le_refl _, hl, rfl, rfl,
    rfl⟩)
  have h2 : Keeps s s2 := keeps_ite (State.report_keeps h1 _ _) h1
  clear_value s1 s2 q f j left
  split
  · exact h
  · exact keeps_ite (State.report_keeps h2 _ _) h2

theorem and_or_absorb (x y : BitVec 4) : x &&& (x ||| y) = x := by
  ext i h
  simp only [BitVec.getElem_and, BitVec.getElem_or]
  cases x[i] <;> rfl

/-- A provisioning that answers 0 only adds to the fuses (R519). -/
theorem Fuses.provision_follow (f : Fuses) (d : List Byte) (h : (f.provision d).1 = 0) :
    f.follow (f.provision d).2 := by
  revert h
  unfold Fuses.provision
  extract_lets slot act fresh msg signed g
  clear_value act signed
  have hf := Fuses.follow_refl f
  split
  · exact fun h => nomatch h
  · split
    · exact fun h => nomatch h
    · split
      · split
        · exact fun h => nomatch h
        · rename_i ho
          intro _
          unfold Fuses.program
          unfold Fuses.owner at ho
          split
          · rename_i hs
            rw [if_pos hs] at ho
            exact ⟨hf.1, hf.2.1, fun x hx => absurd (.inl (hx ▸ rfl)) ho, hf.2.2.2.1, hf.2.2.2.2⟩
          · rename_i hs
            rw [if_neg hs] at ho
            exact ⟨hf.1, hf.2.1, hf.2.2.1, fun x hx => absurd (.inl (hx ▸ rfl)) ho, hf.2.2.2.2⟩
      · split
        · exact fun _ => ⟨hf.1, hf.2.1, hf.2.2.1, hf.2.2.2.1, and_or_absorb _ _, hf.2.2.2.2.2⟩
        · exact fun h => nomatch h

theorem State.spdmSend_keeps {s t : State} (h : Keeps s t) (port code : Nat) (body : List Byte) :
    Keeps s (State.spdmSend t port code body) := by
  unfold State.spdmSend
  try dsimp -iota only
  repeat' (first | with_reducible assumption | simp only [↓keeps_mk] | with_reducible apply State.emit_keeps)

theorem State.spdmRow_keeps {s t : State} (h : Keeps s t) (port : Nat) (f : State → State) (hf : ∀ u , Keeps s u → Keeps s (f u)) :
    Keeps s (State.spdmRow t port f) := by
  unfold State.spdmRow
  try dsimp -iota only
  repeat' (first
    | with_reducible assumption | simp only [↓keeps_mk] | with_reducible apply State.spdmSend_keeps
    | with_reducible apply hf | intro _ | split)

theorem State.drawBytes_keeps {s t : State} (h : Keeps s t) (n : Nat) : Keeps s (State.drawBytes t n).2 := by
  induction n generalizing t with
  | zero => exact h
  | succ n ih => exact ih (State.draw_keeps h)

theorem State.measurements_keeps {s t : State} (h : Keeps s t) (port index : Nat) (signed : Bool) (nonce : List Byte) :
    Keeps s (State.measurements t port index signed nonce) := by
  unfold State.measurements
  try dsimp -iota only
  repeat' (first
    | with_reducible assumption | simp only [↓keeps_mk] | with_reducible apply State.spdmSend_keeps
    | with_reducible apply State.useIndex_keeps | refine keeps_pair ?_ (by with_reducible assumption)
    | refine keeps_opt ?_ (by with_reducible assumption) | refine keeps_pairL ?_ (by with_reducible assumption)
    | intro _ | split)

/-! ### `Machine/Module.lean` -/

theorem State.sideband_keeps {s t : State} (h : Keeps s t) (f : State → State) (hf : ∀ u , Keeps s u → Keeps s (f u)) :
    Keeps s (State.sideband t f) := by
  unfold State.sideband
  try dsimp -iota only
  repeat' (first | with_reducible assumption | simp only [↓keeps_mk] | with_reducible apply hf | intro _ | split)

theorem State.mhReport_keeps {s t : State} (h : Keeps s t) (code loc : Nat) :
    Keeps s (State.mhReport t code loc) := by
  unfold State.mhReport
  try dsimp -iota only
  repeat' (first
    | with_reducible assumption | simp only [↓keeps_mk] | with_reducible apply State.report_keeps | intro _ | split)

theorem State.tapIn_keeps {s t : State} (h : Keeps s t) (i : TapInstr) :
    Keeps s (State.tapIn t i) := by
  unfold State.tapIn
  try dsimp -iota only
  repeat' (first
    | with_reducible assumption | simp only [↓keeps_mk] | with_reducible apply State.emit_keeps
    | with_reducible apply State.resetLow_keeps | intro _ | split)

/-! ### `Machine/McRestart.lean` -/

theorem State.clampAll_keeps {s t : State} (h : Keeps s t) :
    Keeps s (State.clampAll t) := by
  unfold State.clampAll
  try dsimp -iota only
  repeat' (first
    | with_reducible assumption | simp only [↓keeps_mk] | with_reducible apply State.beginChange_keeps
    | with_reducible apply State.wantStep_keeps | with_reducible apply keeps_foldl
    | with_reducible apply keeps_foldl_snd | with_reducible apply keeps_foldl_fst | intro _)

theorem State.crash_keeps {s t : State} (h : Keeps s t) (mc : Mc) (imageUe : Bool) :
    Keeps s (State.crash t mc imageUe) := by
  unfold State.crash
  try dsimp -iota only
  repeat' (first
    | with_reducible assumption | simp only [↓keeps_mk] | with_reducible apply State.clampAll_keeps
    | with_reducible apply State.fatal_keeps | with_reducible apply State.report_keeps | intro _ | split)

/-! ### `Machine/Restore.lean` -/

theorem State.restoreFail_keeps {s t : State} (h : Keeps s t) (c code : Nat) :
    Keeps s (State.restoreFail t c code) := by
  unfold State.restoreFail
  try dsimp -iota only
  repeat' (first
    | with_reducible assumption | simp only [↓keeps_mk] | with_reducible apply State.complete_keeps
    | with_reducible apply State.modCtx_keeps | with_reducible apply State.report_keeps
    | refine keeps_pair ?_ (by with_reducible assumption) | refine keeps_opt ?_ (by with_reducible assumption)
    | refine keeps_pairL ?_ (by with_reducible assumption) | intro _ | split)

theorem State.restoreAsk_keeps {s t : State} (h : Keeps s t) (c : Nat) :
    Keeps s (State.restoreAsk t c) := by
  unfold State.restoreAsk
  try dsimp -iota only
  repeat' (first
    | with_reducible assumption | simp only [↓keeps_mk] | with_reducible apply State.emit_keeps
    | refine keeps_pair ?_ (by with_reducible assumption) | refine keeps_opt ?_ (by with_reducible assumption)
    | refine keeps_pairL ?_ (by with_reducible assumption) | intro _ | split)

theorem State.writePages_keeps {s t : State} (h : Keeps s t) (c a : Nat) (b : List Byte) :
    Keeps s (State.writePages t c a b) := by
  unfold State.writePages
  try dsimp -iota only
  repeat' (first
    | with_reducible assumption | simp only [↓keeps_mk] | with_reducible apply State.devWrite_keeps
    | with_reducible apply keeps_foldl | with_reducible apply keeps_foldl_snd
    | with_reducible apply keeps_foldl_fst | intro _)

theorem State.applyDeltaShard_keeps {s t : State} (h : Keeps s t) (c r : Nat) (b : List Byte) :
    Keeps s (State.applyDeltaShard t c r b) := by
  unfold State.applyDeltaShard
  try dsimp -iota only
  repeat' (first
    | with_reducible assumption | with_reducible apply State.devWrite_keeps | with_reducible apply State.read_keeps
    | with_reducible apply keeps_foldl | with_reducible apply keeps_foldl_snd
    | with_reducible apply keeps_foldl_fst | refine keeps_pair ?_ (by with_reducible assumption)
    | refine keeps_opt ?_ (by with_reducible assumption) | refine keeps_pairL ?_ (by with_reducible assumption)
    | intro _)

theorem State.holdFrom_keeps {s t : State} (h : Keeps s t) (c : Nat) (b : List Byte) :
    Keeps s (State.holdFrom t c b) := by
  unfold State.holdFrom
  try dsimp -iota only
  repeat' (first
    | with_reducible assumption | with_reducible apply State.draw_keeps | with_reducible apply State.modCtx_keeps
    | with_reducible apply keeps_foldl | with_reducible apply keeps_foldl_snd
    | with_reducible apply keeps_foldl_fst | refine keeps_pair ?_ (by with_reducible assumption)
    | refine keeps_opt ?_ (by with_reducible assumption) | refine keeps_pairL ?_ (by with_reducible assumption)
    | intro _)

theorem State.applyShard_keeps {s t : State} (h : Keeps s t) (c : Nat) (e : ShardRef × List Byte) :
    Keeps s (State.applyShard t c e) := by
  unfold State.applyShard
  try dsimp -iota only
  repeat' (first
    | with_reducible assumption | simp only [↓keeps_mk] | with_reducible apply State.applyDeltaShard_keeps
    | with_reducible apply State.holdFrom_keeps | with_reducible apply State.writePages_keeps
    | refine keeps_pair ?_ (by with_reducible assumption) | refine keeps_opt ?_ (by with_reducible assumption)
    | refine keeps_pairL ?_ (by with_reducible assumption) | intro _ | split)

theorem State.fillBase_keeps {s t : State} (h : Keeps s t) (c : Nat) :
    Keeps s (State.fillBase t c) := by
  unfold State.fillBase
  try dsimp -iota only
  repeat' (first
    | with_reducible assumption | with_reducible apply State.read_keeps | with_reducible apply State.write_keeps
    | with_reducible apply keeps_foldl | with_reducible apply keeps_foldl_snd
    | with_reducible apply keeps_foldl_fst | refine keeps_pair ?_ (by with_reducible assumption)
    | refine keeps_opt ?_ (by with_reducible assumption) | refine keeps_pairL ?_ (by with_reducible assumption)
    | intro _ | split)

theorem State.imageDone_keeps {s t : State} (h : Keeps s t) (c : Nat) (srcs : List Source) :
    Keeps s (State.imageDone t c srcs) := by
  unfold State.imageDone
  try dsimp -iota only
  repeat' (first
    | with_reducible assumption | simp only [↓keeps_mk] | with_reducible apply State.fillBase_keeps
    | with_reducible apply State.modCtx_keeps | with_reducible apply State.releaseCore_keeps
    | with_reducible apply keeps_foldl | with_reducible apply keeps_foldl_snd
    | with_reducible apply keeps_foldl_fst | intro _ | split)

theorem State.fillEntry_keeps {s t : State} (h : Keeps s t) (c : Nat) (srcs : List Source) (t0 : TEntry) :
    Keeps s (State.fillEntry t c srcs t0).2 := by
  unfold State.fillEntry
  try dsimp -iota only
  repeat' (first
    | with_reducible assumption | with_reducible apply State.devWrite_keeps | with_reducible apply keeps_foldl
    | with_reducible apply keeps_foldl_snd | with_reducible apply keeps_foldl_fst
    | refine keeps_pair ?_ (by with_reducible assumption) | refine keeps_opt ?_ (by with_reducible assumption)
    | refine keeps_pairL ?_ (by with_reducible assumption) | intro _ | split)

theorem State.fillEntries_keeps {s t : State} (h : Keeps s t) (c : Nat) (srcs : List Source) (l : List TEntry) :
    Keeps s (State.fillEntries t c srcs l).2 := by
  induction l generalizing t with
  | nil => exact h
  | cons e r ih =>
    have h1 := State.fillEntry_keeps h c srcs e
    unfold State.fillEntries
    split
    · exact keeps_pair h1 (by assumption)
    · exact ih (keeps_pair h1 (by assumption))

theorem State.restoreDone_keeps {s t : State} (h : Keeps s t) (c : Nat) :
    Keeps s (State.restoreDone t c) := by
  unfold State.restoreDone
  try dsimp -iota only
  repeat' (first
    | with_reducible assumption | simp only [↓keeps_mk] | with_reducible apply State.finish_keeps
    | with_reducible apply State.modCtx_keeps | refine keeps_pair ?_ (by with_reducible assumption)
    | refine keeps_opt ?_ (by with_reducible assumption) | refine keeps_pairL ?_ (by with_reducible assumption)
    | intro _ | split)

theorem State.restoreApply_keeps {s t : State} (h : Keeps s t) (c : Nat) :
    Keeps s (State.restoreApply t c) := by
  unfold State.restoreApply
  try dsimp -iota only
  repeat' (first
    | with_reducible assumption | with_reducible apply State.applyShard_keeps
    | with_reducible apply State.fillEntries_keeps | with_reducible apply State.imageDone_keeps
    | with_reducible apply State.modCtx_keeps | with_reducible apply State.restoreDone_keeps
    | with_reducible apply State.restoreFail_keeps | with_reducible apply keeps_foldl
    | with_reducible apply keeps_foldl_snd | with_reducible apply keeps_foldl_fst
    | refine keeps_pair ?_ (by with_reducible assumption) | refine keeps_opt ?_ (by with_reducible assumption)
    | refine keeps_pairL ?_ (by with_reducible assumption) | intro _ | split)

theorem State.restoreData_keeps {s t : State} (h : Keeps s t) (c : Nat) (d : List Byte) :
    Keeps s (State.restoreData t c d) := by
  unfold State.restoreData
  try dsimp -iota only
  repeat' (first
    | with_reducible assumption | simp only [↓keeps_mk] | with_reducible apply State.modCtx_keeps
    | with_reducible apply State.restoreApply_keeps | with_reducible apply State.restoreAsk_keeps
    | with_reducible apply State.restoreFail_keeps | intro _ | split)

theorem State.restoreStart_keeps {s t : State} (h : Keeps s t) (c : Nat) (h0 : HostCmd) :
    Keeps s (State.restoreStart t c h0) := by
  unfold State.restoreStart
  try dsimp -iota only
  repeat' (first
    | with_reducible assumption | with_reducible apply State.finish_keeps | with_reducible apply State.modCtx_keeps
    | with_reducible apply State.read_keeps | with_reducible apply State.restoreAsk_keeps
    | refine keeps_pair ?_ (by with_reducible assumption) | refine keeps_opt ?_ (by with_reducible assumption)
    | refine keeps_pairL ?_ (by with_reducible assumption) | intro _ | split)

/-! ### `Machine/Receive.lean` -/

theorem State.fenceSound_keeps {s t : State} (h : Keeps s t) (c : Nat) :
    Keeps s (State.fenceSound t c) := by
  unfold State.fenceSound
  try dsimp -iota only
  repeat' (first
    | with_reducible assumption | simp only [↓keeps_mk] | with_reducible apply State.clearParity_keeps
    | with_reducible apply State.raise_keeps | intro _ | split)

theorem State.withFence_keepsO {s t : State} (h : Keeps s t) (p : Packet) (c : Nat) :
    KeepsO s (State.withFence t p c) := by
  unfold State.withFence
  try dsimp -iota only
  repeat' (first
    | with_reducible assumption | simp only [↓keeps_mk] | with_reducible apply keepsO_none
    | with_reducible apply keepsO_some | with_reducible intro _ | split)

theorem State.modFence_keeps {s t : State} (h : Keeps s t) (p : Packet) (c : Nat) (f : Fence → Fence) :
    Keeps s (State.modFence t p c f) := by
  unfold State.modFence
  try dsimp -iota only
  repeat' (first | with_reducible assumption | simp only [↓keeps_mk])

theorem State.fenceOut_keeps {s t : State} (h : Keeps s t) (p : Packet) (c : Nat) :
    Keeps s (State.fenceOut t p c) := by
  unfold State.fenceOut
  try dsimp -iota only
  repeat' (first
    | with_reducible assumption | simp only [↓keeps_mk] | with_reducible apply State.raise_keeps
    | with_reducible apply State.refuse_keeps)

theorem State.receive_keeps {s t : State} (h : Keeps s t) (p : Packet) (op : Nat) (f : State → State) (hf : ∀ u , Keeps s u → Keeps s (f u)) :
    Keeps s (State.receive t p op f) := by
  unfold State.receive
  try dsimp -iota only
  repeat' (first
    | with_reducible assumption | simp only [↓keeps_mk] | with_reducible apply State.refuse_keeps
    | with_reducible apply State.taken_keeps | with_reducible apply hf | intro _ | split)

theorem State.serveOrWait_keeps {s t : State} (h : Keeps s t) (i : Instr) (p : Packet) (op n : Nat) (f : State → State) (hf : ∀ u , Keeps s u → Keeps s (f u)) :
    Keeps s (State.serveOrWait t i p op n f) := by
  unfold State.serveOrWait
  try dsimp -iota only
  repeat' (first
    | with_reducible assumption | simp only [↓keeps_mk] | with_reducible apply State.receive_keeps
    | with_reducible apply State.waitForSnap_keeps | with_reducible apply hf
    | refine keeps_pair ?_ (by with_reducible assumption) | refine keeps_opt ?_ (by with_reducible assumption)
    | refine keeps_pairL ?_ (by with_reducible assumption) | intro _ | split)

theorem State.recvWrite_keeps {s t : State} (h : Keeps s t) (p : Packet) :
    Keeps s (State.recvWrite t p) := by
  unfold State.recvWrite
  try dsimp -iota only
  repeat' (first
    | with_reducible assumption | simp only [↓keeps_mk] | with_reducible apply State.epochWrite_keeps
    | with_reducible apply State.fenceOut_keeps | with_reducible apply State.fenceSound_keeps
    | with_reducible apply State.loadWrite_keeps | with_reducible apply State.modFence_keeps
    | with_reducible apply State.refuse_keeps | with_reducible apply State.withFence_keepsO
    | refine keeps_pair ?_ (by with_reducible assumption) | refine keeps_opt ?_ (by with_reducible assumption)
    | refine keeps_pairL ?_ (by with_reducible assumption) | intro _ | split)

theorem State.answer_keeps {s t : State} (h : Keeps s t) (p : Packet) (op poison arg : Nat) (data : List Byte) :
    Keeps s (State.answer t p op poison arg data) := by
  unfold State.answer
  try dsimp -iota only
  repeat' (first | with_reducible assumption | simp only [↓keeps_mk] | with_reducible apply State.emit_keeps)

theorem State.recvRead_keeps {s t : State} (h : Keeps s t) (p : Packet) :
    Keeps s (State.recvRead t p) := by
  unfold State.recvRead
  try dsimp -iota only
  repeat' (first
    | with_reducible assumption | with_reducible apply State.answer_keeps | with_reducible apply State.read_keeps
    | with_reducible apply State.refuse_keeps | refine keeps_pair ?_ (by with_reducible assumption)
    | refine keeps_opt ?_ (by with_reducible assumption) | refine keeps_pairL ?_ (by with_reducible assumption)
    | intro _ | split)

theorem State.recvAtomic_keeps {s t : State} (h : Keeps s t) (p : Packet) :
    Keeps s (State.recvAtomic t p) := by
  unfold State.recvAtomic
  try dsimp -iota only
  repeat' (first
    | with_reducible assumption | with_reducible apply State.answer_keeps
    | with_reducible apply State.epochWrite_keeps | with_reducible apply State.read_keeps
    | with_reducible apply State.refuse_keeps | refine keeps_pair ?_ (by with_reducible assumption)
    | refine keeps_opt ?_ (by with_reducible assumption) | refine keeps_pairL ?_ (by with_reducible assumption)
    | intro _ | split)

theorem State.applySignal_keeps {s t : State} (h : Keeps s t) (c : Nat) (g : Packet) (port : Option Nat) :
    Keeps s (State.applySignal t c g port).2 := by
  unfold State.applySignal
  try dsimp -iota only
  repeat' (first
    | with_reducible assumption | with_reducible apply State.addCtr_keeps | with_reducible apply State.modCtx_keeps
    | with_reducible apply State.raise_keeps | with_reducible apply State.recordSignal_keeps
    | with_reducible apply State.suError_keeps | refine keeps_pair ?_ (by with_reducible assumption)
    | refine keeps_opt ?_ (by with_reducible assumption) | refine keeps_pairL ?_ (by with_reducible assumption)
    | intro _ | split)

theorem State.sendAck_keeps {s t : State} (h : Keeps s t) (chip tag job : Nat) (flags : Byte) (epoch : Option Nat) (n : Nat) :
    Keeps s (State.sendAck t chip tag job flags epoch n) := by
  unfold State.sendAck
  try dsimp -iota only
  repeat' (first | with_reducible assumption | simp only [↓keeps_mk] | with_reducible apply State.emit_keeps)

theorem State.ackSignal_keeps {s t : State} (h : Keeps s t) (p : Packet) (c : Nat) :
    Keeps s (State.ackSignal t p c) := by
  unfold State.ackSignal
  try dsimp -iota only
  repeat' (first | with_reducible assumption | simp only [↓keeps_mk] | with_reducible apply State.sendAck_keeps)

theorem State.takeSignal_keeps {s t : State} (h : Keeps s t) (c : Nat) (p : Packet) :
    Keeps s (State.takeSignal t c p) := by
  unfold State.takeSignal
  try dsimp -iota only
  repeat' (first
    | with_reducible assumption | with_reducible refine keeps_getD ?_ (State.withFence_keepsO ?_ _ _)
    | with_reducible apply State.ackSignal_keeps | with_reducible apply State.applySignal_keeps
    | with_reducible apply State.fenceOut_keeps | with_reducible apply State.modFence_keeps
    | with_reducible apply State.refuse_keeps | with_reducible apply State.withFence_keepsO
    | refine keeps_pair ?_ (by with_reducible assumption) | refine keeps_opt ?_ (by with_reducible assumption)
    | refine keeps_pairL ?_ (by with_reducible assumption) | intro _ | split)

theorem State.recvSignal_keeps {s t : State} (h : Keeps s t) (p : Packet) :
    Keeps s (State.recvSignal t p) := by
  unfold State.recvSignal
  try dsimp -iota only
  repeat' (first
    | with_reducible assumption | simp only [↓keeps_mk] | with_reducible apply State.ackSignal_keeps
    | with_reducible apply State.fenceSound_keeps | with_reducible apply State.refuse_keeps
    | with_reducible apply State.takeSignal_keeps | refine keeps_pair ?_ (by with_reducible assumption)
    | refine keeps_opt ?_ (by with_reducible assumption) | refine keeps_pairL ?_ (by with_reducible assumption)
    | intro _ | split)

theorem State.releaseFence_keeps {s t : State} (h : Keeps s t) (chip lcore cls epoch : Nat) :
    Keeps s (State.releaseFence t chip lcore cls epoch) := by
  unfold State.releaseFence
  try dsimp -iota only
  repeat' (first
    | with_reducible assumption | with_reducible apply State.applySignal_keeps
    | with_reducible apply State.modFence_keeps | with_reducible apply State.refuseAt_keeps
    | refine keeps_pair ?_ (by with_reducible assumption) | refine keeps_opt ?_ (by with_reducible assumption)
    | refine keeps_pairL ?_ (by with_reducible assumption) | intro _ | split)

theorem State.ackFence_keeps {s t : State} (h : Keeps s t) (chip lcore cls epoch : Nat) :
    Keeps s (State.ackFence t chip lcore cls epoch) := by
  unfold State.ackFence
  try dsimp -iota only
  repeat' (first
    | with_reducible assumption | simp only [↓keeps_mk] | with_reducible apply State.sendAck_keeps
    | refine keeps_pair ?_ (by with_reducible assumption) | refine keeps_opt ?_ (by with_reducible assumption)
    | refine keeps_pairL ?_ (by with_reducible assumption) | intro _ | split)

theorem State.completeAcked_keeps {s t : State} (h : Keeps s t) (p : Nat) :
    Keeps s (State.completeAcked t p) := by
  unfold State.completeAcked
  try dsimp -iota only
  repeat' (first
    | with_reducible assumption | simp only [↓keeps_mk] | with_reducible apply State.dropCe_keeps
    | with_reducible apply State.pump_keeps | with_reducible apply State.retire_keeps
    | with_reducible apply keeps_foldl | with_reducible apply keeps_foldl_snd
    | with_reducible apply keeps_foldl_fst | intro _)

theorem State.pairDone_keeps {s t : State} (h : Keeps s t) (c : Nat) :
    Keeps s (State.pairDone t c) := by
  unfold State.pairDone
  try dsimp -iota only
  repeat' (first
    | with_reducible assumption | simp only [↓keeps_mk] | with_reducible apply State.modStep_keeps
    | with_reducible apply State.openGate_keeps | intro _ | split)

theorem State.rsigDone_keeps {s t : State} (h : Keeps s t) (p tag : Nat) :
    Keeps s (State.rsigDone t p tag) := by
  unfold State.rsigDone
  try dsimp -iota only
  repeat' (first | with_reducible assumption | simp only [↓keeps_mk] | with_reducible apply State.modCore_keeps)

theorem State.rsigReceived_keeps {s t : State} (h : Keeps s t) (p tag : Nat) :
    Keeps s (State.rsigReceived t p tag) := by
  unfold State.rsigReceived
  try dsimp -iota only
  repeat' (first
    | with_reducible assumption | simp only [↓keeps_mk] | with_reducible apply State.modCtx_keeps
    | with_reducible apply State.rsigDone_keeps | refine keeps_pair ?_ (by with_reducible assumption)
    | refine keeps_opt ?_ (by with_reducible assumption) | refine keeps_pairL ?_ (by with_reducible assumption)
    | intro _ | split)

theorem State.recvAck_keeps {s t : State} (h : Keeps s t) (p : Packet) :
    Keeps s (State.recvAck t p) := by
  unfold State.recvAck
  try dsimp -iota only
  repeat' (first
    | with_reducible assumption | simp only [↓keeps_mk] | with_reducible apply State.completeAcked_keeps
    | with_reducible apply State.modCore_keeps | with_reducible apply State.pairDone_keeps
    | with_reducible apply State.poolAcked_keeps | with_reducible apply State.pump_keeps
    | with_reducible apply State.rsigReceived_keeps | with_reducible apply State.suDone_keeps
    | refine keeps_pair ?_ (by with_reducible assumption) | refine keeps_opt ?_ (by with_reducible assumption)
    | refine keeps_pairL ?_ (by with_reducible assumption) | intro _ | split)

theorem State.readData_keeps {s t : State} (h : Keeps s t) (tag : Nat) (d : List Byte) (po : List Bool) :
    Keeps s (State.readData t tag d po) := by
  unfold State.readData
  try dsimp -iota only
  repeat' (first
    | with_reducible assumption | simp only [↓keeps_mk] | with_reducible apply State.copyDeliver_keeps
    | with_reducible apply State.dropCe_keeps | with_reducible apply State.modCore_keeps
    | with_reducible apply State.pump_keeps | refine keeps_pair ?_ (by with_reducible assumption)
    | refine keeps_opt ?_ (by with_reducible assumption) | refine keeps_pairL ?_ (by with_reducible assumption)
    | intro _ | split)

theorem State.recvReadResp_keeps {s t : State} (h : Keeps s t) (p : Packet) :
    Keeps s (State.recvReadResp t p) := by
  unfold State.recvReadResp
  try dsimp -iota only
  repeat' (first
    | with_reducible assumption | simp only [↓keeps_mk] | with_reducible apply State.readData_keeps
    | with_reducible apply State.restoreData_keeps | intro _ | split)

theorem State.remoteError_keeps {s t : State} (h : Keeps s t) (p chip : Nat) :
    Keeps s (State.remoteError t p chip) := by
  unfold State.remoteError
  try dsimp -iota only
  repeat' (first
    | with_reducible assumption | simp only [↓keeps_mk] | with_reducible apply State.ceError_keeps
    | with_reducible apply State.raiseCore_keeps | refine keeps_pair ?_ (by with_reducible assumption)
    | refine keeps_opt ?_ (by with_reducible assumption) | refine keeps_pairL ?_ (by with_reducible assumption)
    | intro _ | split)

theorem State.refusedLate_keeps {s t : State} (h : Keeps s t) (p : Packet) :
    Keeps s (State.refusedLate t p) := by
  unfold State.refusedLate
  try dsimp -iota only
  repeat' (first
    | with_reducible assumption | with_reducible apply State.draw_keeps | with_reducible apply State.modCtx_keeps
    | with_reducible apply State.raise_keeps | with_reducible apply State.remoteError_keeps
    | refine keeps_pair ?_ (by with_reducible assumption) | refine keeps_opt ?_ (by with_reducible assumption)
    | refine keeps_pairL ?_ (by with_reducible assumption) | intro _ | split)

theorem State.recvRefuse_keeps {s t : State} (h : Keeps s t) (p : Packet) :
    Keeps s (State.recvRefuse t p) := by
  unfold State.recvRefuse
  try dsimp -iota only
  repeat' (first
    | with_reducible assumption | simp only [↓keeps_mk] | with_reducible apply State.ceError_keeps
    | with_reducible apply State.ckFail_keeps | with_reducible apply State.raiseCore_keeps
    | with_reducible apply State.refusedLate_keeps | with_reducible apply State.remoteError_keeps
    | with_reducible apply State.restoreFail_keeps | with_reducible apply State.rsigDone_keeps
    | refine keeps_pair ?_ (by with_reducible assumption) | refine keeps_opt ?_ (by with_reducible assumption)
    | refine keeps_pairL ?_ (by with_reducible assumption) | intro _ | split)

/-! ### `Machine/Relocate.lean` -/

theorem State.endWaits_keeps {s t : State} (h : Keeps s t) (ch : Nat) :
    Keeps s (State.endWaits t ch) := by
  unfold State.endWaits
  try dsimp -iota only
  repeat' (first
    | with_reducible assumption | simp only [↓keeps_mk] | with_reducible apply State.resumeCmd_keeps
    | with_reducible apply keeps_foldl | with_reducible apply keeps_foldl_snd
    | with_reducible apply keeps_foldl_fst | intro _)

theorem State.relocate_keeps {s t : State} (h : Keeps s t) (ch : Nat) :
    Keeps s (State.relocate t ch) := by
  unfold State.relocate
  try dsimp -iota only
  repeat' (first
    | with_reducible assumption | simp only [↓keeps_mk] | with_reducible apply State.endMapouts_keeps
    | with_reducible apply State.endWaits_keeps | with_reducible apply State.modChan_keeps
    | with_reducible apply State.moveAll_keeps | with_reducible apply State.refuseMapout_keeps
    | with_reducible apply State.report_keeps | with_reducible apply State.resumePaused_keeps
    | with_reducible apply keeps_foldl | with_reducible apply keeps_foldl_snd
    | with_reducible apply keeps_foldl_fst | refine keeps_pair ?_ (by with_reducible assumption)
    | refine keeps_opt ?_ (by with_reducible assumption) | refine keeps_pairL ?_ (by with_reducible assumption)
    | intro _ | split)

theorem State.mapoutDone_keeps {s t : State} (h : Keeps s t) (ch : Nat) :
    Keeps s (State.mapoutDone t ch) := by
  unfold State.mapoutDone
  try dsimp -iota only
  repeat' (first
    | with_reducible assumption | simp only [↓keeps_mk] | with_reducible apply State.endMapouts_keeps
    | with_reducible apply State.endWaits_keeps | with_reducible apply State.report_keeps
    | with_reducible apply State.resumePaused_keeps | with_reducible apply State.setChan_keeps | intro _ | split)

end Sys2Proof.Machine
end

