-- ==== Sys2Proof/Laws/Start.lean ====
section
/-! SUPPORT. What the rows of the table do when their command is fetched and starts at once (R34–R37). -/

namespace Sys2Proof.Machine

/-! ### The tables of a canonical state -/

theorem State.cores_wf {s : State} (h : s.canonical = true) : Tbl.wf Core.reset s.cores = true := by
  simp only [State.canonical, Bool.and_eq_true] at h
  tauto

theorem State.ctxs_wf {s : State} (h : s.canonical = true) : Tbl.wf Ctx.reset s.ctxs = true := by
  simp only [State.canonical, Bool.and_eq_true] at h
  tauto

theorem State.ports_wf {s : State} (h : s.canonical = true) : Tbl.wf Port.reset s.ports = true := by
  simp only [State.canonical, Bool.and_eq_true] at h
  tauto

theorem State.links_wf {s : State} (h : s.canonical = true) : Tbl.wf Link.reset s.links = true := by
  simp only [State.canonical, Bool.and_eq_true] at h
  tauto

theorem State.chans_wf {s : State} (h : s.canonical = true) : Tbl.wf Chan.reset s.chans = true := by
  simp only [State.canonical, Bool.and_eq_true] at h
  tauto

/-- A fetch for a row answers only a slot of that row. -/
theorem State.fetchFor_slot {s u : State} {p eng op : Nat} {b : List Byte} (h : s.fetchFor p eng op = .slot b u) :
    slotEng b = eng ∧ slotOp b = op := by
  unfold State.fetchFor at h
  repeat (first | (split at h) | (simp at h))
  all_goals (rename_i hh; simp_all)

/-- A sequencer command that is executed now does its action. -/
theorem State.seqSlot_row {s u : State} {p op : Nat} {b : List Byte} (h : s.seqSlot p op = some (b, u)) :
    s.seqRow p op = u.seqAct p b ∧ slotOp b = op ∧ u.seqStalls p b = false := by
  unfold State.seqSlot at h
  unfold State.seqRow
  generalize hf : s.fetchFor p 0 op = f at h ⊢
  cases f with
  | stop => simp at h
  | slot b' u' =>
    simp only at h ⊢
    split at h
    · rename_i hc
      simp only [Option.some.injEq, Prod.mk.injEq] at h
      obtain ⟨rfl, rfl⟩ := h
      rw [if_pos hc]
      exact ⟨rfl, (State.fetchFor_slot hf).2, by simp at hc; exact hc.2⟩
    · simp at h

/-- A command that finds no parity error starts. -/
theorem State.startSound_sound {s : State} {p : Nat} {q : QCmd} (h : s.sound p q = true) :
    s.startSound p q = s.startCmd p q := by
  unfold State.startSound
  split
  · rename_i x hx
    have := List.all_eq_true.1 h x (List.mem_of_find?_eq_some hx)
    have := List.find?_some hx
    simp_all
  · rfl

/-- The engine whose queue is worked after a dispatch. -/
def firstEng (slot : List Byte) : Eng := (enginesOf slot).headD .seq

/-- An engine command that starts at once: it is taken from its queues and started, and the queue of its first engine
goes on. -/
theorem State.startsAs_row {s u : State} {p eng op : Nat} {f : Faults} {q : QCmd}
    (h : s.startsAs p eng op f = some (q, u)) (he : enginesOf q.slot ≠ []) :
    slotEng q.slot = eng ∧ slotOp q.slot = op ∧ q.faults = f ∧
      s.engineRow p eng op f = (let t := (u.startCmd p q).pumpFrom p (firstEng q.slot) 32
        if firstEng q.slot = .copy then t.noteHold p else t) := by
  unfold State.startsAs at h
  unfold State.engineRow
  generalize hf : s.fetchFor p eng op = r at h ⊢
  cases r with
  | stop => simp at h
  | slot b u' =>
    have hs := State.fetchFor_slot hf
    simp only at h ⊢
    split at h
    · rename_i hc
      simp only [Option.some.injEq, Prod.mk.injEq] at h
      obtain ⟨rfl, rfl⟩ := h
      simp only [Bool.and_eq_true, List.all_eq_true] at hc
      refine ⟨hs.1, hs.2, rfl, ?_⟩
      have hn : ((enginesOf b).any fun e => decide (16 ≤ ((u'.core p).queue e).length)) = false := by
        rw [List.any_eq_false]
        intro e hm
        have := hc.1.1 e hm
        simp only [List.isEmpty_iff] at this
        simp [this]
      rw [hn]
      simp only [Bool.false_eq_true, if_false]
      have ht : ((u'.modCore p fun x => (enginesOf b).foldl (fun y e => y.setQueue e (y.queue e ++
          [(⟨b, (u'.core p).seq.pos, (u'.core p).seq.seqno, (u'.core p).seq.lastStep, f⟩ : QCmd)])) x).countDispatch p).goTo p
          ((u'.core p).seq.pos + 32) = u'.queued p b f := rfl
      rw [ht]
      simp only [Core.cmdOf] at hc he ⊢
      generalize u'.queued p b f = t at hc ⊢
      split
      · rename_i hes
        exact absurd hes he
      · rename_i e r hes
        have hfe : firstEng b = e := by simp only [firstEng, hes, List.headD_cons]
        simp only [hfe]
        have hh : (t.core p).atHeads ⟨b, (u'.core p).seq.pos, (u'.core p).seq.seqno, (u'.core p).seq.lastStep, f⟩ = true := by
          have := hc.1.2
          simp only [State.mayStart, Bool.and_eq_true] at this
          exact this.1.1.2
        simp only [Core.atHeads, hes, List.all_cons, Bool.and_eq_true, beq_iff_eq] at hh
        have hq := hh.1
        unfold State.pump
        rw [State.pumpFrom]
        have hg : ∃ l, engGroup e = e :: l := by cases e <;> exact ⟨_, rfl⟩
        obtain ⟨l, hl⟩ := hg
        simp only [hl, List.filterMap_cons, hq, List.find?_cons, hc.1.2]
        rw [State.startSound_sound (s := t.modCore p _) hc.2]
    · simp at h

end Sys2Proof.Machine
end

