-- ==== Sys2Proof/Tests/Slice0.lean ====
section
/-! SUPPORT. Tests of single steps and formulas against the spec's own figures, ill-formed commands, and for every
statement with hypotheses a state that meets them. -/

namespace Sys2Proof.Tests

-- The kernel's evaluations run one after the other: side by side they need more memory than a check has.
set_option Elab.async false

open Sys2Proof Sys2Proof.Machine

/-! ### Ill-formed commands: a unit number one past the last (R8, R10) -/

theorem test_wf_ctx : (Instr.ctxStart 7).wellFormed = true ∧ (Instr.ctxStart 8).wellFormed = false := by decide
theorem test_wf_core : (Instr.nop 191).wellFormed = true ∧ (Instr.nop 192).wellFormed = false := by decide
theorem test_wf_port : (Instr.portReset ⟨1, true⟩).wellFormed = true ∧ (Instr.portReset ⟨2, true⟩).wellFormed = false := by
  decide
theorem test_wf_channel : (Instr.scrubRead 255).wellFormed = true ∧ (Instr.scrubRead 256).wellFormed = false := by decide
theorem test_wf_link : (Instr.replayTimeout 39).wellFormed = true ∧ (Instr.replayTimeout 40).wellFormed = false := by decide
theorem test_wf_lane : (Instr.laneDown 0 1).wellFormed = true ∧ (Instr.laneDown 0 2).wellFormed = false := by decide
theorem test_wf_arrival : (Instr.packetForward (some 40) ⟨0, 0, 0, 0, 0, 0, 0, 0, 0, 0, 0, 0, 0, 0, []⟩).wellFormed = false := by
  decide
theorem test_wf_cluster : (Instr.droopEnd 15).wellFormed = true ∧ (Instr.droopEnd 16).wellFormed = false := by decide
theorem test_wf_buffer : (Instr.elSharedUe (.router 16) []).wellFormed = false ∧
    (Instr.elSharedUe .dieHub []).wellFormed = true := by decide
theorem test_wf_monitor : (Instr.monitorSample 15 0).wellFormed = true ∧ (Instr.monitorSample 16 0).wellFormed = false := by
  decide
theorem test_wf_slot : (Instr.kaTimeout 31).wellFormed = true ∧ (Instr.kaTimeout 32).wellFormed = false := by decide
theorem test_wf_table : (Instr.tableRebuild 3 0).wellFormed = false ∧ (Instr.tableRebuild 0 16383).wellFormed = true ∧
    (Instr.tableRebuild 0 16384).wellFormed = false ∧ (Instr.tableRebuild 2 257).wellFormed = false := by decide
theorem test_wf_stack : (Instr.pwHbmHot 7 0).wellFormed = true ∧ (Instr.pwHbmHot 8 0).wellFormed = false := by decide
theorem test_wf_override : (Instr.tpOvrWrite 0 7 0).wellFormed = true ∧ (Instr.tpOvrWrite 0 8 0).wellFormed = false := by
  decide
theorem test_wf_blade : (Instr.mhInputLow 0).wellFormed = false ∧ (Instr.mhInputHigh 2).wellFormed = true ∧
    (Instr.mhInputHigh 3).wellFormed = false := by decide
theorem test_wf_connector : (Instr.mhCableRemoved 0).wellFormed = false ∧ (Instr.mhCableRemoved 4).wellFormed = true ∧
    (Instr.mhCableRemoved 5).wellFormed = false := by decide
theorem test_wf_vector : (Instr.irqHoldoffExpiry 0 0).wellFormed = false ∧ (Instr.irqHoldoffExpiry 0 9).wellFormed = true ∧
    (Instr.irqHoldoffExpiry 0 10).wellFormed = false := by decide
theorem test_wf_offset : (Instr.registerWrite 0 0x3FFFFC 0).wellFormed = true ∧
    (Instr.registerWrite 0 0x400000 0).wellFormed = false ∧ (Instr.registerWrite 0 2 0).wellFormed = false := by decide
theorem test_wf_regulator : (Instr.pwRegFault 0xFF).wellFormed = true ∧ (Instr.pwRegFault 16).wellFormed = false := by decide
theorem test_wf_kernels : (Instr.knownAnswerKernelsDone ⟨[383], [], [255], []⟩).wellFormed = true ∧
    (Instr.knownAnswerKernelsDone ⟨[384], [], [], []⟩).wellFormed = false ∧
    (Instr.knownAnswerKernelsDone ⟨[], [192], [], []⟩).wellFormed = false ∧
    (Instr.knownAnswerKernelsDone ⟨[], [], [], [128]⟩).wellFormed = false := by decide

/-- The table gives no row any bits. -/
theorem test_no_row_has_bits : decodeTableWord 32 0 = none ∧ (State.reset.withFetchWord 32 5).pending = [] := by decide

/-! ### Codes (R7 and the cause tables) -/

theorem test_code_log_ovf : codeAt Code.elLogOvf 9 = 0x11209001 := by decide
theorem test_code_hbm_ce : codeAt Code.hbmCe 7 = 0x10907001 := by decide
theorem test_code_therm_trip : codeAt Code.pwThermTrip 9 = 0x41409003 := by decide

/-! ### Small states -/

/-- Bytes 0x000–0x027 of a configuration record: position 0, 1 group, limit 1,900 W, both ports administrative and
secure. -/
def smallRecord : List Byte := zeros 0x18 ++ leBytes 2 0 ++ leBytes 2 1 ++ leBytes 2 1900 ++ zeros 6 ++ [0x0F, 0, 0, 0]

/-- The module at READY with nothing on it; chips 0 and 1 are active, 2 is a stake, 5 a pool node. -/
def ready : State := { State.reset with
  boot := { Boot.reset with stage := stageReady, startDue := false, record := smallRecord }
  pw := { Power.reset with clustersOn := true }
  fab := { Fab.reset with chipTable := [(0, chipWord 1 0 0 0), (1, chipWord 1 0 1 0), (2, chipWord 2 0 2 0),
    (5, chipWord 4 0 0 3)] } }

/-- One core, one region of 64 MiB at 0. -/
def ctxIn (st : CtxState) : Ctx := { Ctx.reset with
  st := st, cores := [0], desc := { CtxDesc.reset with coreCount := 1 }
  regions := [(0, some ⟨0, 2 ^ 26, 2, 0⟩)] }

/-- Context 0 holds granule 0 and core 0. -/
def withCtx (x : Ctx) : State :=
  let s := ready.setCtx 0 x
  { s with granules := [(0, Gran.toWord ⟨true, 2, 0, false, 0, 0, 0, 0⟩)], granOwner := [(0, some 0)] }

def cmd (op ctx : Nat) (payload : List Byte) : HostCmd :=
  { port := 0, opcode := op, ctxId := ctx, irq := false, tag := 0, payload := payload }

/-- A host command for context 0 in this state waits in SCH's order. -/
def asked (x : Ctx) (op : Nat) (payload : List Byte) : State := { withCtx x with sch := [cmd op 0 payload] }

/-- A module command waits. -/
def askedModule (op : Nat) (payload : List Byte) : State := { ready with sch := [cmd op 0xFF payload] }

/-- Context 0 runs on core 0, whose stream of 8 slots stands at 0 in its store and begins with these bytes. -/
def onCoreWith (x : Ctx) (q : Seq) (bytes : List Byte) : State :=
  let t := (withCtx x).setCore 0 { Core.reset with seq := q }
  { t with store := { Memory.reset with bytes := Tbl.setRun 0 [] 0 bytes } }

def seq8 : Seq := { Seq.reset with running := true, length := 8, inStore := true }
def onCore (bytes : List Byte) : State := onCoreWith (ctxIn .running) seq8 bytes

/-- A slot without wait and signal. -/
def slotOf (op eng : Nat) (rest : List Byte) : List Byte := leBytes 1 op ++ leBytes 1 eng ++ zeros 10 ++ rest

theorem some_of {α : Type} {o : Option α} (h : o.isSome = true) : ∃ x, o = some x := Option.isSome_iff_exists.mp h

theorem some_pair {α β : Type} {o : Option (α × β)} (h : o.isSome = true) : ∃ x y, o = some (x, y) := by
  obtain ⟨⟨x, y⟩, h⟩ := some_of h; exact ⟨x, y, h⟩

theorem some_then {α β : Type} {o : Option α} {f : α → Option β} (h : (o.bind f).isSome = true) :
    ∃ x y, o = some x ∧ f x = some y := by
  obtain ⟨y, h⟩ := some_of h
  obtain ⟨x, h1, h2⟩ := Option.bind_eq_some_iff.mp h
  exact ⟨x, y, h1, h2⟩

theorem pair_any {α β : Type} {o : Option (α × β)} {f : α → β → Prop} [∀ x y, Decidable (f x y)]
    (h : (o.any fun x => decide (f x.1 x.2)) = true) : ∃ x y, o = some (x, y) ∧ f x y := by
  cases o with
  | none => simp at h
  | some p => exact ⟨p.1, p.2, rfl, by simpa using h⟩

/-- A raw copy of 64 bytes within the store. -/
def copyBytes : List Byte :=
  [1, 1, 0xFF, 0xFF, 0, 0, 0, 0] ++ leBytes 8 0x1000 ++ leBytes 8 0x2000 ++ leBytes 4 64 ++ leBytes 4 1 ++ leBytes 8 64 ++
    leBytes 8 64 ++ zeros 80

/-! ### The spec's worked examples -/

/-- 02, the PHASE that waits for counter 17 to reach 24, marks phase 3 and adds 1 to counter 18. -/
theorem test_phase_slot :
    let b : List Byte := [0x08, 0x30, 0x11, 0, 0x18, 0, 0, 0, 0x12, 0, 0x01, 0, 0x03, 0, 0, 0] ++ zeros 16
    slotCheck b = none ∧ slotOp b = 8 ∧ slotEng b = 0 ∧ slotWaitEn b = true ∧ slotSigEn b = true ∧ slotWaitCtr b = 17 ∧
      slotWaitVal b = 24 ∧ slotSigCtr b = 18 ∧ slotSigInc b = 1 := by decide

/-- 09: counter 7 holds 1; two claims and two WAIT_GE watches, in this order and the other way round. -/
theorem test_watch_pass :
    let w (kind n : Nat) : Watch := ⟨kind, 7, 1, n, 0, 1⟩
    (passOn 7 1 [w 3 2, w 3 3, w 1 4, w 1 5]).fired = [w 3 2] ∧ (passOn 7 1 [w 3 2, w 3 3, w 1 4, w 1 5]).val = 0 ∧
    (passOn 7 1 [w 1 4, w 1 5, w 3 2, w 3 3]).fired = [w 1 4, w 1 5, w 3 2] := by decide

/-- 08, ROUTE of 8 keys into 4 buckets of capacity 2. -/
theorem test_route : routeOut 4 2 [2, 0, 2, 1, 2, 0xFFFFFFFF, 0, 3] =
    ([2, 1, 2, 1], [0, 2, 3, 5, 6], [1, 6, 3, 0, 2, 7, 0xFFFFFFFF, 0xFFFFFFFF],
      [3, 0, 4, 2, 0xFFFFFFFF, 0xFFFFFFFF, 1, 5], [6, 1, 1]) := by decide

/-- 10: granule 5, near-only for cluster 13 with chunk 32, places 0x1412_3456 in channel 215 at 0x81_2356: row 64, bank
36. -/
theorem test_hbm_place :
    let s := ready.setGran 5 (Gran.toWord ⟨true, 0, 13, false, 0, 0, 0, 32⟩)
    s.hbmPlace 0x14123456 = some (215, 0x812356) ∧ s.localOf 215 0x812356 = some 0x14123456 ∧ rowOf 0x812356 = 64 ∧
      bankOf 0x812356 = 36 := by decide

/-- 16, the encoded unit. -/
theorem test_encoded_unit : encodeUnit ([0x3A, 0x01, 0, 0, 0x80] ++ zeros 59) =
    [0x13, 0, 0, 0, 0, 0, 0, 0, 0x3A, 0x01, 0x80] := by decide

/-- 04: 65,025 × 2^240 + 61 as an a48 container, and narrowed to f32; NaN in both. -/
theorem test_a48 :
    (roundA48 (Num.add (.fin false 65025 240) (.fin false 61 0))).code = 0x4FEFC0200000 ∧
    (round32 (.fin false 65025 240)).code = 0x7F800000 ∧ (round32 (.fin false 65025 240)).overflow = true ∧
    (roundA48 .nan).code = 0x7FF800000000 ∧ (round32 .nan).code = 0x7FC00000 := by decide +kernel

/-- 04, the block dot product of bf16: 0x7F7F is 255 × 2^120. -/
theorem test_bf16_product :
    (roundA48 ((decodeCode 2 0x7F7F).mul (decodeCode 2 0x7F7F))).code = 0x4FEFC0200000 := by decide +kernel

def srcOf (l : List Num) : List Src := ((List.range 32).zip (l ++ List.replicate (32 - l.length) (.fin false 0 0))).map
  fun (i, v) => ⟨v, false, i, false⟩
def nearest (q thr : Nat) : BlkMode := ⟨true, q, thr, fun _ => .rne, .vector false⟩

/-- 03: 10, −2.5, 0.25 and 1 as an f4 block in AUTO mode; and with x5 = +∞, escalated. -/
theorem test_f4_block :
    let xs : List Num := [.fin false 10 0, .fin true 5 (-1), .fin false 1 (-2), .fin false 1 0]
    (encodeBlock 6 (nearest 0 0) (srcOf xs) 0).pay = [0xB7, 0x10] ++ zeros 14 ∧
    (encodeBlock 6 (nearest 0 0) (srcOf xs) 0).hdr = [0x83, 0x00] ∧
    (let o := encodeBlock 6 (nearest 0 0) (srcOf (xs ++ [.fin false 0 0, .inf false])) 0
     o.pay = [0x46, 0xBE, 0x31, 0x39, 0x00, 0x7C] ++ zeros 10 ∧ o.hdr = [0x83, 0x01] ∧ o.slot = some (0, zeros 16)) := by
  decide +kernel

/-- 03: the counter of element 1,000,003 of step 1,000 with tag 0x0000_0A31. -/
theorem test_sr_counter : srCounter (1000003 / 8) 1000 0x0A31 = (0x1E848, 0, 0x3E8, 0xA31) := by decide

/-- The codes of the spec's examples. -/
theorem test_codes_of_examples :
    codeAt Code.seqBadOpcode 0x57 = 0x30257001 ∧ codeAt Code.tsLsFloor 2 = 0x20602003 ∧
    codeAt Code.suUnderflow 0x84 = 0x30884002 ∧ codeAt Code.hbmUe 0xD7 = 0x209D7003 ∧
    codeAt Code.memPoisonStep 3 = 0x30C03001 ∧ codeAt Code.ckPoolTimeout 4 = 0x21104003 ∧
    codeAt Code.mhRefclkLost 0x31 = 0x21731007 := by decide +kernel

/-- 22: after five checkpoint fuses and without a journal the next index is 81,920. -/
theorem test_lms_index :
    let s : State := { ready with fuses := { ready.fuses with lmsCkpt := 5 }, boot := { ready.boot with lmsNext := 81920 } }
    s.useIndex.1 = some 81920 ∧ s.useIndex.2.fuses.lmsCkpt = 6 ∧ s.useIndex.2.boot.journal = 82176 := by decide

/-- R183: an ADD past 2^32 − 1 is not applied. -/
theorem test_add_past_the_end : ((onCore []).modCore 0 fun k => { k with counters := [(5, 0xFFFFFFFF#32)] }).addCtr 0 5 1 =
    ((onCore []).modCore 0 fun k => { k with counters := [(5, 0xFFFFFFFF#32)] }).suError 0 Code.suOverflow := rfl

/-! ### Witnesses: host commands -/

theorem witness_StepRunsTheFront :
    ({ ready with pending := [.portReset ⟨0, true⟩] } : State).pending = .portReset ⟨0, true⟩ :: [] := rfl

/-- The first cycle; those that end a 100 ns and a 1 µs period; and standby being entered. -/
theorem witness_IdleStepTicks : ready.pending = [] ∧ ready.board.powered = true ∧ ready.board.resetLow = false ∧
    ready.boot.stage ≠ 0 ∧ ready.err.suspects = none ∧ (∀ c, c < 8 → (ready.ctx c).handoverDue = false) ∧
    ready.snapWaiting = [] ∧ ready.pw.standby ≠ 1 ∧ (ready.suTime + 1) % 2 ^ 64 % 100 ≠ 0 ∧ (99 + 1) % 2 ^ 64 % 1000 ≠ 0 ∧
    (999 + 1) % 2 ^ 64 % 1000 = 0 ∧ (∀ cl, cl < 16 → (ready.cluster cl).rampTo = none) ∧
    ({ ready with pw := { ready.pw with standby := 1 } } : State).pw.standby = 1 ∧
    Tbl.wf Cluster.reset ready.pw.clusters = true ∧ ready.suTime % 100 = 0 ∧ ready.pw.clustersOn = true ∧
    ready.losePower.pending = [] ∧ ready.losePower.board.powered = false := by decide

theorem witness_StepKeepsCanonicalForm : ready.canonical = true ∧ ∃ t, step ready = .next t := ⟨by decide, _, rfl⟩

theorem witness_FusesNeverGoBack : ∃ t, exec .powerLoss ready = .next t := ⟨_, rfl⟩

theorem witness_CommandsLeaveTheQueue : ∃ t, exec .powerLoss { ready with pending := [.powerOn true] } = .next t := ⟨_, rfl⟩

/-- 63 posts wait; then 64; and a block for RESET_WARM is fetched. -/
theorem witness_HostCommandsAreQueued :
    (let s := ready.setPort 1 { Port.reset with queue := List.replicate 63 0 }
     s.acceptsWrites = true ∧ (s.port 1).queue.length < 64) ∧
    (let s := ready.setPort 1 { Port.reset with queue := List.replicate 64 0 }
     s.acceptsWrites = true ∧ 64 ≤ (s.port 1).queue.length) ∧
    (let s := ready.setPort 1 { Port.reset with queue := [64#64], selected := 1 }
     s.schRuns = true ∧ (s.port 1).queue = [64#64] ∧ (s.port 1).full = false ∧ (s.port 1).waiting = [] ∧
       (64#64).toNat % 64 = 0 ∧
       (s.setPort 1 { s.port 1 with queue := [] }).headerStatus 1 (leBytes 2 0x60 ++ leBytes 1 0xFF ++ zeros 61) = none) := by
  decide

/-- A descriptor for one core and 64 MiB in slot 0. -/
def createPay : List Byte := [0, 0, 0, 0] ++ leBytes 2 1 ++ zeros 18 ++ leBytes 8 (2 ^ 26) ++ zeros 32

theorem witness_CreateGivesTheSlot : ∃ g t,
    (askedModule 1 createPay).canonical = true ∧ (askedModule 1 createPay).takesModule 1 (cmd 1 0xFF createPay) [] ∧
    (askedModule 1 createPay).boot.stagingOwner = none ∧ (askedModule 1 createPay).boot.updState = 0 ∧ ctxDescOk createPay 0 = true ∧
    (fieldAt createPay 1 1 = 1 → (askedModule 1 createPay).portSecure 0 = true) ∧
    State.grant { askedModule 1 createPay with sch := [] } createPay = some g ∧
    State.build { askedModule 1 createPay with sch := [] } createPay 0 g = some t := by
  obtain ⟨g, t, h1, h2⟩ := some_then (o := State.grant { askedModule 1 createPay with sch := [] } createPay)
    (f := fun g => State.build { askedModule 1 createPay with sch := [] } createPay 0 g) (by decide +kernel)
  exact ⟨g, t, by decide, by decide, by decide, by decide, by decide, by decide, h1, h2⟩

/-- The stream table of zeros at 0 has one empty stream. -/
theorem witness_StartRunsTheStreams : ∃ es,
    (asked (ctxIn .created) 2 (zeros 8)).takes 0 2 (cmd 2 0 (zeros 8)) [] ∧
    ((asked (ctxIn .created) 2 (zeros 8)).ctx 0).st = .created ∧
    (State.readTable { asked (ctxIn .created) 2 (zeros 8) with sch := [] } 0 0).1 = true ∧
    ((State.readTable { asked (ctxIn .created) 2 (zeros 8) with sch := [] } 0 0).2.touchPair 0).streamTableAt 0 0 = some es ∧
    flag ((asked (ctxIn .created) 2 (zeros 8)).ctx 0).desc.flags 0 = false ∧
    ((asked (ctxIn .created) 2 (zeros 8)).ctx 0).regs.lsRangeOk = true ∧
    ((asked (ctxIn .created) 2 (zeros 8)).ctx 0).stEn = false ∧
    ((State.readTable { asked (ctxIn .created) 2 (zeros 8) with sch := [] } 0 0).2.touchPair 0).pairOk 0 = true := by
  obtain ⟨es, h⟩ := some_of (o := ((State.readTable { asked (ctxIn .created) 2 (zeros 8) with sch := [] } 0 0).2.touchPair
    0).streamTableAt 0 0) (by decide +kernel)
  exact ⟨es, by decide, by decide, by decide +kernel, h, by decide, by decide, by decide, by decide +kernel⟩

def suspendable (st : CtxState) : Ctx := { ctxIn st with desc := { CtxDesc.reset with coreCount := 1, flags := 4 } }

theorem witness_SuspendAndResume :
    ((asked (suspendable .running) 3 []).takes 0 3 (cmd 3 0 []) [] ∧
      flag ((asked (suspendable .running) 3 []).ctx 0).desc.flags 2 = true ∧
      ((asked (suspendable .running) 3 []).ctx 0).st = .running ∧
      flag ((asked (suspendable .running) 3 []).ctx 0).desc.flags 0 = false) ∧
    ((asked (suspendable .paused) 3 []).takes 0 3 (cmd 3 0 []) [] ∧
      flag ((asked (suspendable .paused) 3 []).ctx 0).desc.flags 2 = true ∧
      ((asked (suspendable .paused) 3 []).ctx 0).st = .paused) ∧
    (let s := withCtx { suspendable .paused with busy := some (cmd 3 0 []) }
     (s.ctx 0).busy = some (cmd 3 0 []) ∧ (cmd 3 0 []).opcode = 3 ∧ (s.ctx 0).st ≠ .faulted ∧ s.ctxSettled 0 = true) ∧
    ((asked (suspendable .paused) 4 []).takes 0 4 (cmd 4 0 []) [] ∧
      ((asked (suspendable .paused) 4 []).ctx 0).st = .paused ∧
      ((asked (suspendable .paused) 4 []).ctx 0).regs.lsRangeOk = true) := by
  decide

/-- A suspended context of no cores resumes: its records are the empty list. -/
theorem witness_ResumeFromSuspended :
    let x : Ctx := { Ctx.reset with st := .suspended, resumeTo := .paused }
    let s := asked x 4 []
    s.takes 0 4 (cmd 4 0 []) [] ∧ (s.ctx 0).st = .suspended ∧ (s.ctx 0).regs.lsRangeOk = true ∧
    State.copying { s with sch := [] } 0 = none ∧
    s.chooseCores (s.ctx 0).desc.placement (s.ctx 0).desc.coreCount (s.ctx 0).desc.coreMask = some [] ∧
    (∀ l, l < (s.ctx 0).desc.coreCount → State.recordOk { s with sch := [] } 0 l = true) ∧
    ((State.applyHeld (State.modCtx { s with sch := [] } 0 fun y => { y with cores := [], savedCounts := [] }) 0).ctx 0).st ≠
      .faulted := by
  refine ⟨by decide, by decide, by decide, by decide, by decide +kernel, ?_, by decide⟩
  intro l h
  have h0 : ((asked { Ctx.reset with st := .suspended, resumeTo := .paused } 4 []).ctx 0).desc.coreCount = 0 := by decide
  exact absurd (h0 ▸ h) (Nat.not_lt_zero l)

/-- Granule 0 of a suspended context has a part in channel 255, which is being mapped out. -/
theorem witness_ResumeWaits :
    let s0 := (asked (suspendable .suspended) 4 []).modChan 255 fun x => { x with pending := true }
    let s : State := { s0 with mapouts := [255] }
    s.takes 0 4 (cmd 4 0 []) [] ∧ (s.ctx 0).st = .suspended ∧ (s.ctx 0).regs.lsRangeOk = true ∧
      State.copying { s with sch := [] } 0 = some 255 := by decide +kernel

theorem witness_DestroyFreesTheSlot :
    ((asked (ctxIn .running) 5 []).canonical = true ∧ (asked (ctxIn .running) 5 []).takes 0 5 (cmd 5 0 []) [] ∧
      ((asked (ctxIn .running) 5 []).ctx 0).zeroing = false) ∧
    (let s := withCtx { ctxIn .running with zeroing := true, busy := some (cmd 5 0 []) }
     s.canonical = true ∧ (s.ctx 0).zeroing = true ∧ (s.ctx 0).busy = some (cmd 5 0 []) ∧
       s.err.restarting.contains .sec = false ∧
       ({ s with err := { s.err with restarting := [.sec] } } : State).err.restarting.contains .sec = true) := by
  decide

def mapPay : List Byte := [1, 2, 0, 0, 0, 0, 0, 0] ++ leBytes 8 (2 ^ 26) ++ leBytes 8 (2 ^ 26) ++ zeros 8

theorem witness_RegionMap : ∃ t g,
    (asked (ctxIn .created) 0x10 mapPay).takes 0 0x10 (cmd 0x10 0 mapPay) [] ∧
    ((asked (ctxIn .created) 0x10 mapPay).ctx 0).setUp = true ∧
    ((asked (ctxIn .created) 0x10 mapPay).ctx 0).mapOk mapPay = true ∧
    fieldAt mapPay 8 8 / 2 ^ 26 ≤ (asked (ctxIn .created) 0x10 mapPay).freeGranules.length ∧
    (asked (ctxIn .created) 0x10 mapPay).chooseRun (fieldAt mapPay 0x10 8) (fieldAt mapPay 8 8 / 2 ^ 26) = some g ∧
    State.mapGranules { asked (ctxIn .created) 0x10 mapPay with sch := [] } 0 (fieldAt mapPay 1 1) (fieldAt mapPay 2 1)
      ((List.range (fieldAt mapPay 8 8 / 2 ^ 26)).map (· + g)) = some t := by
  obtain ⟨g, t, h1, h2⟩ := some_then
    (o := (asked (ctxIn .created) 0x10 mapPay).chooseRun (fieldAt mapPay 0x10 8) (fieldAt mapPay 8 8 / 2 ^ 26))
    (f := fun g => State.mapGranules { asked (ctxIn .created) 0x10 mapPay with sch := [] } 0 (fieldAt mapPay 1 1)
      (fieldAt mapPay 2 1) ((List.range (fieldAt mapPay 8 8 / 2 ^ 26)).map (· + g))) (by decide +kernel)
  exact ⟨t, g, by decide, by decide, by decide, by decide +kernel, h1, h2⟩

/-- Region 15 is unmapped; a bitmap of one unit is set; windows 0 and 63. -/
theorem witness_RegionsUnitsAndWindows :
    (let x : Ctx := { ctxIn .created with regions := [(15, some ⟨2 ^ 26, 2 ^ 26, 2, 0⟩)] }
     let s := asked x 0x11 (15 :: zeros 7)
     s.takes 0 0x11 (cmd 0x11 0 (15 :: zeros 7)) [] ∧ (s.ctx 0).setUp = true ∧ allZero (slice (15 :: zeros 7) 1 7) = true ∧
       (s.ctx 0).region 15 = some ⟨2 ^ 26, 2 ^ 26, 2, 0⟩) ∧
    (let x : Ctx := { ctxIn .created with lid := [(0, false)] }
     let s := asked x 0x12 (1 :: zeros 15)
     s.takes 0 0x12 (cmd 0x12 0 (1 :: zeros 15)) [] ∧ (s.ctx 0).st = .created ∧
       fieldAt (1 :: zeros 15) 0 16 < 2 ^ (s.ctx 0).lid.length) ∧
    (let pay := [0, 3, 0, 0, 0, 0, 0, 0] ++ leBytes 8 4096 ++ leBytes 8 4096
     let s := asked (ctxIn .created) 0x20 pay
     s.takes 0 0x20 (cmd 0x20 0 pay) [] ∧ (s.ctx 0).st ≠ .faulted ∧ (s.ctx 0).window (fieldAt pay 0 1) = none ∧
       fieldAt pay 1 1 < 4 ∧ allZero (slice pay 2 6) = true ∧ fieldAt pay 8 8 % 4096 = 0 ∧ fieldAt pay 0x10 8 = 4096) ∧
    (let x : Ctx := { ctxIn .created with windows := [(63, some ⟨0, 4096, true, true, false⟩)] }
     let s := asked x 0x21 (63 :: zeros 7)
     s.takes 0 0x21 (cmd 0x21 0 (63 :: zeros 7)) [] ∧ (s.ctx 0).st ≠ .faulted ∧ allZero (slice (63 :: zeros 7) 1 7) = true ∧
       (s.ctx 0).window 63 = some ⟨0, 4096, true, true, false⟩) := by
  refine ⟨?_, ?_, ?_, ?_⟩ <;> decide

theorem witness_Diag :
    let x : Ctx := { ctxIn .paused with
      regs := { CtxRegs.reset with stCfg := 0x3001 }, step := { StepSt.reset with window := [7] } }
    let s := asked x 0x40 (leBytes 8 7)
    s.takes 0 0x40 (cmd 0x40 0 (leBytes 8 7)) [] ∧ (s.ctx 0).st = .paused ∧ (s.ctx 0).stEn = true ∧ s.coordinator 0 = true ∧
      (s.ctx 0).step.window.contains (fieldAt (leBytes 8 7) 0 8) = true := by
  decide

def held6 : State := asked { ctxIn .paused with recov := { Recov.reset with rstate := 6 } } 0x41 (zeros 40)

theorem witness_Replan : ∃ es,
    held6.takes 0 0x41 (cmd 0x41 0 (zeros 40)) [] ∧ (held6.ctx 0).st = .paused ∧ (held6.ctx 0).recov.rstate = 6 ∧
    allZero (slice (zeros 40) 0x24 4) = true ∧
    (State.readTable { held6 with sch := [] } 0 0).1 = true ∧
    (State.readTable { held6 with sch := [] } 0 0).2.streamTableAt 0 0 = some es := by
  obtain ⟨es, h⟩ := some_of (o := (State.readTable { held6 with sch := [] } 0 0).2.streamTableAt 0 0) (by decide +kernel)
  exact ⟨es, by decide, by decide, by decide, by decide, by decide +kernel, h⟩

/-- A stake at the last position, on a chip that the table does not have. -/
theorem witness_StakeAdd :
    let pay := leBytes 2 8223 ++ leBytes 2 8223 ++ zeros 4
    let s := asked { ctxIn .running with desc := { CtxDesc.reset with flags := 1 } } 0x42 pay
    s.takes 0 0x42 (cmd 0x42 0 pay) [] ∧ flag (s.ctx 0).desc.flags 0 = true ∧ allZero (slice pay 4 4) = true ∧
      fieldAt pay 0 2 < 8224 ∧ fieldAt pay 2 2 < 8224 ∧ chipKind (s.chipEntry 8223) = 0 ∧ s.chipAt 8223 = none := by
  decide

def ckPay : List Byte :=
  [0, 1, 5, 0] ++ zeros 4 ++ leBytes 8 1 ++ leBytes 8 0 ++ leBytes 8 (2 ^ 30) ++ zeros 32

theorem witness_Ckpt :
    let x := ctxIn .running
    let s := asked x 0x30 ckPay
    s.takes 0 0x30 (cmd 0x30 0 ckPay) [] ∧ (s.ctx 0).ck.state = 0 ∧ ckAccepts 1 .running = true ∧ s.ckDescOk 0 ckPay = true ∧
      tEntries (State.read { s with sch := [] } (.mem 0) 0 0).1.bytes = [] := by
  decide

/-- STATE, and a FULL one of a context that does not run. -/
theorem witness_CkptState :
    (let s := asked (ctxIn .suspended) 0x30 ([0, 3] ++ ckPay.drop 2)
     s.takes 0 0x30 (cmd 0x30 0 ([0, 3] ++ ckPay.drop 2)) [] ∧ (s.ctx 0).ck.state = 0 ∧ ckAccepts 3 (s.ctx 0).st = true ∧
       s.ckDescOk 0 ([0, 3] ++ ckPay.drop 2) = true) ∧
    (let s := asked (ctxIn .finished) 0x30 ckPay
     (s.ctx 0).ck.state = 0 ∧ ckAccepts 1 (s.ctx 0).st = true ∧ s.ckDescOk 0 ckPay = true) := by decide

def rsPay : List Byte := [0, 1, 1, 0] ++ zeros 60

/-- One source, at chip 0. -/
theorem witness_Restore :
    let s := asked (ctxIn .created) 0x31 rsPay
    s.takes 0 0x31 (cmd 0x31 0 rsPay) [] ∧ (s.ctx 0).st = .created ∧ (s.ctx 0).ck.state = 0 ∧
      State.restoreDescOk { s with sch := [] } 0 rsPay = true ∧
      (State.read { s with sch := [] } (.mem 0) 0 16).1.bytes = zeros 16 ∧ s.routed 0 = true ∧
      (State.read (State.read { s with sch := [] } (.mem 0) 0 16).2 (.mem 0) 0 0).1.bytes = [] := by
  decide

theorem witness_ModuleCommandsRun :
    ((askedModule 0x50 (zeros 8)).takesModule 0x50 (cmd 0x50 0xFF (zeros 8)) [] ∧
      ((askedModule 0x50 (zeros 8)).chan 0).mappedOut = false ∧ ((askedModule 0x50 (zeros 8)).chan 0).pending = false) ∧
    ((askedModule 0x51 (zeros 72)).takesModule 0x51 (cmd 0x51 0xFF (zeros 72)) [] ∧ (askedModule 0x51 []).kakCmd = none ∧
      (askedModule 0x51 []).kakTaken (zeros 72) = false) ∧
    (askedModule 0x60 []).takesModule 0x60 (cmd 0x60 0xFF []) [] ∧
    (let s : State := { ready with kakCmd := some (cmd 0x51 0xFF (zeros 72)) }
     kakInRange ⟨[383], [], [], []⟩ = true ∧ s.err.restarting.contains .hlt = false ∧
       s.kakCmd = some (cmd 0x51 0xFF (zeros 72)) ∧ kakAny ⟨[383], [], [], []⟩ = true) := by
  decide

theorem witness_MapoutGranules :
    36 * ((askedModule 0x50 (zeros 8)).pendingChans.length + 1) ≤ (askedModule 0x50 (zeros 8)).freeGranules.length := by
  decide +kernel

/-! ### Witnesses: the sequencer -/

theorem witness_NopPhaseDrain :
    (∃ b u, (onCore (slotOf 0 0 [])).seqSlot 0 0 = some (b, u) ∧ u.canonical = true ∧ slotSigEn b = false ∧
      (u.core 0).seq.running = true ∧ (u.core 0).seq.inStream ((u.core 0).seq.pos + 32) = true) ∧
    (∃ b u, (onCore (slotOf 8 0 [3])).seqSlot 0 8 = some (b, u) ∧ True) ∧
    (∃ b u, (onCore (slotOf 9 0 [])).seqSlot 0 9 = some (b, u) ∧ True) :=
  ⟨pair_any (by decide), pair_any (by decide), pair_any (by decide)⟩

/-- Jump and call to the last slot of the stream; a seventh return address is pushed. -/
theorem witness_JumpCallReturn :
    (∃ b u, (onCore (slotOf 2 0 [224])).seqSlot 0 2 = some (b, u) ∧ (u.core 0).seq.inStream (slotLong b) = true) ∧
    (∃ b u, (onCoreWith (ctxIn .running) { seq8 with calls := List.replicate 7 0 } (slotOf 3 0 [224])).seqSlot 0 3 = some (b, u) ∧
      (u.core 0).seq.calls.length < 8 ∧ (u.core 0).seq.inStream (slotLong b) = true) ∧
    (∃ b u, (onCoreWith (ctxIn .running) { seq8 with calls := [224] } (slotOf 4 0 [])).seqSlot 0 4 = some (b, u) ∧
      (u.core 0).seq.calls = [224] ∧ (u.core 0).seq.inStream 224 = true) :=
  ⟨pair_any (by decide), pair_any (by decide), pair_any (by decide)⟩

/-- A loop of one pass, a loop of none past its ENDLOOP in the next slot, an ENDLOOP that goes back and one that does
not. -/
theorem witness_Loops :
    (∃ b u, (onCoreWith (ctxIn .running) { seq8 with loops := List.replicate 3 (1, 0) } (slotOf 5 0 [1])).seqSlot 0 5 = some (b, u) ∧
      slotAddr b ≠ 0 ∧ (u.core 0).seq.loops.length < 4) ∧
    (∃ b u, (onCore (slotOf 5 0 [] ++ zeros 20 ++ slotOf 6 0 [])).seqSlot 0 5 = some (b, u) ∧ slotAddr b = 0 ∧
      (u.afterLoop 0 (u.core 0).seq.length ((u.core 0).seq.pos + 32) 0).1 = .found 64) ∧
    (∃ b u, (onCoreWith (ctxIn .running) { seq8 with loops := [(2, 0)] } (slotOf 6 0 [])).seqSlot 0 6 = some (b, u) ∧
      (u.core 0).seq.loops = [(2, 0)]) ∧
    (∃ b u, (onCoreWith (ctxIn .running) { seq8 with loops := [(1, 0)] } (slotOf 6 0 [])).seqSlot 0 6 = some (b, u) ∧
      (u.core 0).seq.loops = [(1, 0)]) :=
  ⟨pair_any (by decide), pair_any (by decide), pair_any (by decide), pair_any (by decide)⟩

theorem witness_EndStepNotify :
    (∃ b u, (onCore (slotOf 1 0 [])).seqSlot 0 1 = some (b, u) ∧ u.canonical = true ∧ u.poisonEnd 0 = false ∧
      slotSigEn b = false ∧ u.coreOwner 0 = some (0, 0) ∧ (u.core 0).seq.lastStep = none ∧ (u.core 0).seq.running = true) ∧
    (∃ b u, (onCoreWith (ctxIn .running) { seq8 with lastStep := some 3 } (slotOf 1 0 [])).seqSlot 0 1 = some (b, u) ∧
      u.canonical = true ∧ u.poisonEnd 0 = false ∧ slotSigEn b = false ∧ u.coreOwner 0 = some (0, 0) ∧
      (u.core 0).seq.lastStep = some 3 ∧ (u.core 0).seq.running = true) ∧
    (∃ b u, (onCore (slotOf 7 0 [0])).seqSlot 0 7 = some (b, u) ∧ u.stepOrderOk (u.ctxOf 0) 0 (slotLong b) = true) ∧
    (∃ b u, (onCore (slotOf 10 0 [0xA5])).seqSlot 0 10 = some (b, u) ∧ u.poisonEnd 0 = false ∧
      (u.port (u.ctx (u.ctxOf 0)).owner).full = false ∧ (u.port (u.ctx (u.ctxOf 0)).owner).waiting = []) :=
  ⟨pair_any (by decide), pair_any (by decide), pair_any (by decide), pair_any (by decide)⟩

/-! ### Witnesses: the engines -/

/-- A slot for an engine at 0 whose descriptor of these bytes stands at 0x800. -/
def engine (op eng : Nat) (more desc : List Byte) : State :=
  let s := onCore (slotOf op eng (leBytes 4 0x800 ++ more))
  { s with store := { s.store with bytes := Tbl.setRun 0 s.store.bytes 0x800 desc } }

/-- A product of two f16 operands of one row, one column and 32 steps into bank 0, without an epilogue. -/
def matBytes : List Byte :=
  [1, 1, 1, 3, 1, 0, 1, 0, 32, 0, 0, 0] ++ zeros 4 ++ leBytes 4 0x1000 ++ leBytes 4 64 ++ zeros 8 ++
    leBytes 4 0x2000 ++ leBytes 4 64 ++ zeros 8 ++ leBytes 4 0x3000 ++ leBytes 4 32 ++ zeros 8 ++
    leBytes 4 0x3F800000 ++ leBytes 4 0x3F800000 ++ leBytes 4 0x3F800000 ++ zeros 28 ++ leBytes 8 1 ++ leBytes 4 1 ++ zeros 12

theorem witness_Matmul (e : ArrFault) (he : e = ⟨false, []⟩) :
    ∃ q u, (engine 1 1 [] matBytes).startsAs 0 1 1 (arrFaults .warp e e) = some (q, u) ∧
      (u.readDesc 0 q (slotAddr q.slot) 128 Code.arBound).1 = some matBytes ∧
      (Mat.parse matBytes).check true ((u.readDesc 0 q (slotAddr q.slot) 128 Code.arBound).2.numCtx 0).v20 = none ∧
      (Mat.parse matBytes).check false ((u.readDesc 0 q (slotAddr q.slot) 128 Code.arBound).2.numCtx 0).v20 = none := by
  subst he; exact pair_any (by decide +kernel)

theorem witness_Epilogue :
    ∃ q u, (engine 2 1 [] matBytes).startsAs 0 1 2 Faults.none = some (q, u) ∧
      (u.readDesc 0 q (slotAddr q.slot) 128 Code.arBound).1 = some matBytes ∧
      (Mat.parse matBytes).check false ((u.readDesc 0 q (slotAddr q.slot) 128 Code.arBound).2.numCtx 0).v20 = none :=
  pair_any (by decide +kernel)

/-- The bank lies at the end of the store: 0x3E0000 + 131,072 = 2^22. -/
theorem witness_AccLoad :
    ∃ q u, (onCore (slotOf 4 1 (leBytes 4 0x3E0000 ++ [1]))).startsAs 0 1 4 Faults.none = some (q, u) ∧
      slotAddr q.slot + 131072 ≤ 2 ^ 22 := pair_any (by decide +kernel)

theorem witness_AccStore :
    ∃ q u, (onCore (slotOf 3 1 (leBytes 4 0x3E0000 ++ [1]))).startsAs 0 1 3 Faults.none = some (q, u) ∧
      slotAddr q.slot + 131072 ≤ 2 ^ 22 ∧ u.coreOwner 0 = some (0, 0) := pair_any (by decide +kernel)

theorem witness_MatmulPair :
    ∃ q u, (engine 1 3 (leBytes 4 0x800) matBytes).startsAs 0 3 1 ⟨⟨false, []⟩, ⟨false, []⟩, ⟨false, []⟩, ⟨false, []⟩⟩ =
        some (q, u) ∧
      (u.readDesc 0 q (slotAddr q.slot) 128 Code.arBound).1 = some matBytes ∧
      ((u.readDesc 0 q (slotAddr q.slot) 128 Code.arBound).2.readDesc 0 q (slotAddr2 q.slot) 128 Code.arBound).1 = some matBytes ∧
      (Mat.parse matBytes).check true false = none ∧ pairApart (Mat.parse matBytes) (Mat.parse matBytes) = true ∧
      (u.biasOf 0 (Mat.parse matBytes)).2.1 = false ∧
      ((u.biasOf 0 (Mat.parse matBytes)).2.2.biasOf 0 (Mat.parse matBytes)).2.1 = false := pair_any (by decide +kernel)

/-! A one-by-one product of 32 steps on zero operands: without faults; with a border that is wrong once; and with a first
execution whose sum a fault changed. -/

def oneEntry (e : ArrFault) : Exec :=
  execProduct (Mat.parse matBytes) false ((Mat.parse matBytes).ops
    (State.readStore ready 0 ((Mat.parse matBytes).aSpans ++ (Mat.parse matBytes).bSpans)).1) [] e

theorem witness_ArrayVerdicts : (Mat.parse matBytes).noop true = false ∧ (ready.biasOf 0 (Mat.parse matBytes)).2.1 = false ∧
    (oneEntry ⟨false, []⟩).mismatches = 0 ∧ (oneEntry ⟨true, []⟩).mismatches = 1 ∧
    (oneEntry ⟨true, []⟩).bank = (oneEntry ⟨false, []⟩).bank ∧
    (oneEntry ⟨false, [(0, 0, 0, 1, 0)]⟩).mismatches = 1 ∧
    (oneEntry ⟨false, [(0, 0, 0, 1, 0)]⟩).bank ≠ (oneEntry ⟨false, []⟩).bank := by decide +kernel

/-- A disagreement and two drains on the arrays of core 191, with both arrays working and with one; and executions that
agree, differ, or agree with none. -/
theorem witness_RecheckAndDrain :
    let q : QCmd := ⟨zeros 32, 0, 0, none, Faults.none⟩
    let rc (e1 e2 : Tbl (BitVec 48)) : Recheck := ⟨q, matBytes, [], e1, e2, []⟩
    let s (b : Bool) := ready.setCore 191 { Core.reset with
      warp := { Array.reset with recheck := some (rc [] []) }
      weft := { Array.reset with drains := [(true, q), (false, q)], quarantined := b } }
    (((s false).core 191).arr .warp).recheck = some (rc [] []) ∧
      (((s false).core 191).arr .weft).drains = (true, q) :: [(false, q)] ∧
      ((s false).core 191).third .warp ≠ ((s false).core 191).runner .warp ∧
      ((s true).core 191).third .warp = ((s true).core 191).runner .warp ∧
      (rc [] []).e1 = (rc [] []).e2 ∧ (oneEntry ⟨false, []⟩).bank = [] ∧ (rc [] [(0, 1)]).e1 ≠ (rc [] [(0, 1)]).e2 ∧
      (rc [(0, 1)] [(0, 2)]).e1 ≠ [] ∧ (rc [(0, 1)] [(0, 2)]).e2 ≠ [] := by decide +kernel

/-- ADD of two f32 vectors of one element each. -/
def elemBytes80 : List Byte :=
  [1, 0, 0, 0, 0, 0, 0, 0, 1, 0, 0, 0, 1, 0, 0, 0] ++ leBytes 4 0x1000 ++ leBytes 4 0x1010 ++ leBytes 4 0 ++ leBytes 4 0x1020 ++
    leBytes 4 4 ++ leBytes 4 4 ++ leBytes 4 0 ++ leBytes 4 4 ++ leBytes 4 0 ++ leBytes 4 0x3F800000 ++ zeros 24

theorem witness_Elem :
    ∃ q u, (engine 1 4 [] elemBytes80).startsAs 0 4 1 Faults.none = some (q, u) ∧
      (u.readDesc 0 q (slotAddr q.slot) 80 Code.veBound).1 = some elemBytes80 ∧
      (ElemD.parse elemBytes80).check ((u.readDesc 0 q (slotAddr q.slot) 80 Code.veBound).2.numCtx 0) = none ∧
      (ElemD.parse elemBytes80).count ≠ 0 ∧ (ElemD.parse elemBytes80).rows ≠ 0 ∧ (ElemD.parse elemBytes80).op ≠ 0x0B :=
  pair_any (by decide +kernel)

/-- REDUCE of one partial of one a48 element, with key 5, into f32. -/
def redBytes : List Byte :=
  [0, 0, 1, 0] ++ leBytes 4 1 ++ leBytes 4 0x1020 ++ leBytes 4 0 ++ leBytes 4 0x3F800000 ++ zeros 12

theorem witness_Reduce :
    ∃ q u, (engine 2 4 [] (redBytes ++ leBytes 4 0x1000 ++ leBytes 4 5)).startsAs 0 4 2 Faults.none = some (q, u) ∧
      (u.readDesc 0 q (slotAddr q.slot) 32 Code.veBound).1 = some redBytes ∧
      (RedD.parse redBytes).headOk (u.numCtx 0) = true ∧ (RedD.parse redBytes).entries ≠ 0 ∧ (RedD.parse redBytes).count ≠ 0 ∧
      (u.readDesc 0 q (slotAddr q.slot + 32) 8 Code.veBound).1 = some (leBytes 4 0x1000 ++ leBytes 4 5) ∧
      (RedD.parse redBytes).check (u.numCtx 0) [(0x1000, 5)] 8 = none := pair_any (by decide +kernel)

def one : List Byte := leBytes 4 0x3F800000

/-- SGD of one parameter. -/
def updBytes : List Byte :=
  [1, 0, 0xFF, 0] ++ leBytes 4 1 ++ leBytes 4 0x1000 ++ leBytes 4 0x1010 ++ leBytes 4 0 ++ leBytes 4 0x1020 ++ zeros 8 ++ one ++
    zeros 36 ++ one ++ zeros 52

theorem witness_Update :
    ∃ q u, (engine 3 4 [] updBytes).startsAs 0 4 3 Faults.none = some (q, u) ∧
      (u.readDesc 0 q (slotAddr q.slot) 128 Code.veBound).1 = some updBytes ∧
      (UpdD.parse updBytes).check (u.numCtx 0) = none ∧ (UpdD.parse updBytes).count ≠ 0 := pair_any (by decide +kernel)

def tableBytes : List Byte := zeros 4 ++ one ++ zeros 2056

theorem witness_TableLoad :
    ∃ q u, (engine 4 4 [7] (zeros 4 ++ one)).startsAs 0 4 4 Faults.none = some (q, u) ∧
      (u.readDesc 0 q (slotAddr q.slot) 2064 Code.veBound).1 = some tableBytes ∧
      (f32 (fieldAt tableBytes 0 4)).isFinite = true ∧ (f32 (fieldAt tableBytes 4 4)).isFinite = true ∧
      Num.lt .zero (f32 (fieldAt tableBytes 4 4)) = true := pair_any (by decide +kernel)

theorem witness_CopyCommandsRun :
    ∃ q u, (engine 1 5 [] copyBytes).startsAs 0 5 1 Faults.none = some (q, u) ∧
      (let rd := u.read (.store 0) (slotAddr q.slot) 128
       let plan := cePlan 1 0 rd.2 rd.1.bytes
       slotAddr q.slot + 128 ≤ 2 ^ 22 ∧ rd.1.pois.any (· == true) = false ∧ rd.2.planCode (u.ctxOf 0) plan = none ∧
         plan.noop = false ∧ rd.2.slotSkip (u.ctxOf 0) q.epoch plan.writes = none) := pair_any (by decide +kernel)

/-! ### Witnesses: synchronisation, held commands and packets -/

/-- ADD of 1 to counter 1023 of the own core; of logical core 1; and of chip 1. -/
def addBytes (chip lcore : Nat) : List Byte :=
  [0, 0] ++ leBytes 2 1023 ++ leBytes 4 1 ++ leBytes 2 chip ++ leBytes 1 lcore ++ zeros 21

def twoCores (op : Nat) (desc : List Byte) : State :=
  let s := onCoreWith { ctxIn .running with cores := [0, 1] } seq8 (slotOf op 6 (leBytes 4 0x20))
  { s with store := { s.store with bytes := Tbl.setRun 0 s.store.bytes 0x20 desc } }

theorem witness_SyncCommandsRun :
    (∃ q u, (twoCores 2 (addBytes 0 0)).startsAs 0 6 2 Faults.none = some (q, u) ∧
      (u.readDesc 0 q (slotAddr q.slot) 32 Code.suBadDesc).1 = some (addBytes 0 0) ∧
      (SuD.parse (addBytes 0 0)).ok u (u.ctxOf 0) 2 = true ∧ u.physCore (u.ctxOf 0) 0 = some 0 ∧ u.ownChip = 0) ∧
    (∃ q u, (twoCores 2 (addBytes 0 1)).startsAs 0 6 2 Faults.none = some (q, u) ∧
      (SuD.parse (addBytes 0 1)).ok u (u.ctxOf 0) 2 = true ∧ u.physCore (u.ctxOf 0) 1 = some 1) ∧
    (∃ q u, (twoCores 2 (addBytes 1 0)).startsAs 0 6 2 Faults.none = some (q, u) ∧
      (SuD.parse (addBytes 1 0)).ok u (u.ctxOf 0) 2 = true ∧ (SuD.parse (addBytes 1 0)).chip ≠ u.ownChip) :=
  ⟨pair_any (by decide +kernel), pair_any (by decide +kernel), pair_any (by decide +kernel)⟩

def waiting : QCmd := ⟨leBytes 1 1 ++ leBytes 1 5 ++ zeros 30, 0, 0, none, Faults.none⟩
def waitingSet : QCmd := ⟨leBytes 1 1 ++ leBytes 1 6 ++ zeros 30, 0, 0, none, Faults.none⟩
def signalling : QCmd := ⟨leBytes 1 1 ++ leBytes 1 0x26 ++ zeros 6 ++ leBytes 2 1023 ++ leBytes 2 1 ++ zeros 20, 0, 0, none, Faults.none⟩

theorem witness_HeldCommandsGoOn :
    (let s := (onCore []).modCore 0 fun k => { k with qCopy := [waiting], qSync := [waitingSet] }
     (s.core 0).queue .sync = [waitingSet] ∧ s.mayStart 0 waitingSet = true ∧ (s.core 0).qCopy = [waiting] ∧
       s.mayStart 0 waiting = true) ∧
    (∃ b u, (onCore (leBytes 2 0x1000)).seqSlot 0 0 = some (b, u) ∧
      slotOp ((onCore (leBytes 2 0x1000)).peek ((onCore (leBytes 2 0x1000)).streamTarget 0) 0 32) = 0 ∧
      slotWaitEn ((onCore (leBytes 2 0x1000)).peek ((onCore (leBytes 2 0x1000)).streamTarget 0) 0 32) = true) ∧
    (let s := (onCore []).modCore 0 fun k => { k with toSignal := [(.sync, signalling)] }
     (s.core 0).dueSignal .sync = some (.sync, signalling) ∧ slotSigEn signalling.slot = true) :=
  ⟨by decide, pair_any (by decide), by decide⟩

/-- A message for core 0; a sum of 2^32 − 1 fits, one of 2^32 does not; a difference below 0 does not. -/
theorem witness_HubsApplyChanges :
    let m : HubMsg := ⟨0, 0, false, none, .add 0 1, false, none⟩
    let g : HubMsg := ⟨0, 1, false, none, .add 0 1, true, none⟩
    let s := (onCore []).modCore 0 fun k => { k with counters := [(0, 0xFFFFFFFE#32)] }
    takeHub 0 ({ s with hub := [g, m] } : State).hub = some (g, [m]) ∧ g.gone = true ∧ g.origin = none ∧
      s.parity.contains (.sync 0) = false ∧ ({ s with parity := [.sync 0] } : State).parity.contains (.sync 0) = true ∧
      takeHub 0 ({ s with hub := [m] } : State).hub = some (m, []) ∧ m.gone = false ∧ s.coreOwner 0 = some (m.ctx, 0) ∧
      (s.ctx 0).desc.secure = m.secure ∧ s.canonical = true ∧ Tbl.wf 0 (s.core 0).counters = true ∧ (s.core 0).watches = [] ∧
      (s.core 0).ctr 0 + 1 < 2 ^ 32 ∧ 2 ^ 32 ≤ (s.core 0).ctr 0 + 2 ∧ (s.core 0).ctr 1 < 1 := by decide

/-- A context of the fabric with job tag 7. -/
def jobCtx0 : Ctx := { ctxIn .running with
  desc := { CtxDesc.reset with coreCount := 1, flags := 1 }, regs := { CtxRegs.reset with lkJob := 7 } }

def pkt (op : Nat) (address length arg : Nat) (data : List Byte) : Packet :=
  { op := BitVec.ofNat 8 op, flags := 0, dstChip := 0, srcChip := 1, srcLcore := 3, dstLcore := 0, tag := 0x8000, jobTag := 7,
    length := BitVec.ofNat 16 length, rsv := if op = 6 then 1 else 0, epoch := 0, address := BitVec.ofNat 64 address,
    poison := 0, arg := BitVec.ofNat 64 arg, data := data }

def admits (s : State) (p : Packet) : Option Nat := match s.admission p with | .ok c => some c | .error _ => none
def refuses (s : State) (p : Packet) : Option Nat := match s.admission p with | .ok _ => none | .error r => some r

/-- A write to the last byte of the region; a read of 4,096 bytes; an atomic; a signal whose fence is reached. -/
theorem witness_RequestsAreServed :
    (let p := pkt 1 (2 ^ 26 - 1) 1 0 [5]
     goodHeader p = true ∧ p.jobTag ≠ 0 ∧ admits (withCtx jobCtx0) p = some 0 ∧ (withCtx jobCtx0).arrived p 1 = true ∧
       (withCtx jobCtx0).inRegion 0 p.address.toNat p.length.toNat = true ∧ (((withCtx jobCtx0).fenceSound 0).withFence p 0).isSome = true ∧
       ((withCtx jobCtx0).ctx 0).discards p.epochOf = false) ∧
    (let p := pkt 2 0 0 4096 []
     goodHeader p = true ∧ admits (withCtx jobCtx0) p = some 0 ∧ (withCtx jobCtx0).arrived p 2 = true ∧
       (withCtx jobCtx0).inRegion 0 p.address.toNat p.arg.toNat = true) ∧
    (let p := pkt 6 8 0 1 []
     goodHeader p = true ∧ admits (withCtx jobCtx0) p = some 0 ∧ (withCtx jobCtx0).arrived p 6 = true ∧
       (withCtx jobCtx0).viaVersion1 p = false ∧
       (withCtx jobCtx0).inRegion 0 p.address.toNat 8 = true ∧
       (((withCtx jobCtx0).read (.mem 0) p.address.toNat 8).1.pois.any (· == true)) = false) := by
  refine ⟨?_, ?_, ?_⟩ <;> decide

/-- The counter of `witness_SignalIsServed` is at its greatest value. -/
def full0 : State := (withCtx jobCtx0).modCore 0 fun k => { k with counters := [(0, 0xFFFFFFFF#32)] }

theorem witness_SignalIsServed :
    let p := pkt 5 (2 ^ 16) 0 0 []
    goodHeader p = true ∧ p.jobTag ≠ 0 ∧ admits (withCtx jobCtx0) p = some 0 ∧ (withCtx jobCtx0).arrived p 5 = true ∧
      p.dstLcore.toNat < ((withCtx jobCtx0).ctx 0).desc.coreCount ∧ ((withCtx jobCtx0).ctx 0).discards p.epochOf = false ∧
      (((withCtx jobCtx0).fenceSound 0).withFence p 0).isSome = true ∧
      p.arg.toNat ≤ ((withCtx jobCtx0).fenceSound 0).landedOf p 0 ∧
      (((withCtx jobCtx0).fenceSound 0).applySignal 0 p none).1 = true ∧
      ((full0.fenceSound 0).applySignal 0 p none).1 = false ∧ admits full0 p = some 0 ∧
      ((withCtx jobCtx0).fenceSound 0).landedOf p 0 < ({ p with arg := 1 } : Packet).arg.toNat ∧
      (((withCtx jobCtx0).fenceSound 0).fences.map fun f => f.held.length).sum < 1024 := by decide

/-- A checkpoint has a page of the region to read and no free slot to save it in. -/
def blocked : State := withCtx { jobCtx0 with
  regs := { jobCtx0.regs with msCkptCfg := 0x500 }, ck := { Ckpt.reset with state := 2, left := [(0, 0), (0, 0x2000000 / pageBytes)] } }

theorem witness_RequestsWait : blocked.snapWaits (pkt 1 0 1 0 [5]) 1 1 = some 0 ∧ blocked.snapWaits (pkt 6 0 0 1 []) 6 8 = some 0 ∧
    ({ blocked with snapWaiting := [.write { pkt 1 0 1 0 [5] with flags := 3 }] } : State).snapWaits
      { pkt 2 0 0 4096 [] with flags := 3 } 2 4096 = some 0 ∧
    (withCtx jobCtx0).snapWaits (pkt 1 (2 ^ 26 - 1) 1 0 [5]) 1 1 = none ∧
    (withCtx jobCtx0).snapWaits (pkt 2 0 0 4096 []) 2 4096 = none ∧ (withCtx jobCtx0).snapWaits (pkt 6 8 0 1 []) 6 8 = none := by
  decide +kernel

theorem witness_RefusedRequests :
    (withCtx jobCtx0).arrived (pkt 1 0 1 0 []) 1 = true ∧ goodHeader (pkt 1 0 1 0 []) = false ∧
    (let p := pkt 6 8 0 1 []
     let s := (withCtx jobCtx0).setLink 39 { Link.reset with version := 1, delivered := [p] }
     s.arrived p 6 = true ∧ s.viaVersion1 p = true) ∧
    (let p := { pkt 1 0 1 0 [5] with jobTag := 8 }
     goodHeader p = true ∧ p.jobTag ≠ 0 ∧ refuses (withCtx jobCtx0) p = some 1 ∧ (withCtx jobCtx0).arrived p 1 = true) ∧
    (let p := { pkt 1 0 1 0 [5] with flags := 0x10 }
     goodHeader p = true → refuses (withCtx jobCtx0) p ≠ some 0) := by decide

def remoteCopy (w : CeWait) : CeCmd := ⟨waiting, copyBytes, [], [], w⟩

theorem witness_AnswersArrive :
    (let e := remoteCopy (.remoteRead 1 [(0x8000, 0, 64)] [])
     let s := (withCtx jobCtx0).setCore 0 { Core.reset with ce := [e] }
     let p := pkt 3 0 64 0 (zeros 64)
     s.arrived p 3 = true ∧ goodHeader p = true ∧ 0x8000 ≤ p.tag.toNat ∧ s.reader p.tag.toNat = some (0, e)) ∧
    (let p := { pkt 4 0 0 64 [] with tag := 0 }
     (withCtx jobCtx0).arrived p 4 = true ∧ goodHeader p = true ∧ p.tag.toNat = 0 ∧ (withCtx jobCtx0).jobCore 0 p.jobTag.toNat = true) ∧
    (let p := { pkt 4 0 0 64 [] with tag := 0x100 }
     (withCtx jobCtx0).arrived p 4 = true ∧ p.tag.toNat = 0x100 + 0 ∧ (withCtx jobCtx0).jobCore 0 p.jobTag.toNat = true) ∧
    (let p := { pkt 4 0 0 64 [] with tag := 0x400 }
     let s := (withCtx jobCtx0).setCore 0 { Core.reset with rsigOut := [0x400] }
     s.arrived p 4 = true ∧ 0x400 ≤ p.tag.toNat ∧ s.rsigCore p.tag.toNat = some 0 ∧ s.jobCore 0 p.jobTag.toNat = true) ∧
    (let p := pkt 7 0 0 5 []
     (withCtx jobCtx0).arrived p 7 = true ∧ goodHeader p = true ∧ (withCtx jobCtx0).arrived { p with op := 8 } 7 = false) ∧
    (let p := { pkt 8 0 0 7 [] with tag := 0 }
     (withCtx jobCtx0).arrived p 8 = true ∧ goodHeader p = true ∧ p.tag.toNat < 192 ∧
       (withCtx jobCtx0).jobCore p.tag.toNat p.jobTag.toNat = true) ∧
    (let p := { pkt 8 0 0 6 [] with tag := 0x408 }
     (withCtx jobCtx0).arrived p 8 = true ∧ goodHeader p = true ∧ (withCtx jobCtx0).rsigCore p.tag.toNat = none ∧
       (withCtx jobCtx0).reader p.tag.toNat = none) ∧
    (withCtx jobCtx0).coreOwner 0 = some (0, 0) := by
  refine ⟨?_, ?_, ?_, ?_, ?_, ?_, ?_, ?_⟩ <;> decide

theorem witness_FencesGoOn :
    let g := { pkt 5 (2 ^ 16) 0 0 [] with tag := 0 }
    let f : Fence := ⟨1, 3, 0, 0, 0, 64, 0, 0, 0, [(g, some 39)]⟩
    let s : State := { withCtx jobCtx0 with fences := [f] }
    let u : State := { full0 with fences := [f] }
    (s.fences.find? fun x => x.hasKey 1 3 0 0 x.ctx && decide (x.acked < x.landed + x.dropped)) = some f ∧
    (s.fences.find? fun x => x.hasKey 1 3 0 0 x.ctx && x.ready) = some f ∧
    ((s.modFence g f.ctx fun x => { x with held := x.held.drop 1 }).applySignal f.ctx g (some 39)).1 = true ∧
    ((u.modFence g f.ctx fun x => { x with held := x.held.drop 1 }).applySignal f.ctx g (some 39)).1 = false := by decide

/-- Two requests of a window read: neither has come; then one has. -/
def windowCore (w : List (Nat × Nat)) : State :=
  (withCtx jobCtx0).setCore 191 { Core.reset with ce := [remoteCopy (.windowRead w [])] }

theorem witness_WindowReads :
    ((windowCore [(0, 32), (32, 32)]).core 191).windowReader =
      some (remoteCopy (.windowRead [(0, 32), (32, 32)] []), [(0, 32), (32, 32)], []) ∧
    ((windowCore [(0, 32)]).core 191).windowReader = some (remoteCopy (.windowRead [(0, 32)] []), [(0, 32)], []) := ⟨rfl, rfl⟩

/-! ### A module whose channels work: moving a part succeeds -/

/-- A channel without failing transfers, faults or stored errors. -/
def Sound (k : Chan) : Prop := k.xferFails = [] ∧ k.faulted = false ∧ k.errs = []

/-- No line is cached, and every channel is sound. -/
def Calm (s : State) : Prop := s.cache = [] ∧ ∀ e ∈ s.chans, Sound e.2

theorem mem_set {α : Type} [DecidableEq α] {d : α} {t : Tbl α} {k : Nat} {v : α} {e : Nat × α} (h : e ∈ Tbl.set d t k v) :
    e ∈ t ∨ e = (k, v) := by
  induction t with
  | nil => rw [Tbl.set] at h; split at h <;> simp_all
  | cons x t ih =>
    rw [Tbl.set] at h
    (repeat' split at h) <;> simp only [List.mem_cons] at h ⊢ <;> tauto

theorem get_mem {α : Type} (d : α) (t : Tbl α) (k : Nat) : Tbl.get d t k = d ∨ ∃ i, (i, Tbl.get d t k) ∈ t := by
  induction t with
  | nil => exact .inl rfl
  | cons x t ih =>
    rw [Tbl.get]
    (repeat' split)
    · exact .inr ⟨x.1, List.mem_cons_self⟩
    · exact .inl rfl
    · exact ih.imp_right fun ⟨i, hi⟩ => ⟨i, List.mem_cons_of_mem _ hi⟩

theorem Calm.chan {s : State} (h : Calm s) (c : Nat) : Sound (s.chan c) := by
  rcases get_mem Chan.reset s.chans c with h1 | ⟨i, h1⟩
  · rw [State.chan, h1]; exact ⟨rfl, rfl, rfl⟩
  · exact h.2 _ h1

theorem Calm.modChan {s : State} (h : Calm s) (c : Nat) {f : Chan → Chan} (hf : ∀ k, Sound k → Sound (f k)) :
    Calm (s.modChan c f) :=
  ⟨h.1, fun _ he => (mem_set he).elim (h.2 _) fun h1 => h1 ▸ hf _ (h.chan c)⟩

theorem fold_keeps {α : Type} {f : State → α → State} (hf : ∀ t x, Calm t → Calm (f t x)) (l : List α) {s : State} (h : Calm s) :
    Calm (l.foldl f s) := by
  induction l generalizing s with
  | nil => exact h
  | cons x l ih => exact ih (hf _ _ h)

theorem Calm.countRead {s : State} (h : Calm s) (ch : Nat) : Calm (s.countRead ch) :=
  fold_keeps (fun t x ht => by simp only []; split <;> exact ht) _ h

theorem Calm.sendBlock {s : State} (h : Calm s) (ch b : Nat) (e : Buffered) : s.sendBlock ch b e = s := by
  have hc := h.chan ch
  simp [State.sendBlock, State.popXfer, State.resends, hc.1, hc.2.1]

theorem Calm.turnBus {s : State} (h : Calm s) (ch : Nat) : s.turnBus ch = s.modChan ch fun k => { k with buffered := [] } := by
  have hm : Calm (s.modChan ch fun k => { k with buffered := [] }) := h.modChan ch fun _ hk => hk
  rw [State.turnBus]
  generalize (s.chan ch).buffered = l
  induction l with
  | nil => rfl
  | cons x l ih => rw [List.foldl_cons, hm.sendBlock]; exact ih

theorem Calm.readUnit {s : State} (h : Calm s) (ch x : Nat) : s.readUnit ch x = s := by
  rw [State.readUnit, (h.chan ch).2.2]; rfl

theorem Calm.chanRead {s : State} (h : Calm s) (ch a x : Nat) (named found : List Nat) : Calm (s.chanRead ch a x named found).2 := by
  have h1 := h.countRead ch
  have hr : ∀ l : List Nat, l.foldl (fun t i => t.readUnit ch (x / 256 * 256 + 64 * i)) (s.countRead ch) = s.countRead ch := by
    intro l; induction l with
    | nil => rfl
    | cons i l ih => rw [List.foldl_cons, h1.readUnit]; exact ih
  have hp : (s.countRead ch).popXfer ch = (0, s.countRead ch) := by rw [State.popXfer, (h1.chan ch).1]
  rw [State.chanRead, (h.chan ch).2.1]
  simp only [Bool.false_eq_true, if_false, hp, Nat.zero_le, if_true, State.resends, hr]
  split <;> exact h1

theorem Calm.chanWrite {s : State} (h : Calm s) (ch a x : Nat) (old : List Byte) (units whole : List Nat) :
    Calm (s.chanWrite ch a x old units whole) := by
  have h1 : Calm (s.modChan ch fun k => { k with
      errs := whole.foldl (fun t i => Tbl.set none t (x / 256 * 4 + i) none) k.errs
      buffered := Tbl.set Buffered.none k.buffered (a / 256)
        ((Tbl.get Buffered.none k.buffered (a / 256)).add old units) }) := by
    refine h.modChan ch fun k hk => ⟨hk.1, hk.2.1, ?_⟩
    show whole.foldl _ k.errs = []
    rw [hk.2.2]
    clear hk h
    induction whole with
    | nil => rfl
    | cons i l ih => exact ih
  rw [State.chanWrite]
  split
  · rw [h1.turnBus]; exact h1.modChan ch fun _ hk => hk
  · exact h1

theorem Calm.evict {s : State} (h : Calm s) (a : Nat) : s.evict a = s := by
  have : s.lineAt a = none := by
    rw [State.lineAt]
    split
    · split
      · rw [h.1]; rfl
      · rfl
    · rfl
  rw [State.evict, this]

theorem Calm.evicts {s : State} (h : Calm s) (l : List Nat) : l.foldl State.evict s = s := by
  induction l with
  | nil => rfl
  | cons a l ih => rw [List.foldl_cons, h.evict]; exact ih

theorem Calm.copyOut {s : State} (h : Calm s) (a : Nat) : Calm (s.copyOut a).2 := by
  rw [State.copyOut]
  split
  · exact h.chanRead ..
  · exact h

theorem Calm.copyIn {s : State} (h : Calm s) (a : Nat) : Calm (s.copyIn a) := by
  rw [State.copyIn]
  split
  · split
    · exact h
    · exact h.chanWrite ..
  · exact h

theorem Calm.moveOut {s : State} (h : Calm s) (ch : Nat) (blocks : List Nat) : Calm (s.moveOut ch blocks).2 := by
  have key : ∀ (l : List Nat) (r : List Nat × State), Calm r.2 → Calm (l.foldl (fun (r : List Nat × State) a =>
      let (p, t) := r.2.copyOut a
      (p.map (a / 64 + ·) ++ r.1, t)) r).2 := by
    intro l; induction l with
    | nil => exact fun _ hr => hr
    | cons a l ih => exact fun r hr => ih _ (hr.copyOut a)
  rw [State.moveOut]
  refine key _ _ ?_
  rw [h.evicts, h.turnBus]; exact h.modChan ch fun _ hk => hk

theorem Calm.moveIn {s : State} (h : Calm s) (g : Nat) (e : Gran) (blocks bad : List Nat) : Calm (s.moveIn g e blocks bad) := by
  have h1 : Calm { s.setGran g e.toWord with hbm := { (s.setGran g e.toWord).hbm with
      poison := bad.foldl (fun l u => keyInsert u l) (s.setGran g e.toWord).hbm.poison } } := h
  have h2 := fold_keeps (fun _ a ht => ht.copyIn a) blocks h1
  show Calm (State.turnBus _ _)
  rw [h2.turnBus]; exact h2.modChan _ fun _ hk => hk

theorem Calm.relocatePart {s : State} (h : Calm s) (g ch n : Nat) (q : Part) (last : Option Nat)
    (hp : (s.newPlace ch (s.gran g) q last).isSome = true) : (s.relocatePart g ch q last (n + 1)).1.isSome = true := by
  obtain ⟨⟨to', chunk⟩, hp⟩ := Option.isSome_iff_exists.mp hp
  rw [State.relocatePart]
  simp only [hp]
  rw [if_neg (by rw [(((h.moveOut ch _).moveIn g _ _ _).chan to').2.1]; simp)]
  rfl

theorem Calm.moveAll {s : State} (h : Calm s) (ch g c : Nat) (q : Part)
    (hq : ((s.gran g).parts ch).filter (s.mustMove ch g) = [q]) (hs : ((s.gran g).subEn && !q.sub) = false)
    (hp : (s.newPlace ch (s.gran g) q none).isSome = true) : (s.moveAll ch [(g, c)]).1 = [] := by
  have hr := h.relocatePart g ch 255 q none hp
  obtain ⟨to', ht⟩ := Option.isSome_iff_exists.mp hr
  have hg : (s.relocateGranule ch g none).1 = false := by
    simp only [State.relocateGranule, hq, List.reverse_singleton, List.foldl_cons, List.foldl_nil, hs, Bool.false_eq_true, if_false]
    generalize hx : s.relocatePart g ch q none 256 = r at ht
    obtain ⟨a, u⟩ := r
    cases ht
    rfl
  simp only [State.moveAll, List.foldl_cons, List.foldl_nil, hg, Bool.false_eq_true, if_false]

/-! ### Witnesses: memory and BAR2 -/

theorem witness_StoreWritesLand : ready.canonical = true ∧ (2 ^ 22 - 1) + ([5] : List Byte).length ≤ 2 ^ 22 := by decide

theorem witness_ChannelEvents :
    (flag ready.hbmCfg 0 = true ∧ (ready.chan 255).mappedOut = false ∧ (ready.chan 255).faulted = false ∧
      ready.pw.standby = 0) ∧
    (({ ready with boot := { ready.boot with repairsDue := [.mapOut 0] } } : State).boot.repairsDue = [.mapOut 0] ∧
      .sec ∉ ready.err.restarting) ∧
    (let s := ready.modChan 255 fun x => { x with pending := true }
     (s.chan 255).pending = true ∧ (s.chan 255).mappedOut = false ∧ s.granulesIn 255 = []) := by decide

/-- Granule 0 of a paused context has a part in channel 255, which is on its way out. -/
def leaving : State := { (withCtx (ctxIn .paused)).modChan 255 fun x => { x with pending := true } with mapouts := [255] }

theorem leaving_calm : Calm leaving := by
  refine ⟨rfl, fun e he => ?_⟩
  have hc : leaving.chans = [(255, { Chan.reset with pending := true })] := rfl
  rw [hc, List.mem_singleton] at he
  subst he
  exact ⟨rfl, rfl, rfl⟩

theorem witness_Relocation : leaving.moving 255 = true ∧ (leaving.chan 255).pending = true ∧
    (leaving.moveAll 255 (leaving.toMove 255)).1 = [] := by
  refine ⟨by decide +kernel, by decide, ?_⟩
  have ht : leaving.toMove 255 = [(0, 0)] := by decide +kernel
  rw [ht]
  exact leaving_calm.moveAll 255 0 0 (((leaving.gran 0).parts 255).headD ⟨0, 0, false⟩) (by decide +kernel) (by decide +kernel)
    (by decide +kernel)

/-- A part of the granule on a retired page of channel 255. -/
theorem witness_RetiredPage :
    let s : State := (withCtx (ctxIn .paused)).modChan 255 fun x => { x with retired := [0] }
    s.moving 255 = true ∧ (s.chan 255).pending = false ∧ (ready.chan 255).xferFails = [] ∧
      (ready.chan 255).faulted = false := by decide +kernel

/-- Bytes in the middle of the region; beyond the region nothing is reached. -/
theorem witness_Bar2Accesses :
    let s := (withCtx (ctxIn .running)).setPort 0 { Port.reset with bar2Cfg := 0x80000000, selected := 1 }
    s.bar2Target 0 0x2000000 8 = some (0, 0x2000000) ∧ s.err.fatalHold = false ∧ s.hostGuard 0 0x2000000 8 = false ∧
      s.bar2Waits 0 = false ∧ s.snapBlocked 0 0x2000000 8 = false ∧ s.bar2Target 0 (2 ^ 26) 8 = none ∧
      blocked.snapBlocked 0 0x2000000 8 = true ∧ blocked.hostGuard 0 0x2000000 8 = false ∧
      ({ s with snapWaiting := [.bar2Write 0 0 []] } : State).bar2Waits 0 = true ∧
      s.hostGuard 0 (s.ctx 0).regs.tsArea 8 = true := by
  decide +kernel

/-! ### Witnesses: links and topology -/

/-- Link 39 with this record, on a module whose plan expects chip 1 there. -/
def onLink (k : Link) : State :=
  let s := ready.setLink 39 k
  { s with boot := { s.boot with record := slice smallRecord 0 0x2B0 ++ [1, 0, 1, 0] ++ zeros 12 } }

def active : Link := { Link.reset with state := 2, up0 := true, up1 := true, outcome := 1 }

theorem witness_PortTrain :
    let s := onLink Link.reset
    s.portsLive = true ∧ (s.link 39).disable = false ∧ (s.link 39).heldDown = false ∧ (s.link 39).up0 = false ∧
      (s.link 39).up1 = false ∧ (s.link 39).quar0 = false ∧ (s.link 39).quar1 = false ∧ (s.plan 39).expect ≠ 0 ∧
      (s.link 39).state ≤ 1 ∧ (s.link 39).missed = false ∧ .fab ∉ s.err.restarting ∧ (s.link 39).carries = false ∧
      s.fab.selfFenced = false ∧ ({ s with fab := { s.fab with selfFenced := true } } : State).fab.selfFenced = true := by
  decide +kernel

/-- A negotiation flit of chip 1 that agrees on version 2 and 400 Gb/s, and one that does not. -/
def negPay (agree : Nat) : List Byte :=
  [1, 2, 3] ++ leBytes 1 agree ++ (if agree = 1 then [2, 0] else [0, 0]) ++ [1, 39, 1, 0] ++ zeros 234

def flitOf (kind : Nat) (pay : List Byte) : Flit :=
  ⟨BitVec.ofNat 64 kind, pay, BitVec.ofNat 32 (crc32c (leBytes 8 kind ++ pay)), false, 0, 0, 0⟩

theorem good_neg1 : flitGood (flitOf 3 (negPay 1)) = true := by decide +kernel
theorem good_neg0 : flitGood (flitOf 3 (negPay 0)) = true := by decide +kernel

theorem witness_NegotiationFlit :
    let s := onLink { Link.reset with state := 1, up0 := true, up1 := true, partner := negPay 1 }
    let u := s.takeCodewords 39 (flitOf 3 (negPay 1))
    (s.link 39).state ≠ 0 ∧ (s.link 39).up0 = true ∧ (s.link 39).up1 = true ∧ (u.link 39).state ≠ 0 ∧
      flitGood (flitOf 3 (negPay 1)) = true ∧ flitGood (flitOf 3 (negPay 0)) = true ∧
      headerOk (flitOf 3 (negPay 1)) = true ∧ hdr (flitOf 3 (negPay 1)) 0 4 = 3 ∧ (s.link 39).agreed = false ∧
      (({ s.link 39 with agreed := true } : Link)).agreed = true ∧ chooseVersion (negPay 0) = some (2, 0) ∧
      chooseVersion (negPay 1) = some (2, 0) ∧ confirms (negPay 1) 2 0 = true ∧ confirms (negPay 0) 2 0 = false ∧
      ((u.link 39).partner == negPay 1) = true ∧ .fab ∉ u.err.restarting ∧
      chooseVersion (s.link 39).partner = some (2, 0) ∧ ¬ s.ownChip < 0 ∧ s.ownChip < bits (fieldAt (negPay 0) 8 2) 0 14 ∧
      flitGood (flitOf 3 (zeros 244)) = true ∧ headerOk (flitOf 3 (zeros 244)) = true ∧ chooseVersion (zeros 244) = none ∧
      hdr (flitOf 1 (zeros 244)) 0 4 ≠ 3 :=
  ⟨by decide, by decide, by decide, by decide +kernel, good_neg1, good_neg0, by decide, by decide, by decide, rfl,
    by decide +kernel, by decide +kernel, by decide, by decide, by decide +kernel, by decide +kernel, by decide +kernel,
    by decide, by decide, by decide +kernel, by decide, by decide +kernel, by decide⟩

theorem witness_LanesComeAndGo :
    (let s := onLink active
     s.canonical = true ∧ (s.link 39).state = 2 ∧ (s.link 39).up0 = true ∧ (s.link 39).up1 = true ∧ s.acceptsWrites = true) ∧
    (let s := onLink { active with state := 3, up1 := false }
     (s.link 39).up0 = true ∧ (s.link 39).up1 = false ∧ (s.link 39).state = 3 ∧ (s.link 39).quar1 = false) ∧
    (let s := onLink { Link.reset with quar0 := true, quar1 := true }
     (s.link 39).state = 0 ∧ (s.link 39).quar0 = true ∧ (s.link 39).quar1 = true ∧ s.acceptsWrites = true) := by decide

theorem good_data : flitGood (flitOf 1 (zeros 244)) = true := by decide +kernel

/-- A data flit in sequence (the first), a maintenance flit, one whose CRC fails, and one out of sequence; and a port at
its maintenance slot. -/
theorem witness_FlitsAreExchanged :
    let s := onLink { active with replay := [⟨0, 0, 0, true, true, []⟩] }
    let data := flitOf 1 (zeros 244)
    let u := s.takeCodewords 39 data
    (s.link 39).carries = true ∧ (u.link 39).carries = true ∧ flitGood data = true ∧ headerOk data = true ∧
      ((u.takeReport 39 data).any fun x => (x.link 39).carries) = true ∧ headerOk (flitOf 2 (zeros 244)) = true ∧
      flitGood { data with fecLost := true } = false ∧ hdr data 10 12 = ((s.link 39).rxSeq + 1) % 4096 ∧
      hdr (flitOf (1 + 2 ^ 10) (zeros 244)) 10 12 ≠ ((s.link 39).rxSeq + 1) % 4096 ∧ (s.link 39).nakSent = false ∧
      (s.link 39).replay ≠ [] ∧ ({ active with slots := 57 } : Link).maintSlot = true ∧ headerOk (flitOf 3 (zeros 244)) = true :=
  ⟨by decide, by decide +kernel, good_data, by decide, by decide +kernel, by decide, by decide, by decide, by decide, by decide,
    by decide, by decide, by decide⟩

/-- The first flit of a packet to chip 1, of one to this chip, and a later flit of a packet in transit. -/
theorem witness_Transit :
    let s := (onLink active).setLink 0 active
    let f := flitOf 0x101 (zeros 2 ++ [1] ++ zeros 241)
    hdr f 10 12 = ((s.link 39).rxSeq + 1) % 4096 ∧ hdr f 8 1 = 1 ∧ Tbl.get 0 (s.link 39).occupied 0 < ownPool 0 ∧
      Tbl.get none (s.link 39).cut 0 = none ∧ (s.cutThrough 39 0 f.payload).isSome = true ∧
      s.cutThrough 39 0 (zeros 244) = none ∧ hdr (flitOf 1 (zeros 244)) 8 1 ≠ 1 ∧
      Tbl.get none ({ active with cut := [(0, some 0)] } : Link).cut 0 = some 0 := by decide +kernel

def pktTo (dst : Nat) : Packet :=
  { op := 1, flags := 0, dstChip := BitVec.ofNat 16 dst, srcChip := 0, srcLcore := 0, dstLcore := 0, tag := 0, jobTag := 7,
    length := 0, rsv := 0, epoch := 0, address := 0, poison := 0, arg := 0, data := [] }

/-- To this chip; to chip 1 with the port down, from here and on transit; to chip 1 with the port up; to a chip
unknown. -/
theorem witness_PacketsAreRouted :
    ({ ready with parity := [.linkBuffer 39] } : State).parity.contains (.linkBuffer 39) = true ∧
    ready.parity.contains (.linkBuffer 39) = false ∧ confined none (pktTo 0) = false ∧
    confined none { pktTo 0 with flags := 3 } = true ∧ ready.route3 { pktTo 0 with flags := 3 } = .deliver ∧
    ready.route none (pktTo 0) = .deliver ∧ ready.route none (pktTo 1) = .wait ∧
    ready.route (some 39) (pktTo 1) = .discard ∧ ready.route none (pktTo 9) = .discard ∧
    (ready.setLink 0 active).route none (pktTo 1) = (.out 0) ∧
    ready.ctlHere { pktTo 0 with op := 9, arg := BitVec.ofNat 64 msgLinkState } msgLinkState = true ∧
    (ready.storeRec (LinkRec.parse (zeros 16))).isSome = true ∧ (LinkRec.parse (zeros 16)).fromGroup = ready.ownGroup ∧
    .fab ∉ ready.err.restarting := by decide

/-! ### Witnesses: the step protocol -/

/-- A RUNNING context with st_en, whose job has tag 7 and one module: its step 0 is under way, and its core has ended. -/
def stepping (st : CtxState) (t : StepSt) : Ctx := { jobCtx0 with
  st := st, regs := { jobCtx0.regs with stCfg := 0x3001 }, step := t }

def stepState (x : Ctx) : State := (withCtx x).setCore 0 { Core.reset with seq := { Seq.reset with ended := true } }

def stepOpen : StepSt := { StepSt.reset with first := some 0, declared := some 0 }
def stepDone : StepSt := { stepOpen with complete := true }

/-- A CONTROL message from chip 1. -/
def msg (type : Nat) (data : List Byte) : Packet := pkt 9 0 data.length type data

/-- Shard 0 and digest 5 of step 0; and digest 0. -/
def digestMsg (d : Nat) : Packet := msg msgDigest (zeros 16 ++ leBytes 16 d)

theorem witness_StepsComplete :
    (let s := stepState (stepping .running stepOpen)
     let u := s.touchParts 0 0
     (s.ctx 0).executing = true ∧ (s.ctx 0).step.complete = false ∧ s.stepOver 0 = some 0 ∧
       (u.ctx 0).step.diagRunning = false ∧ (u.ctx 0).stEn = true) ∧
    (let s := stepState { ctxIn .running with step := stepOpen }
     (s.ctx 0).executing = true ∧ s.stepOver 0 = some 0 ∧ (s.ctx 0).stEn = false) ∧
    (let s := stepState (stepping .running stepDone)
     s.hears (digestMsg 0) msgDigest 0 ∧ fieldAt (digestMsg 0).data 0 8 = (s.ctx 0).step.current ∧
       fieldAt (digestMsg 0).data 8 2 = (s.ctx 0).step.attempt ∧ (s.ctx 0).step.complete = true ∧
       (s.ctx 0).regs.stShardOwn = BitVec.ofNat 32 (fieldAt (digestMsg 0).data 0x0C 4) ∧
       (s.ctx 0).step.digestOwn = BitVec.ofNat 128 (fieldAt (digestMsg 0).data 0x10 16) ∧
       s.hears (digestMsg 5) msgDigest 0 ∧
       (s.ctx 0).step.digestOwn ≠ BitVec.ofNat 128 (fieldAt (digestMsg 5).data 0x10 16)) ∧
    (let s := stepState (stepping .running stepOpen)
     s.hears (digestMsg 0) msgDigest 0 ∧ (s.ctx 0).step.complete = false) := by
  refine ⟨?_, ?_, ?_, ?_⟩ <;> decide

def vote1 (ok : Bool) (x : Int) : Vote := ⟨1, ok, false, false, false, false, x, x, 0, 0, 0xFFFF, 0⟩

theorem witness_VotesAreSent :
    (let s := stepState (stepping .running stepDone)
     .fab ∉ s.err.restarting ∧ s.mayVote 0 = true ∧ (s.ctx 0).step.diagRunning = false ∧ s.coordinator 0 = true ∧
       (s.fullVote 0).xMin = (s.fullVote 0).xMax) ∧
    (let s := stepState { stepping .running stepDone with poisonCounts := [(0, 1)] }
     let s1 := s.raise (codeAt Code.memPoisonStep 0) { ctx := some 0, step := some 0 }
     s.mayVote 0 = true ∧ (s.ctx 0).poisoned = true ∧ (s1.ctx 0).step.diagRunning = false ∧ s1.coordinator 0 = true ∧
       (s1.fullVote 0).xMin = (s1.fullVote 0).xMax) ∧
    (let x := stepping .running stepDone
     let s := stepState { x with regs := { x.regs with stTree := 0x10000 } }
     s.mayVote 0 = true ∧ (s.ctx 0).step.diagRunning = false ∧ s.coordinator 0 = false) ∧
    (stepState (stepping .running stepOpen)).mayVote 0 = false ∧
    (let s := stepState (stepping .running stepDone)
     s.hears (msg msgVote (zeros 64)) msgVote 0 ∧ fieldAt (zeros 64) 0 8 = (s.ctx 0).step.voteStep ∧
       fieldAt (zeros 64) 8 2 = (s.ctx 0).step.attempt ∧ (s.ctx 0).step.voters.contains (msg msgVote (zeros 64)).src = false) := by
  refine ⟨?_, ?_, ?_, ?_, ?_⟩ <;> decide

/-- A module that carries exponent 0 and one that carries 1; two that carry 0 and are all right. -/
theorem witness_VotesMerge : (vote1 true 0).failChip = (vote1 false 0).failChip ∧
    (vote1 true 0).failCode = (vote1 false 0).failCode ∧
    ((stepping .running stepDone).verdict ((vote1 true 0).merge (vote1 true 0))).1 = 1 ∧
    (stepping .running stepDone).verdict ((vote1 true 0).merge (vote1 true 1)) = (3, 6) := by decide

theorem witness_MismatchPauses :
    (let s := stepState (stepping .running { stepDone with merged := some (vote1 true 1) })
     .fab ∉ s.err.restarting ∧ s.mayVote 0 = true ∧ s.coordinator 0 = true ∧ (s.ctx 0).poisoned = false ∧
       (s.ctx 0).step.diagRunning = false ∧ (s.fullVote 0).xMin ≠ (s.fullVote 0).xMax) ∧
    (let d : Decision := ⟨0, 0, 3, 6, 0xFFFF, 0⟩
     (stepState (stepping .running stepDone)).decides (msg msgDecide d.bytes) 3 0 d ∧ d.reason = 6) := by
  refine ⟨?_, ⟨?_, ?_, ?_, ?_, ?_⟩, ?_⟩ <;> decide

def decideMsg (kind reason : Nat) : Packet := msg msgDecide (Decision.bytes ⟨0, 0, kind, reason, 0, 0⟩)

theorem toChildren_none (s : State) (c type n : Nat) (data : List Byte) (h : (s.ctx c).childChips = []) :
    s.toChildren c type n data = s := by simp [State.toChildren, h]

theorem decides_any (s : State) (kind reason : Nat)
    (h : .fab ∉ s.err.restarting ∧ s.ctlHere (decideMsg kind reason) msgDecide = true ∧ s.stepCtx (decideMsg kind reason) = some 0)
    (hd : ⟨0, 0, kind, reason, 0, 0⟩ = Decision.parse (decideMsg kind reason).data) (ha : (s.ctx 0).step.attempt = 0)
    (hr : if kind = 4 then True
      else if kind = 5 then ∃ e, (s.ctx 0).step.decision = some e ∧ e.step = 0 ∧ e.kind = 4
      else (s.ctx 0).step.current = 0 ∧ (s.ctx 0).step.decision = none) :
    s.decides (decideMsg kind reason) kind 0 ⟨0, 0, kind, reason, 0, 0⟩ := by
  refine ⟨h, hd, rfl, ha.symm, ?_⟩
  revert hr
  split
  · exact id
  · split
    · exact id
    · exact fun h => ⟨h.1.symm, h.2⟩

theorem witness_DecisionsAreActedOn :
    (let s := stepState (stepping .running stepDone)
     s.decides (decideMsg 1 0) 1 0 ⟨0, 0, 1, 0, 0, 0⟩ ∧ s.decides (decideMsg 2 2) 2 0 ⟨0, 0, 2, 2, 0, 0⟩ ∧
       s.decides (decideMsg 3 1) 3 0 ⟨0, 0, 3, 1, 0, 0⟩) ∧
    (let s := stepState (stepping .paused stepDone)
     s.decides (decideMsg 4 0) 4 0 ⟨0, 0, 4, 0, 0, 0⟩ ∧
       ((s.toChildren 0 msgDecide 0 (decideMsg 4 0).data).ctx 0).st = .paused) ∧
    (let s := stepState (stepping .paused { stepDone with decision := some ⟨0, 0, 4, 0, 0, 0⟩ })
     s.decides (decideMsg 5 9) 5 0 ⟨0, 0, 5, 9, 0, 0⟩) := by
  refine ⟨⟨?_, ?_, ?_⟩, ⟨?_, ?_⟩, ?_⟩
  · exact decides_any _ 1 0 (by decide) (by decide) (by decide) (by decide)
  · exact decides_any _ 2 2 (by decide) (by decide) (by decide) (by decide)
  · exact decides_any _ 3 1 (by decide) (by decide) (by decide) (by decide)
  · exact decides_any _ 4 0 (by decide) (by decide) (by decide) (by decide)
  · rw [toChildren_none _ _ _ _ _ (by decide)]; decide
  · exact decides_any _ 5 9 (by decide) (by decide) (by decide) ⟨_, rfl, rfl, rfl⟩

/-- DIAG for a step of the window, and for one that is not. -/
theorem witness_DiagOfAStep :
    (let s := stepState (stepping .paused { stepDone with window := [0] })
     ((s.toChildren 0 msgDecide 0 (decideMsg 4 0).data).ctx 0).step.window.contains 0 = true) ∧
    (let s := stepState (stepping .paused stepDone)
     ((s.toChildren 0 msgDecide 0 (decideMsg 4 0).data).ctx 0).step.window.contains 0 = false) := by
  constructor <;> (simp only []; rw [toChildren_none _ _ _ _ _ (by decide)]; decide)

def rolledBack (d : Decision) (st : CtxState) : State := stepState (stepping st { stepDone with decision := some d })

/-- ST_GO for step 0: its attempt and action. -/
def goMsg (attempt action : Nat) : Packet := msg msgGo (zeros 8 ++ leBytes 2 attempt ++ zeros 2 ++ leBytes 1 action ++ zeros 19)

theorem witness_RollbackAndGo :
    (let s := rolledBack ⟨0, 0, 2, 2, 0, 0⟩ .running
     (s.ctx 0).step.decision = some ⟨0, 0, 2, 2, 0, 0⟩ ∧ (s.ctx 0).step.rolledSelf = false ∧ (s.ctx 0).gone = false) ∧
    (let s := rolledBack ⟨0, 0, 4, 0, 0, 0⟩ .paused
     (s.ctx 0).step.decision = some ⟨0, 0, 4, 0, 0, 0⟩ ∧ (s.ctx 0).gone = false ∧ s.hub.any (fun m => m.ctx == 0) = false ∧
       ({ s with hub := [⟨0, 0, false, none, .add 0 1, false, none⟩] } : State).hub.any (fun m => m.ctx == 0) = true) ∧
    (rolledBack ⟨0, 0, 2, 2, 0, 0⟩ .faulted |>.ctx 0).gone = true ∧
    (let s := rolledBack ⟨0, 0, 2, 2, 0, 0⟩ .running
     s.hears (msg msgRolled (zeros 32)) msgRolled 0 ∧ fieldAt (zeros 32) 0 8 = 0 ∧ fieldAt (zeros 32) 8 2 = 0 ∧
       (s.ctx 0).step.rolledFrom.contains (msg msgRolled (zeros 32)).src = false) ∧
    (let s := rolledBack ⟨0, 0, 2, 2, 0, 0⟩ .running
     s.goes (goMsg 1 1) 1 0 ⟨0, 0, 2, 2, 0, 0⟩ ∧ s.goes (goMsg 0 2) 2 0 ⟨0, 0, 2, 2, 0, 0⟩ ∧
       ((s.toChildren 0 msgGo 0 (goMsg 1 1).data).ctx 0).gone = false) ∧
    (rolledBack ⟨0, 0, 4, 0, 0, 0⟩ .paused).goes (goMsg 0 3) 3 0 ⟨0, 0, 4, 0, 0, 0⟩ := by
  refine ⟨?_, ?_, ?_, ?_, ⟨?_, ?_, ?_⟩, ?_⟩
  case refine_7 => rw [toChildren_none _ _ _ _ _ (by decide)]; decide
  all_goals decide

/-- A paired job whose PAUSE names a faulted module. -/
theorem witness_HoldBeginsRecovery :
    let d : Decision := ⟨0, 0, 3, 1, 0, 0⟩
    let x := stepping .paused { stepDone with decision := some d }
    let s := stepState { x with regs := { x.regs with stPair := 0x80010007 } }
    s.goes (goMsg 0 2) 2 0 d ∧ d.kind = 3 ∧ d.reason = 1 ∧
      ((((s.toChildren 0 msgGo 0 (goMsg 0 2).data).hold 0 d).ctx 0).pair.isSome = true) ∧
      (((s.toChildren 0 msgGo 0 (goMsg 0 2).data).hold 0 d).ctx 0).st ≠ .free := by
  refine ⟨by decide, rfl, rfl, ?_, ?_⟩ <;> (rw [toChildren_none _ _ _ _ _ (by decide)]; decide +kernel)

theorem witness_PublishAndConvert :
    (let x := stepping .running stepDone
     let s := stepState { x with regs := { x.regs with tsPublishing := [0] } }
     (s.ctx 0).regs.tsPublishing = 0 :: []) ∧
    (let s := stepState (stepping .running { stepDone with undo := [⟨0, 3, 0, 1⟩], window := [0] })
     (s.ctx 0).step.diagRunning = false ∧
       ((s.ctx 0).step.undo.find? fun e => e.kind == 1 && (s.ctx 0).step.window.contains e.epoch) = some ⟨0, 3, 0, 1⟩) := by
  decide

/-! ### Witnesses: the failure detector and recovery -/

/-- A detector or recovery message of chip 1 with this content and sequence number 1; its job tag. -/
def rcMsg (type : Nat) (m : RcMsg) (tag : Nat := 7) : Packet := { msg type (m.bytes 1) with jobTag := BitVec.ofNat 16 tag }

/-- Chip 3 stands in group 1. -/
def twoGroups : State := { ready with fab := { ready.fab with chipTable := ready.fab.chipTable ++ [(7, chipWord 1 1 0 1)] } }

theorem any_of {α : Type} {o : Option α} {f : α → Bool} (h : o.any f = true) : ∃ x, o = some x ∧ f x = true := by
  cases o with
  | none => simp at h
  | some x => exact ⟨x, rfl, by simpa using h⟩

theorem witness_SuspicionsAndFences :
    (ready.fabRuns = true ∧ 1 ≠ ready.ownSlot ∧ 1 ∉ ready.fab.mySuspects ∧ .fab ∉ ready.err.restarting) ∧
    (let p := rcMsg msgSuspect { chipA := 2, action := 1 }
     ready.ctlHere p msgSuspect = true ∧ chipGroup (ready.chipEntry 2) = ready.ownGroup ∧ (RcMsg.parse p.data).chipA = 2 ∧
       chipGroup (ready.chipEntry p.src) = ready.ownGroup ∧ (RcMsg.parse p.data).action = 1 ∧
       bitAt (RcMsg.parse p.data).flags 0 = false) ∧
    (let p := rcMsg msgSuspect { chipA := 2, action := 2 }
     ready.ctlHere p msgSuspect = true ∧ (RcMsg.parse p.data).action ≠ 1 ∧ (2, 1) ∉ ready.fab.requested) ∧
    (let p := rcMsg msgFenceReq { chipA := 2 }
     ready.ctlHere p msgFenceReq = true ∧ chipSlot (ready.chipEntry 2) ≠ ready.ownSlot ∧ chipKind (ready.chipEntry 2) = 2) ∧
    (∃ s0, twoGroups.ctlHere (rcMsg msgFence { chipA := 7 }) msgFence = true ∧
      twoGroups.firstOf (rcMsg msgFence { chipA := 7 }) = some s0 ∧ chipGroup (s0.chipEntry 7) ≠ s0.ownGroup) ∧
    (Tbl.wf 0 ready.fab.chipTable = true ∧ chipKind (ready.chipEntry 1) = 1) := by
  refine ⟨?_, ?_, ?_, ?_, ?_, ?_⟩
  case refine_5 =>
    obtain ⟨s0, h1, h2⟩ := any_of (o := twoGroups.firstOf (rcMsg msgFence { chipA := 7 }))
      (f := fun s0 => decide (chipGroup (s0.chipEntry 7) ≠ s0.ownGroup)) (by decide)
    exact ⟨s0, by decide, h1, of_decide_eq_true h2⟩
  all_goals decide

/-- A node with one child, chip 1, that waits for its vote. -/
def awaitsChild (r : Recov) : State :=
  let x := stepping .running { stepDone with children := [1] }
  stepState { x with regs := { x.regs with stTree := 1 }, recov := r }

def replyMsg (action : Nat) : Packet := rcMsg msgProbeReply { action := action }

theorem witness_ProbesAreAnswered :
    (let s := awaitsChild Recov.reset
     s.fabRuns = true ∧ (s.ctx 0).silent = [1] ∧ s.hears (rcMsg msgProbe {}) msgProbe 0 ∧ (s.ctx 0).probeState 0 ≠ 3) ∧
    (let s := awaitsChild { Recov.reset with probed := [1] }
     s.hears (replyMsg 1) msgProbeReply 0 ∧ (replyMsg 1).src ∈ (s.ctx 0).recov.probed ∧
       (replyMsg 1).src ∈ (s.ctx 0).silent ∧ (RcMsg.parse (replyMsg 1).data).step = (s.ctx 0).step.waitStep ∧
       (RcMsg.parse (replyMsg 1).data).action = 1 ∧ (s.ctx 0).recov.timeouts = [] ∧ s.fabRuns = true) ∧
    (let s := awaitsChild { Recov.reset with probed := [1], timeouts := [(1, 0, 7)] }
     s.hears (replyMsg 1) msgProbeReply 0 ∧ (1, 0, 7) ∈ (s.ctx 0).recov.timeouts ∧ 7 ≠ (s.ctx 0).step.attempt) ∧
    (let s := awaitsChild { Recov.reset with probed := [1] }
     s.hears (replyMsg 4) msgProbeReply 0 ∧ (RcMsg.parse (replyMsg 4).data).action = 4 ∧
       s.hears (replyMsg 2) msgProbeReply 0 ∧ (RcMsg.parse (replyMsg 2).data).action = 2) := by
  refine ⟨?_, ?_, ?_, ?_⟩ <;> decide

def order (m : RcMsg) (tag : Nat := 7) : Packet := rcMsg msgOrder m tag

theorem ordered_any {s : State} {m : RcMsg} {tag k : Nat} (f : State → Bool)
    (h : .fab ∉ s.err.restarting ∧ s.ctlHere (order m tag) msgOrder = true)
    (hm : m = RcMsg.parse (order m tag).data) (hk : m.action = k) (h2 : (s.firstOf (order m tag)).any f = true) :
    ∃ t, s.ordered (order m tag) k m t ∧ f t = true := by
  obtain ⟨t, h1, h3⟩ := any_of h2
  exact ⟨t, ⟨h.1, h.2, hm, hk, h1⟩, h3⟩

def recovering (st : CtxState) (n : Nat) : State :=
  stepState { stepping st stepDone with recov := { Recov.reset with rstate := n, awaiting := [1] } }

/-- A creation record of one core and 64 MiB; a load with one region. -/
def loadData : LoadData := ⟨⟨[], [], [], []⟩, createPay ++ zeros 0x300, [], [], [], 1, 0, 0, [], [], [], []⟩

theorem witness_OrdersAreFollowed :
    (∃ t, (recovering .running 1).ordered (order { action := 1 }) 1 { action := 1 } t ∧
      (t.jobCtx 7 == some 0 && (t.ctx 0).recov.rstate != 0) = true) ∧
    (∃ t, (recovering .running 1).ordered (order { action := 3 }) 3 { action := 3 } t ∧
      (t.jobCtx 7 == some 0 && 0 == t.ownChip) = true) ∧
    (∃ t, (recovering .paused 1).ordered (order { action := 5 }) 5 { action := 5 } t ∧
      (t.jobCtx 7 == some 0 && (t.ctx 0).st == .paused && (t.ctx 0).recov.rstate == 1 && !(t.ctx 0).recov.loaded) = true) ∧
    (∃ t, (recovering .running 1).ordered (order { action := 6 }) 6 { action := 6 } t ∧
      (t.jobCtx 7 == some 0 && (t.ctx 0).recov.rstate != 0) = true) ∧
    (∃ t, ready.ordered (order { chipA := 1, chipB := 2, action := 2 }) 2 { chipA := 1, chipB := 2, action := 2 } t ∧
      (chipKind (t.chipEntry 1) == 1 && chipKind (t.chipEntry 2) == 2 &&
        chipGroup (t.chipEntry 1) == chipGroup (t.chipEntry 2)) = true) ∧
    (∃ t, ready.ordered (order { action := 4 } 9) 4 { action := 4 } t ∧
      (decide (.hlt ∉ ready.err.restarting) && 0 == t.ownChip && kakInRange loadData.kernels &&
        ((t.kakFailed loadData.kernels).targetCtx (t.jobCtx 9) loadData).any fun e => (e.2.ctx e.1).sizesMatch loadData) = true) ∧
    (∃ t, (recovering .paused 1).ordered (order { chipA := 1, action := 4 }) 4 { chipA := 1, action := 4 } t ∧
      (t.jobCtx 7 == some 0 && 0 == t.ownChip && bits 0 0 14 == t.ownChip) = true) ∧
    (∃ t, (recovering .paused 1).ordered (order { chipA := 1, chipB := 2, action := 4, value := 2 }) 4
        { chipA := 1, chipB := 2, action := 4, value := 2 } t ∧
      (t.jobCtx 7 == some 0 && 2 != t.ownChip && chipGroup (t.chipEntry 2) == t.ownGroup) = true) ∧
    (∃ t, ready.ordered (order { chipB := 3, action := 7, value := 5 }) 7 { chipB := 3, action := 7, value := 5 } t ∧ true) ∧
    (let s := recovering .running 1
     .fab ∉ s.err.restarting ∧ .sec ∉ s.err.restarting ∧ .hlt ∉ s.err.restarting ∧
       ({ Recov.reset with loaded := true } : Recov).loaded = true ∧
       .hlt ∈ ({ s with err := { s.err with restarting := [.hlt] } } : State).err.restarting ∧
       .fab ∉ ({ s with err := { s.err with restarting := [.hlt] } } : State).err.restarting ∧ s.jobCtx 7 = some 0 ∧ s.ctlHere (rcMsg msgStatus {}) msgStatus = true ∧
       (let p := rcMsg msgReady { chipA := 1, action := 1 }
        s.ctlHere p msgReady = true ∧ (RcMsg.parse p.data).chipA ∈ (s.ctx 0).recov.awaiting ∧
          (RcMsg.parse p.data).action = 1) ∧
       (let p := rcMsg msgReady { chipA := 1, action := 2, code := 0x40000000 }
        s.ctlHere p msgReady = true ∧ (RcMsg.parse p.data).chipA ∈ (s.ctx 0).recov.awaiting ∧
          (RcMsg.parse p.data).action ≠ 1 ∧ unitOf (RcMsg.parse p.data).code ≠ 0x0E)) := by
  refine ⟨?_, ?_, ?_, ?_, ?_, ?_, ?_, ?_, ?_, ?_⟩
  · exact ordered_any (fun t => t.jobCtx 7 == some 0 && (t.ctx 0).recov.rstate != 0) (by decide) (by decide) rfl (by decide)
  · exact ordered_any (fun t => t.jobCtx 7 == some 0 && 0 == t.ownChip) (by decide) (by decide) rfl (by decide)
  · exact ordered_any (fun t => t.jobCtx 7 == some 0 && (t.ctx 0).st == .paused && (t.ctx 0).recov.rstate == 1 &&
      !(t.ctx 0).recov.loaded) (by decide)
      (by decide) rfl (by decide)
  · exact ordered_any (fun t => t.jobCtx 7 == some 0 && (t.ctx 0).recov.rstate != 0) (by decide) (by decide) rfl (by decide)
  · exact ordered_any (fun t => chipKind (t.chipEntry 1) == 1 && chipKind (t.chipEntry 2) == 2 &&
      chipGroup (t.chipEntry 1) == chipGroup (t.chipEntry 2)) (by decide) (by decide) rfl (by decide)
  · exact ordered_any (s := ready) (m := { action := 4 }) (tag := 9) (fun t => decide (.hlt ∉ ready.err.restarting) && 0 == t.ownChip && kakInRange loadData.kernels &&
      ((t.kakFailed loadData.kernels).targetCtx (t.jobCtx 9) loadData).any fun e => (e.2.ctx e.1).sizesMatch loadData)
      (by decide) (by decide) rfl (by decide +kernel)
  · exact ordered_any (fun t => t.jobCtx 7 == some 0 && 0 == t.ownChip && bits 0 0 14 == t.ownChip) (by decide) (by decide) rfl
      (by decide)
  · exact ordered_any (fun t => t.jobCtx 7 == some 0 && 2 != t.ownChip && chipGroup (t.chipEntry 2) == t.ownGroup) (by decide)
      (by decide) rfl (by decide)
  · exact ordered_any (fun _ => true) (by decide) (by decide) rfl (by decide)
  · decide

/-! ### Witnesses: checkpoints -/

/-- A read beyond HBM and the scratchpad finds no poison. -/
theorem read_beyond (s : State) (c a n : Nat) (h : ∀ x, s.keyOf (.mem c) x = none) (hb : ∀ x, s.hbmOf (.mem c) x = none) :
    (s.read (.mem c) a n).1.pois.any (· == true) = false ∧ (s.read (.mem c) a n).2 = s := by
  have piece : ∀ (l : List (Nat × Nat)) (bad : List Nat) (q : Data × State), q.1.pois.any (· == true) = false ∧ q.2 = s →
      let r := l.foldl (fun (q : Data × State) p => q.2.readPiece (.mem c) bad q.1 p.1 p.2) q
      r.1.pois.any (· == true) = false ∧ r.2 = s := by
    intro l bad
    induction l with
    | nil => exact fun _ hq => hq
    | cons p l ih =>
      intro q hq
      rw [List.foldl_cons]
      refine ih _ ⟨?_, ?_⟩
      · rw [State.readPiece, hq.2, h]
        show List.any (_ ++ List.replicate _ false) _ = false
        rw [List.any_append, hq.1, List.any_replicate]
        simp
      · rw [State.readPiece, hq.2, h]
  have block : ∀ (l : List (Nat × Nat)) (r : Data × State), r.1.pois.any (· == true) = false ∧ r.2 = s →
      let r' := l.foldl (fun (r : Data × State) b =>
        let (bad, s1) := r.2.fetchBlock (.mem c) b.1 b.2 false
        (pieces b.1 b.2).foldl (fun (q : Data × State) p => q.2.readPiece (.mem c) bad q.1 p.1 p.2) (r.1, s1)) r
      r'.1.pois.any (· == true) = false ∧ r'.2 = s := by
    intro l
    induction l with
    | nil => exact fun _ hr => hr
    | cons b l ih =>
      intro r hr
      rw [List.foldl_cons]
      have hf : r.2.fetchBlock (.mem c) b.1 b.2 false = ([], s) := by rw [State.fetchBlock, hr.2, hb]
      rw [hf]
      exact ih _ (piece _ [] _ ⟨hr.1, rfl⟩)
  exact block _ _ ⟨rfl, rfl⟩

/-- A checkpoint that copies pages of a region beyond HBM, so that a page reads as zeros. -/
def copying (left : List (Nat × Nat)) : State :=
  ready.setCtx 0 { Ctx.reset with st := .running, ck := { Ckpt.reset with state := 2, left := left } }

theorem moverTake_copying (left : List (Nat × Nat)) :
    (((copying left).moverTake 0 (0, 9437184)).ctx 0).ck.left = left.filter (· != (0, 9437184)) ∧
    (((copying left).moverTake 0 (0, 9437184)).ctx 0).ck.state = 2 := by
  have hs : ((copying left).ctx 0).scratch = [] := rfl
  have hk : ∀ x, (copying left).keyOf (.mem 0) x = none := by
    intro x
    have ho : (copying left).granOwnerOf (x / 2 ^ 26) = none := rfl
    unfold State.keyOf
    split
    · next h => cases h
    · next h =>
      cases h
      split
      · rw [if_neg (by rw [ho]; simp)]
      · split
        · rw [hs]; simp
        · rfl
  have hh : ∀ x, (copying left).hbmOf (.mem 0) x = none := by
    intro x
    have ho : (copying left).granOwnerOf (x / 2 ^ 26) = none := rfl
    rw [State.hbmOf, ho]; simp
  have hr := read_beyond (copying left) 0 (((copying left).ctx 0).pageAddr (0, 9437184)) pageBytes hk hh
  unfold State.moverTake
  have hv : ((copying left).ctx 0).ck.saved = [] := rfl
  have hd : ((copying left).ctx 0).ck.kind = 0 := rfl
  have hb : ((copying left).ctx 0).baseEn = false := by
    show flag CtxRegs.reset.msCkptCfg 31 = false
    decide
  have hm (f : Ctx → Ctx) : ((copying left).modCtx 0 f).ctx 0 = f ((copying left).ctx 0) :=
    State.ctx_modCtx_self (show Tbl.wf Ctx.reset (copying left).ctxs = true from rfl) 0 f
  simp only [hv, hr, hd, hb, List.find?_nil, Option.map_none, Bool.false_eq_true, if_false, Bool.false_and, List.any_nil,
    OfNat.zero_ne_ofNat]
  rw [hm]
  exact ⟨rfl, rfl⟩

theorem witness_CheckpointsReachThePool :
    (let s := copying [(0, 9437184), (0, 9437185)]
     let u := s.moverTake 0 (0, 9437184)
     (s.ctx 0).ck.state = 2 ∧ (s.ctx 0).ck.shardsSent = false ∧ (s.ctx 0).ck.saved = [] ∧
       (s.ctx 0).ck.left.head? = some (0, 9437184) ∧ (u.ctx 0).ck.left ≠ []) ∧
    ({ Ckpt.reset with saved := [(0, 9437184, 3)] } : Ckpt).saved = (0, 9437184, 3) :: [] ∧
    (let s := copying [(0, 9437184)]
     let u := s.moverTake 0 (0, 9437184)
     (s.ctx 0).ck.left.head? = some (0, 9437184) ∧ (u.ctx 0).ck.left = [] ∧ (u.ctx 0).ck.state = 2) ∧
    (let s := withCtx { jobCtx0 with ck := { Ckpt.reset with state := 2, shardsSent := true, sent := 5, acked := 5 } }
     (s.ctx 0).ck.state = 2 ∧ (s.ctx 0).ck.shardsSent = true ∧ (s.ctx 0).ck.sent ≤ (s.ctx 0).ck.acked ∧
       (s.ctx 0).ck.manifestSent = false) ∧
    (let s := withCtx { jobCtx0 with ck := { Ckpt.reset with state := 3, manifestSent := true } }
     let p := msg msgCkAck (zeros 16)
     .fab ∉ s.err.restarting ∧ s.ctlHere p msgCkAck = true ∧ s.ckptOf 7 (fieldAt p.data 0 8) = some 0 ∧
       fieldAt p.data 8 4 = 0 ∧
       s.ctlHere (msg msgCkAck (zeros 8 ++ [1] ++ zeros 7)) msgCkAck = true ∧
       fieldAt (msg msgCkAck (zeros 8 ++ [1] ++ zeros 7)).data 8 4 ≠ 0) := by
  refine ⟨⟨by decide, by decide, by decide, by decide, ?_⟩, rfl, ⟨by decide, ?_, ?_⟩, by decide, by decide⟩
  · exact ne_of_eq_of_ne (moverTake_copying _).1 (by decide)
  · rw [(moverTake_copying _).1]; decide
  · exact (moverTake_copying _).2

/-! ### Witnesses: faults, resets and starts -/

theorem witness_FatalReportsStopTheModule :
    (let s : State := { ready with err := { ready.err with fatalAction := 0 } }
     s.err.fatalCode = none ∧ s.err.fatalAction = 0 ∧ isFatal (codeAt Code.mhLeak 0x20) = true ∧
       isFatal 0x40F00008 = false ∧ ({ s with err := { s.err with fatalCode := some 7 } } : State).err.fatalCode = some 7) ∧
    ((onLink active).link 39).carries = true ∧ ready.board.powered = true := by decide

/-- Monitor 15 samples core 0's engines (source 8); 14 names cluster 16. -/
def sampled : State := (ready.setMonitor 15 { Monitor.reset with cfg := 0x80000008, thrHi := 50, thrLo := 10 }).setMonitor 14
  { Monitor.reset with cfg := 0x80001009 }

def held : State := (onCore []).modCore 0 fun k => { k with
  qSync := [⟨leBytes 2 0x1601 ++ zeros 2 ++ [1] ++ zeros 27, 0, 0, none, Faults.none⟩], warp := { Array.reset with drains := [(false, ⟨leBytes 2 0x102 ++ zeros 30, 0, 0, none, Faults.none⟩)] } }

theorem witness_MonitorsAndWatchdogsReport :
    (flag (sampled.monitor 15).cfg 31 = true ∧ fld (sampled.monitor 15).cfg 0 8 ≠ 0 ∧
      monParamOk (fld (sampled.monitor 15).cfg 0 8) (fld (sampled.monitor 15).cfg 8 8) = true ∧
      monParamOk (fld (sampled.monitor 14).cfg 0 8) (fld (sampled.monitor 14).cfg 8 8) = false ∧
      sampled.sampled (sampled.monitor 15) 30 = 30 ∧ Tbl.wf 0 (sampled.monitor 15).bins = true ∧
      s32 (sampled.monitor 15).base + 15 * 2 ^ fld (sampled.monitor 15).cfg 20 4 ≤ 30 ∧
      (monSample (sampled.monitor 15) 30).2 = (false, false) ∧ (monSample (sampled.monitor 15) 51).2 = (true, false) ∧
      (monSample (sampled.monitor 15) 9).2 = (false, true)) ∧
    (held.coreOwner 0 = some (0, 0) ∧ (held.ctx 0).watched = true ∧ (held.heldAt 0 .sync).isSome = true ∧
      fld held.err.wdCfg 16 16 ≠ 0 ∧ held.err.wdWaited = [] ∧ held.engBusy 0 .warp = true) ∧
    bufOk (.router 15) = true ∧ bufOk .dieHub = true ∧ ready.err.suspects = none := by decide

theorem witness_CrashedCoresRestart :
    let s : State := { ready with suTime := 10 ^ 12, err := { ready.err with crashes := [(.sch, 10 ^ 12 - 1), (.sch, 10 ^ 12 - 2)] } }
    let recent := s.err.crashes.filter fun e => decide (s.suTime < e.2 + 600 * 10 ^ 9)
    let r : State := { ready with err := { ready.err with restarting := [.fab] } }
    s.mcRuns .sch = true ∧ 2 ≤ (recent.filter fun e => e.1 == Mc.sch).length ∧ s.mcRuns .hlt = true ∧
      (recent.filter fun e => e.1 == Mc.hlt).length < 2 ∧ .hlt ∉ (State.report { s with err := { s.err with
        crashes := recent ++ [(.hlt, s.suTime)] } } (codeAt Code.mcCrash (mcLoc .hlt))).err.restarting ∧
      r.mcRuns .fab = true ∧ .fab ∈ r.err.restarting ∧ (r.err.heldControl.filter fun h => !fabOwn h).length < 256 ∧
      ready.err.warmReset = false ∧
      .sch ∈ ({ ready with err := { ready.err with restarting := [.sch] } } : State).err.restarting ∧
      ready.pw.standby ≠ 3 ∧ ({ ready with pw := { ready.pw with standby := 3 } } : State).pw.standby = 3 ∧
      .pwc ∉ ready.err.restarting ∧ .fab ∉ ready.err.restarting ∧ .sch ∉ ready.err.restarting ∧ ready.lid.errs = [] ∧
      ready.pw.enterReq = false := by decide

/-- A start in which every part works. -/
def goodStart : BootEnv :=
  { selftestOk := true, flashBad := none, pairwiseOk := true, journalOk := true, pwcOk := true, hltOk := true, memOk := true, kernelsRun := true,
    fabOk := true, schOk := true, badArrays := [383], badCores := [], badChannels := [255], badLidUnits := [] }

theorem witness_ResetsAndStarts :
    (State.reset.board.powered = true ∧ State.reset.board.resetLow = false ∧ State.reset.boot.startDue = true ∧
      kakInRange ⟨goodStart.badArrays, goodStart.badCores, goodStart.badChannels, goodStart.badLidUnits⟩ = true) ∧
    State.reset.losePower.board.powered = false ∧
    (let s : State := { ready with boot := { ready.boot with stage := 0xE0 } }
     s.board.powered = true ∧ s.boot.stage = 0xE0 ∧ s.boot.startDue = false ∧ s.boot.stagingOwner = none) ∧
    (let s : State := { ready with boot := { ready.boot with stage := 0xE0, stagingOwner := some .portA } }
     s.boot.stage = 0xE0 ∧ s.boot.stagingOwner.isSome = true) ∧
    (ready.boot.nextLifecycle = none ∧ ready.boot.updState ≠ 3 ∧ isExtest ready.board.tap = false ∧ isExtest .extest = true ∧
      ready.canonical = true ∧ ((withCtx { ctxIn .running with zeroing := true }).ctx 0).zeroing = true ∧
      ((withCtx (ctxIn .running)).ctx 0).st ≠ .free) ∧
    (let s : State := { ready with err := { ready.err with resetCause := codeAt Code.mhLeak 0x20 } }
     s.err.resetCause ≠ 0 ∧ .sec ∉ s.err.restarting ∧ s.board.powered = true) ∧
    (ready.board.resetLow = false ∧ ready.boot.stage ≠ 0) ∧
    ({ ready with err := { ready.err with warmReset := true } } : State).err.warmReset = true := by
  refine ⟨?_, ?_, ?_, ?_, ?_, ?_, ?_, ?_⟩
  case refine_2 => rfl
  all_goals decide

theorem witness_HostLossIsActedOn :
    (ready.schRuns = true ∧ fld (ready.port 1).hostCfg 0 16 ≠ 0 ∧ (ready.port 1).hostLost = false) ∧
    Tbl.get 0 ((ready.setPort 1 { Port.reset with irqPending := [(9, 4)] }).port 1).irqPending 9 ≠ 0 ∧
    (∀ c, c < 8 → (ready.ctx c).st = .free) ∧
    (let s := (withCtx { ctxIn .running with desc := { CtxDesc.reset with coreCount := 1, lossPolicy := 2 } }).setPort 1
        { Port.reset with selected := 1 }
     (s.ctx 0).desc.lossPolicy = 2 ∧ (s.port 1).selected ≠ 0 ∧ (s.port 1).hostLost = false ∧ (s.ctx 0).busy = none ∧
       (s.ctx 0).ck.cmd = none ∧ s.resumeWaits = [] ∧
       ({ s.ctx 0 with busy := some (cmd 3 0 []) } : Ctx).busy ≠ none) ∧
    (ready.board.powered = true ∧ (ready.port 1).queue = [] ∧ ready.sch = [] ∧
      ((ready.setPort 1 { Port.reset with queue := [64#64] }).port 1).queue ≠ []) ∧
    (let x : Ctx := { ctxIn .paused with
      desc := { CtxDesc.reset with coreCount := 1, lossPolicy := 1 }, step := { StepSt.reset with pausedByMemory := true } }
     x.desc.lossPolicy = 1 ∧ x.st = .paused ∧ x.step.pausedByMemory = true) ∧
    (let x : Ctx := { ctxIn .running with desc := { CtxDesc.reset with coreCount := 1, lossPolicy := 1 } }
     x.noStep = true ∧ x.st = .running ∧ ({ x with step := { StepSt.reset with first := some 0 } } : Ctx).noStep = false) ∧
    ({ Ctx.reset with windows := [(63, some ⟨0, 4096, true, true, false⟩)] } : Ctx).window 63 =
      some ⟨0, 4096, true, true, false⟩ := by
  decide

/-! ### Witnesses: registers and power -/

/-- Global port 7, link 38, is switched. -/
def switchedPort : State := { ready with boot := { ready.boot with
  record := slice smallRecord 0 0x2A0 ++ [1, 2] ++ zeros 14 } }

def inStandby (n : Nat) : State := { ready with pw := { ready.pw with standby := n, clustersOn := false } }

/-- Nothing is counted as consumed that was not produced: a count of 1 is dropped. -/
theorem witness_RegistersAreWritten :
    ready.acceptsWrites = true ∧ (∀ c, c < 8 → ready.owns 1 c = false) ∧
    ((ready.port 1).cplProd - 0).toNat ≤ 65536 ∧ 65536 < ((ready.port 1).cplProd - 1).toNat ∧
    (let s := ready.setPort 1 { Port.reset with logSel := 0x1700 }
     fld (s.port 1).logSel 8 8 = 0x17 ∧ s.acceptsWrites = true) ∧
    (ready.plan 38).switched = false ∧ ((withCtx (ctxIn .finished)).ctx 0).st = .finished ∧
    (∀ c, c < 8 → (ready.ctx c).st ≠ .running ∧ (ready.ctx c).st ≠ .paused ∧ (ready.ctx c).st ≠ .finished) ∧
    (switchedPort.acceptsWrites = true ∧ (switchedPort.plan 38).switched = true ∧
      (∀ c, c < 8 → (switchedPort.ctx c).st = .free) ∧ flag 0x80000000 31 = true ∧ flag 0 31 = false) ∧
    ((inStandby 2).hltServes = true ∧ (inStandby 2).pw.standby = 2 ∧ (inStandby 1).hltServes = true ∧
      (inStandby 1).pw.standby = 1 ∧ (inStandby 1).pw.exitReq = false ∧ (inStandby 3).hltServes = true ∧
      (inStandby 3).pw.standby = 3 ∧ Tbl.wf Cluster.reset ready.pw.clusters = true) := by decide +kernel

theorem witness_ReadsLatchTheRest : ready.board.powered = true ∧ ready.board.resetLow = false ∧
    ready.boot.stage = stageReady ∧ ready.pw.standby = 0 ∧ (withCtx (ctxIn .running)).owns 0 0 = true := by decide

theorem witness_PowerIsControlled :
    ready.pwcRuns = true ∧
    ((ready.modCore 191 fun k => { k with phaseSent := [0xFE] }).core 191).phaseSent.head? = some (0xFE : Byte).toNat ∧
    (let s := ready.setCluster 15 { Cluster.reset with pending := some 9 }
     (s.cluster 15).pending = some 9 ∧ (s.cluster 15).stretched = false ∧ s.pw.clamp = false ∧ s.pw.clustersOn = true ∧
       Tbl.wf Cluster.reset s.pw.clusters = true ∧ ({ s with pw := { s.pw with clamp := true } } : State).pw.clamp = true) ∧
    (let k : Cluster := { Cluster.reset with volt := 620, pending := some 9, due := true }
     let s : State := { ready.setCluster 15 k with pw := { (ready.setCluster 15 k).pw with uniformActive := true } }
     s.stepVolt 9 = 728 ∧ (s.cluster 15).step < min 9 k.limit ∧ k.volt < s.stepVolt (min 9 k.limit) ∧
       s.stepVolt 9 ≤ ({ k with volt := 728 } : Cluster).volt ∧ min 9 ({ k with step := 9 } : Cluster).limit ≤ 9 ∧
       k.due = true ∧ ({ k with stretched := true } : Cluster).stretched = true ∧
       ({ k with rampTo := some 700 } : Cluster).rampTo = some 700 ∧ k.volt < 700 ∧ 600 < k.volt) ∧
    (Tbl.wf Monitor.reset ready.err.monitors = true ∧ junction ⟨1600, 0, 0, 0, 0⟩ = 1600 ∧
      115 * 16 ≤ junction ⟨0, 0, 0, 1840, 0⟩) ∧
    (ready.board.powered = true ∧ ready.board.eventReceiver = none ∧ ready.pw.excursion = false ∧ ready.pw.tripped = false ∧
      7 ∉ ready.pw.hotStacks) ∧
    (((ready.readTemp 15 0).cluster 15).throttle 0).throttled = false ∧
    (((ready.readTemp 15 1600).cluster 15).throttle 1600).throttled = true ∧
    ((ready.readTemp 15 1600).cluster 15).throttled = false := by decide

theorem witness_CapIsTheLeast : ready.canonical = true ∧ ready.acceptsWrites = true ∧ 600 ≤ ready.recField 0x01C 2 ∧
    ready.recField 0x01C 2 ≤ 1900 ∧ State.reset.recField 0x01C 2 < 600 ∧ ready.effecterReady = true ∧ 1 ≤ ready.pw.gate ∧ ready.pw.gate ≤ 16 := by decide

/-! ### Witnesses: service, attestation and the board -/

def svcReq (op target : Nat) (data : List Byte) : SvcReq :=
  ⟨BitVec.ofNat 8 op, BitVec.ofNat 8 target, 0, BitVec.ofNat 32 data.length, 0, data⟩

def staging (o : SvcSource) (u : Nat) : State := { ready with boot := { ready.boot with
  stagingOwner := some o, stagingKind := 1, updState := u } }

/-- The keys of owner slot 1. -/
def ownerKeys : List Byte := [1, 1] ++ zeros 158

/-- The clauses on what a signature verifies rest on the free verdicts of log 62; here nothing is owned, so a commit is
refused. -/
theorem witness_ServiceRequestsAreAnswered :
    (ready.secServes = true ∧ .sec ∉ ready.err.restarting ∧ ready.boot.stagingOwner = none) ∧
    ((staging .portB 1).boot.stagingOwner ≠ none ∧ (staging .portB 1).boot.stagingOwner ≠ some .sideband) ∧
    (svcFieldsOk (svcReq 1 0 []) 1 = true ∧ svcFieldsOk (svcReq 4 0 []) 4 = true ∧ svcFieldsOk (svcReq 2 2 [1, 2, 3, 4]) 2 = true ∧
      svcFieldsOk (svcReq 3 1 []) 3 = true ∧ ready.boot.updState ≠ 2 ∧ ready.boot.updState ≠ 3 ∧
      ready.svcAllowed .portA = true ∧ ready.svcAllowed .sideband = true) ∧
    (ready.commit .portA 1).2 = false ∧
    (svcFieldsOk (svcReq 5 0 ownerKeys) 5 = true ∧ (ready.fuses.provision ownerKeys).1 = 0) ∧
    ((staging .portA 3).boot.updState = 3 ∧ (staging .portA 3).inWait = false) ∧
    ((staging .sideband 1).boot.stagingOwner = some .sideband ∧ (staging .sideband 1).boot.stagingKind = 1 ∧
      (staging .sideband 1).svcAllowed .sideband = true ∧ (⟨2, 0⟩ : FwPart).component ≠ 1) := by
  refine ⟨?_, ?_, ?_, ?_, ?_, ?_, ?_⟩
  case refine_4 => rfl
  case refine_5 => exact ⟨by decide +kernel, by decide +kernel⟩
  all_goals decide

/-- With keys derived; while SEC restarts; and with an LMS index left. The length of the chain and the test of an index
are free values (log 62). -/
theorem witness_SpdmRequestsAreAnswered :
    (let s : State := { ready with boot := { ready.boot with identity := [1] } }
     s.secServes = true ∧ s.boot.identity ≠ [] ∧ .sec ∉ s.err.restarting ∧ s.useIndex.1 = some 0) ∧
    .sec ∈ ({ ready with err := { ready.err with restarting := [.sec] } } : State).err.restarting := by decide

theorem witness_SidebandAndSensors :
    ready.board.powered = true ∧ ready.board.i3cAddr = none ∧ ready.effecterReady = true ∧ ready.pw.standby = 0 ∧
    State.reset.board.powered = true ∧ State.reset.effecterReady = false ∧ isExtest .extest = true ∧
    ready.boot.stage = stageReady ∧ ready.err.fatalCode = none ∧ ready.err.warmReset = false ∧
    1 ∉ ready.board.lowTold ∧ 2 ∉ ready.board.highTold ∧
    (let s : State := { ready with board := { ready.board with eventReceiver := some 9, blade2 := 46999 } }
     crosses (ready.sensor 2) (s.sensor 2) (sensorThresholds 2) = true ∧ s.board.eventReceiver = some 9 ∧
       crosses (ready.sensor 4) (s.sensor 4) (sensorThresholds 4) = false) ∧
    (let b : Board := { ready.board with lowTold := [1], highTold := [2] }
     1 ∈ b.lowTold ∧ 2 ∈ b.highTold) := by decide

/-! ### Witnesses: numbers and frames -/

theorem witness_T2CodesReadAndWrite : (6 : Nat) % 4 = 2 ∧ (3 : Nat) % 4 ≠ 2 ∧ (withCtx (ctxIn .running)).canonical = true ∧
    0 < (readCode 7 2 false true).evt.t2Inv := by decide

theorem witness_DeltasUndoThemselves :
    let a : Data := ⟨zeros 63 ++ [5], List.replicate 64 false⟩
    let b : Data := ⟨zeros 64, List.replicate 64 false⟩
    a.bytes.length = b.bytes.length ∧ a.bytes.length % 64 = 0 ∧ a.bytes.length < 2 ^ 48 := by decide

theorem witness_ControlCommandsLeaveMemory : ∃ t : State, exec (.fdSuspect (rcMsg msgSuspect { chipA := 2, action := 1 })) ready =
    .next t := ⟨_, rfl⟩

end Sys2Proof.Tests
end

section
/-! SUPPORT. A command is turned away exactly when it names a unit that the module does not have. The numbers of units
are those of R8, R10 and R257; that a command on a missing unit is a fault is log 114, and that every other command
answers a next state, even when its trigger does not hold, is log 4. -/

namespace Sys2Proof.Machine

open Sys2Proof

/-! ### The test of unit numbers -/

@[simp] theorem inRange_true (s : State) : inRange true s = .next s := rfl

@[simp] theorem inRange_false (s : State) : inRange false s = .fault .noSuchUnit := rfl

/-- A shared buffer is tested by the cluster it names (R435). -/
theorem bufOk_eq_units_all (b : SharedBuf) : bufOk b = b.units.all fun u => decide (u.1 < u.2) := by
  cases b with
  | router c | clusterHub c => exact (Bool.and_true _).symm
  | dieHub => rfl

/-- The result of known-answer kernels is tested part by part (R384). -/
theorem kakInRange_eq_units_all (r : KakResult) : kakInRange r = r.units.all fun u => decide (u.1 < u.2) := by
  simp only [kakInRange, KakResult.units, List.all_append, List.all_map, Function.comp_def]

/-- The power blades are numbered 1 and 2 (R541). -/
theorem oneOrTwo_eq_units_all (blade : Nat) :
    (blade == 1 || blade == 2) = [(0, blade), (blade, 3)].all fun u => decide (u.1 < u.2) := by
  rw [Bool.eq_iff_iff]
  simp only [Bool.or_eq_true, beq_iff_eq, List.all_cons, List.all_nil, Bool.and_true, Bool.and_eq_true,
    decide_eq_true_eq]
  omega

/-- A regulator is named by its cluster, and the shared rail by 0xFF (R479). -/
theorem regulator_eq_units_all (loc : Nat) :
    (decide (loc < 16) || loc == 0xFF) = (Instr.pwRegFault loc).units.all fun u => decide (u.1 < u.2) := by
  by_cases h : loc = 0xFF
  · simp [h, Instr.units]
  · simp [h, Instr.units]

/-! ### One command -/

/-- The command's units alone decide whether it is turned away: its outcome is the test of the units it names. -/
def UnitsDecide (c : Instr) (s : State) : Prop := ∃ t : State, exec c s = inRange c.wellFormed t

/-- The command's arm tests `ok`, which says that its units exist. -/
theorem unitsDecide_of_test {c : Instr} {s t : State} {ok : Bool} (hok : ok = c.wellFormed)
    (he : exec c s = inRange ok t) : UnitsDecide c s :=
  ⟨t, hok ▸ he⟩

theorem unitsDecide_of_no_unit {c : Instr} {s t : State} (hu : c.units = []) (he : exec c s = .next t) :
    UnitsDecide c s :=
  unitsDecide_of_test (ok := true) (by simp [Instr.wellFormed, hu]) he

theorem unitsDecide_of_unit {c : Instr} {s t : State} {x n : Nat} (hu : c.units = [(x, n)])
    (he : exec c s = inRange (decide (x < n)) t) : UnitsDecide c s :=
  unitsDecide_of_test (by simp [Instr.wellFormed, hu]) he

theorem unitsDecide_of_two_units {c : Instr} {s t : State} {x n y m : Nat} (hu : c.units = [(x, n), (y, m)])
    (he : exec c s = inRange (decide (x < n) && decide (y < m)) t) : UnitsDecide c s :=
  unitsDecide_of_test (by simp [Instr.wellFormed, hu]) he

/-! ### Every command -/

/-- Each arm tests the units that its command names, and nothing else: by the kind of unit. -/
theorem exec_unitsDecide (c : Instr) (s : State) : UnitsDecide c s := by
  cases c with
  -- no unit
  | ctxCreate | mapout | kakRun | resetWarm | fenceRelease | repairRecordWrite | write | readReq | readResp | writeAck
    | writeAckSend | signal | atomicReq | atomicResp | refuse | stDigest | stVote | stDecideCommit | stDecideReplay
    | stDecidePause | stDecideDiag | stDecideDiagDone | stRolled | stGoRerun | stGoHold | stGoDiagRun | heartbeatTick
    | fdSuspect | fdFence | rcProbe | rcProbeReply | rcFenceReq | rcStatus | rcOrderRollback | rcOrderAdopt
    | rcOrderRebuild | rcOrderResume | rcOrderHold | rcOrderStakeAdd | rcReady | ckAck | fatalReport | mcCrash
    | powerLoss | powerOn | resetL | bootBackoffExpiry | controlPeriod | meterSample | excursionGateExpiry | svcStatus
    | svcWrite | svcCommit | svcAbort | svcProvision | svcLifecycle | stagingOwnerTimeout | flashWriteDone
    | activateFirmware | setEndpointId | i3cAddressAssign | setEventReceiver | pldmCapEffecter | pldmStandbyEffecter
    | pldmResetEffecter | tapInstruction | mhLeak | mhCoolantHot | mhFlowLow | mhOscFault | pldmFirmwareUpdate
    | leakSensorDry | keptCodeCopy | warmResetDone | mcRestartDone =>
    exact unitsDecide_of_no_unit rfl rfl
  -- a context
  | ctxStart | ctxSuspend | suspendSaveDone | ctxResume | ctxDestroy | ctxZeroingDone | regionMap | regionUnmap
    | lidConfig | windowReg | windowDereg | ckpt | restore | diag | replan | stakeAdd | stepComplete | voteSend
    | rollbackRestore | statsPublishDone | stepTimeout | probeTimeout | moverPageCopy | ckManifestWrite
    | ckPoolTimeout | undoDeltaConvert =>
    exact unitsDecide_of_unit rfl rfl
  -- a core
  | nop | seqEnd | jump | call | ret | loop | endloop | stepDecl | phase | drain | notify | waitRelease | slotSignal
    | matmul | borderTiebreak | epilogue | epilogueDrainDone | accStore | accLoad | matmulPair | elem | reduce
    | update | tableLoad | copy | gather | scatter | scatterAdd | segReduce | route | setop | posGather | xdelta
    | xapply | hash | ceHazardRelease | set | add | sub | watch | suChangeApply | elWdWait | elWdExec | phaseReceived
    | pcieReadCompletion =>
    exact unitsDecide_of_unit rfl rfl
  -- a channel
  | hbmWriteTurn | scrubRead | relocation | channelMapoutComplete | hbmAccessTimeout =>
    exact unitsDecide_of_unit rfl rfl
  -- a link
  | portTrain | negotiationFlit | negotiationTimeout | discoveryTimeout | laneRetrain | flitReceive
    | maintenanceFlitSend | replayTimeout | linkState | linkCoreHang =>
    exact unitsDecide_of_unit rfl rfl
  -- a host port
  | mbxPost | commandFetch | bar2Read | bar2Write | hostBeatTimeout | hostLinkDown | hxVersionWrite | hxCplConsWrite
    | hxHostBeatWrite | msLatSelWrite | msHbmCfgWrite | elLogClear | pwCapWrite | standbyEnter | standbyExit
    | suTimeLoRead | msGranLoRead | tpTblLoRead | elLogData0Read | elClassCntLoRead | pwIdleEnergyLoRead | getVersion
    | getCapabilities | negotiateAlgorithms | getDigests | getCertificate | challenge | getMeasurements | mhRefclkLost
    | perstDeassert | portReset =>
    exact unitsDecide_of_unit rfl rfl
  -- a cluster
  | elNetHang | operatingPointChange | droopDetect | droopEnd | throttleTick | pwThermTrip =>
    exact unitsDecide_of_unit rfl rfl
  -- a slot, a monitor, an HBM stack
  | kaTimeout | monitorSample | pwHbmHot =>
    exact unitsDecide_of_unit rfl rfl
  -- two units
  | laneDown | tableRebuild | elMonCfgWrite | tpOvrWrite | lkPortDisable | lane0Release | lane1Release
    | pwCtxEnergyLoRead =>
    exact unitsDecide_of_two_units rfl rfl
  -- the parts that known-answer kernels name
  | rcOrderLoad _ load => exact unitsDecide_of_test (kakInRange_eq_units_all load.kernels) rfl
  | bootStart => exact unitsDecide_of_test (kakInRange_eq_units_all _) rfl
  | knownAnswerKernelsDone r => exact unitsDecide_of_test (kakInRange_eq_units_all r) rfl
  -- a shared buffer
  | elSharedUe buf => exact unitsDecide_of_test (bufOk_eq_units_all buf) rfl
  -- the link a packet came by, if it came by one
  | packetForward arrival =>
    cases arrival with
    | none => exact unitsDecide_of_no_unit rfl rfl
    | some link => exact unitsDecide_of_unit rfl rfl
  -- units numbered from 1
  | mhInputLow blade | mhInputHigh blade =>
    exact unitsDecide_of_test (oneOrTwo_eq_units_all blade) rfl
  | mhCableRemoved conn =>
    exact unitsDecide_of_test (by simp [Instr.wellFormed, Instr.units, Nat.lt_succ_iff, Nat.succ_le_iff]) rfl
  | irqHoldoffExpiry port vec =>
    exact unitsDecide_of_test
      (by simp [Instr.wellFormed, Instr.units, Bool.and_assoc, Nat.lt_succ_iff, Nat.succ_le_iff]) rfl
  -- an aligned offset of BAR0
  | registerWrite port offset =>
    exact unitsDecide_of_test (by simp [Instr.wellFormed, Instr.units, Bool.and_assoc]) rfl
  -- a regulator of a cluster, or the shared rail
  | pwRegFault loc => exact unitsDecide_of_test (regulator_eq_units_all loc) rfl

/-! ### The obligation -/

/-- Settles O7: the units that a command names, with the numbers of R8, R10 and R257, decide its outcome in every state.
The fault for a missing unit is the model's own choice (log 114), as is a next state for every other command (log 4). -/
theorem commandsAnswerUnlessUnitMissing : Obligations.CommandsAnswerUnlessUnitMissing := by
  unfold Obligations.CommandsAnswerUnlessUnitMissing
  constructor
  · intro c s hwf
    obtain ⟨t, ht⟩ := exec_unitsDecide c s
    exact ⟨t, by rw [ht, hwf, inRange_true]⟩
  · intro c s hwf
    obtain ⟨t, ht⟩ := exec_unitsDecide c s
    rw [ht, hwf, inRange_false]

end Sys2Proof.Machine
end

section
/-! SUPPORT. A row whose unit exists; the front of the queue; BAR2 accesses (R45, R226, R403, R485). -/

namespace Sys2Proof.Machine

open Sys2Proof

/-! ### One command of an existing unit -/

/-- A command whose one unit exists answers what its row does. -/
theorem exec_of_unit {c : Instr} {s t u : State} {x n : Nat} (he : exec c s = inRange (decide (x < n)) t) (hx : x < n)
    (ht : t = u) : exec c s = .next u := by
  rw [he, decide_eq_true hx, inRange_true, ht]

/-! ### The front of the queue -/

theorem step_of_pending {s : State} {c : Instr} {rest : List Instr} (h : s.pending = c :: rest) :
    step s = exec c { s with pending := rest } := by
  simp only [step, h]

/-- Settles O1: a step takes the command off the front of the queue; the queue is the model's own (log 1). -/
theorem stepRunsTheFront : Obligations.StepRunsTheFront := by
  unfold Obligations.StepRunsTheFront
  intro c rest s h
  exact step_of_pending h

/-! ### BAR2 -/

section Bar2

variable {s : State} {port offset c a : Nat}

theorem State.bar2Get_unserved {len : Nat} (h : s.bar2Target port offset len = none) :
    s.bar2Get port offset len = s.emit (.unsupported port) := by
  simp only [State.bar2Get, h]

/-- A read does not pass a write of its port that waits (R403; the form is log 160). -/
theorem State.bar2Get_waits {len : Nat} (h : s.bar2Target port offset len = some (c, a))
    (hw : s.bar2Waits port = true) : s.bar2Get port offset len = s.waitForSnap c (.bar2Read port offset len) := by
  simp only [State.bar2Get, h, hw, if_true]

theorem State.bar2Get_served {len : Nat} (h : s.bar2Target port offset len = some (c, a))
    (hw : s.bar2Waits port = false) :
    s.bar2Get port offset len = (s.read (.mem c) a len).2.emit
      (.bar2 port (s.read (.mem c) a len).1.bytes ((s.read (.mem c) a len).1.pois.any (· == true))) := by
  simp only [State.bar2Get, h, hw, Bool.false_eq_true, if_false]

variable {bs : List Byte}

theorem State.bar2Put_unserved (h : s.bar2Target port offset bs.length = none) :
    s.bar2Put port offset bs = s.emit (.unsupported port) := by
  simp only [State.bar2Put, h]

variable (h : s.bar2Target port offset bs.length = some (c, a)) (hf : s.err.fatalHold = false)
include h hf

theorem State.bar2Put_guarded (hg : s.hostGuard c a bs.length = true) :
    s.bar2Put port offset bs = s.emit (.unsupported port) := by
  simp only [State.bar2Put, h, hf, hg, Bool.false_eq_true, if_false, if_true]

theorem State.bar2Put_waits (hg : s.hostGuard c a bs.length = false)
    (hw : s.bar2Waits port = true ∨ s.snapBlocked c a bs.length = true) :
    s.bar2Put port offset bs = s.waitForSnap c (.bar2Write port offset bs) := by
  simp only [State.bar2Put, h, hf, hg, Bool.false_eq_true, if_false, Bool.or_eq_true, if_pos hw]

theorem State.bar2Put_served (hg : s.hostGuard c a bs.length = false) (hw : s.bar2Waits port = false)
    (hb : s.snapBlocked c a bs.length = false) :
    s.bar2Put port offset bs = s.epochWrite c (s.ctx c).step.declared a bs [] := by
  simp only [State.bar2Put, h, hf, hg, hw, hb, Bool.or_self, Bool.false_eq_true, if_false]

end Bar2

/-- Settles O30: an access is served, waits, or is answered as unsupported. That the port's later accesses wait behind a
write that waits is the model's own choice (log 160). -/
theorem bar2Accesses : Obligations.Bar2Accesses := by
  unfold Obligations.Bar2Accesses
  intro s port offset hp
  refine ⟨fun len c a h hw => ?_, fun bs c a h hf => ⟨fun hg hw hb => ?_, fun hg hw => ?_, fun hg => ?_⟩,
    fun len c a h hw => ?_, fun len h => ?_, fun bs h => ?_⟩
  · exact exec_of_unit rfl hp (State.bar2Get_served h hw)
  · exact exec_of_unit rfl hp (State.bar2Put_served h hf hg hw hb)
  · exact exec_of_unit rfl hp (State.bar2Put_waits h hf hg hw)
  · exact exec_of_unit rfl hp (State.bar2Put_guarded h hf hg)
  · exact exec_of_unit rfl hp (State.bar2Get_waits h hw)
  · exact exec_of_unit rfl hp (State.bar2Get_unserved h)
  · exact exec_of_unit rfl hp (State.bar2Put_unserved h)

end Sys2Proof.Machine
end

section
/-! SUPPORT. Held commands go on, and due signals are applied (R35, R160, R183). -/

namespace Sys2Proof.Machine

open Sys2Proof

/-- The command at the head of an engine's queue starts, if nothing holds it, and the queue goes on. -/
theorem State.pumpFrom_head {s : State} {p : Nat} {e : Eng} {q : QCmd} {rest : List QCmd}
    (hq : (s.core p).queue e = q :: rest) (hs : s.mayStart p q = true) (n : Nat) :
    s.pumpFrom p e (n + 1) = ((s.modCore p fun k => k.popCmd q).startSound p q).pumpFrom p e n := by
  obtain ⟨l, hl⟩ : ∃ l, engGroup e = e :: l := by cases e <;> exact ⟨_, rfl⟩
  simp only [State.pumpFrom, hl, List.filterMap_cons, hq, List.head?_cons, List.find?_cons, hs]

theorem State.pump_head {s : State} {p : Nat} {e : Eng} {q : QCmd} {rest : List QCmd}
    (hq : (s.core p).queue e = q :: rest) (hs : s.mayStart p q = true) :
    s.pump p e = (let t := ((s.modCore p fun k => k.popCmd q).startSound p q).pumpFrom p e 32
      if e = .copy then t.noteHold p else t) := by
  simp only [State.pump, State.pumpFrom_head hq hs]

theorem State.release_engine {e : Eng} (he : e ≠ .seq) (s : State) (p : Nat) : s.release p e = s.pump p e := by
  simp only [State.release, if_pos he]

theorem State.release_seq {s u : State} {p : Nat} {b : List Byte}
    (h : s.seqSlot p (slotOp (s.peek (s.streamTarget p) (s.core p).seq.pos 32)) = some (b, u))
    (he : slotEng (s.peek (s.streamTarget p) (s.core p).seq.pos 32) = 0)
    (hw : slotWaitEn (s.peek (s.streamTarget p) (s.core p).seq.pos 32) = true) : s.release p .seq = u.seqAct p b := by
  simp only [State.release, ne_eq, not_true_eq_false, if_false, he, hw, and_self, if_true, (State.seqSlot_row h).1]

theorem State.signalSlot_enabled {b : List Byte} (h : slotSigEn b = true) (s : State) (p : Nat) :
    s.signalSlot p b = s.addCtr p (slotSigCtr b) (slotSigInc b) := by
  simp only [State.signalSlot, h, if_true]

theorem State.signalSlot_disabled {b : List Byte} (h : slotSigEn b = false) (s : State) (p : Nat) :
    s.signalSlot p b = s := by
  simp only [State.signalSlot, h, Bool.false_eq_true, if_false]

theorem State.slotSignalStep_due {s : State} {p : Nat} {e : Eng} {x : Eng × QCmd} (hx : (s.core p).dueSignal e = some x)
    (hs : slotSigEn x.2.slot = true) :
    s.slotSignalStep p e = (s.modCore p fun k => { k with toSignal := k.toSignal.erase x }).addCtr p
      (slotSigCtr x.2.slot) (slotSigInc x.2.slot) := by
  simp only [State.slotSignalStep, hx, State.signalSlot_enabled hs]

/-- Settles O23: what is held starts, or is signalled, as soon as nothing holds it. -/
theorem heldCommandsGoOn : Obligations.HeldCommandsGoOn := by
  unfold Obligations.HeldCommandsGoOn
  intro s p hp
  refine ⟨fun e q rest he hq hs => ?_, fun q rest hq hs => ?_, fun b u h he hw => ?_, fun e x hx hs => ?_⟩
  · exact exec_of_unit rfl hp ((State.release_engine he s p).trans (State.pump_head hq hs))
  · exact exec_of_unit rfl hp (State.pump_head (e := .copy) hq hs)
  · exact exec_of_unit rfl hp (State.release_seq h he hw)
  · exact exec_of_unit rfl hp (State.slotSignalStep_due hx hs)

end Sys2Proof.Machine
end

section
/-! SUPPORT. The rows of the matrix arrays when their command starts at once (R36, R80, R82, R86, R90, R96). -/

namespace Sys2Proof.Machine

open Sys2Proof

/-! ### A row of an array -/

/-- The queue of an array. -/
def engOf : Arr → Eng
  | .warp => .warp
  | .weft => .weft

theorem enginesOf_arr {b : List Byte} {a : Arr} (h : slotEng b = arrEng a) : enginesOf b = [engOf a] := by
  cases a <;> simp only [enginesOf, h, arrEng, engOf]

theorem enginesOf_pair {b : List Byte} (h : slotEng b = 3) : enginesOf b = [.warp, .weft] := by
  simp only [enginesOf, h]

/-- The engine of the command that a row starts is the row's. -/
theorem State.startsAs_slotEng {s u : State} {p eng op : Nat} {f : Faults} {q : QCmd}
    (h : s.startsAs p eng op f = some (q, u)) : slotEng q.slot = eng := by
  unfold State.startsAs at h
  cases hf : s.fetchFor p eng op with
  | stop t => simp [hf] at h
  | slot b t =>
    simp only [hf, Option.ite_none_right_eq_some, Option.some.injEq, Prod.mk.injEq] at h
    obtain ⟨_, rfl, _⟩ := h
    exact (State.fetchFor_slot hf).1

section Row

variable {s u : State} {p op : Nat} {f : Faults} {q : QCmd}

/-- A command of one array starts, and the array's queue goes on. -/
theorem State.engineRow_arr {a : Arr} (h : s.startsAs p (arrEng a) op f = some (q, u)) :
    slotEng q.slot = arrEng a ∧ slotOp q.slot = op ∧ q.faults = f ∧
      s.engineRow p (arrEng a) op f = (u.startCmd p q).pumpFrom p (engOf a) 32 := by
  have hes := enginesOf_arr (State.startsAs_slotEng h)
  obtain ⟨he, ho, hf, hr⟩ := State.startsAs_row h (by simp [hes])
  refine ⟨he, ho, hf, hr.trans ?_⟩
  cases a <;> simp [firstEng, hes, engOf]

/-- A pair starts, and the queues of both arrays go on. -/
theorem State.engineRow_pair (h : s.startsAs p 3 op f = some (q, u)) :
    slotEng q.slot = 3 ∧ q.faults = f ∧ s.engineRow p 3 op f = (u.startCmd p q).pumpFrom p .warp 32 := by
  have hes := enginesOf_pair (State.startsAs_slotEng h)
  obtain ⟨he, _, hf, hr⟩ := State.startsAs_row h (by simp [hes])
  exact ⟨he, hf, hr.trans (by simp [firstEng, hes])⟩

end Row

/-! ### What a command of an array starts (R80) -/

section Start

variable {q : QCmd} {a : Arr} (s : State) (p : Nat)

theorem State.startCmd_matmul {e1 e2 : ArrFault} (he : slotEng q.slot = arrEng a) (ho : slotOp q.slot = 1)
    (hf : q.faults = arrFaults a e1 e2) : s.startCmd p q = s.startMat p a q true e1 e2 := by
  cases a <;> simp only [State.startCmd, he, ho, hf, arrEng, arrFaults]

theorem State.startCmd_epilogue (he : slotEng q.slot = arrEng a) (ho : slotOp q.slot = 2)
    (hf : q.faults = Faults.none) : s.startCmd p q = s.startMat p a q false noFault noFault := by
  cases a <;> simp only [State.startCmd, he, ho, hf, arrEng, Faults.none]

theorem State.startCmd_accStore (he : slotEng q.slot = arrEng a) (ho : slotOp q.slot = 3) :
    s.startCmd p q = s.startAccStore p a q := by
  cases a <;> simp only [State.startCmd, he, ho, arrEng]

theorem State.startCmd_accLoad (he : slotEng q.slot = arrEng a) (ho : slotOp q.slot = 4) :
    s.startCmd p q = s.startAccLoad p a q := by
  cases a <;> simp only [State.startCmd, he, ho, arrEng]

theorem State.startCmd_pair (he : slotEng q.slot = 3) : s.startCmd p q = s.startPair p q := by
  simp only [State.startCmd, he]

end Start

/-! ### The start with good descriptors (R82, R90, R96, R103) -/

section Good

variable {s t : State} {p : Nat} {a : Arr} {q : QCmd} {b : List Byte}

theorem State.matDesc_good {addr : Nat} {product : Bool} (hr : s.readDesc p q addr 128 Code.arBound = (some b, t))
    (hc : (Mat.parse b).check product (t.numCtx p).v20 = none) : s.matDesc p q addr product = (some b, t) := by
  simp only [State.matDesc, hr, hc]

theorem State.startMat_product {e1 e2 : ArrFault} (h : s.matDesc p q (slotAddr q.slot) true = (some b, t)) :
    s.startMat p a q true e1 e2 = t.runMatmul p a q b e1 e2 := by
  simp only [State.startMat, h, if_true]

theorem State.startMat_epilogue {e1 e2 : ArrFault} (h : s.matDesc p q (slotAddr q.slot) false = (some b, t)) :
    s.startMat p a q false e1 e2 = t.runEpilogue p a q (Mat.parse b) := by
  simp only [State.startMat, h, Bool.false_eq_true, if_false]

theorem State.startPair_good {u v1 v2 : State} {bf : List Byte} {as1 as2 : List Area}
    (hw : s.matDesc p q (slotAddr q.slot) true = (some b, t)) (hf : t.matDesc p q (slotAddr2 q.slot) true = (some bf, u))
    (ha : pairApart (Mat.parse b) (Mat.parse bf) = true) (h1 : u.biasOf p (Mat.parse b) = (as1, false, v1))
    (h2 : v1.biasOf p (Mat.parse bf) = (as2, false, v2)) : s.startPair p q = v2.pairRun p q b bf := by
  simp only [State.startPair, hw, hf, ha, h1, h2, Bool.not_true, Bool.or_self, Bool.false_eq_true, if_false]

end Good

/-! ### The obligation -/

/-- Settles O18: the row starts the command it names, whose checks pass. -/
theorem arrayCommandsRun : Obligations.ArrayCommandsRun := by
  unfold Obligations.ArrayCommandsRun
  intro s u u1 p a q b hp
  refine ⟨fun e1 e2 h hr hc => ?_, fun h hr hc => ?_, fun h hb hs => ?_, fun h hb => ?_,
    fun w1 w2 f1 f2 b2 u2 h hr1 hr2 hc1 hc2 ha hb1 hb2 => ?_⟩
  · obtain ⟨he, ho, hf, hrow⟩ := State.engineRow_arr h
    refine exec_of_unit rfl hp (hrow.trans ?_)
    rw [State.startCmd_matmul u p he ho hf, State.startMat_product (State.matDesc_good hr hc)]
    rfl
  · obtain ⟨he, ho, hf, hrow⟩ := State.engineRow_arr h
    refine exec_of_unit rfl hp (hrow.trans ?_)
    rw [State.startCmd_epilogue u p he ho hf, State.startMat_epilogue (State.matDesc_good hr hc)]
    rfl
  · obtain ⟨he, ho, _, hrow⟩ := State.engineRow_arr h
    refine exec_of_unit rfl hp (hrow.trans ?_)
    rw [State.startCmd_accStore u p he ho]
    simp only [State.startAccStore, if_neg (Nat.not_lt.2 hb), hs, Bool.false_eq_true, if_false]
    rfl
  · obtain ⟨he, ho, _, hrow⟩ := State.engineRow_arr h
    refine exec_of_unit rfl hp (hrow.trans ?_)
    rw [State.startCmd_accLoad u p he ho]
    rfl
  · obtain ⟨he, _, hrow⟩ := State.engineRow_pair h
    refine exec_of_unit rfl hp (hrow.trans ?_)
    rw [State.startCmd_pair u p he]
    exact congrArg (fun v => State.pumpFrom v p .warp 32) (State.startPair_good (State.matDesc_good hr1 hc1)
      (State.matDesc_good hr2 hc2) ha (Prod.ext rfl (Prod.ext hb1 rfl)) (Prod.ext rfl (Prod.ext hb2 rfl)))

end Sys2Proof.Machine
end

section
/-! SUPPORT. No command undoes what `Keeps` says: the queue of waiting commands (the model's own field, log 1), the count
of free values drawn, the fuses, and the canonical form of the tables. -/

namespace Sys2Proof.Machine

open Sys2Proof

/-- The state that an outcome answers, if it answers one, follows `s`. -/
def Kept (s : State) (o : Host.Outcome State Fault Refusal) : Prop := ∀ t, o = .next t → Keeps s t

theorem kept_next {s t : State} (h : Keeps s t) : Kept s (.next t) := fun _ e => by
  injection e with e
  exact e ▸ h

theorem kept_inRange {s t : State} {ok : Bool} (h : Keeps s t) : Kept s (inRange ok t) := by
  cases ok with
  | true => exact kept_next h
  | false => exact fun _ e => nomatch e

theorem keeps_stateOf {s t : State} {o : Host.Outcome State Fault Refusal} (h : Keeps s t) (ho : Kept t o) :
    Keeps s (stateOf o t) := by
  cases o with
  | next u => exact h.trans (ho u rfl)
  | fault _ | refused _ => exact h

/-! ### Every command but the end of a restart -/

/-- A command keeps what its operations keep: one line per row of the table. -/
theorem exec_kept_of_not_restart (c : Instr) (hc : ∀ mc, c ≠ .mcRestartDone mc) (s : State) : Kept s (exec c s) := by
  have k := Keeps.refl s
  cases c with
  -- host commands (R489)
  | ctxCreate => exact kept_next (keeps_ite k (State.moduleCmd_keeps k _ _ fun u h hu => State.createCmd_keeps hu _))
  | ctxStart => exact kept_inRange (State.ctxCmd_keeps k _ _ _ fun u h hu => State.startCmdCtx_keeps hu ..)
  | ctxSuspend => exact kept_inRange (State.ctxCmd_keeps k _ _ _ fun u h hu => State.suspendCmd_keeps hu ..)
  | suspendSaveDone => exact kept_inRange (State.saveDone_keeps k _)
  | ctxResume => exact kept_inRange (State.ctxCmd_keeps k _ _ _ fun u h hu => State.resumeCmd_keeps hu ..)
  | ctxDestroy => exact kept_inRange (keeps_ite k (State.ctxCmd_keeps k _ _ _ fun u h hu =>
      State.setBusy_keeps (State.destroyCtx_keeps hu _) ..))
  | ctxZeroingDone => exact kept_inRange (State.zeroingDone_keeps k _)
  | regionMap => exact kept_inRange (State.ctxCmd_keeps k _ _ _ fun u h hu => State.regionMapCmd_keeps hu ..)
  | regionUnmap => exact kept_inRange (State.ctxCmd_keeps k _ _ _ fun u h hu => State.regionUnmapCmd_keeps hu ..)
  | lidConfig => exact kept_inRange (State.ctxCmd_keeps k _ _ _ fun u h hu => State.lidConfigCmd_keeps hu ..)
  | windowReg => exact kept_inRange (State.ctxCmd_keeps k _ _ _ fun u h hu => State.windowRegCmd_keeps hu ..)
  | windowDereg => exact kept_inRange (State.ctxCmd_keeps k _ _ _ fun u h hu => State.windowDeregCmd_keeps hu ..)
  | ckpt => exact kept_inRange (State.ctxCmd_keeps k _ _ _ fun u h hu => State.ckStart_keeps hu ..)
  | restore => exact kept_inRange (State.ctxCmd_keeps k _ _ _ fun u h hu => State.restoreStart_keeps hu ..)
  | diag => exact kept_inRange (State.ctxCmd_keeps k _ _ _ fun u h hu => State.diagCmd_keeps hu ..)
  | replan => exact kept_inRange (State.ctxCmd_keeps k _ _ _ fun u h hu => State.replanCmd_keeps hu ..)
  | stakeAdd => exact kept_inRange (State.ctxCmd_keeps k _ _ _ fun u h hu => State.stakeAddCmd_keeps hu ..)
  | mapout => exact kept_next (State.moduleCmd_keeps k _ _ fun u h hu => State.mapoutCmd_keeps hu _)
  | kakRun => exact kept_next (keeps_ite k (State.moduleCmd_keeps k _ _ fun u h hu => State.kakRunCmd_keeps hu _))
  | resetWarm => exact kept_next (State.moduleCmd_keeps k _ _ fun u h hu => State.requestWarm_keeps hu _)
  | mbxPost => exact kept_inRange (State.bar0_keeps k _ _ fun u hu => State.mbxPost_keeps hu ..)
  | commandFetch => exact kept_inRange (State.fetchPost_keeps k ..)
  -- sequencer commands (R37)
  | nop | seqEnd | jump | call | ret | loop | endloop | stepDecl | phase | drain | notify =>
    exact kept_inRange (State.seqRow_keeps k ..)
  | waitRelease => exact kept_inRange (State.release_keeps k ..)
  | slotSignal => exact kept_inRange (State.slotSignalStep_keeps k ..)
  -- commands of the engines (R80, R108, R155, R184)
  | matmul | epilogue | accStore | accLoad | matmulPair | elem | reduce | update | tableLoad | copy | gather | scatter
    | scatterAdd | segReduce | route | setop | posGather | xdelta | xapply | hash | set | add | sub | watch =>
    exact kept_inRange (State.engineRow_keeps k ..)
  | borderTiebreak => exact kept_inRange (State.pumpArrays_keeps (State.tieBreak_keeps k ..) _)
  | epilogueDrainDone => exact kept_inRange (State.pumpArrays_keeps (State.drainDone_keeps k ..) _)
  | ceHazardRelease => exact kept_inRange (State.pump_keeps k ..)
  | suChangeApply => exact kept_inRange (State.hubStep_keeps k _)
  | pcieReadCompletion => exact kept_inRange (State.windowData_keeps k ..)
  | fenceRelease => exact kept_next (State.releaseFence_keeps k ..)
  -- memory
  | hbmWriteTurn => exact kept_inRange (State.turnBus_keeps k _)
  | scrubRead => exact kept_inRange (State.scrub_keeps k _)
  | repairRecordWrite =>
    refine kept_next ?_
    cases s.boot.repairsDue with
    | nil => exact k
    | cons r rest => exact keeps_ite k (keeps_mk.2 k)
  | relocation => exact kept_inRange (State.relocate_keeps k _)
  | channelMapoutComplete => exact kept_inRange (State.mapoutDone_keeps k _)
  | hbmAccessTimeout => exact kept_inRange (State.channelFault_keeps k _)
  | bar2Read => exact kept_inRange (State.bar2Get_keeps k ..)
  | bar2Write => exact kept_inRange (State.bar2Put_keeps k ..)
  -- links
  | portTrain => exact kept_inRange (State.portTrain_keeps k ..)
  | negotiationFlit => exact kept_inRange (State.negotiate_keeps k ..)
  | negotiationTimeout => exact kept_inRange (State.negotiationOver_keeps k _)
  | discoveryTimeout => exact kept_inRange (State.whenFab_keeps k _ _ fun u hu => State.discoveryOver_keeps hu _)
  | laneDown => exact kept_inRange (State.laneDown_keeps k ..)
  | laneRetrain => exact kept_inRange (State.laneRetrain_keeps k ..)
  | flitReceive => exact kept_inRange (State.recvFlit_keeps k ..)
  | maintenanceFlitSend => exact kept_inRange (keeps_ite (State.fillRound_keeps k ..) k)
  | replayTimeout =>
    exact kept_inRange (keeps_ite k (State.replayAll_keeps (State.modLink_keeps (State.report_keeps k ..) ..) _))
  | packetForward => exact kept_inRange (State.forward_keeps k ..)
  | linkCoreHang => exact kept_inRange (keeps_ite (State.portDown_keeps k _) k)
  -- packets
  | write => exact kept_next (State.serveOrWait_keeps k _ _ _ _ _ fun u hu => State.recvWrite_keeps hu _)
  | readReq => exact kept_next (State.serveOrWait_keeps k _ _ _ _ _ fun u hu => State.recvRead_keeps hu _)
  | atomicReq => exact kept_next (State.serveOrWait_keeps k _ _ _ _ _ fun u hu => State.recvAtomic_keeps hu _)
  | readResp => exact kept_next (State.receive_keeps k _ _ _ fun u hu => State.recvReadResp_keeps hu _)
  | writeAck => exact kept_next (State.receive_keeps k _ _ _ fun u hu => State.recvAck_keeps hu _)
  | signal => exact kept_next (State.receive_keeps k _ _ _ fun u hu => State.recvSignal_keeps hu _)
  | atomicResp => exact kept_next (State.receive_keeps k _ _ _ fun u hu => hu)
  | refuse => exact kept_next (State.receive_keeps k _ _ _ fun u hu => State.recvRefuse_keeps hu _)
  | writeAckSend => exact kept_next (State.ackFence_keeps k ..)
  -- CONTROL messages (R335, R371)
  | linkState => exact kept_inRange (State.viaFab_keeps k _ _ fun u hu => State.recvLinkState_keeps hu ..)
  | tableRebuild => exact kept_inRange (State.whenFab_keeps k _ _ fun u hu => State.tableRebuild_keeps hu ..)
  | stDigest => exact kept_next (State.viaFab_keeps k _ _ fun u hu => State.recvDigest_keeps hu _)
  | stVote => exact kept_next (State.viaFab_keeps k _ _ fun u hu => State.recvVote_keeps hu _)
  | stDecideCommit => exact kept_next (State.viaFab_keeps k _ _ fun u hu => State.withDecision_keeps hu _ _ _
      fun v c d hv => State.commitStep_keeps hv ..)
  | stDecideReplay => exact kept_next (State.viaFab_keeps k _ _ fun u hu => State.withDecision_keeps hu _ _ _
      fun v c d hv => State.actReplay_keeps hv ..)
  | stDecidePause => exact kept_next (State.viaFab_keeps k _ _ fun u hu => State.withDecision_keeps hu _ _ _
      fun v c d hv => State.actPause_keeps hv ..)
  | stDecideDiag => exact kept_next (State.viaFab_keeps k _ _ fun u hu => State.withDecision_keeps hu _ _ _
      fun v c d hv => keeps_ite hv (keeps_ite (State.stopForRollback_keeps hv ..) (State.refuseDiag_keeps hv ..)))
  | stDecideDiagDone => exact kept_next (State.viaFab_keeps k _ _ fun u hu => State.withDecision_keeps hu _ _ _
      fun v c d hv => State.diagComplete_keeps (State.diagDone_keeps hv ..) ..)
  | stRolled => exact kept_next (State.viaFab_keeps k _ _ fun u hu => State.recvRolled_keeps hu _)
  | stGoRerun => exact kept_next (State.viaFab_keeps k _ _ fun u hu => State.withGo_keeps hu _ _ _
      fun v c d hv => keeps_ite hv (State.rerunStep_keeps hv ..))
  | stGoHold => exact kept_next (State.viaFab_keeps k _ _ fun u hu => State.withGo_keeps hu _ _ _
      fun v c d hv => keeps_ite (State.recovBegin_keeps (State.modCtx_keeps (State.hold_keeps hv ..) ..) ..)
        (State.hold_keeps hv ..))
  | stGoDiagRun => exact kept_next (State.viaFab_keeps k _ _ fun u hu => State.withGo_keeps hu _ _ _
      fun v c d hv => State.diagRun_keeps hv ..)
  | fdSuspect => exact kept_next (State.viaFab_keeps k _ _ fun u hu => State.recvSuspect_keeps hu _)
  | fdFence => exact kept_next (State.viaFab_keeps k _ _ fun u hu => State.recvFence_keeps hu _)
  | rcProbe => exact kept_next (State.viaFab_keeps k _ _ fun u hu => State.recvProbe_keeps hu _)
  | rcProbeReply => exact kept_next (State.viaFab_keeps k _ _ fun u hu => State.recvProbeReply_keeps hu _)
  | rcFenceReq => exact kept_next (State.viaFab_keeps k _ _ fun u hu => State.recvFenceReq_keeps hu _)
  | rcStatus => exact kept_next (State.viaFab_keeps k _ _ fun u hu => State.recvStatus_keeps hu _)
  | rcOrderRollback => exact kept_next (State.viaFab_keeps k _ _ fun u hu => State.withOrder_keeps hu _ _ _
      fun v m c hv => match c with
        | none => hv
        | some _ => keeps_ite hv (State.orderRollback_keeps hv ..))
  | rcOrderAdopt => exact kept_next (State.viaFab_keeps k _ _ fun u hu => State.withOrder_keeps hu _ _ _
      fun v m c hv => State.adopt_keeps hv ..)
  | rcOrderRebuild => exact kept_next (State.viaFab_keeps k _ _ fun u hu => State.whenFree_keeps hu _ _
      fun w hw => State.withOrder_keeps hw _ _ _ fun v m c hv => match c with
        | none => hv
        | some _ => keeps_ite (State.rebuild_keeps hv ..) hv)
  | rcOrderLoad => exact kept_inRange (State.viaFab_keeps k _ _ fun u hu => State.whenFree_keeps hu _ _
      fun w hw => State.withOrder_keeps hw _ _ _ fun v m c hv => State.orderLoad'_keeps hv ..)
  | rcOrderResume => exact kept_next (State.viaFab_keeps k _ _ fun u hu => State.withOrder_keeps hu _ _ _
      fun v m c hv => match c with
        | none => hv
        | some _ => State.orderResume_keeps hv ..)
  | rcOrderHold => exact kept_next (State.viaFab_keeps k _ _ fun u hu => State.withOrder_keeps hu _ _ _
      fun v m c hv => match c with
        | none => hv
        | some _ => keeps_ite hv (State.orderHoldHere_keeps hv ..))
  | rcOrderStakeAdd => exact kept_next (State.viaFab_keeps k _ _ fun u hu => State.recvStakeAdd_keeps hu _)
  | rcReady => exact kept_next (State.viaFab_keeps k _ _ fun u hu => State.recvReady_keeps hu _)
  | ckAck => exact kept_next (State.viaFab_keeps k _ _ fun u hu => State.recvCkAck_keeps hu _)
  -- steps, detector and checkpoints
  | stepComplete => exact kept_inRange (State.stepCompleteRow_keeps k _)
  | voteSend => exact kept_inRange (keeps_ite k (State.voteRow_keeps k _))
  | rollbackRestore => exact kept_inRange (State.restoreRow_keeps k _)
  | statsPublishDone => exact kept_inRange (State.publish_keeps k _)
  | heartbeatTick => exact kept_next (keeps_ite (keeps_mk.2 k) k)
  | kaTimeout => exact kept_inRange (keeps_ite k (State.suspect_keeps k ..))
  | stepTimeout => exact kept_inRange (keeps_ite (State.stepTimeout_keeps k _) k)
  | probeTimeout => exact kept_inRange (keeps_ite (State.probeOver_keeps k ..) k)
  | moverPageCopy => exact kept_inRange (State.moverStep_keeps k _)
  | ckManifestWrite => exact kept_inRange (State.manifestStep_keeps k _)
  | ckPoolTimeout => exact kept_inRange (State.poolTimeout_keeps k _)
  | undoDeltaConvert => exact kept_inRange (State.convertOne_keeps k _)
  -- errors and hangs
  | monitorSample => exact kept_inRange (State.takeSample_keeps k ..)
  | elWdWait => exact kept_inRange (State.wdWait_keeps k ..)
  | elWdExec => exact kept_inRange (State.wdExec_keeps k ..)
  | elNetHang => exact kept_inRange (State.fatal_keeps k ..)
  | elSharedUe => exact kept_inRange (State.sharedUe_keeps k ..)
  | fatalReport => exact kept_next (keeps_ite (State.fatal_keeps k ..) k)
  | mcCrash => exact kept_next (keeps_ite (State.crash_keeps k ..) k)
  | mcRestartDone mc => exact absurd rfl (hc mc)
  -- resets and starts
  | powerLoss => exact kept_next (keeps_ite (State.losePower_keeps k) k)
  | powerOn => exact kept_next (keeps_ite k (State.tell_keeps (keeps_mk.2 k) _))
  | resetL => exact kept_next (State.resetPin_keeps k ..)
  | bootStart => exact kept_inRange (keeps_ite (State.tell_keeps (State.bootRun_keeps k _) _) k)
  | bootBackoffExpiry => exact kept_next (keeps_ite k (keeps_ite (keeps_mk.2 k) (State.retry_keeps k _)))
  | keptCodeCopy => exact kept_next (keeps_ite k (keeps_mk.2 k))
  | warmResetDone => exact kept_next (State.warmDone_keeps k)
  | knownAnswerKernelsDone => exact kept_inRange (State.kakDone_keeps k _)
  -- host ports
  | portReset => exact kept_inRange (keeps_ite (State.assertPerst_keeps (State.resetPort_keeps k _) _)
      (State.modPort_keeps (State.resetPort_keeps k _) ..))
  | hostBeatTimeout => exact kept_inRange (keeps_ite k (State.hostLoss_keeps k _))
  | hostLinkDown => exact kept_inRange (State.resetPort_keeps k _)
  | irqHoldoffExpiry => exact kept_inRange (keeps_ite k (State.emit_keeps (State.setPort_keeps k ..) _))
  | perstDeassert => exact kept_inRange (State.modPort_keeps (keeps_mk.2 k) ..)
  | hxVersionWrite => exact kept_inRange (State.bar0_keeps k _ _ fun u hu => State.versionWrite_keeps hu ..)
  | hxCplConsWrite => exact kept_inRange (State.bar0_keeps k _ _ fun u hu => State.consWrite_keeps hu ..)
  | hxHostBeatWrite => exact kept_inRange (State.bar0_keeps k _ _ fun u hu => State.beatWrite_keeps hu ..)
  | msLatSelWrite => exact kept_inRange (State.bar0_keeps k _ _ fun u hu => State.latSelWrite_keeps hu ..)
  | msHbmCfgWrite => exact kept_inRange (State.bar0_keeps k _ _ fun u hu => State.hbmCfgWrite_keeps hu _)
  | elMonCfgWrite => exact kept_inRange (State.bar0_keeps k _ _ fun u hu => State.monCfg_keeps hu ..)
  | elLogClear => exact kept_inRange (State.bar0_keeps k _ _ fun u hu => State.logClear_keeps hu _)
  | tpOvrWrite => exact kept_inRange (State.bar0_keeps k _ _ fun u hu => State.ovrWrite_keeps hu ..)
  | lkPortDisable => exact kept_inRange (State.bar0_keeps k _ _ fun u hu => State.portDisable_keeps hu ..)
  | lane0Release | lane1Release =>
    exact kept_inRange (State.bar0_keeps k _ _ fun u hu => State.laneRelease_keeps hu ..)
  | pwCapWrite => exact kept_inRange (State.bar0_keeps k _ _ fun u hu => State.modPort_keeps hu ..)
  | registerWrite => exact kept_inRange (keeps_ite (State.standbyWrite_keeps k ..)
      (State.bar0_keeps k _ _ fun u hu => State.regWrite_keeps hu ..))
  | suTimeLoRead | pwIdleEnergyLoRead =>
    exact kept_inRange (keeps_ite (keeps_mk.2 (State.answerRead_keeps k ..)) (State.answerRead_keeps k ..))
  | msGranLoRead | tpTblLoRead | elLogData0Read | elClassCntLoRead => exact kept_inRange (State.readLatch_keeps k ..)
  | pwCtxEnergyLoRead => exact kept_inRange (keeps_ite (State.modRegs_keeps (State.answerRead_keeps k ..) ..)
      (State.answerRead_keeps k ..))
  -- power
  | standbyEnter => exact kept_inRange (State.askStandby_keeps k _)
  | standbyExit => exact kept_inRange (keeps_ite (State.leaveStandby_keeps k) k)
  | phaseReceived =>
    exact kept_inRange (keeps_ite k (State.chooseAll_keeps (keeps_mk.2 (State.modCore_keeps k ..)) _))
  | controlPeriod => exact kept_next (keeps_ite (State.shareOut_keeps (State.chooseAll_keeps k _)) k)
  | operatingPointChange => exact kept_inRange (State.pointChange_keeps k _)
  | meterSample => exact kept_next (keeps_ite (State.meter_keeps k _) k)
  | excursionGateExpiry => exact kept_next (keeps_mk.2 k)
  | droopDetect => exact kept_inRange (keeps_ite k (State.noteStretch_keeps (State.setCluster_keeps k ..) _))
  | droopEnd => exact kept_inRange (State.advance_keeps (State.setCluster_keeps k ..) _)
  | throttleTick => exact kept_inRange (keeps_ite (State.throttleTick_keeps (State.setCluster_keeps k ..) ..) k)
  | pwThermTrip => exact kept_inRange (keeps_ite (State.thermTrip_keeps k _) k)
  | pwHbmHot => exact kept_inRange (keeps_ite (State.stackTemp_keeps k ..) k)
  | pwRegFault => exact kept_inRange (keeps_ite (State.fatal_keeps k ..) k)
  -- services and attestation
  | svcStatus => exact kept_next (State.svcRow_keeps k _ _ _ _ _ fun u hu => State.svcAnswer_keeps hu ..)
  | svcWrite =>
    exact kept_next (State.svcRow_keeps k _ _ _ _ _ fun u hu => State.svcAnswer_keeps (State.stage_keeps hu ..) ..)
  | svcCommit src req =>
    refine kept_next (State.svcRow_keeps k _ _ _ _ _ fun u hu => ?_)
    have hv := State.commit_keeps hu src req.target.toNat
    generalize u.commit src req.target.toNat = r at hv ⊢
    obtain ⟨v, ok⟩ := r
    exact keeps_ite (State.svcAnswer_keeps hv ..) (State.svcRefuse_keeps hv ..)
  | svcAbort => exact kept_next (State.svcRow_keeps k _ _ _ _ _ fun u hu =>
      keeps_ite (State.svcAnswer_keeps (State.releaseStaging_keeps hu) ..) (State.svcAnswer_keeps hu ..))
  | svcProvision src req =>
    refine kept_next (State.svcRow_keeps k _ _ _ _ _ fun u hu => ?_)
    have hf := u.fuses.provision_follow req.data
    generalize u.fuses.provision req.data = r at hf ⊢
    obtain ⟨status, f⟩ := r
    dsimp only at hf ⊢
    split
    · next h0 => exact State.svcAnswer_keeps (State.updDone_keeps (keeps_fuses hu (hf h0)) _) ..
    · exact keeps_ite (State.svcAnswer_keeps hu ..) (State.svcRefuse_keeps hu ..)
  | svcLifecycle => exact kept_next (State.svcRow_keeps k _ _ _ _ _ fun u hu =>
      keeps_ite (State.svcAnswer_keeps hu ..) (keeps_ite (State.svcRefuse_keeps hu ..) (keeps_ite
        (State.svcRefuse_keeps hu ..) (State.svcAnswer_keeps (State.updDone_keeps (keeps_mk.2 hu) _) ..))))
  | stagingOwnerTimeout => exact kept_next (keeps_ite (State.releaseStaging_keeps k) k)
  | flashWriteDone => exact kept_next (State.flashDone_keeps k)
  | pldmFirmwareUpdate => exact kept_next (keeps_ite k (keeps_ite (State.emit_keeps k _) (keeps_ite
      (State.emit_keeps k _) (keeps_ite (State.emit_keeps k _) (keeps_ite
      (State.emit_keeps (State.updRefused_keeps k _) _) (State.emit_keeps (State.stage_keeps k ..) _))))))
  | activateFirmware =>
    have hv := State.commit_keeps k .sideband 1
    refine kept_next (keeps_ite k (keeps_ite (State.emit_keeps k _) (keeps_ite (keeps_ite
      (State.emit_keeps (State.updRefused_keeps k _) _) ?_) (State.emit_keeps k _))))
    generalize s.commit .sideband 1 = r at hv ⊢
    obtain ⟨v, ok⟩ := r
    exact keeps_ite (State.emit_keeps hv _) (State.emit_keeps (State.updRefused_keeps hv _) _)
  | getVersion | getCapabilities | negotiateAlgorithms | getDigests =>
    exact kept_inRange (State.spdmRow_keeps k _ _ fun u hu => State.spdmSend_keeps hu ..)
  | getCertificate => exact kept_inRange (State.spdmRow_keeps k _ _ fun u hu =>
      keeps_ite (State.spdmSend_keeps hu ..) (State.spdmSend_keeps hu ..))
  | challenge =>
    refine kept_inRange (State.spdmRow_keeps k _ _ fun u hu => keeps_ite (State.spdmSend_keeps hu ..) ?_)
    have hv := State.drawBytes_keeps hu 32
    generalize u.drawBytes 32 = r at hv ⊢
    obtain ⟨mine, v⟩ := r
    exact State.spdmSend_keeps hv ..
  | getMeasurements => exact kept_inRange (State.spdmRow_keeps k _ _ fun u hu => State.measurements_keeps hu ..)
  -- sideband and board
  | setEndpointId | setEventReceiver => exact kept_next (State.sideband_keeps k _ fun u hu => keeps_mk.2 hu)
  | i3cAddressAssign =>
    exact kept_next (State.sideband_keeps k _ fun u hu => keeps_ite hu (keeps_mk.2 hu))
  | pldmCapEffecter => exact kept_next (State.sideband_keeps k _ fun u hu =>
      keeps_ite (State.emit_keeps (keeps_mk.2 hu) _) (State.emit_keeps hu _))
  | pldmStandbyEffecter => exact kept_next (State.sideband_keeps k _ fun u hu =>
      keeps_ite (State.emit_keeps hu _) (keeps_ite (State.emit_keeps (State.enterStandby_keeps hu) _) (keeps_ite
        (State.emit_keeps (State.leaveStandby_keeps hu) _) (State.emit_keeps hu _))))
  | pldmResetEffecter => exact kept_next (State.sideband_keeps k _ fun u hu =>
      keeps_ite (State.emit_keeps hu _) (keeps_ite (keeps_ite (State.emit_keeps (State.requestWarm_keeps hu _) _)
        (State.emit_keeps hu _)) (keeps_ite (State.emit_keeps (State.requestCold_keeps hu _) _)
        (State.emit_keeps hu _))))
  | tapInstruction => exact kept_next (State.sideband_keeps k _ fun u hu => State.tapIn_keeps hu _)
  | mhLeak => exact kept_next (State.sideband_keeps k _ fun u hu =>
      State.fatal_keeps (State.tell_keeps (keeps_mk.2 hu) _) ..)
  | leakSensorDry => exact kept_next (State.sideband_keeps k _ fun u hu => State.tell_keeps (keeps_mk.2 hu) _)
  | mhCoolantHot | mhFlowLow => exact kept_next (State.mhReport_keeps k ..)
  | mhInputLow | mhInputHigh =>
    exact kept_inRange (State.sideband_keeps k _ fun u hu => keeps_ite hu (State.report_keeps (keeps_mk.2 hu) ..))
  | mhCableRemoved => exact kept_inRange (State.mhReport_keeps k ..)
  | mhRefclkLost => exact kept_inRange (State.sideband_keeps k _ fun u hu =>
      State.resetPort_keeps (State.report_keeps hu ..) _)
  | mhOscFault => exact kept_next (State.sideband_keeps k _ fun u hu => State.fatal_keeps hu ..)

/-! ### The end of a restart (R441) -/

/-- A held CONTROL message takes effect as its command does. -/
theorem State.redoControl_keeps {s t : State} (h : Keeps s t) (i : Instr) : Keeps s (t.redoControl i) := by
  refine keeps_stateOf h ?_
  have hi := fun hc => exec_kept_of_not_restart i hc t
  cases i with
  | linkState | stDigest | stVote | stDecideCommit | stDecideReplay | stDecidePause | stDecideDiag | stDecideDiagDone
    | stRolled | stGoRerun | stGoHold | stGoDiagRun | fdSuspect | fdFence | rcProbe | rcProbeReply | rcFenceReq
    | rcStatus | rcOrderRollback | rcOrderAdopt | rcOrderRebuild | rcOrderLoad | rcOrderResume | rcOrderHold
    | rcOrderStakeAdd | rcReady | ckAck | tableRebuild | discoveryTimeout => exact hi nofun
  | _ => exact kept_next (Keeps.refl t)

/-- A held write takes effect as its command does. -/
theorem State.redoWrite_keeps {s t : State} (h : Keeps s t) (i : Instr) : Keeps s (t.redoWrite i) := by
  refine keeps_stateOf h ?_
  have hi := fun hc => exec_kept_of_not_restart i hc t
  cases i with
  | mbxPost | hxVersionWrite | hxCplConsWrite | hxHostBeatWrite | msLatSelWrite | msHbmCfgWrite | elMonCfgWrite
    | elLogClear | tpOvrWrite | lkPortDisable | lane0Release | lane1Release | pwCapWrite | standbyEnter
    | registerWrite => exact hi nofun
  | _ => exact kept_next (Keeps.refl t)

theorem State.restarted_keeps {s t : State} (h : Keeps s t) (mc : Mc) : Keeps s (t.restarted mc) := by
  cases mc with
  | fab =>
    refine keeps_foldl ?_ fun u l hu => keeps_ite (State.discover'_keeps hu _) hu
    refine keeps_foldl ?_ fun u i hu => State.redoControl_keeps hu i
    exact keeps_foldl (keeps_mk.2 (keeps_mk.2 h)) fun u e hu => State.announce_keeps hu ..
  | sch => exact keeps_foldl (keeps_mk.2 h) fun u i hu => State.redoWrite_keeps hu i
  | pwc => exact keeps_mk.2 h
  | sec | hlt => exact keeps_foldl (keeps_mk.2 h) fun u i hu => State.redoControl_keeps hu i

/-! ### Every command -/

/-- What a command answers follows the state it was carried out on. -/
theorem exec_keeps {c : Instr} {s t : State} (h : exec c s = .next t) : Keeps s t := by
  by_cases hc : ∃ mc, c = .mcRestartDone mc
  · obtain ⟨mc, rfl⟩ := hc
    have k := Keeps.refl s
    exact kept_next (keeps_ite (State.standbyDone_keeps (State.restarted_keeps (keeps_mk.2 k) mc)) k) t h
  · exact exec_kept_of_not_restart c (not_exists.1 hc) s t h

/-- Settles O6: the queue of waiting commands and the count of free values are the model's own fields (log 1). -/
theorem commandsLeaveTheQueue : Obligations.CommandsLeaveTheQueue := by
  unfold Obligations.CommandsLeaveTheQueue
  intro c s t h
  have k := exec_keeps h
  exact ⟨k.pending, k.drawn⟩

end Sys2Proof.Machine
end

section
/-! SUPPORT. The commands that create, start and destroy contexts, when their conditions hold (R30, R32, R33). -/

namespace Sys2Proof.Machine

open Sys2Proof

/-- The context's command is carried out: SCH takes it, and the row acts on the state without it in the order. -/
theorem exec_of_takes {i : Instr} {s t : State} {c op : Nat} {h : HostCmd} {rest : List HostCmd}
    (k : s.takes c op h rest) {f : HostCmd → State → State} (he : exec i s = inRange (ctxOk c) (s.ctxCmd c op f))
    (ht : f h { s with sch := rest } = t) : exec i s = .next t :=
  exec_of_unit he k.1 ((State.ctxCmd_takes k f).trans ht)

/-! ### CTX_START -/

/-- CTX_START of a context whose table, tag, range, skein and pair are good (R33, R279, R324, R359). -/
theorem State.startCmdCtx_good {s : State} {c : Nat} {h : HostCmd} {es : List (Nat × Nat × Bool)}
    (hst : (s.ctx c).st = .created ∨ (s.ctx c).st = .finished) {t : State}
    (ht : (s.readTable c (fieldAt h.payload 0 8)).2.touchPair c = t)
    (hclean : (s.readTable c (fieldAt h.payload 0 8)).1 = true)
    (hes : t.streamTableAt c (fieldAt h.payload 0 8) = some es)
    (htag : flag (s.ctx c).desc.flags 0 = true →
      fld (s.ctx c).regs.lkJob 0 16 ≠ 0 ∧ t.tagTaken c (fld (s.ctx c).regs.lkJob 0 16) = false)
    (hls : (s.ctx c).regs.lsRangeOk = true) (hsk : (s.ctx c).stEn = true → t.skeinOk c = true)
    (hpair : t.pairOk c = true) :
    s.startCmdCtx c h = (t.startCtx c (fieldAt h.payload 0 8) es).finish h 0 := by
  have h1 : ¬((s.ctx c).st ≠ .created ∧ (s.ctx c).st ≠ .finished) := by
    rintro ⟨a, b⟩
    exact hst.elim a b
  have h2 : (bitAt (s.ctx c).desc.flags.toNat 0 && (fld (s.ctx c).regs.lkJob 0 16 == 0 ||
      t.tagTaken c (fld (s.ctx c).regs.lkJob 0 16))) = false := by
    cases hf : bitAt (s.ctx c).desc.flags.toNat 0 with
    | false => rfl
    | true =>
      obtain ⟨ha, hb⟩ := htag hf
      simp [ha, hb]
  have h3 : ((s.ctx c).stEn && !t.skeinOk c) = false := by
    cases hf : (s.ctx c).stEn with
    | false => rfl
    | true => simp [hsk hf]
  subst ht
  simp only [State.startCmdCtx, if_neg h1, hclean, if_true, hes, h2, h3, hls, hpair, Bool.not_true, Bool.or_self,
    Bool.false_eq_true, if_false]

/-- Settles O10: SCH takes the command, and none of its checks fails. -/
theorem startRunsTheStreams : Obligations.StartRunsTheStreams := by
  unfold Obligations.StartRunsTheStreams
  intro s c h rest es k hst table t hclean hes htag hls hsk hpair
  refine exec_of_takes k rfl ?_
  exact State.startCmdCtx_good (s := { s with sch := rest }) hst rfl hclean hes htag hls hsk hpair

/-! ### CTX_CREATE -/

/-- What a context that was just built holds (R32, R136). -/
theorem State.build_ctx {s t : State} {b : List Byte} {port : Nat} {g : Grant} (hc : s.canonical = true)
    (h : s.build b port g = some t) :
    (t.ctx g.slot).st = .created ∧ (t.ctx g.slot).owner = port ∧ (t.ctx g.slot).cores = g.cores ∧
      (t.ctx g.slot).lid = g.lid.map (·, false) ∧ (t.ctx g.slot).busy = none ∧
      (t.ctx g.slot).region 0 = some ⟨g.first * 2 ^ 26, fieldAt b 0x18 8, g.mode, g.set⟩ := by
  unfold State.build at h
  extract_lets bytes base d save area old at h
  split at h
  · exact nomatch h
  next s1 hs1 =>
  extract_lets s2 s3 at h
  have h1 : Keeps s s1 := State.mapGranules_keepsO (Keeps.refl s) _ _ _ _ _ hs1
  have h2 : Keeps s s2 := keeps_foldl h1 fun u x hu => State.modCore_keeps hu _ _
  have h3 : Keeps s s3 := keeps_foldl h2 fun u x hu => State.setLidUnit_keeps hu _ _
  have hw := State.ctxs_wf (h3.form hc)
  injection h with h
  rw [← h, State.ctx_setCtx_self hw]
  exact ⟨rfl, rfl, rfl, rfl, rfl, Tbl.get_set_self (d := none) [] 0 (some _) rfl⟩

/-- CTX_CREATE whose descriptor, world and resources are good (R32). -/
theorem State.createCmd_good {s t : State} {h : HostCmd} {g : Grant} (hd : ctxDescOk h.payload h.port = true)
    (hw : fieldAt h.payload 1 1 = 1 → s.portSecure h.port = true) (hg : s.grant h.payload = some g)
    (ht : s.build h.payload h.port g = some t) :
    s.createCmd h = t.complete h 0 0 g.slot g.first (coreMaskBytes g.cores) := by
  have h2 : ¬(fieldAt h.payload 1 1 = 1 ∧ (!s.portSecure h.port) = true) := by
    rintro ⟨a, b⟩
    simp [hw a] at b
  simp only [State.createCmd, hd, hg, ht, if_neg h2, Bool.not_true, Bool.false_eq_true, if_false]

theorem execCtxCreate_idle {s : State} (hs : s.boot.stagingOwner = none) (h2 : s.boot.updState ≠ 2)
    (h3 : s.boot.updState ≠ 3) : exec .ctxCreate s = .next (s.moduleCmd 1 fun h t => t.createCmd h) := by
  have hn : ¬(s.boot.stagingOwner.isSome = true ∨ s.boot.updState = 2 ∨ s.boot.updState = 3) := by
    simp [hs, h2, h3]
  exact congrArg Host.Outcome.next (if_neg hn)

/-- Settles O9: the slot is built from the grant, and the record says what was given. -/
theorem createGivesTheSlot : Obligations.CreateGivesTheSlot := by
  unfold Obligations.CreateGivesTheSlot
  intro s t h rest g hc k hs h2 h3 hd hw hg ht
  refine ⟨?_, State.build_ctx (s := { s with sch := rest }) hc ht⟩
  rw [execCtxCreate_idle hs h2 h3, State.moduleCmd_takes k]
  exact congrArg Host.Outcome.next (State.createCmd_good hd hw hg ht)

/-! ### CTX_DESTROY and its end -/

/-- The context stops: its commands, windows and held signals are gone, and it is being zeroed (R30). -/
theorem State.destroyCtx_ctx {s : State} (hc : s.canonical = true) (c : Nat) :
    ((s.destroyCtx c).ctx c).zeroing = true ∧ ((s.destroyCtx c).ctx c).windows = [] ∧
      ((s.destroyCtx c).ctx c).heldSignals = [] := by
  unfold State.destroyCtx
  extract_lets x s1 s2 s3 s4
  have h1 : Keeps s s1 := keeps_foldl (Keeps.refl s) fun u p hu => State.modCore_keeps hu _ _
  have h2 : Keeps s s2 := keeps_ite (State.ckFail_keeps h1 ..) h1
  have h3 : Keeps s s3 := keeps_ite (State.report_keeps h2 ..) h2
  have h4 : s4.ctx c = _ := State.ctx_modCtx_self (State.ctxs_wf (h3.form hc)) c _
  have h5 : ({ s4 with fences := s4.fences.filter fun f => f.ctx != c } : State).ctx c = s4.ctx c := rfl
  rw [h5, h4]
  exact ⟨rfl, rfl, rfl⟩

/-- No fence of a context that was destroyed remains (R30). -/
theorem State.destroyCtx_fences (s : State) (c : Nat) : (s.destroyCtx c).fences.all (fun f => f.ctx != c) = true := by
  simp only [State.destroyCtx, List.all_filter]
  exact List.all_eq_true.2 fun f _ => by cases f.ctx != c <;> rfl

/-- A context whose resources were returned is FREE and holds none (R30). -/
theorem State.freeCtx_ctx {s : State} (hc : s.canonical = true) (c : Nat) :
    ((s.freeCtx c).ctx c).st = .free ∧ ((s.freeCtx c).ctx c).cores = [] ∧ ((s.freeCtx c).ctx c).lid = [] ∧
      ((s.freeCtx c).ctx c).regions = [] ∧ ((s.freeCtx c).ctx c).windows = [] ∧ ((s.freeCtx c).ctx c).busy = none ∧
      ((s.freeCtx c).ctx c).zeroing = false := by
  unfold State.freeCtx
  extract_lets x s1 s2 gs gone s3 s4
  have h1 : Keeps s s1 := keeps_foldl (Keeps.refl s) fun u p hu => State.releaseCore_keeps hu _
  have h2 : Keeps s s2 := keeps_foldl h1 fun u v hu => State.releaseLid_keeps hu _
  have h3 : Keeps s s3 := keeps_foldl h2 fun u g hu => State.freeGranule_keeps hu _
  have h4 : Keeps s s4 := keeps_mk.2 h3
  rw [State.ctx_setCtx_self (State.ctxs_wf (h4.form hc))]
  exact ⟨rfl, rfl, rfl, rfl, rfl, rfl, rfl⟩

section ZeroingDone

variable {s : State} {c : Nat}

/-- The end of zeroing waits for a restart of SEC (R441). -/
theorem State.zeroingDone_waits (hr : s.err.restarting.contains .sec = true) : s.zeroingDone c = s := by
  simp only [State.zeroingDone, hr, Bool.or_true, if_true]

variable (hz : (s.ctx c).zeroing = true) (hr : s.err.restarting.contains .sec = false)
include hz hr

theorem State.zeroingDone_busy {h : HostCmd} (hb : (s.ctx c).busy = some h) :
    s.zeroingDone c = (s.freeCtx c).finish h 0 := by
  simp only [State.zeroingDone, hz, hr, hb, Bool.not_true, Bool.or_self, Bool.false_eq_true, if_false]

theorem State.zeroingDone_idle (hb : (s.ctx c).busy = none) : s.zeroingDone c = s.freeCtx c := by
  simp only [State.zeroingDone, hz, hr, hb, Bool.not_true, Bool.or_self, Bool.false_eq_true, if_false]

end ZeroingDone

/-- Settles O12: the context's entry is the last one that stopping, and returning its resources, write. -/
theorem destroyFreesTheSlot : Obligations.DestroyFreesTheSlot := by
  unfold Obligations.DestroyFreesTheSlot
  constructor
  · intro s c h rest k hz t
    constructor
    · refine exec_of_unit rfl k.1 ?_
      rw [hz, if_neg Bool.false_ne_true]
      exact State.ctxCmd_takes k _
    · intro hc
      have hd := (State.destroyCtx_keeps (Keeps.refl { s with sch := rest }) c).form hc
      obtain ⟨h1, h2, h3⟩ := State.destroyCtx_ctx (s := { s with sch := rest }) hc c
      have ht : t.ctx c = { (State.destroyCtx { s with sch := rest } c).ctx c with busy := some h } :=
        State.ctx_modCtx_self (State.ctxs_wf hd) c _
      rw [ht]
      exact ⟨h1, rfl, h2, h3, State.destroyCtx_fences _ c⟩
  · intro s c h8 hz t
    refine ⟨fun hr => ?_, fun h hr hb => ?_, fun hr hb => ?_, fun hc => State.freeCtx_ctx hc c⟩
    · exact exec_of_unit rfl h8 (State.zeroingDone_waits hr)
    · exact exec_of_unit rfl h8 (State.zeroingDone_busy hz hr hb)
    · exact exec_of_unit rfl h8 (State.zeroingDone_idle hz hr hb)

end Sys2Proof.Machine
end

section
/-! SUPPORT. Suspending and resuming a context, when the conditions hold (R40, R41, R43, R144, R192, R246). -/

namespace Sys2Proof.Machine

open Sys2Proof

/-! ### CTX_SUSPEND and its end -/

section Suspend

variable {s : State} {c : Nat} {h : HostCmd}

theorem State.suspendCmd_starts (ha : flag (s.ctx c).desc.flags 2 = true)
    (hst : ((s.ctx c).st = .running ∧ flag (s.ctx c).desc.flags 0 = false) ∨ (s.ctx c).st = .paused) :
    s.suspendCmd c h = s.setBusy c h := by
  refine if_pos ?_
  rcases hst with ⟨hr, hf⟩ | hp
  · simp [ha, hr, hf]
  · simp [ha, hp]

/-- The save records are written and the cores released (R41). -/
theorem State.saveDone_settled (hb : (s.ctx c).busy = some h) (ho : h.opcode = 3) (hst : (s.ctx c).st ≠ .faulted)
    (hs : s.ctxSettled c = true) :
    s.saveDone c = (((((s.ctx c).cores.foldl (fun t p => t.releaseCore p)
      ((numbered (s.ctx c).cores).foldl (fun t (l, p) => t.saveCore c p l) s)).modCtx c fun y => { y with
        st := .suspended, resumeTo := (s.ctx c).st, cores := [], busy := none
        savedCounts := ((numbered (s.ctx c).cores).map fun (l, p) =>
          (⟨l, (s.core p).sentBytes, (s.core p).ackedBytes⟩ : SavedCounts)).filter fun e => !e.sent.isEmpty }).ckSnapshot
      c).finish h 0) := by
  simp only [State.saveDone, hb, ho, hst, hs, ne_eq, not_true_eq_false, Bool.not_true, Bool.false_eq_true, if_false]

end Suspend

/-! ### CTX_RESUME -/

section Resume

variable {s : State} {c : Nat} {h : HostCmd} (hls : (s.ctx c).regs.lsRangeOk = true)
include hls

theorem State.resumeCmd_paused (hst : (s.ctx c).st = .paused) :
    s.resumeCmd c h = (s.resumePausedCtx c).complete h 0 0 c 0 (coreMaskBytes (s.ctx c).cores) := by
  simp only [State.resumeCmd, hst, hls, if_true, Bool.not_true, Bool.false_eq_true, if_false]

variable (hst : (s.ctx c).st = .suspended)
include hst

/-- A map-out is copying a part of the context's granules (R246). -/
theorem State.resumeCmd_waits {ch : Nat} (hc : s.copying c = some ch) :
    s.resumeCmd c h = { s with resumeWaits := s.resumeWaits ++ [(ch, c, h)] } := by
  simp only [State.resumeCmd, hst, hls, hc, reduceCtorEq, if_true, Bool.not_true, Bool.false_eq_true, if_false]

/-- Every record is good: each core is loaded, the held signals are applied and every watch is evaluated (R43, R192). -/
theorem State.resumeCmd_suspended {cores : List Nat} (hc : s.copying c = none)
    (hp : s.chooseCores (s.ctx c).desc.placement (s.ctx c).desc.coreCount (s.ctx c).desc.coreMask = some cores)
    (hr : ∀ l, l < (s.ctx c).desc.coreCount → s.recordOk c l = true) {t : State}
    (ht : cores.foldl State.evaluateAll (((numbered cores).foldl (fun t (l, p) => t.loadCore c p l)
      (s.modCtx c fun y => { y with cores := cores, savedCounts := [] })).applyHeld c) = t)
    (hf : (t.ctx c).st ≠ .faulted) :
    s.resumeCmd c h = (((t.modCtx c fun y => { y with st := (s.ctx c).resumeTo }).complete h 0 0 c 0
      (coreMaskBytes cores)).openGate c).tryFinish c := by
  have hall : ((List.range (s.ctx c).desc.coreCount).all fun l => s.recordOk c l) = true :=
    List.all_eq_true.2 fun l hl => hr l (List.mem_range.1 hl)
  subst ht
  simp only [State.resumeCmd, hst, hls, hc, hp, hall, hf, reduceCtorEq, if_true, Bool.not_true, Bool.false_eq_true,
    if_false]

end Resume

/-- Settles O11: each clause picks one branch of CTX_SUSPEND, of its end, or of CTX_RESUME. -/
theorem suspendAndResume : Obligations.SuspendAndResume := by
  unfold Obligations.SuspendAndResume
  refine ⟨⟨?_, ?_⟩, ?_, ?_, ?_⟩
  · intro s c h rest k ha hst
    exact exec_of_takes k rfl (State.suspendCmd_starts (s := { s with sch := rest }) ha hst)
  · intro s c h h8 hb ho hst hs saved released
    exact exec_of_unit rfl h8 (State.saveDone_settled hb ho hst hs)
  · intro s c h rest k hst hls
    exact exec_of_takes k rfl (State.resumeCmd_paused (s := { s with sch := rest }) hls hst)
  · intro s c ch h rest k hst hls hc
    exact exec_of_takes k rfl (State.resumeCmd_waits (s := { s with sch := rest }) hls hst hc)
  · intro s c h rest cores k hst hls hc hp hr given loaded t hf
    exact exec_of_takes k rfl (State.resumeCmd_suspended (s := { s with sch := rest }) hls hst hc hp hr rfl hf)

end Sys2Proof.Machine
end

section
/-! SUPPORT. The sequencer's commands, each by its opcode, and where dispatch goes on (R37–R39, R226, R320, R321, R495). -/

namespace Sys2Proof.Machine

open Sys2Proof

/-! ### Counting a dispatch, and going on at the next slot -/

section Position

variable {s : State} {p : Nat} {b : List Byte}

/-- Without a signal, and inside the stream, only the number of slots and the position change. -/
theorem State.seqDone_goes_on (hc : s.canonical = true) (hsig : slotSigEn b = false)
    (hr : (s.core p).seq.running = true) {next : Nat} (hin : (s.core p).seq.inStream next = true) :
    s.seqDone p b next = s.setCore p { s.core p with
      seq := { (s.core p).seq with seqno := (s.core p).seq.seqno + 1, pos := next } } := by
  have hw := State.cores_wf hc
  have hk : (s.countDispatch p).core p = { s.core p with seq := { (s.core p).seq with
      seqno := (s.core p).seq.seqno + 1 } } := State.core_modCore_self hw p _
  have hr' : ((s.countDispatch p).core p).seq.running = true := by rw [hk]; exact hr
  have hin' : ((s.countDispatch p).core p).seq.inStream next = true := by rw [hk]; exact hin
  simp only [State.seqDone, State.signalSlot_disabled hsig, hr', if_true, State.goTo, hin']
  exact State.modCore_modCore hw p _ _

theorem State.seqJump_inStream {target : Nat} (h : (s.core p).seq.inStream target = true) (f : Seq → Seq) :
    s.seqJump p b target f = (s.modCore p fun k => { k with seq := f k.seq }).seqDone p b target := by
  simp only [State.seqJump, h, if_true]

theorem State.coreOwner_modCore (f : Core → Core) (x : Nat) : (s.modCore p f).coreOwner x = s.coreOwner x := rfl

theorem State.ctxOf_modCore (f : Core → Core) (x : Nat) : (s.modCore p f).ctxOf x = s.ctxOf x := rfl

theorem State.ctxOf_of_coreOwner {c l : Nat} (h : s.coreOwner p = some (c, l)) : s.ctxOf p = c := by
  simp only [State.ctxOf, h, Option.map_some, Option.getD_some]

end Position

/-! ### The action of each command -/

section Act

variable {s : State} {p : Nat} {b : List Byte}

theorem State.seqCallAct_good (hd : (s.core p).seq.calls.length < 8)
    (hin : (s.core p).seq.inStream (slotLong b) = true) :
    s.seqCallAct p b = (s.modCore p fun k => { k with seq := { k.seq with
      calls := ((s.core p).seq.pos + 32) :: (s.core p).seq.calls } }).seqDone p b (slotLong b) := by
  simp only [State.seqCallAct, if_neg (Nat.not_le.2 hd), State.seqJump_inStream hin]
  rfl

theorem State.seqRetAct_good {a : Nat} {r : List Nat} (hcalls : (s.core p).seq.calls = a :: r)
    (hin : (s.core p).seq.inStream a = true) :
    s.seqRetAct p b = (s.modCore p fun k => { k with seq := { k.seq with calls := r } }).seqDone p b a := by
  simp only [State.seqRetAct, hcalls, State.seqJump_inStream hin]

theorem State.seqLoopAct_enters (hn : slotAddr b ≠ 0) (hd : (s.core p).seq.loops.length < 4) :
    s.seqLoopAct p b = (s.modCore p fun k => { k with seq := { k.seq with
      loops := (slotAddr b, (s.core p).seq.pos + 32) :: (s.core p).seq.loops } }).seqDone p b
        ((s.core p).seq.pos + 32) := by
  simp only [State.seqLoopAct, if_neg hn, if_neg (Nat.not_le.2 hd)]

theorem State.seqLoopAct_skips {a : Nat} {t : State} (hn : slotAddr b = 0)
    (ha : s.afterLoop p (s.core p).seq.length ((s.core p).seq.pos + 32) 0 = (.found a, t)) :
    s.seqLoopAct p b = t.seqDone p b a := by
  simp only [State.seqLoopAct, if_pos hn, ha]

section Endloop

variable {n a : Nat} {r : List (Nat × Nat)} (hl : (s.core p).seq.loops = (n, a) :: r)
include hl

theorem State.seqEndloopAct_repeats (hn : 1 < n) :
    s.seqEndloopAct p b = (s.modCore p fun k => { k with seq := { k.seq with
      loops := (n - 1, a) :: r } }).seqDone p b a := by
  simp only [State.seqEndloopAct, hl, if_neg (Nat.not_le.2 hn)]

theorem State.seqEndloopAct_leaves (hn : n ≤ 1) :
    s.seqEndloopAct p b = (s.modCore p fun k => { k with seq := { k.seq with loops := r } }).seqDone p b
      ((s.core p).seq.pos + 32) := by
  simp only [State.seqEndloopAct, hl, if_pos hn]

end Endloop

/-- The core after END: its slot is counted and its stream has ended (R37). -/
def Core.seqEnded (k : Core) : Core :=
  { k with seq := { k.seq with seqno := k.seq.seqno + 1, ended := true, calls := [], loops := [] } }

/-- END without a signal, before what its last STEP and the other streams make of it. -/
theorem State.seqEndAct_ends (hc : s.canonical = true) (hp : s.poisonEnd p = false) (hsig : slotSigEn b = false)
    (hr : (s.core p).seq.running = true) {c l : Nat} (ho : s.coreOwner p = some (c, l)) {t : State}
    (ht : (s.core p).seq.lastStep.elim (s.modCore p Core.seqEnded) ((s.modCore p Core.seqEnded).noteCore c l) = t) :
    s.seqEndAct p b = t.tryFinish (t.ctxOf p) := by
  have hw := State.cores_wf hc
  have hr' : ((s.countDispatch p).core p).seq.running = true := by
    rw [State.countDispatch, State.core_modCore_self hw]
    exact hr
  have hm : ((s.countDispatch p).modCore p fun k => { k with seq := { k.seq with
      ended := true, calls := [], loops := [] } }) = s.modCore p Core.seqEnded := State.modCore_modCore hw p _ _
  have hl : ((s.modCore p Core.seqEnded).core p).seq.lastStep = (s.core p).seq.lastStep := by
    rw [State.core_modCore_self hw]
    rfl
  simp only [State.seqEndAct, hp, State.signalSlot_disabled hsig, hr', hm, State.coreOwner_modCore, ho, hl,
    Bool.not_true, Bool.false_eq_true, if_false]
  subst ht
  cases (s.core p).seq.lastStep <;> rfl

theorem State.seqAct_end (h : slotOp b = 1) : s.seqAct p b = s.seqEndAct p b := by
  simp only [State.seqAct, h]

theorem State.seqStepAct_inOrder (h : s.stepOrderOk (s.ctxOf p) p (slotLong b) = true) :
    s.seqStepAct p b = (s.countDispatch p).doStep p b (slotLong b) := by
  simp only [State.seqStepAct, h, Bool.not_true, Bool.false_eq_true, if_false]

theorem State.seqNotifyAct_stores (hp : s.poisonEnd p = false) (hf : (s.port (s.ctx (s.ctxOf p)).owner).full = false)
    (hw : (s.port (s.ctx (s.ctxOf p)).owner).waiting = []) :
    s.seqNotifyAct p b = (s.storeRecord (s.ctx (s.ctxOf p)).owner (recordBytes (slotLong b) 1 (s.ctxOf p) 0 0x0A 0
      (s.lcoreOf p) (leBytes 8 ((s.core p).seq.lastStep.getD 0))) true).seqDone p b ((s.core p).seq.pos + 32) := by
  simp only [State.seqNotifyAct, hp, hf, hw, List.isEmpty_nil, Bool.not_true, Bool.or_self, Bool.false_eq_true,
    if_false]

end Act

/-! ### The rows -/

/-- A sequencer row whose slot is executed now does the slot's action. -/
theorem exec_of_seqSlot {i : Instr} {s t u : State} {p op : Nat} {b : List Byte} (hp : p < 192)
    (he : exec i s = inRange (decide (p < 192)) (s.seqRow p op)) (h : s.seqSlot p op = some (b, u))
    (ht : slotOp b = op → u.seqAct p b = t) : exec i s = .next t := by
  obtain ⟨hrow, hop, _⟩ := State.seqSlot_row h
  exact exec_of_unit he hp (hrow.trans (ht hop))

/-- DRAIN is executed once every earlier command of the core has completed (R37). -/
theorem State.seqSlot_drain_quiet {s u : State} {p : Nat} {b : List Byte} (h : s.seqSlot p 9 = some (b, u)) :
    (u.core p).quiet = true := by
  obtain ⟨_, hop, hstall⟩ := State.seqSlot_row h
  simpa only [State.seqStalls, hop, Bool.not_eq_false'] using hstall

/-- NOP, PHASE and DRAIN. -/
theorem plainSeqCommands_go_on (s u : State) (p : Nat) (b : List Byte) (hp : p < 192) :
    (s.seqSlot p 0 = some (b, u) → exec (.nop p) s = .next (u.seqDone p b ((u.core p).seq.pos + 32))) ∧
    (s.seqSlot p 8 = some (b, u) → exec (.phase p) s = .next
      ((u.markPhase p (fieldAt b 0x0C 1)).seqDone p b ((u.core p).seq.pos + 32))) ∧
    (s.seqSlot p 9 = some (b, u) → exec (.drain p) s = .next (u.seqDone p b ((u.core p).seq.pos + 32))) := by
  refine ⟨fun h => ?_, fun h => ?_, fun h => ?_⟩ <;>
    exact exec_of_seqSlot hp rfl h fun ho => by simp only [State.seqAct, ho]

/-- Settles O17. That a NOTIFY before any STEP carries step 0 is the model's own choice (log 44). -/
theorem sequencerCommandsGoOn : Obligations.SequencerCommandsGoOn := by
  unfold Obligations.SequencerCommandsGoOn
  refine ⟨?_, ?_, ?_⟩
  · intro s u p b hp
    obtain ⟨hnop, hphase, hdrain⟩ := plainSeqCommands_go_on s u p b hp
    exact ⟨hnop, hphase, fun h => ⟨State.seqSlot_drain_quiet h, hdrain h⟩,
      fun hc hsig hr hin => State.seqDone_goes_on hc hsig hr hin⟩
  · intro s u p b hp q at_
    refine ⟨fun h hin => ?_, fun h hd hin => ?_, fun a r h hcalls hin => ?_, fun h hn hd => ?_, fun a v h hn ha => ?_,
      fun n a r h hl hn => ?_, fun n a r h hl hn => ?_⟩
    · exact exec_of_seqSlot hp rfl h fun ho => by
        simpa only [State.seqAct, ho] using State.seqJump_inStream hin id
    · exact exec_of_seqSlot hp rfl h fun ho => by
        simpa only [State.seqAct, ho] using State.seqCallAct_good hd hin
    · exact exec_of_seqSlot hp rfl h fun ho => by
        simpa only [State.seqAct, ho] using State.seqRetAct_good hcalls hin
    · exact exec_of_seqSlot hp rfl h fun ho => by
        simpa only [State.seqAct, ho] using State.seqLoopAct_enters hn hd
    · exact exec_of_seqSlot hp rfl h fun ho => by
        simpa only [State.seqAct, ho] using State.seqLoopAct_skips hn ha
    · exact exec_of_seqSlot hp rfl h fun ho => by
        simpa only [State.seqAct, ho] using State.seqEndloopAct_repeats hl hn
    · exact exec_of_seqSlot hp rfl h fun ho => by
        simpa only [State.seqAct, ho] using State.seqEndloopAct_leaves hl hn
  · intro s u p b hp
    refine ⟨fun c l hc h hpo hsig hown hls hr => ?_, fun c l n hc h hpo hsig hown hls hr => ?_, fun h hord => ?_,
      fun h hpo hf hw => ?_⟩
    · exact exec_of_seqSlot hp rfl h fun ho => by
        have hend := State.seqEndAct_ends hc hpo hsig hr hown (t := u.modCore p Core.seqEnded) (by rw [hls]; rfl)
        rw [State.ctxOf_modCore, State.ctxOf_of_coreOwner hown] at hend
        exact (State.seqAct_end ho).trans hend
    · exact exec_of_seqSlot hp rfl h fun ho => by
        have hend := State.seqEndAct_ends hc hpo hsig hr hown (t := (u.modCore p Core.seqEnded).noteCore c l n)
          (by rw [hls]; rfl)
        exact (State.seqAct_end ho).trans hend
    · exact exec_of_seqSlot hp rfl h fun ho => by
        simpa only [State.seqAct, ho] using State.seqStepAct_inOrder hord
    · exact exec_of_seqSlot hp rfl h fun ho => by
        simpa only [State.seqAct, ho] using State.seqNotifyAct_stores hpo hf hw

end Sys2Proof.Machine
end

section
/-! SUPPORT. A run of values laid over others, and what a table reads after a run of writes. -/

namespace Sys2Proof

variable {α : Type}

/-- The values `vs` from `lo` on, and those of `f` elsewhere. -/
def overlay (f : Nat → α) (lo : Nat) (vs : List α) (key : Nat) : α :=
  if lo ≤ key then (vs[key - lo]?).getD (f key) else f key

theorem overlay_nil (f : Nat → α) (lo : Nat) : overlay f lo [] = f := by
  funext key
  simp [overlay]

theorem overlay_append (f : Nat → α) (lo : Nat) (xs ys : List α) :
    overlay (overlay f lo xs) (lo + xs.length) ys = overlay f lo (xs ++ ys) := by
  funext key
  rcases Nat.lt_or_ge key lo with h | h
  · simp [overlay, Nat.not_le.2 h, show ¬ lo + xs.length ≤ key by omega]
  · obtain ⟨i, rfl⟩ := Nat.exists_eq_add_of_le h
    rcases Nat.lt_or_ge i xs.length with hi | hi
    · simp [overlay, List.getElem?_append_left hi, Nat.not_le.2 hi]
    · simp [overlay, List.getElem?_append_right hi, hi, show lo + i - (lo + xs.length) = i - xs.length by omega]

theorem overlay_outside (f : Nat → α) {lo key : Nat} {vs : List α} (h : key < lo ∨ lo + vs.length ≤ key) :
    overlay f lo vs key = f key := by
  rcases h with h | h
  · simp [overlay, Nat.not_le.2 h]
  · simp [overlay, List.getElem?_eq_none (show vs.length ≤ key - lo by omega)]

theorem overlay_range (f : Nat → α) (lo : Nat) (vs : List α) :
    ((List.range vs.length).map fun i => overlay f lo vs (lo + i)) = vs := by
  apply List.ext_getElem
  · simp
  · intro i _ hi
    simp [overlay, hi]

/-- Reading after a run of writes. -/
theorem Tbl.get_setRun [DecidableEq α] {d : α} {t : Tbl α} (ht : Tbl.wf d t = true) (k : Nat) (vs : List α) (j : Nat) :
    Tbl.get d (Tbl.setRun d t k vs) j = overlay (Tbl.get d t) k vs j := by
  induction vs generalizing t k with
  | nil => rw [overlay_nil, Tbl.setRun]
  | cons v r ih =>
    have h1 : Tbl.get d (Tbl.set d t k v) = overlay (Tbl.get d t) k [v] := by
      funext i
      rw [Tbl.get_set ht]
      rcases Nat.lt_trichotomy i k with h | rfl | h
      · rw [overlay_outside _ (.inl h), if_neg h.ne]
      · simp [overlay]
      · rw [overlay_outside _ (.inr h), if_neg h.ne']
    rw [Tbl.setRun, ih (Tbl.set_wf ht k v), h1]
    exact congrFun (overlay_append _ k [v] r) j

end Sys2Proof
end

section
/-! SUPPORT. The bytes of the core stores: what each step of a write of a core store leaves (R45, R219, R222, R223, R247). -/

namespace Sys2Proof.Machine

open Sys2Proof

/-! ### Reports touch no memory -/

/-- No memory and no core differs. -/
structure SameMemories (s t : State) : Prop where
  hbm : t.hbm = s.hbm
  lid : t.lid = s.lid
  lines : t.lines = s.lines
  store : t.store = s.store
  cores : t.cores = s.cores

theorem SameMemories.trans {s t u : State} (h : SameMemories s t) (k : SameMemories t u) : SameMemories s u :=
  ⟨k.hbm.trans h.hbm, k.lid.trans h.lid, k.lines.trans h.lines, k.store.trans h.store, k.cores.trans h.cores⟩

theorem State.raiseVector_sameMemories (s : State) (port vec : Nat) : SameMemories s (s.raiseVector port vec) := by
  simp only [State.raiseVector]
  split
  · exact ⟨rfl, rfl, rfl, rfl, rfl⟩
  · split <;> exact ⟨rfl, rfl, rfl, rfl, rfl⟩

theorem State.signalPort_sameMemories (s : State) (sevs : List Nat) (port : Nat) :
    SameMemories s (s.signalPort sevs port) := by
  unfold State.signalPort
  extract_lets p lim el fatal s1 s2
  have h1 : SameMemories s s1 := ⟨rfl, rfl, rfl, rfl, rfl⟩
  have h2 : SameMemories s s2 := by
    simp only [s2]
    split
    · exact h1.trans (State.raiseVector_sameMemories ..)
    · exact h1
  split
  · exact h2.trans ⟨rfl, rfl, rfl, rfl, rfl⟩
  · exact h2

theorem State.report_sameMemories (s : State) (code : Word) (w : Where) : SameMemories s (s.report code w) := by
  unfold State.report
  extract_lets secure l
  generalize Errors.logFrom 2 s.err l = r
  obtain ⟨er, sevs⟩ := r
  refine SameMemories.trans ?_ ((State.signalPort_sameMemories _ sevs 0).trans (State.signalPort_sameMemories _ sevs 1))
  exact ⟨rfl, rfl, rfl, rfl, rfl⟩

/-! ### A byte of a core store -/

/-- What an unlisted byte of a core store stands for (R247). -/
def Core.baseByte (k : Core) (key : Nat) : Byte := k.lost.elim 0 fun d => Config.lostByte d key

/-- The byte at a key of the core stores: the table of their memory holds differences from the base bytes. -/
def State.storeByte (s : State) (key : Nat) : Byte :=
  Tbl.get 0 s.store.bytes key ^^^ (s.core (key / 2 ^ 22)).baseByte key

/-- Within one core store, bytes and their differences from the base bytes give each other. -/
theorem State.baseBytes_store (s : State) {p a : Nat} {bs : List Byte} (h : a + bs.length ≤ 2 ^ 22) :
    s.baseBytes 2 (p * 2 ^ 22 + a) bs = bs.mapIdx fun i x => x ^^^ (s.core p).baseByte (p * 2 ^ 22 + a + i) := by
  rcases eq_or_ne bs [] with rfl | hb
  · simp only [State.baseBytes, if_true]
    cases (s.core ((p * 2 ^ 22 + a) / 2 ^ 22)).lost <;> rfl
  · have hlen := List.length_pos_of_ne_nil hb
    have hp : (p * 2 ^ 22 + a) / 2 ^ 22 = p := by omega
    simp only [State.baseBytes, if_true, hp, Core.baseByte]
    cases (s.core p).lost with
    | none => apply List.ext_getElem <;> simp
    | some d => apply List.ext_getElem <;> simp [xorBytes]

/-- What a core store holds over a range within it. -/
theorem State.baseBytes_getRun_store (s : State) {p a n : Nat} (h : a + n ≤ 2 ^ 22) :
    s.baseBytes 2 (p * 2 ^ 22 + a) (Tbl.getRun 0 s.store.bytes (p * 2 ^ 22 + a) n) =
      (List.range n).map fun i => s.storeByte (p * 2 ^ 22 + a + i) := by
  rw [State.baseBytes_store s (by simpa [Tbl.getRun] using h)]
  apply List.ext_getElem
  · simp [Tbl.getRun]
  · intro i hi _
    have hi : i < n := by simpa [Tbl.getRun] using hi
    have hp : (p * 2 ^ 22 + a + i) / 2 ^ 22 = p := by omega
    simp only [Tbl.getRun, List.getElem_mapIdx, List.getElem_map, List.getElem_range, State.storeByte, hp]

/-! ### A stored error is found (R222) -/

/-- Every byte of every memory is the same: only marks, stored errors and registers may differ. -/
structure SameBytes (s t : State) : Prop where
  hbm : t.hbm = s.hbm
  lid : t.lid = s.lid
  lines : t.lines = s.lines
  bytes : t.store.bytes = s.store.bytes
  lost : ∀ p, (t.core p).lost = (s.core p).lost

theorem State.modCore_lost {s : State} (hw : Tbl.wf Core.reset s.cores = true) (q : Nat) {f : Core → Core}
    (hf : ∀ k, (f k).lost = k.lost) (p : Nat) : ((s.modCore q f).core p).lost = (s.core p).lost := by
  rcases eq_or_ne p q with rfl | h
  · rw [State.core_modCore_self hw, hf]
  · rw [State.modCore, State.core_setCore_ne hw h]

theorem SameBytes.trans {s t u : State} (h : SameBytes s t) (k : SameBytes t u) : SameBytes s u :=
  ⟨k.hbm.trans h.hbm, k.lid.trans h.lid, k.lines.trans h.lines, k.bytes.trans h.bytes,
    fun p => (k.lost p).trans (h.lost p)⟩

theorem SameMemories.sameBytes {s t : State} (h : SameMemories s t) : SameBytes s t :=
  ⟨h.hbm, h.lid, h.lines, congrArg Memory.bytes h.store, fun p => by rw [State.core, State.core, h.cores]⟩

theorem State.noteError_store_sameBytes {s t : State} (h : SameBytes s t) (hw : Tbl.wf Core.reset t.cores = true)
    (key a : Nat) (ue : Bool) : SameBytes s (t.noteError 2 key a ue) := by
  refine h.trans (SameBytes.trans ?_ (State.report_sameMemories _ _ _).sameBytes)
  exact ⟨rfl, rfl, rfl, rfl, fun p => State.modCore_lost hw (key / 2 ^ 22) (by exact fun _ => rfl) p⟩

theorem State.discover_store_sameBytes {s : State} (hw : Tbl.wf Core.reset s.cores = true) (key a : Nat) :
    SameBytes s (s.discover 2 key a) := by
  unfold State.discover
  extract_lets m u
  split
  · exact ⟨rfl, rfl, rfl, rfl, fun _ => rfl⟩
  · refine State.noteError_store_sameBytes ?_ ?_ key _ _
    · exact ⟨rfl, rfl, rfl, rfl, fun _ => rfl⟩
    · exact hw

theorem SameBytes.storeByte {s t : State} (h : SameBytes s t) : t.storeByte = s.storeByte := by
  funext key
  simp only [State.storeByte, Core.baseByte, h.bytes, h.lost]

end Sys2Proof.Machine
end

section
/-! SUPPORT. A write of a core store lands, piece by piece and block by block (R45, R219, R223). -/

namespace Sys2Proof.Machine

open Sys2Proof

/-! ### Slices -/

theorem slice_eq_map (bs : List Byte) (off n : Nat) :
    slice bs off n = (List.range n).map fun i => (bs[off + i]?).getD 0 := by
  apply List.ext_getElem
  · simp [slice]
  · intro i _ hi
    have hi : i < n := by simpa using hi
    rcases Nat.lt_or_ge (off + i) bs.length with h | h
    · simp [slice, h, hi, show i < bs.length - off by omega]
    · simp [slice, h, show bs.length - off ≤ i by omega]

theorem slice_length (bs : List Byte) (off n : Nat) : (slice bs off n).length = n := by
  rw [slice_eq_map, List.length_map, List.length_range]

theorem slice_add (bs : List Byte) (off k n : Nat) : slice bs off (k + n) = slice bs off k ++ slice bs (off + k) n := by
  simp only [slice_eq_map, List.range_add, List.map_append, List.map_map, Function.comp_def, Nat.add_assoc]

theorem slice_whole (bs : List Byte) : slice bs 0 bs.length = bs := by
  simp [slice]

/-! ### Ranges cut at multiples -/

/-- The list cuts the `n` bytes from `x` on into ranges of some bytes, each beginning where the last one ended. -/
inductive Tiles : Nat → Nat → List (Nat × Nat) → Prop
  | nil (x : Nat) : Tiles x 0 []
  | cons {x k n : Nat} {l : List (Nat × Nat)} (hk : 0 < k) (h : Tiles (x + k) n l) :
    Tiles x (k + n) ((x, k) :: l)

theorem cutsFrom_tiles {z : Nat} (hz : 0 < z) (fuel x n : Nat) (h : n ≠ 0 → n + x % z ≤ z * fuel) :
    Tiles x n (cutsFrom z fuel x n) := by
  induction fuel generalizing x n with
  | zero =>
    obtain rfl : n = 0 := by omega
    exact .nil x
  | succ fuel ih =>
    rcases Nat.eq_zero_or_pos n with rfl | hn
    · exact .nil x
    · have hx := Nat.mod_lt x hz
      have h := h hn.ne'
      rw [Nat.mul_succ] at h
      have hrest : n - min n (z - x % z) ≠ 0 →
          n - min n (z - x % z) + (x + min n (z - x % z)) % z ≤ z * fuel := by
        intro hne
        have hmin : min n (z - x % z) = z - x % z := by omega
        have hmod : (x + (z - x % z)) % z = 0 := by
          have hdm := Nat.div_add_mod x z
          have hx : x + (z - x % z) = z * (x / z + 1) := by
            rw [Nat.mul_succ]
            omega
          rw [hx, Nat.mul_mod_right]
        rw [hmin, hmod]
        omega
      have hk : n = min n (z - x % z) + (n - min n (z - x % z)) := by omega
      have ht := Tiles.cons (by omega) (ih _ _ hrest)
      rw [← hk] at ht
      simpa only [cutsFrom, if_neg hn.ne'] using ht

theorem cuts_tiles {z : Nat} (hz : 0 < z) (x n : Nat) : Tiles x n (cuts z x n) := by
  refine cutsFrom_tiles hz _ x n fun _ => ?_
  have := Nat.div_add_mod (n + (z - 1) + x % z) z
  have := Nat.mod_lt (n + (z - 1) + x % z) hz
  omega

/-- What a list of numbers gives piece by piece, it gives over the range. -/
theorem Tiles.flatMap {β : Type} {x n : Nat} {l : List (Nat × Nat)} (h : Tiles x n l) (g : Nat → β) :
    (l.flatMap fun e => (List.range e.2).map fun i => g (e.1 + i)) = (List.range n).map fun i => g (x + i) := by
  induction h with
  | nil x => rfl
  | cons _ h ih => simp [ih, List.range_add, Nat.add_assoc]

theorem Tiles.within {x n : Nat} {l : List (Nat × Nat)} (h : Tiles x n l) {e : Nat × Nat} (he : e ∈ l) :
    e.1 < x + n ∧ e.1 + e.2 ≤ x + n := by
  induction h with
  | nil x => exact absurd he List.not_mem_nil
  | cons hk h ih =>
    rcases List.mem_cons.1 he with rfl | he
    · constructor <;> dsimp only <;> omega
    · have := ih he
      omega

/-! ### Reading a core store -/

theorem State.keyOf_store {s : State} {p a : Nat} (h : a < 2 ^ 22) : s.keyOf (.store p) a = some (2, p * 2 ^ 22 + a) :=
  if_pos h

theorem State.peek_store (s : State) {p a n : Nat} (h : a + n ≤ 2 ^ 22) :
    s.peek (.store p) a n = (List.range n).map fun i => s.storeByte (p * 2 ^ 22 + a + i) := by
  have ht : Tiles a n (pieces a n) := cuts_tiles (by decide) a n
  have hflat := ht.flatMap fun i => s.storeByte (p * 2 ^ 22 + i)
  simp only [← Nat.add_assoc] at hflat
  rw [← hflat]
  refine List.flatMap_congr fun e he => ?_
  obtain ⟨hlt, hle⟩ := ht.within he
  simp only [State.keyOf_store (show e.1 < 2 ^ 22 by omega)]
  exact State.baseBytes_getRun_store s (by omega)

/-! ### Writing a core store -/

/-- State `t` is `s` with the bytes `bs` written from key `lo` of the core stores on; no byte of another memory differs. -/
structure StoreWritten (s t : State) (lo : Nat) (bs : List Byte) : Prop where
  form : t.canonical = true
  hbm : t.hbm = s.hbm
  lid : t.lid = s.lid
  lines : t.lines = s.lines
  bytes : t.storeByte = overlay s.storeByte lo bs

theorem StoreWritten.nil {s : State} (h : s.canonical = true) (lo : Nat) : StoreWritten s s lo [] :=
  ⟨h, rfl, rfl, rfl, (overlay_nil _ _).symm⟩

theorem StoreWritten.append {s t u : State} {lo : Nat} {xs ys : List Byte} (h : StoreWritten s t lo xs)
    (k : StoreWritten t u (lo + xs.length) ys) : StoreWritten s u lo (xs ++ ys) :=
  ⟨k.form, k.hbm.trans h.hbm, k.lid.trans h.lid, k.lines.trans h.lines, by rw [k.bytes, h.bytes, overlay_append]⟩

/-- Bytes and their differences from the base bytes: what the table holds of a range within one core store reads as the
bytes that were put there. -/
theorem overlay_baseByte (s : State) {p a : Nat} {bs : List Byte} (h : a + bs.length ≤ 2 ^ 22) (key : Nat) :
    overlay (Tbl.get 0 s.store.bytes) (p * 2 ^ 22 + a) (bs.mapIdx fun i x => x ^^^ (s.core p).baseByte
      (p * 2 ^ 22 + a + i)) key ^^^ (s.core (key / 2 ^ 22)).baseByte key = overlay s.storeByte (p * 2 ^ 22 + a) bs key := by
  rcases Nat.lt_or_ge key (p * 2 ^ 22 + a) with hlo | hlo
  · rw [overlay_outside _ (.inl hlo), overlay_outside _ (.inl hlo), State.storeByte]
  obtain ⟨i, rfl⟩ := Nat.exists_eq_add_of_le hlo
  rcases Nat.lt_or_ge i bs.length with hi | hi
  · have hp : (p * 2 ^ 22 + a + i) / 2 ^ 22 = p := by omega
    rw [hp]
    simp [overlay, hi]
  · rw [overlay_outside _ (.inr (by simpa using hi)), overlay_outside _ (.inr (Nat.add_le_add_left hi _)),
      State.storeByte]

/-- The bytes of a piece enter the table of the core stores. -/
theorem State.put_store_written {s : State} (hc : s.canonical = true) {p a : Nat} {bs : List Byte}
    (h : a + bs.length ≤ 2 ^ 22) (bm po : Bool) :
    StoreWritten s (s.setMem 2 (s.store.put (p * 2 ^ 22 + a) (s.baseBytes 2 (p * 2 ^ 22 + a) bs) bm po))
      (p * 2 ^ 22 + a) bs := by
  have hs := State.store_wf hc
  refine ⟨(State.setMem_keeps (Keeps.refl s) 2 _ fun _ => Memory.put_wf hs ..).form hc, rfl, rfl, rfl, ?_⟩
  obtain ⟨hbytes, _⟩ := (Memory.wf_iff s.store).1 hs
  funext key
  rw [← overlay_baseByte s h, ← State.baseBytes_store s h, ← Tbl.get_setRun hbytes]
  rfl

theorem SameBytes.storeWritten {s t u : State} {lo : Nat} {bs : List Byte} (h : SameBytes s t)
    (k : StoreWritten t u lo bs) : StoreWritten s u lo bs :=
  ⟨k.form, k.hbm.trans h.hbm, k.lid.trans h.lid, k.lines.trans h.lines, by rw [k.bytes, h.storeByte]⟩

theorem State.writePiece_store {s : State} (hc : s.canonical = true) {p a : Nat} {bs : List Byte} (hb : 0 < bs.length)
    (h : a + bs.length ≤ 2 ^ 22) (po : Bool) :
    StoreWritten s (s.writePiece (.store p) a bs po) (p * 2 ^ 22 + a) bs := by
  simp only [State.writePiece, State.keyOf_store (show a < 2 ^ 22 by omega)]
  split
  · have hd := State.discover_keeps (Keeps.refl s) 2 (p * 2 ^ 22 + a) a
    exact (State.discover_store_sameBytes (State.cores_wf hc) ..).storeWritten
      (State.put_store_written (hd.form hc) h _ po)
  · exact State.put_store_written hc h _ po

/-- An update that writes each range of a list with its part of `bs` writes the whole. -/
theorem Tiles.storeWritten {x n : Nat} {l : List (Nat × Nat)} (h : Tiles x n l) {p a : Nat} {bs : List Byte}
    {f : State → Nat × Nat → State} (hf : ∀ s y k, s.canonical = true → 0 < k → y + k ≤ 2 ^ 22 →
      StoreWritten s (f s (y, k)) (p * 2 ^ 22 + y) (slice bs (y - a) k))
    (ha : a ≤ x) (hlim : x + n ≤ 2 ^ 22) {s : State} (hc : s.canonical = true) :
    StoreWritten s (l.foldl f s) (p * 2 ^ 22 + x) (slice bs (x - a) n) := by
  induction h generalizing s with
  | nil x => exact StoreWritten.nil hc _
  | @cons x k n l hk h ih =>
    have h1 := hf s x k hc hk (by omega)
    have h2 := ih (by omega) (by omega) h1.form
    rw [slice_add]
    refine h1.append ?_
    rw [slice_length, Nat.add_assoc, ← Nat.sub_add_comm ha]
    exact h2

theorem State.writeBlock_store {s : State} (hc : s.canonical = true) {p a : Nat} {bs : List Byte}
    (h : a + bs.length ≤ 2 ^ 22) (pois : List Bool) (hint : Bool) :
    StoreWritten s (s.writeBlock (.store p) a bs pois hint) (p * 2 ^ 22 + a) bs := by
  have hw := (cuts_tiles (z := 64) (by decide) a bs.length).storeWritten (p := p) (a := a) (bs := bs)
    (f := fun st e => st.writePiece (.store p) e.1 (slice bs (e.1 - a) e.2)
      ((([] : List Nat).contains (e.1 / 64 % 4) && e.2 != 64) || ((pois.drop (e.1 - a)).take e.2).any id))
    (fun s y k hs hk hlim => State.writePiece_store hs (by rwa [slice_length]) (by rwa [slice_length]) _)
    (Nat.le_refl a) h hc
  rwa [Nat.sub_self, slice_whole] at hw

/-- What is written to a core store lands, and changes nothing else (R45, R223). -/
theorem State.write_store {s : State} (hc : s.canonical = true) {p a : Nat} {bs : List Byte}
    (h : a + bs.length ≤ 2 ^ 22) (pois : List Bool) (hint : Bool) :
    StoreWritten s (s.write (.store p) a bs pois hint) (p * 2 ^ 22 + a) bs := by
  have hw := (cuts_tiles (z := 256) (by decide) a bs.length).storeWritten (p := p) (a := a) (bs := bs)
    (f := fun st e => st.writeBlock (.store p) e.1 (slice bs (e.1 - a) e.2) ((pois.drop (e.1 - a)).take e.2) hint)
    (fun s y k hs _ hlim => State.writeBlock_store hs (by rwa [slice_length]) _ hint) (Nat.le_refl a) h hc
  rwa [Nat.sub_self, slice_whole] at hw

/-- Settles O28: the write lands byte by byte, and every other byte reads as before. -/
theorem storeWritesLand : Obligations.StoreWritesLand := by
  unfold Obligations.StoreWritesLand
  intro s p a bs pois hc _ h t
  obtain ⟨_, hhbm, hlid, hlines, hbytes⟩ := State.write_store hc (p := p) h pois false
  refine ⟨?_, hhbm, hlid, hlines, fun p' b hb hout => ?_⟩
  · rw [State.peek_store t h, hbytes]
    exact overlay_range _ _ bs
  · have hkey : p' * 2 ^ 22 + b < p * 2 ^ 22 + a ∨ p * 2 ^ 22 + a + bs.length ≤ p' * 2 ^ 22 + b := by omega
    rw [State.peek_store t (by omega), State.peek_store s (by omega), hbytes]
    simpa using overlay_outside _ hkey

end Sys2Proof.Machine
end

section
/-! SUPPORT. The t2 format (R52): what its codes read as, what is written, and how its events are counted. -/

namespace Sys2Proof.Machine

open Sys2Proof

/-! ### Reading -/

/-- Reading a t2 code never flushes (t2 has no subnormal); its one event is the invalid code. -/
theorem readCode_t2 (code : Nat) (pois ftz : Bool) :
    readCode 7 code pois ftz = ⟨decodeT2 code, pois, { t2Inv := b2n (code % 4 == 2) }⟩ := rfl

theorem decodeT2_invalid {code : Nat} (h : code % 4 = 2) : decodeT2 code = .zero := by
  simp only [decodeT2, h]

theorem readCode_t2_invalid {code : Nat} (h : code % 4 = 2) (pois ftz : Bool) :
    readCode 7 code pois ftz = ⟨.zero, pois, { t2Inv := 1 }⟩ := by
  rw [readCode_t2, decodeT2_invalid h, h]
  rfl

theorem readCode_t2_valid_evt {code : Nat} (h : code % 4 ≠ 2) (pois ftz : Bool) :
    (readCode 7 code pois ftz).evt = {} := by
  rw [readCode_t2, beq_false_of_ne h]
  rfl

/-! ### Counting -/

theorem Evt.foldl_or_t2Inv (l : List Evt) (a : Evt) :
    (l.foldl Evt.or a).t2Inv = a.t2Inv + (l.map (·.t2Inv)).sum := by
  induction l generalizing a with
  | nil => rfl
  | cons b l ih =>
    have hor : (a.or b).t2Inv = a.t2Inv + b.t2Inv := rfl
    rw [List.foldl_cons, ih, hor, List.map_cons, List.sum_cons, Nat.add_assoc]

/-- The events of a command count every invalid code that it read. -/
theorem Evt.all_t2Inv (l : List Evt) : (Evt.all l).t2Inv = (l.map (·.t2Inv)).sum :=
  (Evt.foldl_or_t2Inv l {}).trans (Nat.zero_add _)

theorem Evt.all_append_t2Inv (l k : List Evt) :
    (Evt.all (l ++ k)).t2Inv = (Evt.all l).t2Inv + (Evt.all k).t2Inv := by
  simp only [Evt.all_t2Inv, List.map_append, List.sum_append]

theorem satInc_toNat (w : Word) (n : Nat) : (satInc w n).toNat = min (w.toNat + n) 0xFFFFFFFF := by
  simp only [satInc, satAdd, BitVec.toNat_ofNat]
  omega

theorem State.modRegs_regs {s : State} (h : Tbl.wf Ctx.reset s.ctxs = true) (c : Nat) (f : CtxRegs → CtxRegs) :
    ((s.modRegs c f).ctx c).regs = f (s.ctx c).regs := by
  rw [State.modRegs_eq, State.ctx_setCtx_self h]

theorem State.flagEvt_t2Count {s : State} (h : Tbl.wf Ctx.reset s.ctxs = true) (c : Nat) (e : Evt) :
    ((s.flagEvt c e).ctx c).regs.tsT2InvCnt = satInc (s.ctx c).regs.tsT2InvCnt e.t2Inv := by
  rw [State.flagEvt, State.modRegs_regs h]

/-- An invalid t2 code raises t2_invalid, whatever other flags the command raises. -/
theorem State.flagEvt_t2Flag {s : State} (h : Tbl.wf Ctx.reset s.ctxs = true) (c : Nat) {e : Evt} (he : 0 < e.t2Inv) :
    ((s.flagEvt c e).ctx c).regs.tsFlags.getLsbD 5 = true := by
  have hinv : decide (e.t2Inv ≠ 0) = true := by simpa using Nat.ne_of_gt he
  have hbit : ∀ a b c d e : Bool,
      (BitVec.ofNat 6 (b2n a + 2 * b2n b + 4 * b2n c + 8 * b2n d + 16 * b2n e + 32 * b2n true)).getLsbD 5 = true := by
    decide
  rw [State.flagEvt, State.modRegs_regs h, BitVec.getLsbD_or, hinv, hbit, Bool.or_true]

/-! ### Writing -/

/-- The code of a t2 value that is not 0, by its sign. -/
def t2One (neg : Bool) : Nat := if neg then 3 else 1

/-- A conversion into t2 writes 0b00, or the code of 1 or -1. -/
theorem convertT2_code (r : Round) (x : Num) :
    (convertT2 r x).code = 0 ∨ ∃ neg, (convertT2 r x).code = t2One neg := by
  cases x with
  | nan => exact .inl rfl
  | inf neg => exact .inr ⟨neg, rfl⟩
  | fin neg m e =>
    simp only [convertT2]
    split
    · exact .inr ⟨neg, rfl⟩
    · dsimp only
      split
      · exact .inl rfl
      · exact .inr ⟨neg, rfl⟩

theorem convertT2_code_valid (r : Round) (x : Num) : (convertT2 r x).code ≠ 2 ∧ (convertT2 r x).code < 4 := by
  have hone : ∀ neg, t2One neg ≠ 2 ∧ t2One neg < 4 := by decide
  obtain h | ⟨neg, h⟩ := convertT2_code r x
  · rw [h]; decide
  · rw [h]; exact hone neg

theorem roundTo_zero (e qe : Int) (r : Round) : roundTo 0 e qe r = 0 := by
  cases r <;> simp [roundTo]

/-- No zero is above 1, at whatever exponent it stands. -/
theorem Num.not_one_lt_zero (e : Int) : Num.lt (.fin false 1 0) (.fin false 0 e) = false := by
  simp [Num.lt, Num.scaled]

theorem convertT2_zero (r : Round) (neg : Bool) (e : Int) : (convertT2 r (.fin neg 0 e)).code = 0 := by
  simp only [convertT2, Num.not_one_lt_zero, roundTo_zero]
  rfl

/-- Settles O55: the clauses on reading, on counting and on writing, each by its lemma. -/
theorem t2CodesReadAndWrite : Obligations.T2CodesReadAndWrite := by
  unfold Obligations.T2CodesReadAndWrite
  refine ⟨fun _ pois ftz h => readCode_t2_invalid h pois ftz, fun _ pois ftz h => readCode_t2_valid_evt h pois ftz,
    Evt.all_append_t2Inv, fun s c e hc he => ?_, convertT2_code_valid, convertT2_zero⟩
  have hw := State.ctxs_wf hc
  exact ⟨State.flagEvt_t2Flag hw c he, by rw [State.flagEvt_t2Count hw, satInc_toNat]⟩

end Sys2Proof.Machine
end

section
/-! SUPPORT. The verdicts of the borders and the end of a drain (R86, R87, R92, R93, R94, R98, R332). -/

namespace Sys2Proof.Machine

open Sys2Proof

/-! ### The first two executions -/

/-- A product on operands that have been read: its executions, and what the border makes of them (R86, R94). -/
def State.borderCheck (t : State) (p : Nat) (a : Arr) (q : QCmd) (b : List Byte) (o : Ops2) (bias : List Area)
    (e1 e2 : ArrFault) : State :=
  let d := Mat.parse b
  let x := (t.core p).arr a
  let entry := x.bankOf d.bank
  let po := poisonAfter d (x.poisonOf d.bank) (d.operandPoison o)
  let r1 := execProduct d (t.numCtx p).v20 o entry e1
  let r2 := execProduct d (t.numCtx p).v20 o entry e2
  let z := (t.core p).runner a
  let seen := (t.mismatch p z q r1.mismatches).mismatch p z q r2.mismatches
  if r1.mismatches = 0 then t.settle p a q d r1 po bias
  else if r2.mismatches = 0 ∧ r2.bank = r1.bank then (seen.settle p a q d r1 po bias).brdFault p z q
  else seen.modArr p a fun y => { y with bank := d.bank, recheck := some ⟨q, b, entry, r1.bank, r2.bank, po⟩ }

/-- A product that is no no-op and whose bias is sound reads its operands and runs (R82, R98, R224). -/
theorem State.runMatmul_borderCheck {s : State} {p : Nat} {b : List Byte} (a : Arr) (q : QCmd) (e1 e2 : ArrFault)
    (hn : (Mat.parse b).noop true = false) (hb : (s.biasOf p (Mat.parse b)).2.1 = false) :
    s.runMatmul p a q b e1 e2 =
      (let d := Mat.parse b
      let bi := s.biasOf p d
      let rd := bi.2.2.readStore p (d.aSpans ++ d.bSpans)
      let o := d.ops rd.1
      (rd.2.flagEvt (((rd.2.coreOwner p).map (·.1)).getD 0) (d.readEvt o)).borderCheck p a q b o bi.1 e1 e2) := by
  simp only [State.runMatmul, hn, hb, Bool.false_eq_true, if_false, State.borderCheck]

/-! ### The third execution -/

/-- The verdict of the third execution `r3`, which array `y` ran, where `z` ran the first two (R94, R332). -/
def State.verdict (t : State) (p : Nat) (a y z : Arr) (rc : Recheck) (r3 : Exec) (bias : List Area) : State :=
  let kept := t.settle p a rc.cmd (Mat.parse rc.desc) r3 rc.poison bias
  let dropped := t.modArr p a fun x => { x with recheck := none }
  if rc.e1 = rc.e2 ∧ rc.e1 = r3.bank then (kept.brdFault p z rc.cmd).runWeft p rc.cmd
  else if rc.e1 = r3.bank ∨ rc.e2 = r3.bank then
    if y = z then dropped.coreQuarantine p rc.cmd else (kept.quarantineArr p z rc.cmd).runWeft p rc.cmd
  else dropped.coreQuarantine p rc.cmd

theorem State.tieBreak_verdict {s : State} {p : Nat} {a : Arr} {rc : Recheck} (e3 : ArrFault)
    (h : ((s.core p).arr a).recheck = some rc) :
    s.tieBreak p a e3 =
      (let d := Mat.parse rc.desc
      let rd := s.readStore p (d.aSpans ++ d.bSpans)
      let bi := rd.2.biasOf p d
      let z := (bi.2.2.core p).runner a
      let y := (bi.2.2.core p).third a
      let r3 := execProduct d (bi.2.2.numCtx p).v20 (d.ops rd.1) rc.entry e3
      (bi.2.2.mismatch p y rc.cmd r3.mismatches).verdict p a y z rc r3 bi.1) := by
  simp only [State.tieBreak, h, State.verdict, Bool.and_eq_true, Bool.or_eq_true, beq_iff_eq]

section Verdict

variable {rc : Recheck} {r3 : Exec} {y z : Arr} (t : State) (p : Nat) (a : Arr) (bias : List Area)

/-- All three executions agree: the border is at fault. -/
theorem State.verdict_border (h12 : rc.e1 = rc.e2) (h13 : rc.e1 = r3.bank) : t.verdict p a y z rc r3 bias =
    ((t.settle p a rc.cmd (Mat.parse rc.desc) r3 rc.poison bias).brdFault p z rc.cmd).runWeft p rc.cmd :=
  if_pos ⟨h12, h13⟩

/-- The third execution, of the other array, agrees with one of two that differ: the array that ran them is at fault. -/
theorem State.verdict_array (h12 : rc.e1 ≠ rc.e2) (h3 : rc.e1 = r3.bank ∨ rc.e2 = r3.bank) (hyz : y ≠ z) :
    t.verdict p a y z rc r3 bias =
      ((t.settle p a rc.cmd (Mat.parse rc.desc) r3 rc.poison bias).quarantineArr p z rc.cmd).runWeft p rc.cmd := by
  rw [State.verdict, if_neg fun h => h12 h.1, if_pos h3, if_neg hyz]

/-- The core has one array left, and its executions do not agree: the core is at fault. -/
theorem State.verdict_core_of_one_array (h12 : rc.e1 ≠ rc.e2) (h3 : rc.e1 = r3.bank ∨ rc.e2 = r3.bank) (hyz : y = z) :
    t.verdict p a y z rc r3 bias =
      (t.modArr p a fun x => { x with recheck := none }).coreQuarantine p rc.cmd := by
  rw [State.verdict, if_neg fun h => h12 h.1, if_pos h3, if_pos hyz]

/-- The third execution agrees with neither of the others: the core is at fault. -/
theorem State.verdict_core_of_third_differs (h13 : rc.e1 ≠ r3.bank) (h23 : rc.e2 ≠ r3.bank) :
    t.verdict p a y z rc r3 bias =
      (t.modArr p a fun x => { x with recheck := none }).coreQuarantine p rc.cmd := by
  rw [State.verdict, if_neg fun h => h13 h.2, if_neg (not_or.2 ⟨h13, h23⟩)]

end Verdict

/-! ### The end of a drain -/

/-- The oldest drain of an array ends first (the order is the model's own, log 17). -/
theorem State.drainDone_cons {s : State} {p : Nat} {a : Arr} {bank : Bool} {q : QCmd} {rest : List (Bool × QCmd)}
    (h : ((s.core p).arr a).drains = (bank, q) :: rest) :
    s.drainDone p a = (s.modArr p a fun x => { x with drains := rest }).arrDone p q := by
  simp only [State.drainDone, h]

/-! ### The obligation -/

/-- Settles O19: the border's verdict by how many executions it needs, and the end of a drain. That drains end oldest
first is the model's own choice (log 17), as is that a core quarantine drops the command's drain and signal (log 100). -/
theorem arrayChecksEnd : Obligations.ArrayChecksEnd := by
  unfold Obligations.ArrayChecksEnd
  constructor
  · intro s p a q b e1 e2 d bi rd o t x entry po r1 r2 z seen hn hb
    rw [State.runMatmul_borderCheck a q e1 e2 hn hb]
    refine ⟨fun h1 => ?_, fun h1 h2 h12 => ?_, fun h1 h2 => ?_⟩
    · exact if_pos h1
    · exact (if_neg h1).trans (if_pos ⟨h2, h12⟩)
    · exact (if_neg h1).trans (if_neg fun h => h2.elim (· h.1) (· h.2))
  · intro s p a hp
    constructor
    · intro e3 rc hrc d rd bi z y r3 t kept dropped
      have hrow {u : State} (hu : t.verdict p a y z rc r3 bi.1 = u) :
          exec (.borderTiebreak p a e3) s = .next (u.pumpArrays p) :=
        exec_of_unit rfl hp (congrArg (State.pumpArrays · p) ((State.tieBreak_verdict e3 hrc).trans hu))
      refine ⟨fun h12 h13 => ?_, fun h12 h3 => ⟨fun hyz => ?_, fun hyz => ?_⟩, fun h13 h23 => ?_⟩
      · exact hrow (State.verdict_border t p a bi.1 h12 h13)
      · exact hrow (State.verdict_array t p a bi.1 h12 h3 hyz)
      · exact hrow (State.verdict_core_of_one_array t p a bi.1 h12 h3 hyz)
      · exact hrow (State.verdict_core_of_third_differs t p a bi.1 h13 h23)
    · intro bank q rest h
      exact exec_of_unit rfl hp (congrArg (State.pumpArrays · p) (State.drainDone_cons h))

end Sys2Proof.Machine
end

section
/-! SUPPORT. The rows of the vector engine when their command starts at once (R36, R108, R111–R123). -/

namespace Sys2Proof.Machine

open Sys2Proof

/-! ### A row of the vector engine -/

theorem enginesOf_vector {b : List Byte} (h : slotEng b = 4) : enginesOf b = [.vec] := by
  simp only [enginesOf, h]

/-- A vector command starts, and the vector engine's queue goes on. -/
theorem State.engineRow_vector {s u : State} {p op : Nat} {f : Faults} {q : QCmd} (h : s.startsAs p 4 op f = some (q, u)) :
    slotEng q.slot = 4 ∧ slotOp q.slot = op ∧ s.engineRow p 4 op f = (u.startCmd p q).pumpFrom p .vec 32 := by
  have hes := enginesOf_vector (State.startsAs_slotEng h)
  obtain ⟨he, ho, _, hr⟩ := State.startsAs_row h (by simp [hes])
  exact ⟨he, ho, hr.trans (by simp [firstEng, hes])⟩

/-- A command of an existing core's vector engine that starts at once does what its own start does, and the queue goes on. -/
theorem exec_vector_of_start {s u v : State} {p op : Nat} {q : QCmd} {c : Instr} {start : State → Nat → QCmd → State}
    (hx : exec c s = inRange (decide (p < 192)) (s.engineRow p 4 op Faults.none)) (hp : p < 192)
    (h : s.startsAs p 4 op Faults.none = some (q, u))
    (hc : slotEng q.slot = 4 → slotOp q.slot = op → u.startCmd p q = start u p q) (hv : start u p q = v) :
    exec c s = .next (v.pumpFrom p .vec 32) := by
  obtain ⟨he, ho, hrow⟩ := State.engineRow_vector h
  exact exec_of_unit hx hp (hrow.trans (congrArg (State.pumpFrom · p .vec 32) ((hc he ho).trans hv)))

/-! ### What a vector command starts (R108) -/

section Start

variable {q : QCmd} (s : State) (p : Nat)

theorem State.startCmd_elem (he : slotEng q.slot = 4) (ho : slotOp q.slot = 1) : s.startCmd p q = s.startElem p q := by
  simp only [State.startCmd, he, ho]

theorem State.startCmd_reduce (he : slotEng q.slot = 4) (ho : slotOp q.slot = 2) :
    s.startCmd p q = s.startReduce p q := by
  simp only [State.startCmd, he, ho]

theorem State.startCmd_update (he : slotEng q.slot = 4) (ho : slotOp q.slot = 3) :
    s.startCmd p q = s.startUpdate p q := by
  simp only [State.startCmd, he, ho]

theorem State.startCmd_tableLoad (he : slotEng q.slot = 4) (ho : slotOp q.slot = 4) :
    s.startCmd p q = s.startTableLoad p q := by
  simp only [State.startCmd, he, ho]

end Start

/-! ### The start with good descriptors (R111, R115, R117, R120) -/

section Good

variable {s t : State} {p : Nat} {q : QCmd} {b : List Byte}

/-- An ELEM that passes its checks, has something to do and calls no table that is missing runs. -/
theorem State.startElem_good (hr : s.readDesc p q (slotAddr q.slot) 80 Code.veBound = (some b, t))
    (hc : (ElemD.parse b).check (t.numCtx p) = none) (hn : (ElemD.parse b).count ≠ 0) (hm : (ElemD.parse b).rows ≠ 0)
    (hl : (ElemD.parse b).op = 0x0B → (Tbl.get VTable.reset (t.core p).tables (ElemD.parse b).slot).loaded = true) :
    s.startElem p q = t.runElem p q (ElemD.parse b) := by
  have hwork : ¬((ElemD.parse b).count = 0 ∨ (ElemD.parse b).rows = 0) := not_or.2 ⟨hn, hm⟩
  have htable : ¬((ElemD.parse b).op = 0x0B ∧
      (Tbl.get VTable.reset (t.core p).tables (ElemD.parse b).slot).loaded = false) :=
    fun h => Bool.false_ne_true (h.2.symm.trans (hl h.1))
  simp only [State.startElem, hr, hc, if_neg hwork, if_neg htable]

/-- A REDUCE whose head and entries are good and that has something to add runs. -/
theorem State.startReduce_good {v : State} {eb : List Byte}
    (hr : s.readDesc p q (slotAddr q.slot) 32 Code.veBound = (some b, t)) (hh : (RedD.parse b).headOk (t.numCtx p) = true)
    (he : (RedD.parse b).entries ≠ 0) (hn : (RedD.parse b).count ≠ 0)
    (hre : t.readDesc p q (slotAddr q.slot + 32) (8 * (RedD.parse b).entries) Code.veBound = (some eb, v))
    (hc : (RedD.parse b).check (t.numCtx p) ((RedD.parse b).entriesOf eb) (if (t.numCtx p).v20 then 4 else 8) = none) :
    s.startReduce p q = v.runReduce p q (RedD.parse b) ((RedD.parse b).entriesOf eb) := by
  have hwork : ¬((RedD.parse b).entries = 0 ∨ (RedD.parse b).count = 0) := not_or.2 ⟨he, hn⟩
  simp only [State.startReduce, hr, hh, Bool.not_true, Bool.false_eq_true, if_false, if_neg he, hre, hc, if_neg hwork]

/-- An UPDATE that passes its checks and has a parameter runs. -/
theorem State.startUpdate_good (hr : s.readDesc p q (slotAddr q.slot) 128 Code.veBound = (some b, t))
    (hc : (UpdD.parse b).check (t.numCtx p) = none) (hn : (UpdD.parse b).count ≠ 0) :
    s.startUpdate p q = t.runUpdate p q (UpdD.parse b) := by
  simp only [State.startUpdate, hr, hc, if_neg hn]

/-- A TABLE_LOAD whose image has a good header and lies within the core store fills its slot and completes. -/
theorem State.startTableLoad_good {v : State} {head : List Byte}
    (hr : s.readDesc p q (slotAddr q.slot) 16 Code.veBound = (some head, t))
    (hri : t.readDesc p q (slotAddr q.slot) 2064 Code.veBound = (some b, v))
    (hx : (f32 (fieldAt head 0 4)).isFinite = true) (hw : (f32 (fieldAt head 4 4)).isFinite = true)
    (hpos : Num.lt .zero (f32 (fieldAt head 4 4)) = true) :
    s.startTableLoad p q = (v.modCore p fun k => { k with
      tables := Tbl.set VTable.reset k.tables (slotByte2 q.slot) ⟨tableImage b, true⟩ }).retire p q := by
  simp only [State.startTableLoad, hr, hx, hw, hpos, Bool.not_true, Bool.or_self, Bool.false_eq_true, if_false, hri]

end Good

/-! ### The obligation -/

/-- Settles O20: the row starts the command it names, whose checks pass. -/
theorem vectorCommandsRun : Obligations.VectorCommandsRun := by
  unfold Obligations.VectorCommandsRun
  intro s u u1 p q b hp
  refine ⟨fun h hr hc hn hm hl => ?_, fun eb u2 h hr hh he hn hre hc => ?_, fun h hr hc hn => ?_,
    fun head u0 h hr hri hx hw hpos => ?_⟩
  · exact exec_vector_of_start rfl hp h (State.startCmd_elem u p) (State.startElem_good hr hc hn hm hl)
  · exact exec_vector_of_start rfl hp h (State.startCmd_reduce u p) (State.startReduce_good hr hh he hn hre hc)
  · exact exec_vector_of_start rfl hp h (State.startCmd_update u p) (State.startUpdate_good hr hc hn)
  · exact exec_vector_of_start rfl hp h (State.startCmd_tableLoad u p) (State.startTableLoad_good hr hri hx hw hpos)

end Sys2Proof.Machine
end

section
/-! SUPPORT. Votes whose exponents differ, and the PAUSE that follows (R147); the rows of publication and of the undo
records (R137, R140, R344). -/

namespace Sys2Proof.Machine

open Sys2Proof

section Mismatch

variable {s : State} {c : Nat}

/-! ### The vote -/

/-- Exponents that differ give PAUSE for reason 6, whatever else the votes say. -/
theorem Ctx.verdict_of_mismatch (x : Ctx) {v : Vote} (hx : v.xMin ≠ v.xMax) : x.verdict v = (3, 6) := if_pos hx

/-- Without poisoned writes the row sends the vote once its conditions hold. -/
theorem State.voteRow_sends (hv : s.mayVote c = true) (hp : (s.ctx c).poisoned = false) :
    s.voteRow c = s.sendVote c := by
  simp only [State.voteRow, hv, if_true, State.voteNow, hp, Bool.false_eq_true, if_false]

theorem exec_voteSend {t : State} (hc : c < 8) (hf : .fab ∉ s.err.restarting) (ht : s.voteRow c = t) :
    exec (.voteSend c) s = .next t :=
  exec_of_unit rfl hc ((if_neg fun h => hf (List.contains_iff_mem.1 h)).trans ht)

/-- The coordinator, with its own vote and its children's, decides PAUSE and reports the mismatch on its context. -/
theorem State.sendVote_mismatch (hco : s.coordinator c = true) (hd : (s.ctx c).step.diagRunning = false)
    (hx : (s.fullVote c).xMin ≠ (s.fullVote c).xMax) :
    s.sendVote c =
      ((State.writeSlot (s.modStep c fun st => { st with voted := true, merged := some (s.fullVote c) }) c
          (s.ctx c).step.current 2).report (codeAt Code.tsLsMismatch c)
            { ctx := some c, step := some (s.ctx c).step.current }).sendDecision c
        ⟨(s.ctx c).step.current, (s.ctx c).step.attempt, 3, 6, (s.fullVote c).failChip, (s.fullVote c).failCode⟩
        s.ownChip := by
  simp only [State.sendVote, hco, hd, Ctx.verdict_of_mismatch _ hx, Bool.not_true, Bool.false_eq_true, if_false,
    if_true]

/-! ### The decision -/

/-- A message reaches FAB while it does not restart. -/
theorem State.viaFab_runs (hf : .fab ∉ s.err.restarting) (i : Instr) (f : State → State) : s.viaFab i f = f s :=
  if_neg fun h => hf (List.contains_iff_mem.1 h)

/-- A decision for the current attempt goes on to the children and is then acted on. -/
theorem State.withDecision_acts {p : Packet} {kind : Nat} {d : Decision} (h : s.decides p kind c d)
    (f : Nat → Decision → State → State) :
    s.withDecision p kind f = f c d (s.toChildren c msgDecide d.step p.data) := by
  obtain ⟨⟨-, hhere, hctx⟩, rfl, hkind, hattempt, hstep⟩ := h
  simp only [State.withDecision, hhere, hctx, Bool.not_true, Bool.false_eq_true, if_false]
  refine if_pos ⟨hkind, ?_, hattempt⟩
  by_cases h4 : kind = 4
  · exact if_pos h4
  by_cases h5 : kind = 5
  · simp only [h5, if_true, Nat.reduceEqDiff, if_false] at hstep ⊢
    obtain ⟨e, he, hes, hek⟩ := hstep
    simp [he, hes, hek]
  · simp only [h4, h5, if_false] at hstep ⊢
    obtain ⟨hcurrent, hnone⟩ := hstep
    simp [hcurrent, hnone]

/-! ### Acting on the PAUSE -/

/-- Stopping cores is no concern of the contexts. -/
theorem State.foldl_modCore_ctxs (l : List Nat) (f : Core → Core) (s : State) :
    (l.foldl (fun t p => t.modCore p f) s).ctxs = s.ctxs := by
  induction l generalizing s with
  | nil => rfl
  | cons p l ih => exact ih _

/-- The stop for a rollback leaves the context's registers alone. -/
theorem State.stopForRollback_regs (h : Tbl.wf Ctx.reset s.ctxs = true) (d : Decision) :
    ((s.stopForRollback c d).ctx c).regs = (s.ctx c).regs := by
  have hctxs : ((s.ctx c).cores.foldl (fun t p => t.modCore p Core.stop)
      (if d.kind = 4 then s else s.dropHub c d.step)).ctxs = s.ctxs := by
    rw [State.foldl_modCore_ctxs]
    split <;> rfl
  rw [State.stopForRollback, State.modStep, State.ctx_modCtx_self (hctxs ▸ h), State.ctx, hctxs, State.ctx]

/-- A PAUSE for reason 6 shows ls_mismatch. -/
theorem State.actPause_tsLsMismatch (h : s.canonical = true) {d : Decision} (hd : d.reason = 6) :
    ((s.actPause c d).ctx c).regs.tsLsMismatch = true := by
  have hwf (f : CtxRegs → CtxRegs) : Tbl.wf Ctx.reset (s.modRegs c f).ctxs = true :=
    State.ctxs_wf ((State.modRegs_keeps (Keeps.refl s) c f).form h)
  simp only [State.actPause, hd, pauseCode, State.stopForRollback_regs (hwf _), State.modRegs_regs (State.ctxs_wf h),
    beq_self_eq_true, Bool.or_true]

end Mismatch

/-- Settles O57: the row of the vote on the coordinator, the row of the PAUSE on every module, and the register that
the PAUSE sets. -/
theorem mismatchPauses : Obligations.MismatchPauses := by
  unfold Obligations.MismatchPauses
  refine ⟨fun s c hc hf hv hco hp hd hx => ?_, fun s p c d h _ => ?_, fun s c d h hd => ?_⟩
  · exact exec_voteSend hc hf ((State.voteRow_sends hv hp).trans (State.sendVote_mismatch hco hd hx))
  · obtain ⟨hf, -⟩ := h.1
    exact congrArg Host.Outcome.next ((State.viaFab_runs hf _ _).trans (State.withDecision_acts h _))
  · exact State.actPause_tsLsMismatch h hd

/-! ### Publication and undo records -/

/-- The oldest raw record of a step of the window is converted, unless a diagnosis replay runs. -/
theorem State.convertOne_oldest {s : State} {c : Nat} {u : Undo} (hd : (s.ctx c).step.diagRunning = false)
    (hu : ((s.ctx c).step.undo.find? fun e => e.kind == 1 && (s.ctx c).step.window.contains e.epoch) = some u) :
    s.convertOne c = s.convertUndo c u := by
  simp only [State.convertOne, hu, hd, Bool.false_eq_true, if_false]

/-- Settles O39: each row does its work on the record that stands first. -/
theorem publishAndConvert : Obligations.PublishAndConvert := by
  unfold Obligations.PublishAndConvert
  refine ⟨fun s c n rest hc hn => ?_, fun s c u hc hd hu => ?_⟩
  · exact exec_of_unit rfl hc (by simp only [State.publish, hn])
  · exact exec_of_unit rfl hc (State.convertOne_oldest hd hu)

end Sys2Proof.Machine
end

section
/-! SUPPORT. The deltas of XDELTA, laid out by R173, and what XAPPLY makes of them: bytes and fields of a byte string
first, then the bitmap, then the delta's own parts. -/

namespace Sys2Proof.Machine

open Sys2Proof

/-! ### Parts of a byte string -/

theorem slice_append_left {xs ys : List Byte} {off n : Nat} (h : off + n ≤ xs.length) :
    slice (xs ++ ys) off n = slice xs off n := by
  simp only [slice_eq_map]
  refine List.map_congr_left fun i hi => ?_
  rw [List.getElem?_append_left (Nat.lt_of_lt_of_le (Nat.add_lt_add_left (List.mem_range.1 hi) off) h)]

theorem slice_append_right (xs ys : List Byte) (off n : Nat) :
    slice (xs ++ ys) (xs.length + off) n = slice ys off n := by
  simp only [slice_eq_map, Nat.add_assoc, List.getElem?_append_right (Nat.le_add_right ..), Nat.add_sub_cancel_left]

theorem slice_append_whole (xs ys : List Byte) : slice (xs ++ ys) 0 xs.length = xs := by
  rw [slice_append_left (Nat.zero_add _).le, slice_whole]

/-- The part number `i` of a list put together from parts of one length. -/
theorem slice_flatMap {α : Type} {k i : Nat} {l : List α} {f : α → List Byte} {x : α} (hk : ∀ y ∈ l, (f y).length = k)
    (hi : l[i]? = some x) : slice (l.flatMap f) (k * i) k = f x := by
  induction l generalizing i with
  | nil => cases hi
  | cons y l ih =>
    obtain ⟨hy, hl⟩ := List.forall_mem_cons.1 hk
    cases i with
    | zero =>
      obtain rfl : y = x := Option.some.inj hi
      rw [List.flatMap_cons, Nat.mul_zero, ← hy, slice_append_whole]
    | succ i => rw [List.flatMap_cons, Nat.mul_succ, Nat.add_comm, ← hy, slice_append_right, hy, ih hl hi]

/-- The first `n` parts of `k` bytes are the first `k * n` bytes. -/
theorem flatMap_slice (l : List Byte) (k n : Nat) :
    ((List.range n).flatMap fun u => slice l (k * u) k) = slice l 0 (k * n) := by
  induction n with
  | zero => rfl
  | succ n ih => simp [List.range_succ, ih, Nat.mul_succ, slice_add]

theorem leBytes_length (n x : Nat) : (leBytes n x).length = n := by
  induction n generalizing x with
  | zero => rfl
  | succ n ih => rw [leBytes, List.length_cons, ih]

theorem ofLe_leBytes (n : Nat) {x : Nat} (h : x < 256 ^ n) : ofLe (leBytes n x) = x := by
  induction n generalizing x with
  | zero => exact (Nat.lt_one_iff.1 h).symm
  | succ n ih =>
    rw [leBytes, ofLe, ih (Nat.div_lt_of_lt_mul (by rwa [pow_succ'] at h)), BitVec.toNat_ofNat]
    exact Nat.mod_add_div x 256

/-- A number written before a rest is read back. -/
theorem fieldAt_leBytes_append {x n : Nat} (h : x < 256 ^ n) (xs rest : List Byte) :
    fieldAt (xs ++ (leBytes n x ++ rest)) xs.length n = x := by
  have hs := slice_append_whole (leBytes n x) rest
  rw [leBytes_length] at hs
  rw [fieldAt, ← Nat.add_zero xs.length, slice_append_right, hs, ofLe_leBytes n h]

theorem fieldAt_one (l : List Byte) (off : Nat) : fieldAt l off 1 = ((l[off]?).getD 0).toNat := by
  rw [fieldAt, slice_eq_map]
  rfl

/-! ### XOR of byte strings -/

theorem xorBytes_length {a b : List Byte} (h : a.length = b.length) : (xorBytes a b).length = a.length := by
  rw [xorBytes, List.length_zipWith, h, Nat.min_self]

theorem slice_xorBytes {a b : List Byte} (h : a.length = b.length) (off n : Nat) :
    slice (xorBytes a b) off n = xorBytes (slice a off n) (slice b off n) := by
  simp only [slice_eq_map, xorBytes, List.zipWith_map, List.zipWith_self]
  refine List.map_congr_left fun i _ => ?_
  rcases Nat.lt_or_ge (off + i) a.length with hi | hi
  · simp [hi, h ▸ hi]
  · simp [hi, h ▸ hi]

/-- A base and its difference from a byte string of its length give that byte string. -/
theorem xorBytes_xorBytes {a b : List Byte} (h : a.length = b.length) : xorBytes b (xorBytes a b) = a := by
  induction a generalizing b with
  | nil => rw [List.length_eq_zero_iff.1 h.symm]; rfl
  | cons x a ih =>
    cases b with
    | nil => cases h
    | cons y b =>
      have hy : y ^^^ (x ^^^ y) = x := by rw [BitVec.xor_comm, BitVec.xor_assoc, BitVec.xor_self, BitVec.xor_zero]
      exact congrArg₂ List.cons hy (ih (Nat.succ.inj h))

/-- A difference without a set bit is that of equal byte strings. -/
theorem eq_of_allZero_xorBytes {a b : List Byte} (h : a.length = b.length) (hz : allZero (xorBytes a b) = true) :
    b = a := by
  induction a generalizing b with
  | nil => exact List.length_eq_zero_iff.1 h.symm
  | cons x a ih =>
    cases b with
    | nil => cases h
    | cons y b =>
      obtain ⟨hx, hr⟩ := Bool.and_eq_true_iff.1 hz
      exact congrArg₂ List.cons (BitVec.xor_eq_zero_iff.1 (eq_of_beq hx)).symm (ih (Nat.succ.inj h) hr)

/-! ### The bitmap -/

theorem bitAt_eq_testBit (x i : Nat) : bitAt x i = x.testBit i := Nat.testBit_eq_decide_div_mod_eq.symm

theorem maskOf_append_singleton {l : List Nat} {n : Nat} (h : (maskOf l).testBit n = false) :
    maskOf (l ++ [n]) = 2 ^ n + maskOf l := by
  have hstep : maskOf (l ++ [n]) = if bitAt (maskOf l) n then maskOf l else maskOf l + 2 ^ n := List.foldl_append
  rw [hstep, bitAt_eq_testBit, h, if_neg Bool.false_ne_true, Nat.add_comm]

/-- The mask of a predicate on the first `n` numbers shows the predicate, and nothing above them. -/
theorem testBit_maskOf_filter (n : Nat) (keep : Nat → Bool) (j : Nat) :
    (maskOf ((List.range n).filter keep)).testBit j = (decide (j < n) && keep j) := by
  induction n generalizing j with
  | zero => simp [maskOf]
  | succ n ih =>
    have hlt : maskOf ((List.range n).filter keep) < 2 ^ n :=
      Nat.lt_pow_two_of_testBit _ fun i hi => by rw [ih, decide_eq_false (Nat.not_lt.2 hi), Bool.false_and]
    cases hk : keep n with
    | false =>
      have hsame : (List.range (n + 1)).filter keep = (List.range n).filter keep := by simp [List.range_succ, hk]
      rw [hsame, ih]
      rcases Nat.lt_trichotomy j n with hj | rfl | hj
      · simp [hj, Nat.lt_succ_of_lt hj]
      · simp [hk]
      · simp [Nat.not_lt_of_gt hj, Nat.not_lt.2 (Nat.succ_le_of_lt hj)]
    | true =>
      have hadd : maskOf ((List.range (n + 1)).filter keep) = 2 ^ n + maskOf ((List.range n).filter keep) := by
        rw [← maskOf_append_singleton (Nat.testBit_lt_two_pow hlt)]
        simp [List.range_succ, hk]
      rw [hadd]
      rcases Nat.lt_trichotomy j n with hj | rfl | hj
      · rw [Nat.testBit_two_pow_add_gt hj, ih]
        simp [hj, Nat.lt_succ_of_lt hj]
      · rw [Nat.testBit_two_pow_add_eq, Nat.testBit_lt_two_pow hlt]
        simp [hk]
      · have htop : 2 ^ n + maskOf ((List.range n).filter keep) < 2 ^ j :=
          calc _ < 2 ^ (n + 1) := by rw [pow_succ]; omega
            _ ≤ 2 ^ j := Nat.pow_le_pow_right (by decide) hj
        rw [Nat.testBit_lt_two_pow htop]
        simp [Nat.not_lt.2 (Nat.succ_le_of_lt hj)]

theorem bitmapBytes_length (n : Nat) (keep : Nat → Bool) : (bitmapBytes n keep).length = ceilDiv n 512 * 64 := by
  simp only [bitmapBytes, slice_length, List.length_map, List.length_range, roundUp, ceilDiv]
  omega

/-- Bit `u` of the bitmap says whether unit `u` is kept. -/
theorem bitAt_bitmapBytes {n u : Nat} (h : u < n) (keep : Nat → Bool) :
    bitAt (((bitmapBytes n keep)[u / 8]?).getD 0).toNat (u % 8) = keep u := by
  have hb : u / 8 < ceilDiv n 8 := by rw [ceilDiv]; omega
  have hr : u / 8 < roundUp (ceilDiv n 8) 64 := by rw [roundUp]; simp only [ceilDiv] at *; omega
  have hu : 8 * (u / 8) + u % 8 = u := Nat.div_add_mod u 8
  have h8 : u % 8 < 8 := Nat.mod_lt u (by decide)
  simp only [bitAt_eq_testBit, bitmapBytes, slice_eq_map, List.length_map, List.length_range, List.getElem?_map,
    List.getElem?_range hr, List.getElem?_range hb, Nat.zero_add, Option.map_some, Option.getD_some, BitVec.toNat_ofNat]
  rw [Nat.testBit_mod_two_pow, testBit_maskOf_filter]
  simp [h8, hu, h]

/-! ### Positions in a list -/

theorem indexOf?_some {l : List Nat} {x i : Nat} (h : indexOf? l x = some i) : l[i]? = some x := by
  induction l generalizing i with
  | nil => cases h
  | cons y l ih =>
    rw [indexOf?] at h
    split at h
    · next hy => rw [← Option.some.inj h, ← hy]; rfl
    · obtain ⟨j, hj, rfl⟩ := Option.map_eq_some_iff.1 h
      exact ih hj

theorem not_mem_of_indexOf?_none {l : List Nat} {x : Nat} (h : indexOf? l x = none) : x ∉ l := by
  induction l with
  | nil => exact List.not_mem_nil
  | cons y l ih =>
    rw [indexOf?] at h
    split at h
    · cases h
    · next hy => exact List.not_mem_cons_of_ne_of_not_mem (Ne.symm hy) (ih (Option.map_eq_none_iff.1 h))

/-! ### The delta -/

/-- The difference of unit `u`. -/
def deltaUnit (a b : Data) (u : Nat) : List Byte := ((unitsOf (xorBytes a.bytes b.bytes))[u]?).getD []

/-- The delta keeps unit `u`: it differs, or it is poisoned (R173, R177). -/
def deltaKeeps (a b : Data) (u : Nat) : Bool :=
  !allZero (deltaUnit a b u) || ((((unitPois a.pois).zip (unitPois b.pois)).map fun p => p.1 || p.2)[u]?).getD false

/-- The units that the delta keeps. -/
def deltaKept (a b : Data) : List Nat := (List.range (a.bytes.length / 64)).filter (deltaKeeps a b)

/-- The layout of R173: U, N, zeros, the bitmap, and the units kept. -/
theorem xdelta_bytes (a b : Data) : (xdelta a b).1 =
    leBytes 8 (a.bytes.length / 64) ++ leBytes 8 (deltaKept a b).length ++ zeros 48 ++
      bitmapBytes (a.bytes.length / 64) (deltaKeeps a b) ++ (deltaKept a b).flatMap (deltaUnit a b) := rfl

section Delta

variable {a b : Data}

theorem mem_deltaKept {u : Nat} : u ∈ deltaKept a b ↔ u < a.bytes.length / 64 ∧ deltaKeeps a b u = true := by
  rw [deltaKept, List.mem_filter, List.mem_range]

theorem deltaKept_length_le (a b : Data) : (deltaKept a b).length ≤ a.bytes.length / 64 :=
  (List.length_filter_le ..).trans_eq List.length_range

theorem deltaUnit_eq (h : a.bytes.length = b.bytes.length) {u : Nat} (hu : u < a.bytes.length / 64) :
    deltaUnit a b u = xorBytes (slice a.bytes (64 * u) 64) (slice b.bytes (64 * u) 64) := by
  rw [← slice_xorBytes h, deltaUnit, unitsOf, xorBytes_length h, List.getElem?_map, List.getElem?_range hu]
  rfl

theorem deltaUnit_length (h : a.bytes.length = b.bytes.length) {u : Nat} (hu : u ∈ deltaKept a b) :
    (deltaUnit a b u).length = 64 := by
  obtain ⟨hlt, -⟩ := mem_deltaKept.1 hu
  rw [deltaUnit_eq h hlt, xorBytes_length (by rw [slice_length, slice_length]), slice_length]

theorem fieldAt_xdelta_units (h : a.bytes.length < 2 ^ 48) : fieldAt (xdelta a b).1 0 8 = a.bytes.length / 64 := by
  simp only [xdelta_bytes, List.append_assoc]
  exact fieldAt_leBytes_append (by omega) [] _

theorem fieldAt_xdelta_kept (h : a.bytes.length < 2 ^ 48) : fieldAt (xdelta a b).1 8 8 = (deltaKept a b).length := by
  have hle := deltaKept_length_le a b
  have hf := fieldAt_leBytes_append (x := (deltaKept a b).length) (n := 8) (by omega) (leBytes 8 (a.bytes.length / 64))
  rw [leBytes_length] at hf
  simp only [xdelta_bytes, List.append_assoc]
  exact hf _

/-- The header and the bitmap stand before the units. -/
theorem xdelta_head_length (a b : Data) :
    (leBytes 8 (a.bytes.length / 64) ++ leBytes 8 (deltaKept a b).length ++ zeros 48 ++
      bitmapBytes (a.bytes.length / 64) (deltaKeeps a b)).length = deltaHead (a.bytes.length / 64) := by
  simp only [List.length_append, leBytes_length, bitmapBytes_length, zeros, List.length_replicate, deltaHead]

theorem deltaUnits_xdelta (a b : Data) : deltaUnits (a.bytes.length / 64) (xdelta a b).1 = deltaKept a b := by
  refine List.filter_congr fun u hu => ?_
  have hu := List.mem_range.1 hu
  have hhead : (leBytes 8 (a.bytes.length / 64) ++ leBytes 8 (deltaKept a b).length ++ zeros 48).length = 64 := by
    simp only [List.length_append, leBytes_length, zeros, List.length_replicate]
  have hmap : u / 8 < (bitmapBytes (a.bytes.length / 64) (deltaKeeps a b)).length := by
    rw [bitmapBytes_length, ceilDiv]; omega
  rw [fieldAt_one, xdelta_bytes, List.append_assoc _ (bitmapBytes _ _), List.getElem?_append_right (by omega), hhead,
    Nat.add_sub_cancel_left, List.getElem?_append_left hmap, bitAt_bitmapBytes hu]

/-- The unit of the delta that stands at place `i`. -/
theorem slice_xdelta_unit (h : a.bytes.length = b.bytes.length) {u i : Nat} (hi : (deltaKept a b)[i]? = some u) :
    slice (xdelta a b).1 (deltaHead (a.bytes.length / 64) + 64 * i) 64 = deltaUnit a b u := by
  rw [xdelta_bytes, ← xdelta_head_length a b, slice_append_right]
  exact slice_flatMap (fun u hu => deltaUnit_length h hu) hi

/-- A unit that the delta leaves out is equal in both areas. -/
theorem slice_eq_of_not_kept (h : a.bytes.length = b.bytes.length) {u : Nat} (hu : u < a.bytes.length / 64)
    (hk : u ∉ deltaKept a b) : slice b.bytes (64 * u) 64 = slice a.bytes (64 * u) 64 := by
  have hz : allZero (deltaUnit a b u) = true := by
    by_contra hz
    exact hk (mem_deltaKept.2 ⟨hu, by rw [deltaKeeps, Bool.eq_false_of_not_eq_true hz]; rfl⟩)
  exact eq_of_allZero_xorBytes (by rw [slice_length, slice_length]) (deltaUnit_eq h hu ▸ hz)

end Delta

/-! ### XAPPLY -/

/-- What XAPPLY makes of unit `u` of the base: the base XOR the delta's unit, or the base where the delta keeps none. -/
def appliedUnit (base d : Data) (u : Nat) : List Byte :=
  match indexOf? (deltaUnits (base.bytes.length / 64) d.bytes) u with
  | none => slice base.bytes (64 * u) 64
  | some i => xorBytes (slice base.bytes (64 * u) 64)
      (slice d.bytes (deltaHead (base.bytes.length / 64) + 64 * i) 64)

/-- A delta whose U and N agree with the base and the bitmap is applied unit by unit. -/
theorem xapply_good {base d : Data} (hu : fieldAt d.bytes 0 8 = base.bytes.length / 64)
    (hn : fieldAt d.bytes 8 8 = (deltaUnits (base.bytes.length / 64) d.bytes).length) :
    ∃ r, xapply base d = some r ∧
      r.bytes = (List.range (base.bytes.length / 64)).flatMap (appliedUnit base d) := by
  refine ⟨_, if_neg (not_or.2 ⟨not_not.2 hu, not_not.2 hn⟩), ?_⟩
  rw [List.flatMap_map]
  refine List.flatMap_congr fun u _ => ?_
  rw [appliedUnit]
  cases indexOf? (deltaUnits (base.bytes.length / 64) d.bytes) u <;> rfl

/-- A unit of the base with its difference is the new area's, and a unit left out has no difference. -/
theorem appliedUnit_xdelta {a b : Data} (h : a.bytes.length = b.bytes.length) {u : Nat}
    (hu : u < a.bytes.length / 64) :
    appliedUnit b ⟨(xdelta a b).1, (xdelta a b).2⟩ u = slice a.bytes (64 * u) 64 := by
  rw [appliedUnit, ← h, deltaUnits_xdelta]
  split
  · next hi => exact slice_eq_of_not_kept h hu (not_mem_of_indexOf?_none hi)
  · next i hi =>
    rw [slice_xdelta_unit h (indexOf?_some hi), deltaUnit_eq h hu,
      xorBytes_xorBytes (by rw [slice_length, slice_length])]

/-- Settles O58: the fields of the delta agree with the base, and every unit becomes the new area's. -/
theorem deltasUndoThemselves : Obligations.DeltasUndoThemselves := by
  unfold Obligations.DeltasUndoThemselves
  intro a b h hmod hlt
  have hn : fieldAt (xdelta a b).1 8 8 = (deltaUnits (a.bytes.length / 64) (xdelta a b).1).length := by
    rw [deltaUnits_xdelta, fieldAt_xdelta_kept hlt]
  obtain ⟨r, hr, hbytes⟩ := xapply_good (base := b) (d := ⟨(xdelta a b).1, (xdelta a b).2⟩)
    (h ▸ fieldAt_xdelta_units hlt) (h ▸ hn)
  refine ⟨r, hr, hbytes.trans ?_⟩
  calc _ = (List.range (a.bytes.length / 64)).flatMap fun u => slice a.bytes (64 * u) 64 := by
        rw [← h]
        exact List.flatMap_congr fun u hu => appliedUnit_xdelta h (List.mem_range.1 hu)
    _ = a.bytes := by rw [flatMap_slice, Nat.mul_div_cancel' (Nat.dvd_of_mod_eq_zero hmod), slice_whole]

end Sys2Proof.Machine
end

section
/-! SUPPORT. The rows of the copy engine when their command starts at once (R36, R155, R158, R326). -/

namespace Sys2Proof.Machine

open Sys2Proof

theorem enginesOf_copy {b : List Byte} (h : slotEng b = 5) : enginesOf b = [.copy] := by
  simp only [enginesOf, h]

section Row

variable {s u : State} {p op : Nat} {f : Faults} {q : QCmd}

/-- A copy-engine command starts, its queue goes on, and a command held at its head is noted. -/
theorem State.engineRow_copy (h : s.startsAs p 5 op f = some (q, u)) :
    slotEng q.slot = 5 ∧ slotOp q.slot = op ∧
      s.engineRow p 5 op f = ((u.startCmd p q).pumpFrom p .copy 32).noteHold p := by
  have hes := enginesOf_copy (State.startsAs_slotEng h)
  obtain ⟨he, ho, _, hr⟩ := State.startsAs_row h (by simp [hes])
  exact ⟨he, ho, hr.trans (by simp [firstEng, hes])⟩

variable {r : Instr × Nat × Nat × (State → List Byte → State)}

theorem exec_copyRow (h : r ∈ copyRows p q) :
    exec r.1 s = inRange (decide (p < 192)) (s.engineRow p 5 r.2.1 Faults.none) := by
  simp only [copyRows, List.mem_cons, List.not_mem_nil, or_false] at h
  rcases h with rfl | rfl | rfl | rfl | rfl | rfl | rfl | rfl | rfl | rfl | rfl <;> rfl

/-- Each row starts its command by the one path of all copy-engine commands, with its own plan and work (R155, R158). -/
theorem State.startCmd_copyRow (h : r ∈ copyRows p q) (he : slotEng q.slot = 5) (ho : slotOp q.slot = r.2.1) :
    s.startCmd p q = s.startCe p q r.2.2.1 (cePlan r.2.1 p) r.2.2.2 := by
  simp only [copyRows, List.mem_cons, List.not_mem_nil, or_false] at h
  rcases h with rfl | rfl | rfl | rfl | rfl | rfl | rfl | rfl | rfl | rfl | rfl <;>
    simp only [State.startCmd, he, ho] <;> rfl

/-- A copy-engine command that passes its checks, has something to do and is not skipped does its work (R158, R326). -/
theorem State.startCe_good {t : State} {d : Data} {size : Nat} {plan : State → List Byte → CePlan}
    {run : State → List Byte → State} (hr : u.read (.store p) (slotAddr q.slot) size = (d, t))
    (hb : slotAddr q.slot + size ≤ 2 ^ 22) (hp : d.pois.any (· == true) = false)
    (hc : t.planCode (u.ctxOf p) (plan t d.bytes) = none) (hn : (plan t d.bytes).noop = false)
    (hk : t.slotSkip (u.ctxOf p) q.epoch (plan t d.bytes).writes = none) :
    u.startCe p q size plan run = run t d.bytes := by
  simp only [State.startCe, if_neg (Nat.not_lt.2 hb), hr, hp, hc, hn, hk, Bool.false_eq_true, if_false]

end Row

/-- Settles O21: the row starts the command it names, whose checks pass. -/
theorem copyCommandsRun : Obligations.CopyCommandsRun := by
  unfold Obligations.CopyCommandsRun
  intro s u p q r hp hr h rd plan hb hpois hc hn hk
  obtain ⟨he, ho, hrow⟩ := State.engineRow_copy h
  have hgood : u.startCe p q r.2.2.1 (cePlan r.2.1 p) r.2.2.2 = r.2.2.2 rd.2 rd.1.bytes :=
    State.startCe_good Prod.mk.eta.symm hb hpois hc hn hk
  exact exec_of_unit (exec_copyRow hr) hp (by rw [hrow, State.startCmd_copyRow hr he ho, hgood])

end Sys2Proof.Machine
end

section
/-! SUPPORT. Answers, acknowledgements, refusals and window completions, each at what waits for it (R159, R161, R164,
R165, R184, R196, R280, R281, R497). -/

namespace Sys2Proof.Machine

open Sys2Proof

/-! ### Receipt -/

section Receive

variable {s t : State} {p : Packet} {op : Nat} {f : State → State} {i : Instr}

/-- A packet that has arrived with a good header, and that no old version refuses, is acted on and taken (R262, R274). -/
theorem State.receive_good (ha : s.arrived p op = true) (hg : goodHeader p = true) (h6 : op ≠ 6) :
    s.receive p op f = (f s).taken p := by
  simp only [State.receive, ha, hg, beq_false_of_ne h6, Bool.false_and, Bool.not_true, Bool.not_false, Bool.and_self,
    Bool.false_eq_true, if_false, if_true]

theorem State.receive_elsewhere (ha : s.arrived p op = false) : s.receive p op f = s := by
  simp only [State.receive, ha, Bool.not_false, if_true]

theorem exec_of_receive (he : exec i s = .next (s.receive p op f)) (ha : s.arrived p op = true)
    (hg : goodHeader p = true) (h6 : op ≠ 6) (hf : f s = t) : exec i s = .next (t.taken p) := by
  rw [he, State.receive_good ha hg h6, hf]

end Receive

/-! ### Read data (R161, R281) -/

/-- The answer to the one request of a remote read delivers the copy command's data, and the copy queue goes on. -/
theorem State.recvReadResp_only {s : State} {p : Packet} {c chip a n : Nat} {e : CeCmd} (ht : 0x8000 ≤ p.tag.toNat)
    (hr : s.reader p.tag.toNat = some (c, e)) (hw : e.wait = .remoteRead chip [(p.tag.toNat, a, n)] []) :
    s.recvReadResp p = ((s.dropCe c e.cmd).copyDeliver c e.cmd e.desc (gather (CopyD.parse e.desc).wants
      [(slice p.data 0 n, (unpoison p.poison.toNat p.data.length).take n)])).pump c .copy := by
  simp only [State.recvReadResp, if_pos ht, State.readData, hr, hw]
  simp

/-! ### Acknowledgements (R159, R164, R184, R281) -/

section Ack

variable {s : State} {p : Packet} {t : Nat}

/-- The count of bytes that the destination has acknowledged to core `t` covers this acknowledgement's. -/
def State.ackCounted (s : State) (t : Nat) (p : Packet) : State :=
  s.modCore t fun k => { k with
    ackedBytes := setCount k.ackedBytes p.src p.cls (epKey p.epochOf)
      (max p.arg.toNat (countOf k.ackedBytes p.src p.cls (epKey p.epochOf))) }

theorem State.recvAck_write (ht : t < 192) (htag : p.tag.toNat = t) (hj : s.jobCore t p.jobTag.toNat = true) :
    s.recvAck p = ((s.ackCounted t p).completeAcked t).pairDone (((s.ackCounted t p).completeAcked t).ctxOf t) := by
  simp only [State.recvAck, htag, if_pos ht, hj, if_true, State.ackCounted]

theorem State.recvAck_signal (ht : t < 192) (htag : p.tag.toNat = 0x100 + t)
    (hj : s.jobCore t p.jobTag.toNat = true) : s.recvAck p = (s.suDone t).pump t .sync := by
  have hcore : ¬0x100 + t < 192 := by omega
  have hsync : 0x100 ≤ 0x100 + t ∧ 0x100 + t < 0x1C0 := by omega
  simp only [State.recvAck, htag, if_neg hcore, if_pos hsync, Nat.add_sub_cancel_left, hj, if_true]

theorem State.recvAck_rsig (htag : 0x400 ≤ p.tag.toNat) (hr : s.rsigCore p.tag.toNat = some t)
    (hj : s.jobCore t p.jobTag.toNat = true) : s.recvAck p = s.rsigReceived t p.tag.toNat := by
  have hcore : ¬p.tag.toNat < 192 := by omega
  have hsync : ¬(0x100 ≤ p.tag.toNat ∧ p.tag.toNat < 0x1C0) := by omega
  have hpool : ¬(0x300 ≤ p.tag.toNat ∧ p.tag.toNat < 0x308) := by omega
  simp only [State.recvAck, if_neg hcore, if_neg hsync, if_neg hpool, hr, hj, if_true]

theorem State.rsigReceived_owned {c l : Nat} (h : s.coreOwner t = some (c, l)) (tag : Nat) :
    s.rsigReceived t tag = (s.rsigDone t tag).modCtx c fun x => { x with
      rsigAcked := (tag, l) :: x.rsigAcked.filter fun g => g.1 != tag } := by
  simp only [State.rsigReceived, h]

end Ack

/-! ### Refusals (R164, R280) -/

section Refuse

variable {s : State} {p : Packet}

theorem State.recvRefuse_write (ht : p.tag.toNat < 192) (hj : s.jobCore p.tag.toNat p.jobTag.toNat = true) :
    s.recvRefuse p = s.remoteError p.tag.toNat p.src := by
  simp only [State.recvRefuse, if_pos ht, hj, if_true]

/-- A tag of a copy's own that no command and no core waits for is of a signal whose receipt was acknowledged. -/
theorem State.recvRefuse_late (ht : 0x408 ≤ p.tag.toNat) (hr : s.rsigCore p.tag.toNat = none)
    (hd : s.reader p.tag.toNat = none) : s.recvRefuse p = s.refusedLate p := by
  have hcore : ¬p.tag.toNat < 192 := by omega
  have hsync : ¬(0x100 ≤ p.tag.toNat ∧ p.tag.toNat < 0x1C0) := by omega
  have hpool : ¬(0x300 ≤ p.tag.toNat ∧ p.tag.toNat < 0x308) := by omega
  have hrestore : ¬(0x400 ≤ p.tag.toNat ∧ p.tag.toNat < 0x408) := by omega
  simp only [State.recvRefuse, if_neg hcore, if_neg hsync, if_neg hpool, if_neg hrestore, hr, hd]

end Refuse

/-! ### Fence entries (R196, R281) -/

section Fences

variable {s u : State} {chip lcore cls epoch : Nat} {f : Fence}

/-- The oldest held signal of a ready entry leaves it and is applied, or is refused at the port it came by. -/
theorem State.releaseFence_ready {g : Packet} {port : Option Nat} {rest : List (Packet × Option Nat)}
    (hf : (s.fences.find? fun x => x.hasKey chip lcore cls epoch x.ctx && x.ready) = some f)
    (hh : f.held = (g, port) :: rest) {ok : Bool}
    (ha : (s.modFence g f.ctx fun x => { x with held := x.held.drop 1 }).applySignal f.ctx g port = (ok, u)) :
    s.releaseFence chip lcore cls epoch = if ok then u else u.refuseAt port g 6 := by
  simp only [State.releaseFence, hf, hh, ha]

end Fences

/-! ### Completions of a window read (R165, R497) -/

section Window

variable {s : State} {p : Nat} {e : CeCmd} {reqs : List (Nat × Nat)} {got : List (List Byte × List Bool)}
  {bs : List Byte}

/-- What has come of a window read once a completion without poison has filled the next request. -/
def withCompletion (reqs : List (Nat × Nat)) (got : List (List Byte × List Bool)) (bs : List Byte) :
    List (List Byte × List Bool) :=
  got ++ [(slice bs 0 ((reqs[got.length]?).getD (0, 0)).2, List.replicate ((reqs[got.length]?).getD (0, 0)).2 false)]

theorem withCompletion_length : (withCompletion reqs got bs).length = got.length + 1 := by
  rw [withCompletion, List.length_append, List.length_singleton]

variable (hw : (s.core p).windowReader = some (e, reqs, got))

include hw

theorem State.windowData_kept (h : got.length + 1 < reqs.length) :
    s.windowData p (.ok bs) = s.modCore p fun k => { k with ce := k.ce.map fun x =>
      if x.cmd.seqno = e.cmd.seqno then { x with wait := .windowRead reqs (withCompletion reqs got bs) } else x } := by
  simp only [State.windowData, hw]
  exact if_pos (withCompletion_length.trans_lt h)

theorem State.windowData_last (h : reqs.length ≤ got.length + 1) :
    s.windowData p (.ok bs) = ((s.dropCe p e.cmd).copyDeliver p e.cmd e.desc
      (gather (CopyD.parse e.desc).wants (withCompletion reqs got bs))).pump p .copy := by
  simp only [State.windowData, hw]
  exact if_neg (Nat.not_lt.2 (h.trans_eq withCompletion_length.symm))

theorem State.windowData_failed : s.windowData p .failed = s.ceError p e.cmd Code.ceWindow := by
  simp only [State.windowData, hw]

end Window

/-! ### The obligation -/

/-- Settles O27: a packet's row acts by the packet's tag on what waits under it; the rows of fences and windows act on the
oldest entry that is due. -/
theorem answersAndCompletionsArrive : Obligations.AnswersAndCompletionsArrive := by
  unfold Obligations.AnswersAndCompletionsArrive
  refine ⟨⟨?read, ?ack, ?refuse, ?ackSend, ?release, ?atomic⟩, ?window⟩
  case read =>
    intro s p c e chip a n ha hg ht hr hw
    exact exec_of_receive rfl ha hg (by decide) (State.recvReadResp_only ht hr hw)
  case ack =>
    intro s p t ha hg ht
    refine ⟨fun htag hj => ?_, fun htag hj => ?_, fun htag hr hj => ?_, fun c l _ ho => ?_⟩
    · exact exec_of_receive rfl ha hg (by decide) (State.recvAck_write ht htag hj)
    · exact exec_of_receive rfl ha hg (by decide) (State.recvAck_signal ht htag hj)
    · exact exec_of_receive rfl ha hg (by decide) (State.recvAck_rsig htag hr hj)
    · exact State.rsigReceived_owned ho p.tag.toNat
  case refuse =>
    intro s p ha hg
    exact ⟨fun ht hj => exec_of_receive rfl ha hg (by decide) (State.recvRefuse_write ht hj),
      fun ht hr hd => exec_of_receive rfl ha hg (by decide) (State.recvRefuse_late ht hr hd)⟩
  case ackSend =>
    intro s chip lcore cls epoch f hf
    refine congrArg Host.Outcome.next ?_
    simp only [State.ackFence, hf]
  case release =>
    intro s u chip lcore cls epoch f g port rest hf hh
    exact ⟨fun ha => congrArg Host.Outcome.next (State.releaseFence_ready hf hh ha),
      fun ha => congrArg Host.Outcome.next (State.releaseFence_ready hf hh ha)⟩
  case atomic =>
    intro s p
    exact ⟨fun ha hg => exec_of_receive rfl ha hg (by decide) rfl,
      fun ha => congrArg Host.Outcome.next (State.receive_elsewhere ha)⟩
  case window =>
    intro s p e reqs got bs hp hw
    exact ⟨fun h => exec_of_unit rfl hp (State.windowData_kept hw h),
      fun h => exec_of_unit rfl hp (State.windowData_last hw h), exec_of_unit rfl hp (State.windowData_failed hw)⟩

end Sys2Proof.Machine
end

section
/-! SUPPORT. An evaluation pass over a core's watches (R188), as an induction over the watches in their order: each one
fires or stays. -/

namespace Sys2Proof.Machine

open Sys2Proof

/-! ### One watch -/

/-- The watch is a claim: neither of kind 1 nor of kind 2 (R187). -/
def Watch.claims (w : Watch) : Bool := w.kind != 1 && w.kind != 2

/-- The watch fires if the pass on counter `c` comes to it now (R188). -/
abbrev Pass.fires (c : Nat) (p : Pass) (w : Watch) : Prop :=
  w.ctr = c ∧ if w.kind = 1 then w.value.toNat ≤ p.val else if w.kind = 2 then p.val = w.value.toNat
    else w.value.toNat ≤ p.val ∧ p.blocked = false

/-- The pass after a watch that fires: a claim takes its value off the counter. -/
def Pass.fire (p : Pass) (w : Watch) : Pass :=
  { p with val := if w.claims then p.val - w.value.toNat else p.val, fired := p.fired ++ [w] }

/-- The pass after a watch that stays: a claim on the counter blocks the younger ones. -/
def Pass.keep (c : Nat) (p : Pass) (w : Watch) : Pass :=
  { p with stay := p.stay ++ [w], blocked := p.blocked || (decide (w.ctr = c) && w.claims) }

section Visit

variable {c : Nat} {p : Pass} {w : Watch}

theorem Pass.visit_of_fires (h : p.fires c w) : p.visit c w = p.fire w := by
  obtain ⟨hc, hv⟩ := h
  by_cases h1 : w.kind = 1
  · simp_all [Pass.visit, Pass.fire, Watch.claims]
  · by_cases h2 : w.kind = 2 <;> simp_all [Pass.visit, Pass.fire, Watch.claims]

theorem Pass.visit_of_not_fires (h : ¬ p.fires c w) : p.visit c w = p.keep c w := by
  by_cases hc : w.ctr = c
  · by_cases h1 : w.kind = 1
    · simp_all [Pass.visit, Pass.keep, Watch.claims]
    · by_cases h2 : w.kind = 2
      · simp_all [Pass.visit, Pass.keep, Watch.claims]
      · have hb : (!p.blocked && decide (w.value.toNat ≤ p.val)) = false := by
          simpa [Pass.fires, hc, h1, h2, and_comm, imp_iff_or_not] using h
        simp [Pass.visit, Pass.keep, Watch.claims, hc, h1, h2, hb]
  · simp [Pass.visit, Pass.keep, hc]

/-- The counter has reached the value of a watch that fires. -/
theorem Pass.fires.reached (h : p.fires c w) : w.value.toNat ≤ p.val := by
  obtain ⟨-, hv⟩ := h
  split at hv
  · exact hv
  · split at hv
    · exact hv.ge
    · exact hv.1

/-- What a watch that fires leaves of the counter, and what it takes off it, are what the counter was. -/
theorem Pass.fire_val_add (h : p.fires c w) : (p.fire w).val + (if w.claims then w.value.toNat else 0) = p.val := by
  have hr := h.reached
  simp only [Pass.fire]
  split
  · omega
  · rfl

/-- A pass stays unblocked unless it meets a claim on the counter whose value is not reached. -/
theorem Pass.visit_not_blocked_iff : (p.visit c w).blocked = false ↔
    p.blocked = false ∧ (w.ctr = c → w.claims = true → w.value.toNat ≤ p.val) := by
  by_cases h : p.fires c w
  · rw [Pass.visit_of_fires h]
    exact (and_iff_left fun _ _ => h.reached).symm
  · rw [Pass.visit_of_not_fires h]
    simp only [Pass.keep, Bool.or_eq_false_iff, Bool.and_eq_false_iff, decide_eq_false_iff_not]
    refine and_congr_right fun hb => ?_
    simp only [Watch.claims, Pass.fires] at h ⊢
    grind

end Visit

/-! ### The pass -/

section Whole

variable (c v : Nat)

theorem passOn_concat (ws : List Watch) (w : Watch) : passOn c v (ws ++ [w]) = (passOn c v ws).visit c w := by
  simp only [passOn, List.foldl_append, List.foldl_cons, List.foldl_nil]

/-- What holds of a pass over no watch, and goes on to hold when one more fires and when one more stays, holds of every
pass. -/
theorem passOn_induction {P : List Watch → Pass → Prop} (nil : P [] ⟨v, [], [], false⟩)
    (fire : ∀ ws w, (passOn c v ws).fires c w → P ws (passOn c v ws) → P (ws ++ [w]) ((passOn c v ws).fire w))
    (keep : ∀ ws w, ¬(passOn c v ws).fires c w → P ws (passOn c v ws) → P (ws ++ [w]) ((passOn c v ws).keep c w))
    (ws : List Watch) : P ws (passOn c v ws) := by
  induction ws using List.reverseRecOn with
  | nil => exact nil
  | append_singleton ws w ih =>
    rw [passOn_concat]
    by_cases h : (passOn c v ws).fires c w
    · rw [Pass.visit_of_fires h]
      exact fire ws w h ih
    · rw [Pass.visit_of_not_fires h]
      exact keep ws w h ih

theorem mem_passOn_stay_or_fired (ws : List Watch) :
    ∀ w ∈ ws, w ∈ (passOn c v ws).stay ∨ w ∈ (passOn c v ws).fired := by
  refine passOn_induction c v (P := fun ws p => ∀ w ∈ ws, w ∈ p.stay ∨ w ∈ p.fired) (by simp)
    (fun ws w _ ih x hx => ?_) (fun ws w _ ih x hx => ?_) ws <;>
    rcases List.mem_append.1 hx with h | h
  · exact (ih x h).imp id (List.mem_append_left _)
  · exact .inr (List.mem_append_right _ h)
  · exact (ih x h).imp (List.mem_append_left _) id
  · exact .inl (List.mem_append_right _ h)

theorem passOn_fired_sublist (ws : List Watch) : (passOn c v ws).fired.Sublist ws :=
  passOn_induction c v (P := fun ws p => p.fired.Sublist ws) .slnil (fun _ w _ ih => ih.append_right [w])
    (fun ws w _ ih => ih.trans (List.sublist_append_left ws [w])) ws

theorem passOn_stay_sublist (ws : List Watch) : (passOn c v ws).stay.Sublist ws :=
  passOn_induction c v (P := fun ws p => p.stay.Sublist ws) .slnil
    (fun ws w _ ih => ih.trans (List.sublist_append_left ws [w])) (fun _ w _ ih => ih.append_right [w]) ws

/-- What the claims that fire take is all that the counter loses. -/
theorem passOn_val_add_claimed (ws : List Watch) :
    (passOn c v ws).val + (((passOn c v ws).fired.filter Watch.claims).map fun w => w.value.toNat).sum = v := by
  refine passOn_induction c v
    (P := fun _ p => p.val + ((p.fired.filter Watch.claims).map fun w => w.value.toNat).sum = v) rfl (fun ws w h ih => ?_) (fun _ _ _ ih => ih) ws
  have hv := Pass.fire_val_add h
  have hf : ((passOn c v ws).fire w).fired = (passOn c v ws).fired ++ [w] := rfl
  rw [hf, List.filter_append, List.map_append, List.sum_append]
  cases hc : w.claims <;> simp only [hc, List.filter_cons, List.filter_nil, Bool.false_eq_true, if_true, if_false,
    List.map_cons, List.map_nil, List.sum_cons, List.sum_nil] at hv ⊢ <;> omega

theorem passOn_val_le (ws : List Watch) : (passOn c v ws).val ≤ v :=
  (Nat.le_add_right _ _).trans_eq (passOn_val_add_claimed c v ws)

theorem passOn_fired_reached (ws : List Watch) : ∀ w ∈ (passOn c v ws).fired, w.ctr = c ∧ w.value.toNat ≤ v := by
  refine passOn_induction c v (P := fun _ p => ∀ w ∈ p.fired, w.ctr = c ∧ w.value.toNat ≤ v) (by simp)
    (fun ws w h ih x hx => ?_) (fun _ _ _ ih => ih) ws
  rcases List.mem_append.1 hx with hx | hx
  · exact ih x hx
  · obtain rfl := List.mem_singleton.1 hx
    exact ⟨h.1, h.reached.trans (passOn_val_le c v ws)⟩

/-- The flags `f` say of each watch whether it fires; each flag is decided by the pass over the older watches. -/
structure PassFlags (ws : List Watch) (p : Pass) (f : List Bool) : Prop where
  length : f.length = ws.length
  fired : p.fired = ((ws.zip f).filter (·.2)).map (·.1)
  stay : p.stay = ((ws.zip f).filter (!·.2)).map (·.1)
  flag : ∀ i w, ws[i]? = some w → (f[i]? = some true ↔ (passOn c v (ws.take i)).fires c w)

variable {c v} in
theorem PassFlags.flag_concat {ws : List Watch} {p : Pass} {f : List Bool} (hf : PassFlags c v ws p f) {w : Watch}
    {b : Bool} (hb : b = true ↔ (passOn c v ws).fires c w) (i : Nat) (x : Watch) (hx : (ws ++ [w])[i]? = some x) :
    (f ++ [b])[i]? = some true ↔ (passOn c v ((ws ++ [w]).take i)).fires c x := by
  have hl := hf.length
  rcases Nat.lt_or_ge i ws.length with h | h
  · rw [List.getElem?_append_left (hl ▸ h), List.take_append_of_le_length h.le]
    exact hf.flag i x ((List.getElem?_append_left h).symm.trans hx)
  · obtain rfl : i = ws.length := by
      have := (List.getElem?_eq_some_iff.1 hx).1
      simp only [List.length_append, List.length_singleton] at this
      omega
    obtain rfl : w = x := by simpa using hx
    rw [List.take_left, List.getElem?_append_right hl.le, hl, Nat.sub_self, ← hb]
    simp

theorem exists_passFlags (ws : List Watch) : ∃ f, PassFlags c v ws (passOn c v ws) f := by
  refine passOn_induction c v (P := fun ws p => ∃ f, PassFlags c v ws p f) ⟨[], rfl, rfl, rfl, by simp⟩
    (fun ws w h ih => ?_) (fun ws w h ih => ?_) ws <;>
    obtain ⟨f, hf⟩ := ih
  · exact ⟨f ++ [true], by simp [hf.length], by simp [Pass.fire, List.zip_append hf.length.symm, hf.fired],
      by simp [Pass.fire, List.zip_append hf.length.symm, hf.stay], hf.flag_concat (iff_of_true rfl h)⟩
  · exact ⟨f ++ [false], by simp [hf.length], by simp [Pass.keep, List.zip_append hf.length.symm, hf.fired],
      by simp [Pass.keep, List.zip_append hf.length.symm, hf.stay], hf.flag_concat (iff_of_false Bool.false_ne_true h)⟩

/-- Younger claims are not blocked as long as every older claim on the counter has found it at its value. -/
theorem passOn_not_blocked_iff (ws : List Watch) (i : Nat) : (passOn c v (ws.take i)).blocked = false ↔
    ∀ j x, j < i → ws[j]? = some x → x.ctr = c → x.claims = true →
      x.value.toNat ≤ (passOn c v (ws.take j)).val := by
  induction i with
  | zero => simp [passOn]
  | succ i ih =>
    simp only [Nat.lt_succ_iff_lt_or_eq, or_imp, forall_and, ← ih]
    rw [List.take_add_one]
    cases hw : ws[i]? with
    | none => simp +contextual [hw]
    | some w =>
      rw [Option.toList_some, passOn_concat, Pass.visit_not_blocked_iff]
      refine and_congr_right fun _ => ⟨fun h j x hj hx => ?_, fun h => h i w rfl hw⟩
      subst hj
      exact Option.some.inj (hw.symm.trans hx) ▸ h

end Whole

/-- Settles O25: each clause is a fact about the pass; whether a watch fires rests on the pass over the older ones. -/
theorem watchesFireInOrder : Obligations.WatchesFireInOrder := by
  unfold Obligations.WatchesFireInOrder
  intro c v ws
  refine ⟨mem_passOn_stay_or_fired c v ws, passOn_val_add_claimed c v ws, passOn_fired_reached c v ws,
    passOn_fired_sublist c v ws, passOn_stay_sublist c v ws, ?_⟩
  obtain ⟨f, hlength, hfired, hstay, hflag⟩ := exists_passFlags c v ws
  refine ⟨f, hlength, hfired, hstay, fun i w hw => (hflag i w hw).trans ?_⟩
  simp only [Pass.fires, passOn_not_blocked_iff, Watch.claims, Bool.and_eq_true, bne_iff_ne, ne_eq, and_imp]

end Sys2Proof.Machine
end

section
/-! SUPPORT. Changes of a core's counters, and the messages of the hubs (R183, R187–R191, R206). -/

namespace Sys2Proof.Machine

open Sys2Proof

/-! ### A change finds the unit sound, or not (R206) -/

section Change

variable {s : State} {p : Nat}

theorem State.suSound_sound (h : s.parity.contains (.sync p) = false) (t : State) : s.suSound p t = t := by
  simp only [State.suSound, h, Bool.false_eq_true, if_false]

theorem State.suSound_parity (h : s.parity.contains (.sync p) = true) (t : State) :
    s.suSound p t = (s.clearParity (.sync p)).suError p Code.suParity := by
  simp only [State.suSound, h, if_true]

variable {c n : Nat} (h : s.parity.contains (.sync p) = false)
include h

theorem State.addCtr_fits (hn : (s.core p).ctr c + n < 2 ^ 32) :
    s.addCtr p c n = s.putCtr p c ((s.core p).ctr c + n) := by
  simp only [State.addCtr, State.suSound_sound h, if_pos hn]

theorem State.addCtr_overflows (hn : 2 ^ 32 ≤ (s.core p).ctr c + n) :
    s.addCtr p c n = s.suError p Code.suOverflow := by
  simp only [State.addCtr, State.suSound_sound h, if_neg (Nat.not_lt.2 hn)]

theorem State.subCtr_fits (hn : n ≤ (s.core p).ctr c) : s.subCtr p c n = s.putCtr p c ((s.core p).ctr c - n) := by
  simp only [State.subCtr, State.suSound_sound h, if_pos hn]

theorem State.subCtr_underflows (hn : (s.core p).ctr c < n) : s.subCtr p c n = s.suError p Code.suUnderflow := by
  simp only [State.subCtr, State.suSound_sound h, if_neg (Nat.not_le.2 hn)]

end Change

/-! ### A counter takes a value (R183, R188) -/

theorem passOn_val_toNat (c : Nat) {v : Nat} (hv : v < 2 ^ 32) (ws : List Watch) :
    (BitVec.ofNat 32 (passOn c v ws).val).toNat = (passOn c v ws).val := by
  rw [BitVec.toNat_ofNat, Nat.mod_eq_of_lt ((passOn_val_le c v ws).trans_lt hv)]

section Put

variable {s : State} {p c v : Nat} (hc : s.canonical = true)
include hc

/-- Where a watch's notify goes does not depend on the core's counters and watches. -/
theorem notifyMsg_setCore {x : Core} (hx : x.seq = (s.core p).seq) : notifyMsg (s.setCore p x) p = notifyMsg s p := by
  funext w
  have hl : ((s.setCore p x).core p).seq = (s.core p).seq := by rw [State.core_setCore_self (State.cores_wf hc), hx]
  simp only [notifyMsg, hl]
  rfl

/-- A pass over the core's watches writes back the counter and the watches that stay, and sends the notifies. -/
theorem State.evaluate_setCore {x : Core} (hx : x.seq = (s.core p).seq) : (s.setCore p x).evaluate p c =
    { s.setCore p { x with
        counters := Tbl.set 0 x.counters c (BitVec.ofNat 32 (Machine.passOn c (x.ctr c) x.watches).val)
        watches := (Machine.passOn c (x.ctr c) x.watches).stay } with
      hub := s.hub ++ (Machine.passOn c (x.ctr c) x.watches).fired.flatMap (notifyMsg s p) } := by
  have hw := State.cores_wf hc
  simp only [State.evaluate, State.core_setCore_self hw, State.setCore_setCore hw, notifyMsg_setCore hc hx,
    State.setCore_hub]

variable (hk : Tbl.wf 0 (s.core p).counters = true) (hv : v < 2 ^ 32)
include hk hv

/-- The counter takes the value that the watches leave; those that fire send their notifies. -/
theorem State.putCtr_eq_passOn : s.putCtr p c v = { s.setCore p { s.core p with
      counters := Tbl.set 0 (s.core p).counters c (BitVec.ofNat 32 (Machine.passOn c v (s.core p).watches).val)
      watches := (Machine.passOn c v (s.core p).watches).stay } with
    hub := s.hub ++ (Machine.passOn c v (s.core p).watches).fired.flatMap (notifyMsg s p) } := by
  have hctr : (Tbl.get 0 (Tbl.set 0 (s.core p).counters c (BitVec.ofNat 32 v)) c).toNat = v := by
    rw [Tbl.get_set_self _ _ _ hk, BitVec.toNat_ofNat, Nat.mod_eq_of_lt hv]
  refine (State.evaluate_setCore hc
    (x := { s.core p with counters := Tbl.set 0 (s.core p).counters c (BitVec.ofNat 32 v) }) rfl).trans ?_
  simp only [Core.ctr, hctr, Tbl.set_set hk]

/-- With no watch the counter alone changes. -/
theorem State.putCtr_unwatched (hn : (s.core p).watches = []) : s.putCtr p c v =
    s.setCore p { s.core p with counters := Tbl.set 0 (s.core p).counters c (BitVec.ofNat 32 v) } := by
  have hpass : Machine.passOn c v (s.core p).watches = ⟨v, [], [], false⟩ := congrArg (Machine.passOn c v) hn
  rw [State.putCtr_eq_passOn hc hk hv, hpass, List.flatMap_nil, List.append_nil, ← hn]
  rfl

end Put

/-! ### The next message of the hubs (R189, R191) -/

section Hub

variable {s : State} {p : Nat} {m : HubMsg} {rest : List HubMsg} (ht : takeHub p s.hub = some (m, rest))
include ht

/-- A message of the core's own context and world is applied, and the unit whose command it completes goes on. -/
theorem State.hubStep_own {l : Nat} (ho : s.coreOwner p = some (m.ctx, l)) (hg : m.gone = false)
    (hw : (s.ctx m.ctx).desc.secure = m.secure) : s.hubStep p = match m.origin with
      | some o => ((State.applySu { s with hub := rest } p m.msg).suDone o).pump o .sync
      | none => State.applySu { s with hub := rest } p m.msg := by
  have ho' : State.coreOwner { s with hub := rest } p = some (m.ctx, l) := ho
  have hw' : (State.ctx { s with hub := rest } m.ctx).desc.secure = m.secure := hw
  cases h : m.origin <;>
    simp only [State.hubStep, State.applyHub, ht, ho', hw', hg, h, ne_eq, not_true_eq_false, if_false, and_self, if_true]

/-- A message of a context that was destroyed is only reported. -/
theorem State.hubStep_gone (hg : m.gone = true) (ho : m.origin = none) :
    ∃ code, (code = Code.suWorld ∨ code = Code.wldAccess) ∧
      s.hubStep p = State.report { s with hub := rest } (codeAt code p) := by
  simp only [State.hubStep, State.applyHub, ht, ho, hg, if_true, Bool.true_eq_false, and_false, if_false]
  split
  · split
    · exact ⟨_, .inl rfl, rfl⟩
    · exact ⟨_, .inr rfl, rfl⟩
  · exact ⟨_, .inr rfl, rfl⟩

end Hub

/-! ### The obligation -/

/-- Settles O24: a sound unit's change fits or not, and one that fits is a pass over its watches. That notifies enter the
hub, that messages of different sources keep the order in which they were sent, and that a change for a core of another
context is refused, are the model's choices (logs 7, 115 and 64). -/
theorem hubsApplyChanges : Obligations.HubsApplyChanges := by
  unfold Obligations.HubsApplyChanges
  intro s p hp
  refine ⟨fun m rest c l ht ho hm hg hw => ?_, fun m rest ht hg ho => ?_, fun c n hc hk hw hs hn => ?_,
    fun c v hc hk hv => ?_, fun hs => ⟨fun _ _ => State.addCtr_fits hs, fun _ _ => State.subCtr_fits hs⟩,
    fun hs => ⟨fun _ _ => State.addCtr_overflows hs, fun _ _ => State.subCtr_underflows hs⟩,
    fun hs c n => ⟨State.suSound_parity hs _, State.suSound_parity hs _⟩⟩
  · subst hm
    exact exec_of_unit rfl hp (State.hubStep_own ht ho hg hw)
  · obtain ⟨code, hcode, h⟩ := State.hubStep_gone ht hg ho
    exact ⟨code, hcode, exec_of_unit rfl hp h⟩
  · refine ⟨_, (State.addCtr_fits hs hn).trans (State.putCtr_unwatched hc hk hn hw), ?_,
      fun d hd => Tbl.get_set_ne _ hd _ hk⟩
    rw [Tbl.get_set_self _ _ _ hk, BitVec.toNat_ofNat, Nat.mod_eq_of_lt hn]
  · refine ⟨_, State.putCtr_eq_passOn hc hk hv, ?_, fun d hd => Tbl.get_set_ne _ hd _ hk⟩
    rw [Tbl.get_set_self _ _ _ hk, passOn_val_toNat c hv]

end Sys2Proof.Machine
end

section
/-! SUPPORT. The rows of the synchronisation unit when their command starts at once (R183–R188, R195). -/

namespace Sys2Proof.Machine

open Sys2Proof

theorem enginesOf_sync {b : List Byte} (h : slotEng b = 6) : enginesOf b = [.sync] := by
  simp only [enginesOf, h]

section Row

variable {s u : State} {p op : Nat} {i : Instr} {q : QCmd}

/-- A command of the unit starts, and the unit's queue goes on. -/
theorem State.engineRow_sync (h : s.startsAs p 6 op Faults.none = some (q, u)) :
    slotOp q.slot = op ∧ s.engineRow p 6 op Faults.none = (u.startSu p q).pumpFrom p .sync 32 := by
  have hes := enginesOf_sync (State.startsAs_slotEng h)
  obtain ⟨he, ho, _, hr⟩ := State.startsAs_row h (by simp [hes])
  have hc : u.startCmd p q = u.startSu p q := by simp only [State.startCmd, he]
  exact ⟨ho, hr.trans (by simp [firstEng, hes, hc])⟩

theorem exec_syncRow (h : (i, op) ∈ [(Instr.set p, 1), (Instr.add p, 2), (Instr.sub p, 3), (Instr.watch p, 4)]) :
    exec i s = inRange (decide (p < 192)) (s.engineRow p 6 op Faults.none) := by
  simp only [List.mem_cons, List.not_mem_nil, or_false, Prod.mk.injEq] at h
  rcases h with ⟨rfl, rfl⟩ | ⟨rfl, rfl⟩ | ⟨rfl, rfl⟩ | ⟨rfl, rfl⟩ <;> rfl

end Row

/-! ### A command with a good descriptor (R185, R186) that changes something -/

section Start

variable {u u1 : State} {p t : Nat} {q : QCmd} {b : List Byte}
  (hr : u.readDesc p q (slotAddr q.slot) 32 Code.suBadDesc = (some b, u1))
  (hd : (SuD.parse b).ok u1 (u.ctxOf p) (slotOp q.slot) = true)
  (hv : slotOp q.slot = 2 ∨ slotOp q.slot = 3 → (SuD.parse b).value ≠ 0)
include hr hd hv

theorem State.startSu_far (hc : (SuD.parse b).chip ≠ u1.ownChip) : u.startSu p q =
    (u1.sendSignal p (SuD.parse b).chip (SuD.parse b).lcore (SuD.parse b).cls (tagAdd p) q.epoch (SuD.parse b).ctr
      (SuD.parse b).value).modCore p fun k => { k with suWait := some q } := by
  simp only [State.startSu, hr, hd, Bool.not_true, Bool.false_eq_true, if_false, if_neg (not_and.2 hv), if_pos hc]

variable (hc : (SuD.parse b).chip = u1.ownChip) (ht : u1.physCore (u.ctxOf p) (SuD.parse b).lcore = some t)
include hc ht

theorem State.startSu_own (htp : t = p) :
    u.startSu p q = (u1.applySu p ((SuD.parse b).msg (slotOp q.slot))).retire p q := by
  simp only [State.startSu, hr, hd, Bool.not_true, Bool.false_eq_true, if_false, if_neg (not_and.2 hv),
    if_neg (not_not.2 hc), ht, if_pos htp]

theorem State.startSu_sibling (htp : t ≠ p) : u.startSu p q =
    (let w := u1.modCore p fun k => { k with suWait := some q }
    { w with hub := w.hub ++ [⟨t, u.ctxOf p, (w.ctx (u.ctxOf p)).desc.secure, some p,
        (SuD.parse b).msg (slotOp q.slot), false, q.epoch⟩] }) := by
  simp only [State.startSu, hr, hd, Bool.not_true, Bool.false_eq_true, if_false, if_neg (not_and.2 hv),
    if_neg (not_not.2 hc), ht, if_neg htp]

end Start

/-- Settles O22: the row starts its command, and the descriptor says which unit the change is for. -/
theorem syncCommandsRun : Obligations.SyncCommandsRun := by
  unfold Obligations.SyncCommandsRun
  intro s u u1 p op i q b hp hi h hr d c hd hv
  obtain ⟨rfl, hrow⟩ := State.engineRow_sync h
  have run {v : State} (hs : u.startSu p q = v) : exec i s = .next (v.pumpFrom p .sync 32) :=
    exec_of_unit (exec_syncRow hi) hp (hs ▸ hrow)
  exact ⟨fun hc ht => run (State.startSu_own hr hd hv hc ht rfl),
    fun t hc ht htp => run (State.startSu_sibling hr hd hv hc ht htp), fun _ hc => run (State.startSu_far hr hd hv hc)⟩

end Sys2Proof.Machine
end

section
/-! SUPPORT. Reads of low halves, which latch the rest of what they read (R205, R232, R314, R446, R448, R476, R483). -/

namespace Sys2Proof.Machine

open Sys2Proof

section Reads

variable {s : State} (hpw : s.board.powered = true) (hrl : s.board.resetLow = false) (hst : s.boot.stage = stageReady)
  (hsb : s.pw.standby = 0)
include hpw hrl hst hsb

/-- Outside reset, boot and standby every register answers and latches (R469, R484). -/
theorem State.serves_of_ready (off : Nat) : s.serves off = true := by
  simp [State.serves, hpw, hrl, hst, hsb]

theorem State.regRead_of_ready (port off : Nat) : s.regRead port off = s.regValue port off := by
  simp [State.regRead, hpw, hrl, hst, hsb]

theorem State.readLatch_of_ready (port off : Nat) (f : Port → Port) :
    s.readLatch port off f = s.setPort port { f (s.port port) with lastRead := s.regRead port off } := by
  simp only [State.readLatch, State.serves_of_ready hpw hrl hst hsb, if_true]
  rfl

end Reads

theorem State.regValue_suTimeLo (s : State) (port : Nat) : s.regValue port 0x40C = lo32 s.suTime := rfl

theorem State.regValue_suTimeHi (s : State) (port : Nat) : s.regValue port 0x410 = s.suTimeHi := rfl

/-- Settles O50: every such read answers, so that it latches; SU_TIME_HI reads the module's one latch. -/
theorem readsLatchTheRest : Obligations.ReadsLatchTheRest := by
  unfold Obligations.ReadsLatchTheRest
  intro s port hp hpw hrl hst hsb p q
  have hserves := State.serves_of_ready hpw hrl hst hsb
  have hlatch := State.readLatch_of_ready hpw hrl hst hsb port
  have hread := State.regRead_of_ready hpw hrl hst hsb port 0x40C
  refine ⟨exec_of_unit rfl hp (if_pos (hserves 0x40C)), hread.trans (State.regValue_suTimeLo s port), fun port' _ => ?_,
    exec_of_unit rfl hp (hlatch ..), exec_of_unit rfl hp (hlatch ..), exec_of_unit rfl hp (hlatch ..),
    exec_of_unit rfl hp (hlatch ..), exec_of_unit rfl hp (if_pos (hserves 0x1410)), fun c hc ho => ?_⟩
  · have hhi := State.regRead_of_ready (s := { q 0x40C p with suTimeHi := hi32 s.suTime }) hpw hrl hst hsb port' 0x410
    exact hhi.trans (State.regValue_suTimeHi _ port')
  · have hunits : (decide (port < 2) && ctxOk c) = true := by simp [hp, hc, ctxOk]
    have hand : (s.serves (0x10000 + 0x400 * c + 4 * 54) && s.owns port c) = true := by rw [hserves, ho]; rfl
    simp only [exec, execPwCtxEnergyLoRead, hunits, hand, inRange_true, if_true]
    rfl

end Sys2Proof.Machine
end

section
/-! SUPPORT. One cycle of the management clock: what each part of it does when its time has not come, and what no part
of it changes (R200, R261, R435, R438, R455, R469, R501, R548). -/

namespace Sys2Proof.Machine

open Sys2Proof

/-! ### What the parts of a cycle leave to the later parts -/

/-- The time, the contexts, the accesses that wait for a snapshot slot and the resolution in progress are as they were:
the later parts of a cycle look at nothing else to see whether they have something to do. -/
structure SameWork (s t : State) : Prop where
  suTime : t.suTime = s.suTime
  ctxs : t.ctxs = s.ctxs
  snapWaiting : t.snapWaiting = s.snapWaiting
  suspects : t.err.suspects = s.err.suspects

theorem SameWork.refl (s : State) : SameWork s s := ⟨rfl, rfl, rfl, rfl⟩

theorem SameWork.trans {s t u : State} (h : SameWork s t) (k : SameWork t u) : SameWork s u :=
  ⟨k.suTime.trans h.suTime, k.ctxs.trans h.ctxs, k.snapWaiting.trans h.snapWaiting, k.suspects.trans h.suspects⟩

theorem SameWork.ite {s t u : State} {c : Prop} [Decidable c] (ht : SameWork s t) (hu : SameWork s u) :
    SameWork s (if c then t else u) := by
  split
  · exact ht
  · exact hu

theorem SameWork.foldl {α : Type} {f : State → α → State} (hf : ∀ t x, SameWork t (f t x)) (l : List α)
    (s : State) : SameWork s (l.foldl f s) :=
  List.foldlRecOn l f (motive := SameWork s) (.refl s) fun t h x _ => h.trans (hf t x)

/-! ### Rails (R455) -/

/-- One cluster's rail moves, and its change goes on. -/
def State.rampCluster (s : State) (cl : Nat) : State :=
  if (s.cluster cl).rampTo.isNone then s else (s.setCluster cl (s.cluster cl).ramp).advance cl

theorem State.rampTick_foldl (s : State) : s.rampTick =
    if s.suTime % 100 ≠ 0 ∨ !s.pw.clustersOn then s else (List.range 16).foldl State.rampCluster s := rfl

/-- A change that goes on writes its own cluster, and not the cluster's voltage. -/
theorem State.advance_cases (s : State) (cl : Nat) : s.advance cl = s ∨
    ∃ k : Cluster, s.advance cl = s.setCluster cl k ∧ k.volt = (s.cluster cl).volt := by
  simp only [State.advance]
  split
  · split
    · exact .inr ⟨_, rfl, rfl⟩
    · split
      · exact .inl rfl
      · exact .inr ⟨_, rfl, rfl⟩
  · exact .inl rfl

theorem State.setCluster_sameWork (s : State) (cl : Nat) (k : Cluster) : SameWork s (s.setCluster cl k) :=
  ⟨rfl, rfl, rfl, rfl⟩

theorem State.advance_sameWork (s : State) (cl : Nat) : SameWork s (s.advance cl) := by
  rcases State.advance_cases s cl with h | ⟨k, h, -⟩ <;> rw [h]
  · exact .refl s
  · exact State.setCluster_sameWork s cl k

theorem State.rampCluster_sameWork (s : State) (cl : Nat) : SameWork s (s.rampCluster cl) :=
  .ite (.refl s) ((State.setCluster_sameWork ..).trans (State.advance_sameWork ..))

theorem State.rampTick_sameWork (s : State) : SameWork s s.rampTick :=
  .ite (.refl s) (.foldl State.rampCluster_sameWork _ s)

theorem State.advance_standby (s : State) (cl : Nat) : (s.advance cl).pw.standby = s.pw.standby := by
  rcases State.advance_cases s cl with h | ⟨k, h, -⟩ <;> rw [h]
  rfl

theorem State.rampTick_standby (s : State) : s.rampTick.pw.standby = s.pw.standby := by
  rw [State.rampTick_foldl]
  split
  · rfl
  · refine List.foldlRecOn (List.range 16) State.rampCluster (motive := fun t => t.pw.standby = s.pw.standby) rfl
      fun t ht cl _ => Eq.trans ?_ ht
    rw [State.rampCluster]
    split
    · rfl
    · rw [State.advance_standby]
      rfl

theorem State.rampTick_between {s : State} (h : s.suTime % 100 ≠ 0) : s.rampTick = s := if_pos (.inl h)

theorem State.rampCluster_settled {s : State} {cl : Nat} (h : (s.cluster cl).rampTo = none) : s.rampCluster cl = s := by
  simp only [State.rampCluster, h, Option.isNone_none, if_true]

/-- Where no rail ramps, no rail moves. -/
theorem State.rampTick_settled {s : State} (h : ∀ cl, cl < 16 → (s.cluster cl).rampTo = none) : s.rampTick = s := by
  rw [State.rampTick_foldl]
  split
  · rfl
  · refine List.foldlRecOn (List.range 16) State.rampCluster (motive := (· = s)) rfl fun t ht cl hcl => ?_
    subst ht
    exact State.rampCluster_settled (h cl (List.mem_range.1 hcl))

theorem Cluster.ramp_settled {k : Cluster} (h : k.rampTo = none) : k.ramp = k := by
  simp only [Cluster.ramp, h]

section Volts

variable {s : State} (hw : Tbl.wf Cluster.reset s.pw.clusters = true)
include hw

/-- A rail that ramps takes the voltage of its ramp; no other cluster changes. -/
theorem State.rampCluster_cases (cl : Nat) : (s.rampCluster cl = s ∧ (s.cluster cl).ramp = s.cluster cl) ∨
    ∃ k : Cluster, s.rampCluster cl = s.setCluster cl k ∧ k.volt = (s.cluster cl).ramp.volt := by
  by_cases hr : (s.cluster cl).rampTo = none
  · exact .inl ⟨State.rampCluster_settled hr, Cluster.ramp_settled hr⟩
  · have he : s.rampCluster cl = (s.setCluster cl (s.cluster cl).ramp).advance cl :=
      if_neg (mt Option.isNone_iff_eq_none.1 hr)
    rcases State.advance_cases (s.setCluster cl (s.cluster cl).ramp) cl with h | ⟨k, h, hk⟩
    · exact .inr ⟨_, he.trans h, rfl⟩
    · exact .inr ⟨k, by rw [he, h, State.setCluster_setCluster hw], by rw [hk, State.cluster_setCluster_self hw]⟩

theorem State.rampCluster_wf (cl : Nat) : Tbl.wf Cluster.reset (s.rampCluster cl).pw.clusters = true := by
  rcases State.rampCluster_cases hw cl with ⟨h, -⟩ | ⟨k, h, -⟩ <;> rw [h]
  · exact hw
  · exact Tbl.set_wf hw cl k

theorem State.rampCluster_volt (cl : Nat) : ((s.rampCluster cl).cluster cl).volt = (s.cluster cl).ramp.volt := by
  rcases State.rampCluster_cases hw cl with ⟨h, hr⟩ | ⟨k, h, hk⟩
  · rw [h, hr]
  · rw [h, State.cluster_setCluster_self hw, hk]

theorem State.rampCluster_other {cl d : Nat} (hd : d ≠ cl) : (s.rampCluster cl).cluster d = s.cluster d := by
  rcases State.rampCluster_cases hw cl with ⟨h, -⟩ | ⟨k, h, -⟩
  · rw [h]
  · rw [h, State.cluster_setCluster_ne hw hd]

/-- After the rails of the first `n` clusters have moved, each of these has the voltage of its ramp, and each other
cluster is as it was. -/
theorem State.rampClusters_volt (n : Nat) :
    Tbl.wf Cluster.reset ((List.range n).foldl State.rampCluster s).pw.clusters = true ∧ ∀ cl,
      (n ≤ cl → ((List.range n).foldl State.rampCluster s).cluster cl = s.cluster cl) ∧
      (cl < n → (((List.range n).foldl State.rampCluster s).cluster cl).volt = (s.cluster cl).ramp.volt) := by
  induction n with
  | zero => exact ⟨hw, fun cl => ⟨fun _ => rfl, fun h => absurd h (Nat.not_lt_zero cl)⟩⟩
  | succ n ih =>
    obtain ⟨hwf, hcl⟩ := ih
    simp only [List.range_succ, List.foldl_append, List.foldl_cons, List.foldl_nil]
    refine ⟨State.rampCluster_wf hwf n, fun cl => ⟨fun h => ?_, fun h => ?_⟩⟩
    · rw [State.rampCluster_other hwf (by omega), (hcl cl).1 (by omega)]
    · rcases Nat.lt_succ_iff_lt_or_eq.1 h with h | rfl
      · rw [State.rampCluster_other hwf (by omega), (hcl cl).2 h]
      · rw [State.rampCluster_volt hwf, (hcl cl).1 (Nat.le_refl _)]

theorem State.rampTick_volt {cl : Nat} (hcl : cl < 16) (ht : s.suTime % 100 = 0) (hon : s.pw.clustersOn = true) :
    (s.rampTick.cluster cl).volt = (s.cluster cl).ramp.volt := by
  have hr : s.rampTick = (List.range 16).foldl State.rampCluster s := by
    rw [State.rampTick_foldl, if_neg (by simp [ht, hon])]
  rw [hr]
  exact ((State.rampClusters_volt hw 16).2 cl).2 hcl

end Volts

/-! ### Standby (R469) -/

theorem State.tell_sameWork (s : State) (old : Nat) : SameWork s (s.tell old) := by
  simp only [State.tell, State.platformEvent]
  split
  · exact .refl s
  · split <;> exact ⟨rfl, rfl, rfl, rfl⟩

theorem State.modCore_sameWork (s : State) (p : Nat) (f : Core → Core) : SameWork s (s.modCore p f) :=
  ⟨rfl, rfl, rfl, rfl⟩

theorem State.loseCores_sameWork (s : State) : SameWork s s.loseCores := by
  simp only [State.loseCores]
  generalize hx : List.foldl _ _ _ = x
  have h : SameWork s.draw.2 x := hx ▸ .foldl (fun _ _ => State.modCore_sameWork ..) _ _
  exact ⟨h.suTime, h.ctxs, h.snapWaiting, h.suspects⟩

/-- Power and the error log are not looked at, apart from the resolution. -/
theorem SameWork.setPower {s t : State} (h : SameWork s t) (pw : Power) {err : Errors}
    (he : err.suspects = t.err.suspects) : SameWork s { t with pw := pw, err := err } :=
  ⟨h.suTime, h.ctxs, h.snapWaiting, he.trans h.suspects⟩

theorem State.railsUp_sameWork (s : State) : SameWork s s.railsUp := (SameWork.refl s).setPower _ rfl

theorem State.railsOff_sameWork (s : State) : SameWork s s.railsOff := (SameWork.refl s).setPower _ rfl

theorem State.leaveStandby_sameWork (s : State) : SameWork s s.leaveStandby := by
  simp only [State.leaveStandby]
  refine .ite ((SameWork.refl s).setPower _ rfl) (.ite (.refl s) (SameWork.trans ?_ (State.tell_sameWork ..)))
  exact (State.railsUp_sameWork s).setPower _ rfl

theorem State.standbyTick_sameWork (s : State) : SameWork s s.standbyTick := by
  simp only [State.standbyTick]
  refine .ite (.refl s) ?_
  generalize hx : State.tell _ s.stat = x
  have h : SameWork s x := by
    rw [← hx]
    refine SameWork.trans ?_ (State.tell_sameWork ..)
    exact ((State.loseCores_sameWork s).trans (State.railsOff_sameWork _)).setPower _ rfl
  exact .ite (h.trans (State.leaveStandby_sameWork x)) h

theorem State.standbyTick_of_ne {s : State} (h : s.pw.standby ≠ 1) : s.standbyTick = s := if_pos h

/-! ### Negotiation flits (R261) -/

theorem State.putFlit_sameWork (s : State) (l kind : Nat) (f : TxFlit) : SameWork s (s.putFlit l kind f) :=
  ⟨rfl, rfl, rfl, rfl⟩

theorem State.sendNegotiation_sameWork (s : State) (l : Nat) : SameWork s (s.sendNegotiation l) := by
  have h1 : SameWork s (if (s.link l).carries && (s.link l).maintSlot then s.putMaintenance l else s) :=
    .ite (State.putFlit_sameWork ..) (.refl s)
  exact h1.trans (.ite (State.putFlit_sameWork ..) (State.putFlit_sameWork ..))

theorem State.negotiationTick_sameWork (s : State) : SameWork s s.negotiationTick :=
  .ite (.foldl State.sendNegotiation_sameWork _ s) (.refl s)

/-- Negotiation flits go out at the end of each 1 µs. -/
theorem State.negotiationTick_due {s : State} (h : s.suTime % 1000 = 0) : s.negotiationTick =
    ((List.range 40).filter fun l => (s.link l).negotiates).foldl State.sendNegotiation s := if_pos h

theorem State.negotiationTick_between {s : State} (h : s.suTime % 1000 ≠ 0) : s.negotiationTick = s := if_neg h

/-! ### The end of a cycle (R403, R435, R501) -/

/-- No access waits for a snapshot slot, no resolution is in progress, and no handover is due. -/
structure State.NothingDue (s : State) : Prop where
  suspects : s.err.suspects = none
  handovers : ∀ c, c < 8 → (s.ctx c).handoverDue = false
  snapWaiting : s.snapWaiting = []

theorem SameWork.nothingDue {s t : State} (h : SameWork s t) (hs : s.NothingDue) : t.NothingDue where
  suspects := h.suspects.trans hs.suspects
  handovers c hc := by
    have hx : t.ctx c = s.ctx c := congrArg (Tbl.get Ctx.reset · c) h.ctxs
    rw [hx, hs.handovers c hc]
  snapWaiting := h.snapWaiting.trans hs.snapWaiting

section NothingDue

variable {s : State} (h : s.NothingDue)
include h

theorem State.retrySnap_nothingDue : s.retrySnap = s := by
  have hs : { s with snapWaiting := [] } = s := by rw [← h.snapWaiting]
  rw [State.retrySnap, h.snapWaiting, List.foldl_nil, hs]

theorem State.resolveStep_nothingDue : s.resolveStep = s := by
  simp only [State.resolveStep, h.suspects]

theorem State.dueHandovers_nothingDue : s.dueHandovers = s := by
  refine List.foldlRecOn ctxNums _ (motive := (· = s)) rfl fun t ht c hc => ?_
  subst ht
  simp only [h.handovers c (List.mem_range.1 hc), Bool.false_and, Bool.false_eq_true, if_false]

end NothingDue

/-! ### The cycle -/

theorem idleTick_stopped {s : State}
    (h : s.board.powered = false ∨ s.board.resetLow = true ∨ (s.boot.stage = 0 ∧ s.boot.startDue = false)) :
    idleTick s = s := by
  refine if_neg ?_
  rcases h with h | h | ⟨h, k⟩
  · simp [h]
  · simp [h]
  · simp [h, k]

/-- A cycle of a started module with nothing due: the rails, standby and the negotiation flits. -/
theorem idleTick_nothingDue {s : State} (hp : s.board.powered = true) (hr : s.board.resetLow = false)
    (hb : s.boot.stage ≠ 0 ∨ s.boot.startDue = true) (hd : s.NothingDue) :
    idleTick s = (({ s with suTime := (s.suTime + 1) % 2 ^ 64 } : State).rampTick.standbyTick.negotiationTick) := by
  have hrun : (s.board.powered && !s.board.resetLow && (s.boot.stage != 0 || s.boot.startDue)) = true := by
    simp [hp, hr, hb]
  have hdue : State.NothingDue { s with suTime := (s.suTime + 1) % 2 ^ 64 } :=
    ⟨hd.suspects, hd.handovers, hd.snapWaiting⟩
  have hn := (((State.rampTick_sameWork _).trans (State.standbyTick_sameWork _)).trans
    (State.negotiationTick_sameWork _)).nothingDue hdue
  rw [idleTick, if_pos hrun, State.retrySnap_nothingDue hn, State.resolveStep_nothingDue hn,
    State.dueHandovers_nothingDue hn]

theorem step_idle {s t : State} (hp : s.pending = []) (h : idleTick s = t) : step s = .next t := by
  simp only [step, hp, h]

/-- Settles O2: each clause says which parts of the cycle have their time. That a step on an empty queue is such a cycle, and that ramps and negotiation flits keep to multiples of
SU_TIME, is the model's choice (logs 3, 130 and 164). -/
theorem idleStepTicks : Obligations.IdleStepTicks := by
  unfold Obligations.IdleStepTicks
  intro s hp
  refine ⟨fun h => step_idle hp (idleTick_stopped h), fun hpw hrl hb hsus hho hsnap => ?_,
    fun cl hw hcl ht hon => State.rampTick_volt hw hcl ht hon⟩
  have hcycle := idleTick_nothingDue hpw hrl hb ⟨hsus, hho, hsnap⟩
  intro t
  refine ⟨fun hs h100 => ?_, fun hs h1000 => ?_, fun hs h100 => ?_, fun hs h1000 hset => ?_⟩ <;>
    refine step_idle hp (hcycle.trans ?_)
  · rw [State.rampTick_between h100, State.standbyTick_of_ne (s := t) hs, State.negotiationTick_between (by omega)]
  · have hs' : t.rampTick.pw.standby ≠ 1 := by rwa [State.rampTick_standby]
    have ht : t.rampTick.suTime % 1000 ≠ 0 := by rwa [(State.rampTick_sameWork t).suTime]
    rw [State.standbyTick_of_ne hs', State.negotiationTick_between ht]
  · have ht : t.standbyTick.suTime % 1000 ≠ 0 := by rw [(State.standbyTick_sameWork t).suTime]; omega
    rw [State.rampTick_between h100, State.negotiationTick_between ht]
  · rw [State.rampTick_settled (s := t) hset, State.standbyTick_of_ne (s := t) hs, State.negotiationTick_due h1000]
    rfl

end Sys2Proof.Machine
end

section
/-! SUPPORT. Every step keeps the canonical form of the tables that `State.canonical` names: a command does, and so does
each part of a cycle of the management clock (R200, R403). -/

namespace Sys2Proof.Machine

open Sys2Proof

/-! ### Accesses that waited for a snapshot slot (R403) -/

/-- What waited for a snapshot slot is an access, which takes effect as its command does; anything else does nothing. -/
theorem State.redoAccess_cases (s : State) (i : Instr) :
    s.redoAccess i = stateOf (exec i s) s ∨ s.redoAccess i = s := by
  cases i with
  | write | readReq | atomicReq | bar2Read | bar2Write => exact .inl rfl
  | _ => exact .inr rfl

theorem exec_kept (i : Instr) (s : State) : Kept s (exec i s) := fun _ => exec_keeps

theorem State.redoAccess_keeps {s t : State} (h : Keeps s t) (i : Instr) : Keeps s (t.redoAccess i) := by
  rcases State.redoAccess_cases t i with e | e <;> rw [e]
  · exact keeps_stateOf h (exec_kept i t)
  · exact h

theorem State.retrySnap_keeps {s t : State} (h : Keeps s t) : Keeps s t.retrySnap :=
  keeps_foldl (keeps_mk.2 h) fun _ i hu => State.redoAccess_keeps hu i

/-! ### The step -/

/-- A cycle of the management clock keeps what each of its parts keeps, in their order. -/
theorem idleTick_keeps (s : State) : Keeps s (idleTick s) := by
  have h0 : Keeps s { s with suTime := (s.suTime + 1) % 2 ^ 64 } := keeps_mk.2 (Keeps.refl s)
  have h1 := State.negotiationTick_keeps (State.standbyTick_keeps (State.rampTick_keeps h0))
  have h2 := State.retrySnap_keeps h1
  exact keeps_ite (State.dueHandovers_keeps (State.resolveStep_keeps h2)) (Keeps.refl s)

/-- Settles O4: with no command waiting a step is a cycle of the clock; otherwise it is the command at the front, carried
out on a state with the same tables. The tables meant are those of `State.canonical`, whose form is the model's own. -/
theorem stepKeepsCanonicalForm : Obligations.StepKeepsCanonicalForm := by
  unfold Obligations.StepKeepsCanonicalForm
  intro s t hs h
  cases hp : s.pending with
  | nil =>
    rw [step_idle hp rfl] at h
    injection h with h
    exact h ▸ (idleTick_keeps s).form hs
  | cons c rest =>
    rw [step_of_pending hp] at h
    exact (exec_keeps h).form hs

end Sys2Proof.Machine
end

section
/-! SUPPORT. The commands that change the regions, lid units and windows of a context, when their conditions hold (R209,
R214, R215, R489, R491, R497). -/

namespace Sys2Proof.Machine

open Sys2Proof

variable {s : State} {c : Nat} {h : HostCmd}

/-! ### Regions -/

/-- REGION_MAP with valid fields and a run of free granules that can be mapped (R209, R491). -/
theorem State.regionMapCmd_good {t : State} {g : Nat} (hu : (s.ctx c).setUp = true)
    (hm : (s.ctx c).mapOk h.payload = true) (hn : fieldAt h.payload 8 8 / 2 ^ 26 ≤ s.freeGranules.length)
    (hg : s.chooseRun (fieldAt h.payload 0x10 8) (fieldAt h.payload 8 8 / 2 ^ 26) = some g)
    (ht : s.mapGranules c (fieldAt h.payload 1 1) (fieldAt h.payload 2 1)
      ((List.range (fieldAt h.payload 8 8 / 2 ^ 26)).map (· + g)) = some t) :
    s.regionMapCmd c h = (t.modCtx c fun y => { y with
      regions := Tbl.set none y.regions (fieldAt h.payload 0 1)
        (some ⟨g * 2 ^ 26, fieldAt h.payload 8 8 / 2 ^ 26 * 2 ^ 26, fieldAt h.payload 1 1,
          fieldAt h.payload 2 1⟩) }).finish h 0 := by
  simp only [State.regionMapCmd, hu, hm, hg, ht, if_neg (Nat.not_lt.2 hn), Bool.not_true, Bool.false_eq_true, if_false]

/-- REGION_UNMAP of a mapped region other than region 0 (R489). -/
theorem State.regionUnmapCmd_good {g : Region} (hu : (s.ctx c).setUp = true) (h1 : 1 ≤ fieldAt h.payload 0 1)
    (h15 : fieldAt h.payload 0 1 ≤ 15) (hz : allZero (slice h.payload 1 7) = true)
    (hg : (s.ctx c).region (fieldAt h.payload 0 1) = some g) :
    s.regionUnmapCmd c h = (State.modCtx
      (((List.range (g.bytes / 2 ^ 26)).map (· + g.base / 2 ^ 26)).foldl State.freeGranule s) c fun y => { y with
        regions := Tbl.set none y.regions (fieldAt h.payload 0 1) none
        ck := { y.ck with dirty := y.ck.dirty.filter fun k => k.1 != fieldAt h.payload 0 1 } }).finish h 0 := by
  have hr : (if 1 ≤ fieldAt h.payload 0 1 ∧ fieldAt h.payload 0 1 ≤ 15 ∧ allZero (slice h.payload 1 7) = true then
      (s.ctx c).region (fieldAt h.payload 0 1) else none) = some g := (if_pos ⟨h1, h15, hz⟩).trans hg
  simp only [State.regionUnmapCmd, hu, hr, Bool.not_true, Bool.false_eq_true, if_false]

/-! ### Lid units -/

/-- LID_CONFIG of a CREATED context whose bitmap has no bit beyond the context's units (R214, R215). -/
theorem State.lidConfigCmd_good (hc : (s.ctx c).st = .created)
    (hm : fieldAt h.payload 0 16 < 2 ^ (s.ctx c).lid.length) {l : List (Nat × Bool)}
    (hl : ((List.range (s.ctx c).lid.length).zip (s.ctx c).lid).map
      (fun (i, u) => (u.1, bitAt (fieldAt h.payload 0 16) i)) = l) :
    s.lidConfigCmd c h = (State.modCtx ((scratchNumbers l).foldl (fun t (u, k, n) =>
      t.setLidUnit u { t.lidUnit u with cache := k, logical := n }) s) c fun y => { y with lid := l }).finish h 0 := by
  subst hl
  simp only [State.lidConfigCmd, hc, if_neg (Nat.not_le.2 hm), ne_eq, not_true_eq_false, if_false]

/-! ### Windows -/

/-- A context whose command SCH takes can have windows, unless it is faulted (R28, R489, R497). -/
theorem State.takes_windowed {op : Nat} {rest : List HostCmd} (k : s.takes c op h rest) (hf : (s.ctx c).st ≠ .faulted) :
    (s.ctx c).st.windowed = true := by
  obtain ⟨-, -, -, -, -, -, -, hfree, -⟩ := k
  simp only [CtxState.windowed, bne_iff_ne.2 hfree, bne_iff_ne.2 hf, Bool.and_self]

/-- WINDOW_REG with valid fields of a window that is unused or revoked (R497). -/
theorem State.windowRegCmd_good (hst : (s.ctx c).st.windowed = true) (hn : fieldAt h.payload 0 1 < 64)
    (ha : fieldAt h.payload 1 1 < 4) (hz : allZero (slice h.payload 2 6) = true)
    (haddr : aligned (fieldAt h.payload 8 8) 4096 = true) (hsize : aligned (fieldAt h.payload 0x10 8) 4096 = true)
    (hlo : 4096 ≤ fieldAt h.payload 0x10 8) (hhi : fieldAt h.payload 0x10 8 ≤ 2 ^ 40)
    (hw : ∀ w, (s.ctx c).window (fieldAt h.payload 0 1) = some w → w.revoked = true) :
    s.windowRegCmd c h = (s.modCtx c fun y => { y with
      windows := Tbl.set none y.windows (fieldAt h.payload 0 1) (some ⟨fieldAt h.payload 8 8, fieldAt h.payload 0x10 8,
        bitAt (fieldAt h.payload 1 1) 0, bitAt (fieldAt h.payload 1 1) 1, false⟩) }).finish h 0 := by
  simp only [State.windowRegCmd, hst, decide_eq_true hn, decide_eq_true ha, hz, haddr, hsize, decide_eq_true hlo,
    decide_eq_true hhi, Bool.and_self, Bool.true_and, Bool.not_true, Bool.false_eq_true, if_false]
  cases hx : (s.ctx c).window (fieldAt h.payload 0 1) with
  | none => rfl
  | some w => exact if_pos (hw w hx)

/-- WINDOW_DEREG of a registered window (R497). -/
theorem State.windowDeregCmd_good {w : Window} (hst : (s.ctx c).st.windowed = true)
    (hn : fieldAt h.payload 0 1 < 64) (hz : allZero (slice h.payload 1 7) = true)
    (hw : (s.ctx c).window (fieldAt h.payload 0 1) = some w) :
    s.windowDeregCmd c h = (s.modCtx c fun y => { y with
      windows := Tbl.set none y.windows (fieldAt h.payload 0 1) (some { w with revoked := true }) }).finish h 0 := by
  have hr : (if fieldAt h.payload 0 1 < 64 ∧ allZero (slice h.payload 1 7) = true then
      (s.ctx c).window (fieldAt h.payload 0 1) else none) = some w := (if_pos ⟨hn, hz⟩).trans hw
  simp only [State.windowDeregCmd, hst, hr, Bool.not_true, Bool.false_eq_true, if_false]

/-- Settles O13: SCH takes the command, and none of its checks fails. -/
theorem regionsUnitsAndWindows : Obligations.RegionsUnitsAndWindows := by
  unfold Obligations.RegionsUnitsAndWindows
  refine ⟨⟨?_, ?_⟩, ?_, ?_, ?_⟩
  · intro s t c g h rest k hu hm n hn hg ht
    exact exec_of_takes k rfl (State.regionMapCmd_good (s := { s with sch := rest }) hu hm hn hg ht)
  · intro s c h rest g k hu h1 h15 hz hg
    exact exec_of_takes k rfl (State.regionUnmapCmd_good (s := { s with sch := rest }) hu h1 h15 hz hg)
  · intro s c h rest k hc hm l
    exact exec_of_takes k rfl (State.lidConfigCmd_good (s := { s with sch := rest }) hc hm rfl)
  · intro s c h rest k hf n a size hn hacc hz ha hsz hlo hhi hw
    have hst := State.takes_windowed k hf
    exact exec_of_takes k rfl (State.windowRegCmd_good (s := { s with sch := rest }) hst hn hacc hz (beq_iff_eq.2 ha)
      (beq_iff_eq.2 hsz) hlo hhi hw)
  · intro s c h rest w k hf hn hz hw
    have hst := State.takes_windowed k hf
    exact exec_of_takes k rfl (State.windowDeregCmd_good (s := { s with sch := rest }) hst hn hz hw)

end Sys2Proof.Machine
end

section
/-! SUPPORT. The vote of a module, where it goes, and the votes of its children (R226, R334–R338). -/

namespace Sys2Proof.Machine

open Sys2Proof

variable {s : State} {c : Nat}

/-! ### The row of the vote -/

theorem State.voteRow_waits (hv : s.mayVote c = false) : s.voteRow c = s :=
  if_neg (Bool.eq_false_iff.1 hv)

/-- The step's poisoned writes fault its context before the vote is made (R226). -/
theorem State.voteRow_faults_first (hv : s.mayVote c = true) : s.voteRow c = (if (s.ctx c).poisoned then
    s.raise (codeAt Code.memPoisonStep c) { ctx := some c, step := some (s.ctx c).step.current } else s).sendVote c := by
  rw [State.voteRow, if_pos hv, State.voteNow]
  split <;> rfl

/-! ### Where the vote goes (R338) -/

/-- Reason 6 is the answer to exponents that differ, and to nothing else. -/
theorem Ctx.verdict_reason_ne_mismatch (x : Ctx) {v : Vote} (hx : v.xMin = v.xMax) : (x.verdict v).2 ≠ 6 := by
  rw [Ctx.verdict, if_neg (not_not.2 hx)]
  split_ifs <;> decide

section Send

variable (hd : (s.ctx c).step.diagRunning = false)
include hd

/-- Below the coordinator the vote, merged with the children's, goes to the parent. -/
theorem State.sendVote_toParent (hco : s.coordinator c = false) :
    s.sendVote c = (State.writeSlot (s.modStep c fun st => { st with voted := true, merged := some (s.fullVote c) }) c
      (s.ctx c).step.current 2).sendCtl c (s.ctx c).parent msgVote (some (s.ctx c).step.current)
        ((s.fullVote c).bytes (s.ctx c).step.current (s.ctx c).step.attempt) := by
  simp only [State.sendVote, hco, hd, Bool.not_false, Bool.false_eq_true, if_false, if_true]

/-- The coordinator decides by R338; equal exponents give it nothing to report. -/
theorem State.sendVote_decides (hco : s.coordinator c = true) (hx : (s.fullVote c).xMin = (s.fullVote c).xMax) :
    s.sendVote c = (State.writeSlot (s.modStep c fun st => { st with voted := true, merged := some (s.fullVote c) }) c
      (s.ctx c).step.current 2).sendDecision c
        ⟨(s.ctx c).step.current, (s.ctx c).step.attempt, ((s.ctx c).verdict (s.fullVote c)).1,
          ((s.ctx c).verdict (s.fullVote c)).2, (s.fullVote c).failChip, (s.fullVote c).failCode⟩ s.ownChip := by
  simp only [State.sendVote, hco, hd, Ctx.verdict_reason_ne_mismatch (s.ctx c) hx, Bool.not_true,
    Bool.false_eq_true, if_false]

end Send

/-! ### A child's vote (R335, R337) -/

/-- A vote for the step and attempt under way, from a child that has not voted, joins the merge. -/
theorem State.recvVote_merges {p : Packet} (h : s.hears p msgVote c)
    (hn : fieldAt p.data 0 8 = (s.ctx c).step.voteStep) (ha : fieldAt p.data 8 2 = (s.ctx c).step.attempt)
    (hv : (s.ctx c).step.voters.contains p.src = false) {u : State}
    (hu : (s.modStep c fun st => { st with
      children := keyInsert p.src st.children, voters := keyInsert p.src st.voters
      merged := st.join (Vote.parse p.data) }) = u) :
    s.recvVote p = if u.coordinator c then u.voteRow c else u := by
  obtain ⟨-, hhere, hctx⟩ := h
  subst hu
  simp only [State.recvVote, hhere, hctx, hn, ha, hv, ne_eq, not_true_eq_false, Bool.not_true, Bool.false_eq_true,
    or_self, if_false]

/-- Settles O35: the row of the vote, on a module and on the coordinator, and the row of a child's vote. -/
theorem votesAreSent : Obligations.VotesAreSent := by
  unfold Obligations.VotesAreSent
  intro s c hc hf x s1 y n v t
  refine ⟨fun hv hd hco => ?_, fun hv hd hco hx => ?_, fun hv => ?_, fun p hp hn ha hvo => ?_⟩
  · exact exec_voteSend hc hf ((State.voteRow_faults_first hv).trans (State.sendVote_toParent (s := s1) hd hco))
  · exact exec_voteSend hc hf ((State.voteRow_faults_first hv).trans (State.sendVote_decides (s := s1) hd hco hx))
  · exact exec_voteSend hc hf (State.voteRow_waits hv)
  · intro u
    have hrow : exec (.stVote p) s = .next (if u.coordinator c then u.voteRow c else u) :=
      congrArg Host.Outcome.next ((State.viaFab_runs hf _ _).trans (State.recvVote_merges hp hn ha hvo rfl))
    exact ⟨fun hco => by rw [hrow, hco]; rfl, fun hco => by rw [hrow, hco]; rfl⟩

end Sys2Proof.Machine
end

section
/-! SUPPORT. Channels in use and on their way out (R235, R237, R242–R246, R434), and the module's commands MAPOUT, KAK_RUN
and RESET_WARM with the end of the known-answer kernels (R243, R384, R440). -/

namespace Sys2Proof.Machine

open Sys2Proof

/-! ### Module commands -/

/-- The module's command is carried out: SCH takes it, and the row acts on the state without it in the order. -/
theorem exec_of_takesModule {i : Instr} {s t : State} {op : Nat} {h : HostCmd} {rest : List HostCmd}
    (k : s.takesModule op h rest) {f : HostCmd → State → State} (he : exec i s = .next (s.moduleCmd op f))
    (ht : f h { s with sch := rest } = t) : exec i s = .next t := by
  rw [he, State.moduleCmd_takes k, ht]

/-- MAPOUT of a channel in use, with granules enough, triggers the map-out and waits for its end (R243). -/
theorem State.mapoutCmd_waits {s : State} {h : HostCmd} (hz : allZero (slice h.payload 1 7) = true)
    (hm : (s.chan (fieldAt h.payload 0 1)).mappedOut = false) (hp : (s.chan (fieldAt h.payload 0 1)).pending = false)
    (hg : 36 * (s.pendingChans.length + 1) ≤ s.freeGranules.length) :
    s.mapoutCmd h = State.triggerMapout { s with mapoutCmds := s.mapoutCmds ++ [(fieldAt h.payload 0 1, h)] }
      (fieldAt h.payload 0 1) := by
  simp only [State.mapoutCmd, hz, hm, hp, decide_eq_false (Nat.not_lt.2 hg), Bool.not_true, Bool.false_eq_true, if_false]

/-- While no suite runs, SCH takes the next KAK_RUN (R384). -/
theorem exec_kakRun_idle {s : State} (hk : s.kakCmd = none) :
    exec .kakRun s = .next (s.moduleCmd 0x51 fun h t => t.kakRunCmd h) := by
  simp only [exec, execKakRun, hk, Option.isSome_none, Bool.false_eq_true, if_false]

/-- KAK_RUN on free parts waits for the kernels (R384). -/
theorem State.kakRunCmd_free {s : State} {h : HostCmd} (hf : s.kakTaken h.payload = false) :
    s.kakRunCmd h = { s with kakCmd := some h } := by
  simp only [State.kakRunCmd, hf, Bool.false_eq_true, if_false]

/-! ### The end of the known-answer kernels (R384) -/

/-- The end of the kernels that a KAK_RUN waits for, while HLT works. -/
theorem State.kakDone_asked {s : State} {r : KakResult} {h : HostCmd} (hr : s.err.restarting.contains .hlt = false)
    (hk : s.kakCmd = some h) :
    s.kakDone r =
      let t := (bitList 192 (fieldAt h.payload 0 24)).foldl State.kernelsRun { s.kakFailed r with kakCmd := none }
      if kakAny r then t.finish h 9 (codeAt Code.rcKakFail 0xFF) else t.finish h 0 := by
  simp only [State.kakDone, hr, hk, Bool.false_eq_true, if_false]

/-- A report of the kernels that names parts of the module is acted on. -/
theorem exec_knownAnswerKernelsDone {s t : State} {r : KakResult} (hr : kakInRange r = true) (ht : s.kakDone r = t) :
    exec (.knownAnswerKernelsDone r) s = .next t := by
  simp only [exec, execKnownAnswerKernelsDone, hr, inRange_true, ht]

/-- Settles O16: each command is taken and its row goes the one way left; the kernels' end by whether a part failed. -/
theorem moduleCommandsRun : Obligations.ModuleCommandsRun := by
  unfold Obligations.ModuleCommandsRun
  refine ⟨⟨fun s h rest k hz => ?_, fun s h rest k hk hf => ?_, fun s h rest k => exec_of_takesModule k rfl rfl⟩,
    fun s r h hr hh hk => ?_⟩
  · intro ch hm hp hg
    exact exec_of_takesModule k rfl (State.mapoutCmd_waits (s := { s with sch := rest }) hz hm hp hg)
  · exact exec_of_takesModule k (exec_kakRun_idle hk) (State.kakRunCmd_free (s := { s with sch := rest }) hf)
  · have hrow := exec_knownAnswerKernelsDone hr (State.kakDone_asked hh hk)
    refine ⟨?_, fun hany => hrow.trans (congrArg Host.Outcome.next (if_pos hany))⟩
    rintro rfl
    exact hrow

/-! ### The write buffer (R220, R235) -/

/-- A block whose sends succeed goes to the base die of a channel that has no fault. -/
theorem State.sendBlock_succeeds {s : State} {ch : Nat} (hx : (s.chan ch).xferFails = []) (hf : (s.chan ch).faulted = false)
    (b : Nat) (e : Buffered) : s.sendBlock ch b e = s := by
  simp [State.sendBlock, State.popXfer, State.resends, hx, hf]

/-- The bus turns and every send succeeds: only the write buffer changes. -/
theorem State.turnBus_succeeds {s : State} (hw : Tbl.wf Chan.reset s.chans = true) {ch : Nat}
    (hx : (s.chan ch).xferFails = []) (hf : (s.chan ch).faulted = false) :
    s.turnBus ch = s.modChan ch fun k => { k with buffered := [] } := by
  have hch : (s.modChan ch fun k => { k with buffered := [] }).chan ch = { s.chan ch with buffered := [] } := by
    rw [State.modChan_eq, State.chan_setChan hw, if_pos rfl]
  exact List.foldl_fixed' (fun e => State.sendBlock_succeeds (by rw [hch, hx]) (by rw [hch, hf]) e.1 e.2) _

/-! ### Scrub, repair records and timeouts (R237, R242, R434) -/

variable {s : State} {ch : Nat}

theorem State.scrub_reads (he : flag s.hbmCfg 0 = true) (hm : (s.chan ch).mappedOut = false) (hp : s.pw.standby = 0) :
    s.scrub ch = State.readUnit (State.countRead (s.setChan ch { s.chan ch with
      scrubPos := ((s.chan ch).scrubPos + 64) % (chanChunks * 2 ^ 18) }) ch) ch (s.chan ch).scrubPos := by
  simp only [State.scrub, he, hm, hp, Bool.not_true, Bool.or_self, bne_self_eq_false, Bool.false_eq_true, if_false]

/-- SEC, while it works, writes the repair record that is due first. -/
theorem exec_repairRecordWrite_due {r : Repair} {rest : List Repair} (hd : s.boot.repairsDue = r :: rest)
    (hs : .sec ∉ s.err.restarting) : exec .repairRecordWrite s =
      .next { s with boot := { s.boot with repairs := s.boot.repairs ++ [r], repairsDue := rest } } := by
  simp only [exec, execRepairRecordWrite, hd, List.contains_eq_mem, hs, decide_false, Bool.false_eq_true, if_false]

theorem State.channelFault_first (hf : (s.chan ch).faulted = false) : s.channelFault ch = State.triggerMapout
    ((s.modChan ch fun x => { x with faulted := true }).report (codeAt Code.hbmChannelFault ch)) ch := by
  simp only [State.channelFault, hf, Bool.false_eq_true, if_false]

/-! ### Relocation and the end of a map-out (R241, R244–R246) -/

section Relocate

variable {left : List (Nat × Nat)} {t : State} (hmv : s.moving ch = true)
  (hall : s.moveAll ch (s.toMove ch) = (left, t))
include hmv hall

/-- Every part has left a channel that is being mapped out: it no longer waits for relocation, and its map-out holds the
contexts whose parts it moved. -/
theorem State.relocate_mapout (hp : (s.chan ch).pending = true) (hl : left = []) :
    s.relocate ch = State.resumePaused { t.modChan ch fun k => { k with
      movers := ((s.toMove ch).map (·.2)).dedup } with mapouts := t.mapouts.filter (· != ch) } := by
  subst hl
  simp only [State.relocate, hmv, hall, hp, Bool.not_true, Bool.false_eq_true, if_false, List.isEmpty_nil, Bool.and_self,
    if_true]
  rfl

/-- Parts leave retired pages; those without a new place stay (log 141). -/
theorem State.relocate_retired (hp : (s.chan ch).pending = false) :
    s.relocate ch = State.resumePaused (left.foldl (fun u _ => u.report (codeAt Code.hbmRetireHeld ch))
      (t.modChan ch fun k => { k with held := k.held ++ left.map (·.1) })) := by
  simp only [State.relocate, hmv, hall, hp, Bool.not_true, Bool.false_and, Bool.false_eq_true, if_false]

end Relocate

/-- The channel `ch` is mapped out and HBM_MAPOUT reported (R245). -/
theorem State.mapoutDone_empty (hp : (s.chan ch).pending = true) (hm : (s.chan ch).mappedOut = false)
    (hg : s.granulesIn ch = []) {r : State}
    (hr : (s.modChan ch fun x => { x with mappedOut := true, pending := false, buffered := [], movers := [] }).report
      (codeAt Code.hbmMapout ch) = r) :
    s.mapoutDone ch = State.resumePaused (State.endWaits (State.endMapouts { r with
      mapouts := r.mapouts.filter (· != ch), boot := { r.boot with repairsDue := r.boot.repairsDue ++ [.mapOut ch] } }
      ch 0 Code.hbmMapout) ch) := by
  subst hr
  simp only [State.mapoutDone, hp, hm, hg, Bool.not_false, List.isEmpty_nil, Bool.and_self, if_true]
  rfl

/-- Settles O29: the rows of a channel, each by the way that its conditions leave it. -/
theorem channelsAreTended : Obligations.ChannelsAreTended := by
  unfold Obligations.ChannelsAreTended
  refine ⟨⟨fun s ch hch => ⟨exec_of_unit rfl hch rfl, fun hc hx hf => ?_⟩,
    fun s ch hch he hm hp => exec_of_unit rfl hch (State.scrub_reads he hm hp),
    fun s r rest hd hs => exec_repairRecordWrite_due hd hs⟩,
    fun s ch hch => ⟨fun hf => exec_of_unit rfl hch (State.channelFault_first hf), fun left t hmv hall => ⟨?_, ?_⟩, ?_⟩⟩
  · obtain ⟨-, -, -, -, -, -, -, -, hchans, -⟩ := (State.canonical_iff s).1 hc
    exact State.turnBus_succeeds hchans hx hf
  · exact fun hp hl => exec_of_unit rfl hch (State.relocate_mapout hmv hall hp hl)
  · exact fun hp => exec_of_unit rfl hch (State.relocate_retired hmv hall hp)
  · exact fun hp hm hg => exec_of_unit rfl hch (State.mapoutDone_empty hp hm hg rfl)

end Sys2Proof.Machine
end

section
/-! SUPPORT. A BAR0 write of MS_HBM_CFG with channels that hold buffered blocks (R235, R252). -/

namespace Sys2Proof.Machine

open Sys2Proof

/-- A started module, whose burst is the 32 blocks of reset, with 8 blocks in the write buffer of channel 0. -/
def eightBuffered : State := { State.reset with
  boot := { Boot.reset with stage := stageReady }
  chans := [(0, { Chan.reset with buffered := (List.range 8).map fun b => (b, ⟨15, zeros 256⟩) })] }

/-- The eight blocks wait, for they are fewer than the burst. -/
theorem eightBuffered_waits :
    (eightBuffered.chan 0).buffered.length = 8 ∧ eightBuffered.wrBurst = 32 := by decide

/-- A burst of 8 is stored: eight blocks are buffered, so the bus turns and none is left. -/
theorem eightBuffered_turns : ((eightBuffered.hbmCfgWrite 0x800).chan 0).buffered = [] := by decide

/-- Refutes O49: a write of MS_HBM_CFG does more than store the register. Where a channel holds as many blocks as the
new burst has, its bus turns by R235 at once, which empties the write buffer. -/
theorem not_registersAreWritten : ¬ Obligations.RegistersAreWritten := by
  unfold Obligations.RegistersAreWritten
  rintro ⟨-, -, -, hwrites⟩
  have haccepts : eightBuffered.acceptsWrites = true := by decide
  obtain ⟨-, -, -, -, -, hcfg, -⟩ := hwrites eightBuffered 0 0x800 Nat.two_pos haccepts
  have hrow : exec (.msHbmCfgWrite 0 0x800) eightBuffered = .next (eightBuffered.hbmCfgWrite 0x800) :=
    exec_of_unit rfl Nat.two_pos (State.bar0_accepts haccepts _ _)
  have hstate : eightBuffered.hbmCfgWrite 0x800 = { eightBuffered with hbmCfg := putHbmCfg eightBuffered.hbmCfg 0x800 } :=
    Host.Outcome.next.inj (hrow.symm.trans hcfg)
  have hempty : (eightBuffered.chan 0).buffered = [] :=
    (congrArg (fun t : State => (t.chan 0).buffered) hstate).symm.trans eightBuffered_turns
  exact absurd (congrArg List.length hempty) (by rw [eightBuffered_waits.1]; decide)

end Sys2Proof.Machine
end

section
/-! SUPPORT. What a report changes, as one frame: the log, ALERT_L, the host ports and what leaves the module (R427,
R428, R498, R546). -/

namespace Sys2Proof.Machine

open Sys2Proof

/-- Nothing but the error log, the board's signals, the host ports and the module's output differs. -/
def ReportsOnly (s t : State) : Prop :=
  ∃ err board ports out, t = { s with err := err, board := board, ports := ports, out := out }

theorem ReportsOnly.refl (s : State) : ReportsOnly s s := ⟨s.err, s.board, s.ports, s.out, rfl⟩

theorem ReportsOnly.trans {s t u : State} (h : ReportsOnly s t) (k : ReportsOnly t u) : ReportsOnly s u := by
  obtain ⟨_, _, _, _, rfl⟩ := h
  obtain ⟨err, board, ports, out, rfl⟩ := k
  exact ⟨err, board, ports, out, rfl⟩

theorem State.emit_reportsOnly (s : State) (o : Out) : ReportsOnly s (s.emit o) := ⟨s.err, s.board, s.ports, _, rfl⟩

theorem State.setPort_reportsOnly (s : State) (port : Nat) (x : Port) : ReportsOnly s (s.setPort port x) :=
  ⟨s.err, s.board, _, s.out, rfl⟩

theorem State.raiseVector_reportsOnly (s : State) (port vec : Nat) : ReportsOnly s (s.raiseVector port vec) := by
  simp only [State.raiseVector]
  split
  · exact State.emit_reportsOnly ..
  · split
    · exact (State.setPort_reportsOnly ..).trans (State.emit_reportsOnly ..)
    · exact State.setPort_reportsOnly ..

theorem State.signalPort_reportsOnly (s : State) (sevs : List Nat) (port : Nat) :
    ReportsOnly s (s.signalPort sevs port) := by
  unfold State.signalPort
  extract_lets p lim el fatal s1 s2
  have h1 : ReportsOnly s s1 := State.setPort_reportsOnly ..
  have h2 : ReportsOnly s s2 := by
    simp only [s2]
    split
    · exact h1.trans (State.raiseVector_reportsOnly ..)
    · exact h1
  split
  · exact h2.trans (State.emit_reportsOnly ..)
  · exact h2

theorem State.report_reportsOnly (s : State) (code : Word) (w : Where) : ReportsOnly s (s.report code w) := by
  unfold State.report
  extract_lets secure l
  generalize Errors.logFrom 2 s.err l = r
  obtain ⟨er, sevs⟩ := r
  refine ReportsOnly.trans ?_
    ((State.signalPort_reportsOnly _ sevs 0).trans (State.signalPort_reportsOnly _ sevs 1))
  exact ⟨er, _, s.ports, s.out, rfl⟩

@[simp] theorem State.report_link (s : State) (code : Word) (w : Where) (l : Nat) :
    (s.report code w).link l = s.link l := by
  obtain ⟨_, _, _, _, h⟩ := State.report_reportsOnly s code w
  rw [h]
  rfl

@[simp] theorem State.report_snapWaiting (s : State) (code : Word) (w : Where) :
    (s.report code w).snapWaiting = s.snapWaiting := by
  obtain ⟨_, _, _, _, h⟩ := State.report_reportsOnly s code w
  rw [h]

end Sys2Proof.Machine
end

section
/-! SUPPORT. Ports: training and negotiation (R260–R262, R306, R367), lanes that go down and come again, and the host's
control of them (R259, R271–R273, R285). -/

namespace Sys2Proof.Machine

open Sys2Proof

/-! ### Rows that name two units -/

/-- A command whose two units exist answers what its row does. -/
theorem exec_of_two_units {c : Instr} {s t u : State} {x n y m : Nat}
    (he : exec c s = inRange (decide (x < n) && decide (y < m)) t) (hx : x < n) (hy : y < m) (ht : t = u) :
    exec c s = .next u := by
  rw [he, decide_eq_true hx, decide_eq_true hy, Bool.and_self, inRange_true, ht]

/-! ### Training (R260) -/

/-- The state in which a port begins to train: a global port takes its TP_OVR into force (R308). -/
def State.ovrTaken (s : State) (l : Nat) : State :=
  if isGlobal l then { s with fab := { s.fab with
    ovrUsed := Tbl.set 0 s.fab.ovrUsed (l - 31) (Tbl.get 0 s.fab.tpOvr (l - 31)) } } else s

variable {s : State} {l : Nat}

/-- With no lane quarantined, those that lock come up, and negotiation begins. -/
theorem State.portTrain_locks {a b : Bool} (hlive : s.portsLive = true) (hdis : (s.link l).disable = false)
    (hheld : (s.link l).heldDown = false) (hup0 : (s.link l).up0 = false) (hup1 : (s.link l).up1 = false)
    (hq0 : (s.link l).quar0 = false) (hq1 : (s.link l).quar1 = false) (hab : a = true ∨ b = true) :
    s.portTrain l a b = (State.sendNegotiation ((s.ovrTaken l).setLink l { (s.link l).dropped with
      state := 1, up0 := a, up1 := b, missed := (s.link l).missed }) l).updateTopo := by
  have hlock : (a || b) = true := Bool.or_eq_true_iff.2 hab
  simp only [State.portTrain, hlive, hdis, hheld, hup0, hup1, hq0, hq1, hlock, Bool.not_true, Bool.not_false,
    Bool.or_self, Bool.and_self, Bool.and_true, Bool.false_eq_true, if_false, if_true, State.ovrTaken]

/-! ### Negotiation flits sent (R261, R262, R367) -/

/-- A port that does not carry flits has no maintenance slot before its negotiation flit. -/
theorem State.sendNegotiation_training (hc : (s.link l).carries = false) : s.sendNegotiation l =
    if s.fab.selfFenced then s.putFlit l 0 (bareFlit (zeros 244)) else s.putFlit l 3 (bareFlit (s.offer l)) := by
  simp only [State.sendNegotiation, hc, Bool.false_and, Bool.false_eq_true, if_false]

theorem State.offer_agreed (ha : (s.link l).agreed = true) :
    s.offer l = s.negotiation l true (s.link l).version (b2n (s.link l).rate) := by
  simp only [State.offer, ha, if_true]

/-- Before agreement the side with the lower chip number chooses, and the other confirms what it was given. -/
theorem State.offer_choice {ver rate : Nat} (ha : (s.link l).agreed = false)
    (hv : chooseVersion (s.link l).partner = some (ver, rate)) : s.offer l =
      if s.ownChip < bits (fieldAt (s.link l).partner 8 2) 0 14 ∨ confirms (s.link l).partner ver rate = true
      then s.negotiation l true ver rate else s.negotiation l false 0 0 := by
  simp only [State.offer, ha, hv, Bool.false_eq_true, if_false, Bool.or_eq_true, decide_eq_true_eq]

/-! ### Negotiation flits received (R261, R262, R306) -/

section Negotiate

variable {f : Flit}

/-- A good flit, by its kind and by whether this side has agreed. -/
theorem State.negotiate_good (hs : (s.link l).state ≠ 0) (hup : (s.link l).up0 = true ∨ (s.link l).up1 = true)
    (hu : ((s.takeCodewords l f).link l).state ≠ 0) (hg : flitGood f = true) (hh : headerOk f = true) :
    s.negotiate l f =
      if hdr f 0 4 ≠ 3 then (s.takeCodewords l f).modLink l fun q => { q with partnerDone := q.agreed }
      else if (s.link l).agreed then (s.takeCodewords l f).sendNegotiation l
      else (s.takeCodewords l f).negotiateWith l f := by
  have hlane : ¬((s.link l).state = 0 ∨ ((!(s.link l).up0) = true ∧ (!(s.link l).up1) = true)) := by
    rintro (h | ⟨h0, h1⟩)
    · exact hs h
    · rw [Bool.not_eq_true'] at h0 h1
      rcases hup with h | h
      · exact Bool.false_ne_true (h0.symm.trans h)
      · exact Bool.false_ne_true (h1.symm.trans h)
  simp only [State.negotiate, if_neg hlane, if_neg hu, hg, hh, Bool.not_true, Bool.false_eq_true, if_false]

/-- Without a common version or rate the port is held down (R262). -/
theorem State.negotiateWith_none (hv : chooseVersion f.payload = none) : s.negotiateWith l f =
    ((s.report (codeAt Code.lkVersion l) { info := hdr f 10 12 }).portLost l).modLink l fun k =>
      { k with heldDown := true } := by
  simp only [State.negotiateWith, hv]

/-- The flit is noted and answered. -/
def State.negotiationAnswered (s : State) (l : Nat) (f : Flit) : State :=
  (s.setLink l { s.link l with partner := f.payload }).sendNegotiation l

variable {ver rate : Nat} (hv : chooseVersion f.payload = some (ver, rate))
include hv

theorem State.negotiateWith_first (hsecond : (confirms f.payload ver rate && (s.link l).partner == f.payload) = false) :
    s.negotiateWith l f = s.negotiationAnswered l f := by
  simp only [State.negotiateWith, hv, hsecond, Bool.false_eq_true, if_false, State.negotiationAnswered]

/-- The second identical flit that agrees passes the partner to discovery. -/
theorem State.negotiateWith_second (hsecond : (confirms f.payload ver rate && (s.link l).partner == f.payload) = true)
    (hfab : .fab ∉ s.err.restarting) : s.negotiateWith l f = State.discover' ((s.negotiationAnswered l f).modLink l
      fun k => { k with agreed := true, state := 4, version := ver, rate := rate == 1, outcome := 0 }) l := by
  simp only [State.negotiateWith, hv, hsecond, if_true, List.contains_eq_mem, hfab, decide_false, Bool.false_eq_true,
    if_false, State.negotiationAnswered]

end Negotiate

/-! ### The time for training is over (R260, R306) -/

/-- Each of two trained lanes counts a lane-down event, and training starts again. -/
theorem State.negotiationOver_trained (hs : (s.link l).state = 1) (hup0 : (s.link l).up0 = true)
    (hup1 : (s.link l).up1 = true) : s.negotiationOver l =
      State.portLost (((s.report (codeAt Code.lkVersion l)).countDown l 0).countDown l 1) l := by
  simp only [State.negotiationOver, hs, hup0, hup1, ne_eq, not_true_eq_false, Bool.not_true, Bool.false_eq_true,
    and_self, or_self, if_false, if_true]

theorem State.whenFab_runs (h : .fab ∉ s.err.restarting) (i : Instr) (g : State → State) : s.whenFab i g = g s := by
  simp only [State.whenFab, List.contains_eq_mem, h, decide_false, Bool.false_eq_true, if_false]

theorem State.discoveryOver_missing (he : (s.plan l).expect ≠ 0) (hs : (s.link l).state ≤ 1)
    (hm : (s.link l).missed = false) (hlive : s.portsLive = true) : s.discoveryOver l =
      (s.modLink l fun k => { k with missed := true }).holdPort l 4 Code.tpNeighborMissing := by
  have hdue : (s.plan l).expect ≠ 0 ∧ (s.link l).state ≤ 1 ∧ (!(s.link l).missed) = true ∧ s.portsLive = true :=
    ⟨he, hs, by rw [hm, Bool.not_false], hlive⟩
  simp only [State.discoveryOver, if_pos hdue]

/-! ### Lanes (R259, R271, R272) -/

section Lanes

variable {lane : Nat}

/-- Counting a lane-down event changes neither the port's lanes nor its state. -/
theorem State.countDown_link (hw : Tbl.wf Link.reset s.links = true) :
    ((s.countDown l lane).link l).up0 = (s.link l).up0 ∧ ((s.countDown l lane).link l).up1 = (s.link l).up1 ∧
      ((s.countDown l lane).link l).state = (s.link l).state := by
  unfold State.countDown
  extract_lets k ds q k1 s1
  have h1 : s1.link l = k1 := State.link_setLink_self hw l k1
  have hk : k1.up0 = k.up0 ∧ k1.up1 = k.up1 ∧ k1.state = k.state := by
    simp only [k1]
    split <;> exact ⟨rfl, rfl, rfl⟩
  rwa [apply_ite (fun t : State => t.link l), State.report_link, ite_self, h1]

/-- The lane's loss is reported and counted. -/
def State.laneDownCounted (s : State) (l lane : Nat) : State :=
  (s.report (codeAt Code.lkLaneDown l)).countDown l lane

/-- The lane is no longer up. -/
def Link.withoutLane (k : Link) (lane : Nat) : Link :=
  if lane = 0 then { k with up0 := false } else { k with up1 := false }

variable (hc : s.canonical = true)
include hc

theorem State.laneDownCounted_canonical : (s.laneDownCounted l lane).canonical = true :=
  (State.countDown_keeps (State.report_keeps (Keeps.refl s) _ _) l lane).form hc

theorem State.laneDownCounted_link : ((s.laneDownCounted l lane).link l).up0 = (s.link l).up0 ∧
    ((s.laneDownCounted l lane).link l).up1 = (s.link l).up1 ∧
    ((s.laneDownCounted l lane).link l).state = (s.link l).state := by
  have h := State.countDown_link (s := s.report (codeAt Code.lkLaneDown l)) (l := l) (lane := lane)
    (State.links_wf ((State.report_keeps (Keeps.refl s) _ _).form hc))
  rwa [State.report_link] at h

/-- A lane that is up goes down: with no lane left the port does, too; at full width it degrades and replays. -/
theorem State.laneDown_up (hup : (if lane = 0 then (s.link l).up0 else (s.link l).up1) = true) {t : State}
    (ht : s.laneDownCounted l lane = t) {k : Link} (hk : (t.link l).withoutLane lane = k) : s.laneDown l lane =
      if !k.up0 && !k.up1 then (t.setLink l k).portDown l
      else if k.state = 2 then (t.setLink l { k with state := 3 }).replayAll l
      else t.setLink l k := by
  subst ht hk
  have hw := State.links_wf (State.laneDownCounted_canonical (l := l) (lane := lane) hc)
  simp only [State.laneDown, hup, Bool.not_true, Bool.false_eq_true, if_false]
  simp only [← State.laneDownCounted.eq_1, ← Link.withoutLane.eq_1, State.modLink, State.link_setLink_self hw,
    State.setLink_setLink hw]

/-- A port at full width degrades to its other lane and replays there. -/
theorem State.laneDown_degrades (hs : (s.link l).state = 2) (hup0 : (s.link l).up0 = true) (hup1 : (s.link l).up1 = true) :
    s.laneDown l lane = State.replayAll ((s.laneDownCounted l lane).modLink l fun k =>
      if lane = 0 then { k with up0 := false, state := 3 } else { k with up1 := false, state := 3 }) l := by
  obtain ⟨h0, h1, hst⟩ := State.laneDownCounted_link (l := l) (lane := lane) hc
  rw [State.laneDown_up hc (by rw [hup0, hup1, ite_self]) rfl rfl, State.modLink]
  rw [hup0] at h0
  rw [hup1] at h1
  rw [hs] at hst
  generalize s.laneDownCounted l lane = t at h0 h1 hst ⊢
  by_cases hl : lane = 0
  · simp [Link.withoutLane, hl, h1, hst]
  · simp [Link.withoutLane, hl, h0, hst]

/-- A port that loses its last lane, lane 0, goes DOWN. -/
theorem State.laneDown_last (hup0 : (s.link l).up0 = true) (hup1 : (s.link l).up1 = false) :
    s.laneDown l 0 = State.portDown ((s.laneDownCounted l 0).modLink l fun k => { k with up0 := false }) l := by
  obtain ⟨-, h1, -⟩ := State.laneDownCounted_link (l := l) (lane := 0) hc
  rw [State.laneDown_up hc (by rw [if_pos rfl, hup0]) rfl rfl, State.modLink]
  rw [hup1] at h1
  generalize s.laneDownCounted l 0 = t at h1 ⊢
  simp [Link.withoutLane, h1]

end Lanes

/-- The lost lane 1 of a degraded port locks again. -/
theorem State.laneRetrain_locks (hs : (s.link l).state = 3) (hup0 : (s.link l).up0 = true)
    (hup1 : (s.link l).up1 = false) (hq1 : (s.link l).quar1 = false) :
    s.laneRetrain l true = s.setLink l { s.link l with up0 := true, up1 := true, state := 2 } := by
  simp [State.laneRetrain, hs, hup0, hup1, hq1]

/-! ### The host's control (R272, R273, R285) -/

/-- Enabling a port, or disabling one that is DOWN, changes what holds it down and nothing else. -/
theorem State.portDisable_quiet {b : Bool} (h : b = false ∨ (s.link l).state = 0) : s.portDisable l b =
    s.setLink l { s.link l with
      disable := b, heldDown := (s.link l).heldDown && b, missed := (s.link l).missed && b } := by
  refine if_neg fun hdown => ?_
  rw [Bool.and_eq_true, Bool.and_eq_true, bne_iff_ne] at hdown
  obtain ⟨⟨hb, -⟩, hst⟩ := hdown
  rcases h with h | h
  · exact Bool.false_ne_true (h.symm.trans hb)
  · exact hst h

theorem State.laneRelease_lane0 (hq : (s.link l).quar0 = true) :
    s.laneRelease l 0 = s.setLink l { s.link l with quar0 := false, downs0 := [] } := by
  simp only [State.laneRelease, State.modLink, hq, if_true]

theorem State.laneRelease_lane1 (hq : (s.link l).quar1 = true) :
    s.laneRelease l 1 = s.setLink l { s.link l with quar1 := false, downs1 := [] } := by
  simp only [State.laneRelease, State.modLink, hq, if_true, one_ne_zero, if_false]

/-! ### The obligation -/

/-- Settles O31: each row by the way that its conditions leave it. That flits of a partner that still negotiates are
answered after this side has agreed, until a flit of another kind comes, is the model's choice (log 130); so is when a
port that is held down is let go (log 77). -/
theorem portsTrainAndLanesComeAndGo : Obligations.PortsTrainAndLanesComeAndGo := by
  unfold Obligations.PortsTrainAndLanesComeAndGo
  constructor
  · intro s l hl
    refine ⟨?train, ?send, State.offer_agreed, ?offer, ?receive, ?timeout, ?missing⟩
    case train =>
      intro a b hlive hdis hheld hup0 hup1 hq0 hq1 hab
      exact exec_of_unit rfl hl (State.portTrain_locks hlive hdis hheld hup0 hup1 hq0 hq1 hab)
    case send =>
      intro hc
      rw [State.sendNegotiation_training hc]
      exact ⟨fun hf => if_neg (Bool.eq_false_iff.1 hf), fun hf => if_pos hf⟩
    case offer =>
      intro ver rate ha hv
      rw [State.offer_choice ha hv]
      exact ⟨fun hmine => if_pos hmine, fun hother => if_neg hother⟩
    case receive =>
      intro f u hs hup hu hg hh
      have hrow : exec (.negotiationFlit l f) s = .next (s.negotiate l f) := exec_of_unit rfl hl rfl
      rw [hrow, State.negotiate_good hs hup hu hg hh]
      refine ⟨fun hk => by rw [if_pos hk], fun hk ha => ?_, fun hk ha hv => ?_, fun ver rate hk ha hv => ⟨?_, ?_⟩⟩
      · rw [if_neg (not_not.2 hk), if_pos ha]
      · rw [if_neg (not_not.2 hk), if_neg (Bool.eq_false_iff.1 ha), State.negotiateWith_none hv]
      · intro hfirst
        rw [if_neg (not_not.2 hk), if_neg (Bool.eq_false_iff.1 ha), State.negotiateWith_first hv hfirst]
        rfl
      · intro hsecond hfab
        rw [if_neg (not_not.2 hk), if_neg (Bool.eq_false_iff.1 ha), State.negotiateWith_second hv hsecond hfab]
        rfl
    case timeout =>
      exact fun hs hup0 hup1 => exec_of_unit rfl hl (State.negotiationOver_trained hs hup0 hup1)
    case missing =>
      intro hfab he hs hm hlive
      exact exec_of_unit rfl hl ((State.whenFab_runs hfab _ _).trans (State.discoveryOver_missing he hs hm hlive))
  · intro s l port hl hport hc
    refine ⟨fun lane hlane hs hup0 hup1 => ?_, fun hup0 hup1 => ?_, fun hup0 hup1 hs hq1 => ?_,
      fun hw => ⟨fun b hb => ?_, fun hq => ?_, fun hq => ?_⟩⟩
    · exact exec_of_two_units rfl hl hlane (State.laneDown_degrades hc hs hup0 hup1)
    · exact exec_of_two_units rfl hl Nat.two_pos (State.laneDown_last hc hup0 hup1)
    · exact exec_of_unit rfl hl (State.laneRetrain_locks hs hup0 hup1 hq1)
    · exact exec_of_two_units rfl hport hl ((State.bar0_accepts hw _ _).trans (State.portDisable_quiet hb))
    · exact exec_of_two_units rfl hport hl ((State.bar0_accepts hw _ _).trans (State.laneRelease_lane0 hq))
    · exact exec_of_two_units rfl hport hl ((State.bar0_accepts hw _ _).trans (State.laneRelease_lane1 hq))

end Sys2Proof.Machine
end

section
/-! SUPPORT. Flits of a port that carries flits: received, passed on in transit, dropped, sent and replayed (R258, R259,
R261, R263–R267, R283, R284). -/

namespace Sys2Proof.Machine

open Sys2Proof

variable {s : State} {l : Nat}

/-! ### Receipt (R258, R259, R263, R266) -/

section Receive

variable {f : Flit}

/-- A flit whose codewords leave the port its lanes is taken, and the port goes on sending. -/
theorem State.recvFlit_carries (hc : (s.link l).carries = true) (hu : ((s.takeCodewords l f).link l).carries = true) :
    s.recvFlit l f = ((s.takeCodewords l f).takeFlit l f).answerFlit l := by
  simp only [State.recvFlit, hc, hu, Bool.not_true, Bool.false_eq_true, if_false, if_true]

theorem State.takeFlit_bad (hg : flitGood f = false) : s.takeFlit l f = (s.flitDropped l (hdr f 10 12)).gap l := by
  simp only [State.takeFlit, hg, Bool.not_false, if_true]

/-- What the kind of a good flit makes of its contents. A partner that still negotiates is answered (log 130). -/
def State.takeContents (s : State) (l : Nat) (f : Flit) : State :=
  if hdr f 0 4 = 1 then s.takeData l f
  else if hdr f 0 4 = 2 then s.takeMaintenance l f.payload
  else if hdr f 0 4 = 3 then s.sendNegotiation l
  else s

theorem State.takeFlit_good {t : State} (hg : flitGood f = true) (hh : headerOk f = true)
    (ht : s.takeReport l f = some t) (hc : (t.link l).carries = true) : s.takeFlit l f = t.takeContents l f := by
  simp only [State.takeFlit, hg, hh, ht, hc, Bool.not_true, Bool.false_eq_true, if_false, State.takeContents]
  split
  case h_1 hk => rw [if_pos hk]
  case h_2 hk => rw [hk]; rfl
  case h_3 hk => rw [hk]; rfl
  case h_4 h1 h2 h3 => rw [if_neg h1, if_neg h2, if_neg h3]

/-! ### Data flits (R266, R270, R283) -/

/-- The first flit out of sequence asks for a replay. -/
theorem State.takeData_gap (hq : hdr f 10 12 ≠ ((s.link l).rxSeq + 1) % 4096) (hn : (s.link l).nakSent = false) :
    s.takeData l f = s.setLink l { s.link l with nakPending := true, nakSent := true } := by
  simp only [State.takeData, if_pos hq, State.gap, State.modLink, hn, Bool.false_eq_true, if_false]

/-- The port has accepted a data flit's sequence number. -/
def State.inSequence (s : State) (l : Nat) (f : Flit) : State :=
  s.setLink l { s.link l with rxSeq := hdr f 10 12, nakSent := false }

/-- With no packet in transit on its VC, nothing ends where a packet begins. -/
theorem State.endCut_none {vc : Nat} (h : Tbl.get none (s.link l).cut vc = none) : s.endCut l vc = s := by
  simp only [State.endCut, h]

/-- A data flit goes on by a port, or stays with its packet. -/
def State.onward (s : State) (l : Nat) (f : Flit) (way : Option Nat) : State :=
  way.elim (s.keepData l f) fun x => s.transit l x f

variable (hq : hdr f 10 12 = ((s.link l).rxSeq + 1) % 4096)
  (ho : Tbl.get 0 (s.link l).occupied (3 * hdr f 4 2 + hdr f 6 2) < ownPool (3 * hdr f 4 2 + hdr f 6 2))
include hq ho

/-- The first flit of a packet says whether the packet goes on at once. -/
theorem State.takeData_begins (hb : hdr f 8 1 = 1)
    (hcut : Tbl.get none ((s.inSequence l f).link l).cut (hdr f 4 2) = none) : s.takeData l f =
      (s.inSequence l f).onward l f ((s.inSequence l f).cutThrough l (hdr f 4 2) f.payload) := by
  have hend := State.endCut_none hcut
  simp only [State.takeData, if_neg (not_not.2 hq), if_neg (Nat.not_le.2 ho), if_pos hb]
  simp only [State.inSequence] at hend ⊢
  rw [hend]
  split
  case h_1 hway => rw [hway]; rfl
  case h_2 hway => rw [hway]; rfl

/-- A later flit goes where its packet goes. -/
theorem State.takeData_continues (hb : hdr f 8 1 ≠ 1) : s.takeData l f =
    (s.inSequence l f).onward l f (Tbl.get none ((s.inSequence l f).link l).cut (hdr f 4 2)) := by
  simp only [State.takeData, if_neg (not_not.2 hq), if_neg (Nat.not_le.2 ho), if_neg hb]
  simp only [State.inSequence]
  split
  case h_1 hway => rw [hway]; rfl
  case h_2 hway => rw [hway]; rfl

end Receive

/-! ### Sending (R265, R267) -/

/-- A port at its maintenance slot sends the maintenance flit. -/
theorem State.fillRound_maintSlot (hm : (s.link l).maintSlot = true) (n : Nat) :
    s.fillRound l (n + 1) = s.putFlit l 2 (bareFlit (s.maintenance l)) := by
  simp only [State.fillRound, hm, if_true, State.putMaintenance]

theorem exec_maintenanceFlitSend (hl : l < 40) (hc : (s.link l).carries = true) :
    exec (.maintenanceFlitSend l) s = .next (s.fillRound l 58) :=
  exec_of_unit rfl hl (if_pos hc)

/-- An unanswered replay buffer is reported, counted, and sent again. -/
theorem exec_replayTimeout (hl : l < 40) (hr : (s.link l).replay ≠ []) : exec (.replayTimeout l) s = .next
    (State.replayAll ((s.report (codeAt Code.lkReplayTimer l)
      { info := ((s.link l).replay.head?.map (·.seq)).getD 0 }).modLink l fun q =>
        { q with errCnt := setFld q.errCnt 0 16 (satAdd 16 (fld q.errCnt 0 16) 1) }) l) :=
  exec_of_unit rfl hl (if_neg (mt List.isEmpty_iff.1 hr))

/-! ### The obligation -/

/-- Settles O32: a flit by whether it is good and by its kind, a data flit by its sequence number and its packet's way,
and the rows that send. That a partner which still negotiates is answered, and that one command fills the slots up to the
next maintenance slot, are the model's choices (log 130); so is how a packet in transit goes on flit by flit (log 131). -/
theorem flitsAreExchanged : Obligations.FlitsAreExchanged := by
  unfold Obligations.FlitsAreExchanged
  intro s l hl
  refine ⟨?receive, fun f => State.takeData_gap, ?data, ?send, exec_replayTimeout hl⟩
  case receive =>
    intro f u hc hu
    have hrow : exec (.flitReceive l f) s = .next ((u.takeFlit l f).answerFlit l) :=
      exec_of_unit rfl hl (State.recvFlit_carries hc hu)
    refine ⟨fun t hg hh ht htc => ?_, fun hg => ?_⟩
    · rw [hrow, State.takeFlit_good hg hh ht htc]
      rfl
    · rw [hrow, State.takeFlit_bad hg]
  case data =>
    intro f hq ho t
    refine ⟨fun hb hcut => ?_, fun hb => ?_⟩
    · rw [State.takeData_begins hq ho hb hcut]
      exact ⟨fun x hx => congrArg (t.onward l f) hx, fun hx => congrArg (t.onward l f) hx⟩
    · rw [State.takeData_continues hq ho hb]
      exact ⟨fun x hx => congrArg (t.onward l f) hx, fun hx => congrArg (t.onward l f) hx⟩
  case send =>
    exact fun hc => ⟨exec_maintenanceFlitSend hl hc, fun hm => State.fillRound_maintSlot hm 57⟩

end Sys2Proof.Machine
end

section
/-! SUPPORT. An atomic that came by a port of version 1 (R262), behind a request of its sender that waits for a snapshot
slot (R277, R403). -/

namespace Sys2Proof.Machine

open Sys2Proof

/-! ### Waiting and refusing leave different queues -/

/-- An atomic of class 3 behind a waiting request of its sender waits (R277). -/
theorem State.snapWaits_ordered {s : State} {p : Packet} {c : Nat} (ha : s.arrived p 6 = true) (hg : goodHeader p = true)
    (hj : p.jobTag ≠ 0) (had : s.admission p = .ok c) (hr : s.inRegion c p.address.toNat 8 = true) (hc : p.cls = 3)
    (hw : s.senderWaits p = true) : s.snapWaits p 6 8 = some c := by
  simpa [State.snapWaits, ha, hg, had, hr, hc, hw] using hj

/-- An atomic that has to wait is queued, whichever port brought it. -/
theorem exec_atomicReq_waits {s : State} {p : Packet} {c : Nat} (h : s.snapWaits p 6 8 = some c) :
    exec (.atomicReq p) s = .next (s.waitForSnap c (.atomicReq p)) := by
  simp only [exec, execAtomicReq, State.serveOrWait, h]

/-- A refusal queues nothing. -/
theorem State.refuse_snapWaiting (s : State) (p : Packet) (reason : Nat) :
    (s.refuse p reason).snapWaiting = s.snapWaiting :=
  State.report_snapWaiting ..

theorem State.taken_snapWaiting (s : State) (p : Packet) : (s.taken p).snapWaiting = s.snapWaiting := by
  unfold State.taken
  split <;> rfl

/-! ### The counterexample -/

/-- A class-3 WRITE of one byte, of job 7. -/
def orderedWrite : Packet :=
  { op := 1, flags := 3, dstChip := 0, srcChip := 1, srcLcore := 3, dstLcore := 0, tag := 0, jobTag := 7, length := 1,
    rsv := 0, epoch := 0, address := 0, poison := 0, arg := 0, data := [5] }

/-- A class-3 fetch-and-add of the same sender and job. -/
def orderedAtomic : Packet :=
  { orderedWrite with op := 6, length := 0, rsv := 1, address := 64, arg := 1, data := [] }

/-- Context 0 runs job 7 with one region at 0; the write waits, and port 39, of version 1, has brought the atomic. -/
def atomicBehindWrite : State := { State.reset with
  ctxs := [(0, { Ctx.reset with
    st := .running, desc := { CtxDesc.reset with flags := 1 }, regs := { CtxRegs.reset with lkJob := 7 }
    regions := [(0, some ⟨0, 2 ^ 26, 2, 0⟩)] })]
  links := [(39, { Link.reset with version := 1, delivered := [orderedAtomic] })]
  snapWaiting := [.write orderedWrite] }

theorem atomicBehindWrite_byVersion1 : atomicBehindWrite.arrived orderedAtomic 6 = true ∧
    atomicBehindWrite.viaVersion1 orderedAtomic = true := by decide

theorem atomicBehindWrite_waits : atomicBehindWrite.snapWaits orderedAtomic 6 8 = some 0 :=
  State.snapWaits_ordered atomicBehindWrite_byVersion1.1 (by decide) (by decide) rfl (by decide) (by decide) (by decide)

/-- Refutes O26: an atomic that came by a port of version 1 is not refused at once where it is of class 3 and a request of
its sender waits: the model lets it wait first, as R277 has it, and looks at the port's version (R262) only when it is
served. -/
theorem not_requestsAreServedOrRefused : ¬ Obligations.RequestsAreServedOrRefused := by
  unfold Obligations.RequestsAreServedOrRefused
  rintro ⟨-, -, hrefused⟩
  obtain ⟨harrived, hversion⟩ := atomicBehindWrite_byVersion1
  obtain ⟨hrefuse, -⟩ := hrefused atomicBehindWrite orderedAtomic 6 (.atomicReq orderedAtomic) (by simp) harrived
  have hstate : atomicBehindWrite.waitForSnap 0 (.atomicReq orderedAtomic) =
      (atomicBehindWrite.refuse orderedAtomic 7).taken orderedAtomic :=
    Host.Outcome.next.inj ((exec_atomicReq_waits atomicBehindWrite_waits).symm.trans (hrefuse (.inr ⟨rfl, hversion⟩)))
  have hqueue : atomicBehindWrite.snapWaiting ++ [.atomicReq orderedAtomic] = atomicBehindWrite.snapWaiting := by
    calc atomicBehindWrite.snapWaiting ++ [.atomicReq orderedAtomic]
        = (atomicBehindWrite.waitForSnap 0 (.atomicReq orderedAtomic)).snapWaiting := rfl
      _ = ((atomicBehindWrite.refuse orderedAtomic 7).taken orderedAtomic).snapWaiting := by rw [hstate]
      _ = atomicBehindWrite.snapWaiting := by rw [State.taken_snapWaiting, State.refuse_snapWaiting]
  exact List.cons_ne_nil _ _ (List.append_right_eq_self.1 hqueue)

end Sys2Proof.Machine
end

section
/-! SUPPORT. Fuses only go one way (R511, R512, R523), and reset is canonical (R437, R438). -/

namespace Sys2Proof.Machine

open Sys2Proof

/-- Settles O5: every command keeps what `Keeps` says, and the order of fuses is a part of it. -/
theorem fusesNeverGoBack : Obligations.FusesNeverGoBack := by
  unfold Obligations.FusesNeverGoBack
  intro c s t h
  exact (exec_keeps h).fuses

/-- Settles O3: at reset each table that `State.canonical` names lists only what differs from its default. The form is the
model's own; the tables of power, the log and the fabric are not among those it names. -/
theorem resetIsCanonical : Obligations.ResetIsCanonical := by
  unfold Obligations.ResetIsCanonical
  rw [State.canonical_iff]
  decide

end Sys2Proof.Machine
end

section
/-! SUPPORT. An error class over a run of reports (R428). -/

namespace Sys2Proof.Machine

open Sys2Proof

/-- The class after the reports `l`. -/
def ErrClass.holding (l : List LogEntry) : ErrClass :=
  ⟨l.length % 2 ^ 64, l.take 8, (l.drop 8).drop (l.length - 16), decide (16 < l.length)⟩

/-- One more report: among the first 8, among the next 8, or in place of the oldest of the ring. -/
theorem ErrClass.enter_holding (l : List LogEntry) (x : LogEntry) :
    ((ErrClass.holding l).enter x).1 = ErrClass.holding (l ++ [x]) := by
  have hcount : (l.length % 2 ^ 64 + 1) % 2 ^ 64 = (l ++ [x]).length % 2 ^ 64 := by
    rw [List.length_append, List.length_singleton, Nat.mod_add_mod]
  simp only [ErrClass.holding, ErrClass.enter, hcount]
  by_cases h8 : l.length < 8
  · have hfirst : (l.take 8).length < 8 := by simpa using h8
    have hdrop : ∀ m : List LogEntry, m.length ≤ 8 → (m.drop 8).drop (m.length - 16) = [] := fun m hm => by
      simp [List.drop_eq_nil_of_le hm]
    rw [if_pos hfirst, hdrop l (by omega), hdrop (l ++ [x]) (by simp; omega), List.take_of_length_le (by omega),
      List.take_of_length_le (by simp; omega)]
    simp only [List.length_append, List.length_singleton, show ¬16 < l.length by omega,
      show ¬16 < l.length + 1 by omega]
  · have hfirst : ¬(l.take 8).length < 8 := by simp; omega
    have htake : (l ++ [x]).take 8 = l.take 8 := List.take_append_of_le_length (by omega)
    rw [if_neg hfirst, htake]
    by_cases h16 : l.length < 16
    · have hlast : ((l.drop 8).drop (l.length - 16)).length < 8 := by simp; omega
      rw [if_pos hlast, List.length_append, List.length_singleton, show l.length - 16 = 0 by omega,
        show l.length + 1 - 16 = 0 by omega, List.drop_append_of_le_length (by omega)]
      simp only [List.drop_zero, show ¬16 < l.length by omega, show ¬16 < l.length + 1 by omega]
    · have hlast : ¬((l.drop 8).drop (l.length - 16)).length < 8 := by simp; omega
      rw [if_neg hlast, List.length_append, List.length_singleton, List.drop_drop, List.drop_drop, List.drop_drop,
        List.drop_append_of_le_length (by omega), show l.length - 16 + 1 = l.length + 1 - 16 by omega,
        decide_eq_true (show 16 < l.length + 1 by omega)]

theorem ErrClass.foldl_enter (l : List LogEntry) :
    l.foldl (fun e x => (ErrClass.enter e x).1) ErrClass.reset = ErrClass.holding l := by
  induction l using List.reverseRecOn with
  | nil => rfl
  | append_singleton l x ih => rw [List.foldl_append, ih, List.foldl_cons, List.foldl_nil, ErrClass.enter_holding]

/-- Settles O59, by induction on the reports, the newest last. -/
theorem logKeepsFirstAndLast : Obligations.LogKeepsFirstAndLast := by
  unfold Obligations.LogKeepsFirstAndLast
  intro l
  simp only [ErrClass.foldl_enter]
  exact ⟨rfl, rfl, rfl, rfl⟩

end Sys2Proof.Machine
end

section
/-! SUPPORT. Merging votes, and the verdict on them (R337, R338). -/

namespace Sys2Proof.Machine

open Sys2Proof

theorem satAdd_comm (n a b : Nat) : satAdd n a b = satAdd n b a := by
  rw [satAdd, satAdd, Nat.add_comm]

theorem satAdd_assoc (n a b c : Nat) : satAdd n (satAdd n a b) c = satAdd n a (satAdd n b c) := by
  simp only [satAdd]
  omega

/-! ### The failing chip -/

/-- Of two failing chips the merged vote names the lower. -/
theorem Vote.merge_failChip (a b : Vote) : (a.merge b).failChip = min a.failChip b.failChip := by
  simp only [Vote.merge]
  split <;> omega

/-- Its code goes with it; of equal chips the first vote's stays. -/
theorem Vote.merge_failCode (a b : Vote) :
    (a.merge b).failCode = if b.failChip < a.failChip then b.failCode else a.failCode :=
  apply_ite Vote.failCode ..

theorem Vote.merge_failCode_assoc (a b c : Vote) :
    ((a.merge b).merge c).failCode = (a.merge (b.merge c)).failCode := by
  simp only [Vote.merge_failCode, Vote.merge_failChip]
  by_cases hab : b.failChip < a.failChip <;> by_cases hbc : c.failChip < b.failChip
  · simp only [if_pos hab, if_pos hbc, show c.failChip < min a.failChip b.failChip by omega,
      show min b.failChip c.failChip < a.failChip by omega, if_true]
  · simp only [if_pos hab, if_neg hbc, show ¬c.failChip < min a.failChip b.failChip by omega,
      show min b.failChip c.failChip < a.failChip by omega, if_true, if_false]
  · simp only [if_neg hab, if_pos hbc, show min a.failChip b.failChip = a.failChip by omega,
      show min b.failChip c.failChip = c.failChip by omega]
  · simp only [if_neg hab, if_neg hbc, show ¬c.failChip < min a.failChip b.failChip by omega,
      show ¬min b.failChip c.failChip < a.failChip by omega, if_false]

theorem Vote.merge_failCode_comm {a b : Vote} (h : a.failChip ≠ b.failChip ∨ a.failCode = b.failCode) :
    (a.merge b).failCode = (b.merge a).failCode := by
  simp only [Vote.merge_failCode]
  rcases h with h | h
  · rcases Nat.lt_or_gt_of_ne h with h | h <;> simp only [h, if_true, Nat.lt_asymm h, if_false]
  · simp only [h, ite_self]

/-! ### The whole vote -/

theorem Vote.merge_assoc (a b c : Vote) : (a.merge b).merge c = a.merge (b.merge c) := by
  have hcode := Vote.merge_failCode_assoc a b c
  have hchip : ((a.merge b).merge c).failChip = (a.merge (b.merge c)).failChip := by
    simp only [Vote.merge_failChip, Nat.min_assoc]
  simp only [Vote.merge, Vote.mk.injEq] at hcode hchip ⊢
  exact ⟨Nat.add_assoc .., Bool.and_assoc .., Bool.or_assoc .., Bool.or_assoc .., Bool.or_assoc .., Bool.or_assoc ..,
    min_assoc .., max_assoc .., satAdd_assoc .., satAdd_assoc .., hchip, hcode⟩

theorem Vote.merge_comm {a b : Vote} (h : a.failChip ≠ b.failChip ∨ a.failCode = b.failCode) :
    a.merge b = b.merge a := by
  have hcode := Vote.merge_failCode_comm h
  have hchip : (a.merge b).failChip = (b.merge a).failChip := by
    simp only [Vote.merge_failChip, Nat.min_comm]
  simp only [Vote.merge, Vote.mk.injEq] at hcode hchip ⊢
  exact ⟨Nat.add_comm .., Bool.and_comm .., Bool.or_comm .., Bool.or_comm .., Bool.or_comm .., Bool.or_comm ..,
    min_comm .., max_comm .., satAdd_comm .., satAdd_comm .., hchip, hcode⟩

/-- Every row of R338 but the last decides something else than COMMIT. -/
theorem Ctx.verdict_commit {x : Ctx} {v : Vote} (h : (x.verdict v).1 = 1) :
    v.xMin = v.xMax ∧ v.faultedAny = false ∧ v.allOk = true := by
  unfold Ctx.verdict at h
  split at h
  · exact absurd h (by decide)
  · rename_i hx
    split at h
    · exact absurd h (by decide)
    · rename_i hf
      split at h
      · split at h <;> exact absurd h (by decide)
      · split at h
        · exact absurd h (by decide)
        · split at h
          · split at h
            · exact absurd h (by decide)
            · exact absurd h (show ¬2 = 1 by decide)
          · rename_i ha
            exact ⟨not_not.1 hx, Bool.not_eq_true _ ▸ hf, by simpa using ha⟩

/-- Settles O36: field by field, with the failing chip and its code taken together. -/
theorem votesMerge : Obligations.VotesMerge := by
  unfold Obligations.VotesMerge
  refine ⟨fun a b => ?fields, Vote.merge_assoc, fun a b => Vote.merge_comm, fun x a b ha hb hv => ?commit⟩
  case fields =>
    refine ⟨rfl, Bool.and_eq_true_iff, Bool.or_eq_true_iff, Bool.or_eq_true_iff, Bool.or_eq_true_iff, Bool.or_eq_true_iff,
      rfl, rfl, Nat.min_comm .., Nat.min_comm .., Vote.merge_failChip a b, fun h => ?_, fun h => ?_⟩
    · rw [Vote.merge_failCode, if_neg (Nat.lt_asymm h)]
    · rw [Vote.merge_failCode, if_pos h]
  case commit =>
    obtain ⟨hx, hf, hok⟩ := Ctx.verdict_commit hv
    obtain ⟨hfa, hfb⟩ := Bool.or_eq_false_iff.1 hf
    obtain ⟨hoka, hokb⟩ := Bool.and_eq_true_iff.1 hok
    have hmin : min a.xMin b.xMin = max a.xMin b.xMin := by
      calc min a.xMin b.xMin = max a.xMax b.xMax := hx
        _ = max a.xMin b.xMin := by rw [ha, hb]
    exact ⟨hoka, hokb, hfa, hfb, by omega⟩

end Sys2Proof.Machine
end

section
/-! SUPPORT. The cap on power, and how PW_STATUS shows it (R457, R472). -/

namespace Sys2Proof.Machine

open Sys2Proof

/-! ### The least of the requests -/

/-- The cap stands among the record's limit and the requests made, and is the least of them. -/
theorem State.effCap_least (s : State) :
    let asked := [(s.port 0).pwCap.toNat, (s.port 1).pwCap.toNat, s.pw.boardCap].filter (· != 0)
    s.effCap ∈ s.recField 0x01C 2 :: asked ∧ ∀ w ∈ s.recField 0x01C 2 :: asked, s.effCap ≤ w :=
  List.min?_eq_some_iff.1 rfl

theorem State.storedCap_of_pos (s : State) {w : Nat} (h : 0 < w) :
    s.storedCap w = min (max w 600) (min 1900 (s.recField 0x01C 2)) :=
  if_neg h.ne'

theorem State.storedCap_le (s : State) (w : Nat) : s.storedCap w ≤ 1900 := by
  unfold State.storedCap
  split <;> omega

/-! ### PW_STATUS -/

/-- A word below 2^16 leaves the upper half of another as it is. -/
theorem upper_or {w v : Word} (h : v.toNat < 2 ^ 16) : (w ||| v).toNat / 2 ^ 16 = w.toNat / 2 ^ 16 := by
  rw [BitVec.toNat_or, ← Nat.shiftRight_eq_div_pow, ← Nat.shiftRight_eq_div_pow, Nat.shiftRight_or_distrib,
    Nat.shiftRight_eq_div_pow v.toNat, Nat.div_eq_of_lt h, Nat.or_zero]

theorem at32_lt {lo v : Nat} (h : v * 2 ^ lo < 2 ^ 16) : (at32 lo v).toNat < 2 ^ 16 := by
  rw [at32, BitVec.toNat_ofNat, Nat.mod_eq_of_lt (by omega)]
  exact h

theorem bit32_lt {i : Nat} (h : i < 16) (b : Bool) : (bit32 i b).toNat < 2 ^ 16 :=
  at32_lt (calc b2n b * 2 ^ i ≤ 1 * 2 ^ i := Nat.mul_le_mul_right _ (by cases b <;> decide)
    _ = 2 ^ i := Nat.one_mul _
    _ < 2 ^ 16 := Nat.pow_lt_pow_right (by decide) h)

/-- The upper half of PW_STATUS is the effective cap: the fields below it do not reach so far (R472). -/
theorem State.pwStatus_cap {s : State} (hg : s.pw.gate ≤ 16) : fld s.pwStatus 16 16 = s.effCap % 2 ^ 16 := by
  have hgate : (at32 8 (s.pw.gate - 1)).toNat < 2 ^ 16 := at32_lt (by omega)
  have hupper : s.pwStatus.toNat / 2 ^ 16 = (at32 16 s.effCap).toNat / 2 ^ 16 := by
    unfold State.pwStatus
    rw [upper_or (bit32_lt (by decide) _), upper_or (bit32_lt (by decide) _), upper_or (bit32_lt (by decide) _),
      upper_or (bit32_lt (by decide) _), upper_or (bit32_lt (by decide) _), upper_or hgate]
  rw [fld, bits, hupper, at32, BitVec.toNat_ofNat]
  omega

/-! ### The two commands -/

theorem exec_pwCapWrite {s : State} {port : Nat} (hp : port < 2) (ha : s.acceptsWrites = true) (v : Word) :
    exec (.pwCapWrite port v) s = .next (s.modPort port fun p => { p with
      pwCap := BitVec.ofNat 32 (s.storedCap (fld v 0 12)) }) :=
  exec_of_unit rfl hp (State.bar0_accepts ha _ _)

theorem State.powered_of_effecterReady {s : State} (h : s.effecterReady = true) : s.board.powered = true := by
  simp only [State.effecterReady, Bool.and_eq_true] at h
  exact h.1.1.1

/-- With input power the sideband does what it is asked (R551). -/
theorem State.sideband_powered {s : State} (h : s.board.powered = true) (f : State → State) : s.sideband f = f s :=
  if_pos h

theorem exec_pldmCapEffecter {s : State} (h : s.effecterReady = true) (w : Nat) :
    exec (.pldmCapEffecter w) s =
      .next (State.emit { s with pw := { s.pw with boardCap := s.storedCap w } } (.pldm 0)) := by
  refine congrArg _ ((State.sideband_powered (State.powered_of_effecterReady h) _).trans ?_)
  exact if_pos h

/-- Settles O56. That a request below 600 W is stored as the record's limit, where that is less, is the model's reading
(log 107). -/
theorem capIsTheLeast : Obligations.CapIsTheLeast := by
  unfold Obligations.CapIsTheLeast
  refine ⟨fun s => ?least, fun s => rfl, fun s w hw h600 => ?stored, fun s w hw h600 => ?low,
    fun s port v hs hp ha hg1 hg => ?port, fun s w hr hg1 hg => ?board⟩
  case least =>
    obtain ⟨hmem, hle⟩ := s.effCap_least
    refine ⟨hle _ List.mem_cons_self, fun w hw h0 => hle w (List.mem_cons_of_mem _ ?_), ?_⟩
    · exact List.mem_filter.2 ⟨hw, bne_iff_ne.2 h0⟩
    · exact (List.mem_cons.1 hmem).imp_right fun h => List.mem_of_mem_filter h
  case stored =>
    rw [s.storedCap_of_pos hw]
    refine ⟨?_, ?_, ?_, ?_, ?_, ?_⟩ <;> omega
  case low =>
    rw [s.storedCap_of_pos hw]
    omega
  case port =>
    refine ⟨_, exec_pwCapWrite hp ha v, ?_, State.pwStatus_cap hg⟩
    rw [State.port_modPort_self (State.ports_wf hs), BitVec.toNat_ofNat, Nat.mod_eq_of_lt]
    exact (s.storedCap_le _).trans_lt (by decide)
  case board => exact ⟨_, exec_pldmCapEffecter hr w, rfl, State.pwStatus_cap hg⟩

end Sys2Proof.Machine
end

section
/-! SUPPORT. Posts and fetched blocks (R487, R488). -/

namespace Sys2Proof.Machine

open Sys2Proof

theorem State.mbxPost_room {s : State} {port : Nat} (h : (s.port port).queue.length < 64) (hi : Word) :
    s.mbxPost port hi = s.setPort port { s.port port with
      postHi := hi, queue := (s.port port).queue ++ [hi ++ (s.port port).postLo] } :=
  if_pos h

theorem State.mbxPost_full {s : State} {port : Nat} (h : 64 ≤ (s.port port).queue.length) (hi : Word) :
    s.mbxPost port hi = (s.setPort port { s.port port with
      postHi := hi, discarded := true, irqStatus := (s.port port).irqStatus ||| 8 }).report
        (codeAt Code.hxMbxFull port) :=
  if_neg (Nat.not_lt.2 h)

theorem State.acceptBlock_good {s : State} {port : Nat} {b : List Byte} (h : s.headerStatus port b = none) :
    s.acceptBlock port b = { s with sch := s.sch ++ [HostCmd.parse port b] } := by
  simp only [State.acceptBlock, h]

/-- The block at the oldest post is read, and its header is good. -/
theorem State.fetchPost_good {s : State} {port : Nat} {a : BitVec 64} {more : List (BitVec 64)} {b : List Byte}
    (hr : s.schRuns = true) (hq : (s.port port).queue = a :: more) (hf : (s.port port).full = false)
    (hw : (s.port port).waiting = []) (ha : a.toNat % 64 = 0)
    (hh : (s.setPort port { s.port port with queue := more }).headerStatus port b = none) :
    s.fetchPost port (.ok b) = { s.setPort port { s.port port with queue := more } with
      sch := s.sch ++ [HostCmd.parse port b] } := by
  calc s.fetchPost port (.ok b) = (s.setPort port { s.port port with queue := more }).acceptBlock port b := by
        simp only [State.fetchPost, hq, hr, hf, hw, ha, List.isEmpty_nil, Bool.not_true, Bool.or_self,
          Bool.false_eq_true, if_false, ne_eq, not_true_eq_false]
    _ = _ := State.acceptBlock_good hh

/-- Settles O8: the post, and the fetch of the oldest. -/
theorem hostCommandsAreQueued : Obligations.HostCommandsAreQueued := by
  unfold Obligations.HostCommandsAreQueued
  refine ⟨fun s port hi hp ha => ⟨fun h => ?_, fun h => ?_⟩, fun s port a more b hp hr hq hf hw h64 hh => ?_⟩
  · exact exec_of_unit rfl hp ((State.bar0_accepts ha _ _).trans (State.mbxPost_room h hi))
  · exact exec_of_unit rfl hp ((State.bar0_accepts ha _ _).trans (State.mbxPost_full h hi))
  · exact exec_of_unit rfl hp (State.fetchPost_good hr hq hf hw h64 hh)

end Sys2Proof.Machine
end

section
/-! SUPPORT. The commands DIAG, REPLAN, STAKE_ADD, CKPT and RESTORE, when their conditions hold (R345, R346, R381, R400,
R401, R414, R492). -/

namespace Sys2Proof.Machine

open Sys2Proof

variable {s : State} {c : Nat} {h : HostCmd}

/-! ### DIAG, REPLAN, STAKE_ADD -/

theorem State.diagCmd_good (hst : (s.ctx c).st = .paused) (hen : (s.ctx c).stEn = true) (hco : s.coordinator c = true)
    (hw : (s.ctx c).step.window.contains (fieldAt h.payload 0 8) = true) :
    s.diagCmd c h = ((s.setBusy c h).modStep c fun st => { st with diagCmd := some h }).sendDecision c
      ⟨fieldAt h.payload 0 8, (s.ctx c).step.attempt, 4, 0, 0xFFFF, 0⟩ s.ownChip := by
  simp only [State.diagCmd, hst, hen, hco, hw, ne_eq, not_true_eq_false, Bool.not_true, Bool.false_eq_true, or_self,
    if_false]

/-- REPLAN of a held context with a stream table that reads well (R492). -/
theorem State.replanCmd_good {t : State} {es : List (Nat × Nat × Bool)} (hst : (s.ctx c).st = .paused)
    (hr : (s.ctx c).recov.rstate = 6) (hz : allZero (slice h.payload 0x24 4) = true)
    (ht : s.readTable c (fieldAt h.payload 0 8) = (true, t)) (hes : t.streamTableAt c (fieldAt h.payload 0 8) = some es) :
    s.replanCmd c h = (State.modCtx ((List.zip (s.ctx c).cores es).foldl (fun t (p, e) =>
      t.modCore p fun k => { k with seq := Seq.start e, counters := [], watches := [] }) t) c fun y => { y with
        streamTable := fieldAt h.payload 0 8, regs := y.regs.replan h.payload
        step := { y.step.newAttempt with
          first := y.recov.stepR, declared := y.step.committed, rerunDue := false, children := [] } }).finish h 0 := by
  simp only [State.replanCmd, hst, hr, ht, hz, hes, ne_eq, not_true_eq_false, or_self, if_false, Bool.and_self, if_true]

/-- STAKE_ADD of a chip without an entry at a position where no module stands (R381). -/
theorem State.stakeAddCmd_good {pos chip : Nat} (hpos : fieldAt h.payload 0 2 = pos) (hchip : fieldAt h.payload 2 2 = chip)
    (hf : flag (s.ctx c).desc.flags 0 = true) (hz : allZero (slice h.payload 4 4) = true) (hp : pos < 8224)
    (hc : chip < 8224) (hk : chipKind (s.chipEntry chip) = 0)
    (hfree : ∀ k, s.chipAt pos = some k → chipKind (s.chipEntry k) ≠ 1 ∧ chipKind (s.chipEntry k) ≠ 2) :
    s.stakeAddCmd c h = ((s.stakeAt chip pos).order c { action := 7, chipB := chip, value := pos }).finish h 0 := by
  simp only [State.stakeAddCmd, hpos, hchip, hf, hz, hk, Bool.not_true, Bool.false_eq_true, if_false, ne_eq,
    not_true_eq_false, false_or]
  refine if_neg ?_
  rintro (hp' | hc' | htaken)
  · omega
  · omega
  · cases hat : s.chipAt pos with
    | none => simp only [hat, Bool.false_eq_true] at htaken
    | some k =>
      obtain ⟨h1, h2⟩ := hfree k hat
      simp only [hat, beq_eq_false_iff_ne.2 h1, beq_eq_false_iff_ne.2 h2, Bool.or_self, Bool.false_eq_true] at htaken

/-- Settles O14. -/
theorem diagReplanStakeAdd : Obligations.DiagReplanStakeAdd := by
  unfold Obligations.DiagReplanStakeAdd
  refine ⟨fun s c h rest k hst hen hco hw => ?_, fun s c h rest es k hst hr hz => ?_, fun s c h rest k => ?_⟩
  · exact exec_of_takes k rfl (State.diagCmd_good (s := { s with sch := rest }) hst hen hco hw)
  · intro table hclean hes
    exact exec_of_takes k rfl (State.replanCmd_good (s := { s with sch := rest }) hst hr hz (Prod.ext hclean rfl) hes)
  · intro pos chip hf hz hp hc hkind hfree
    exact exec_of_takes k rfl
      (State.stakeAddCmd_good (s := { s with sch := rest }) rfl rfl hf hz hp hc hkind hfree)

/-! ### CKPT and RESTORE -/

/-- A DELTA without a base, or past its limit, becomes a FULL checkpoint (R400). -/
def Ctx.promotes (x : Ctx) (kind : Nat) : Bool :=
  kind == 2 && (!x.ck.baseValid ||
    (decide (fld x.regs.msCkptCfg 16 8 ≠ 0) && decide (fld x.regs.msCkptCfg 16 8 ≤ x.ck.deltas)))

/-- The checkpoint is in progress: `r` is the tensor list and the state that has read it. -/
def State.ckBegun (s : State) (c : Nat) (h : HostCmd) (r : Data × State) : State :=
  let kind := fieldAt h.payload 1 1
  let promote := (s.ctx c).promotes kind
  State.modCtx (if promote then r.2.report (codeAt Code.ckPromoted c) { ctx := some c } else r.2) c
    fun y => { y with ck := { y.ck with
      state := 1, kind := if promote then 1 else kind, cmd := some h, seq := BitVec.ofNat 64 (fieldAt h.payload 8 8)
      poolChip := fieldAt h.payload 2 2, poolBase := fieldAt h.payload 0x10 8, poolSize := fieldAt h.payload 0x18 8
      tensors := r.1.bytes, sent := Tbl.get 0 y.ck.poolSent (fieldAt h.payload 2 2)
      promoted := y.ck.promoted || promote } }

/-- A CKPT that is accepted begins; a STATE takes everything at once, and a context that does not run is captured. -/
theorem State.ckStart_good {r : Data × State} (hr : s.read (.mem c) (fieldAt h.payload 0x20 8)
      (128 * fieldAt h.payload 4 4) = r) (hck : (s.ctx c).ck.state = 0)
    (ha : ckAccepts (fieldAt h.payload 1 1) (s.ctx c).st = true) (hd : s.ckDescOk c h.payload = true)
    (ht : ∀ e ∈ tEntries r.1.bytes, e.ok = true ∧ e.inside (s.ctx c)
      (if fieldAt h.payload 1 1 = 3 then (s.ctx c).mapped else (s.ctx c).ckSet) = true) :
    s.ckStart c h = if fieldAt h.payload 1 1 = 3 then
        ((s.ckBegun c h r).touchExtra c).modCtx c fun y => { y with ck := { y.ck with
          state := 2, left := (s.ctx c).pagesIn (s.ctx c).mapped, frozen := (s.ctx c).pagesIn (s.ctx c).mapped, live := []
          extra := s.ckExtra c, stepC := BitVec.ofNat 64 ((s.ctx c).step.committed.getD (2 ^ 64 - 1)) } }
      else if (s.ctx c).st = .running then s.ckBegun c h r else (s.ckBegun c h r).ckSnapshot c := by
  subst hr
  have hall : ((tEntries (s.read (.mem c) (fieldAt h.payload 0x20 8) (128 * fieldAt h.payload 4 4)).1.bytes).all
      fun e => e.ok && e.inside (s.ctx c)
        (if fieldAt h.payload 1 1 = 3 then (s.ctx c).mapped else (s.ctx c).ckSet)) = true :=
    List.all_eq_true.2 fun e he => Bool.and_eq_true_iff.2 (ht e he)
  simp only [State.ckStart, hck, ha, hd, hall, ne_eq, not_true_eq_false, Bool.not_true, Bool.false_eq_true, or_self,
    if_false]
  rfl

/-- A RESTORE that is accepted keeps its sources and asks for the first (R414). -/
theorem State.restoreStart_good {l t : Data × State}
    (hl : s.read (.mem c) (fieldAt h.payload 8 8) (16 * fieldAt h.payload 2 2) = l)
    (ht : l.2.read (.mem c) (fieldAt h.payload 0x10 8) (128 * fieldAt h.payload 4 4) = t)
    {srcs : List (Nat × Nat)} (hsrcs : ((List.range (fieldAt h.payload 2 2)).map fun i =>
      (fieldAt l.1.bytes (16 * i) 2, fieldAt l.1.bytes (16 * i + 8) 8)) = srcs)
    (hst : (s.ctx c).st = .created) (hck : (s.ctx c).ck.state = 0) (hd : s.restoreDescOk c h.payload = true)
    (hpad : ∀ i, i < fieldAt h.payload 2 2 → allZero (slice l.1.bytes (16 * i + 2) 6) = true)
    (hroute : ∀ e ∈ srcs, s.routed e.1 = true)
    (hin : ∀ e ∈ tEntries t.1.bytes, e.ok = true ∧ e.inside (s.ctx c) (s.ctx c).mapped = true) :
    s.restoreStart c h = State.restoreAsk (t.2.modCtx c fun y => { y with busy := some h, ck := { y.ck with
      state := 4, cmd := some h, rMode := fieldAt h.payload 1 1, rSources := srcs, rTensors := t.1.bytes, rData := []
      rGot := [] } }) c := by
  have h1 : ((List.range (fieldAt h.payload 2 2)).all fun i => allZero (slice l.1.bytes (16 * i + 2) 6)) = true :=
    List.all_eq_true.2 fun i hi => hpad i (List.mem_range.1 hi)
  have h2 : (srcs.all fun e => s.routed e.1) = true := List.all_eq_true.2 hroute
  have h3 : ((tEntries t.1.bytes).all fun e => e.ok && e.inside (s.ctx c) (s.ctx c).mapped) = true :=
    List.all_eq_true.2 fun e he => Bool.and_eq_true_iff.2 (hin e he)
  simp only [State.restoreStart, hst, hck, hd, hl, ht, hsrcs, h1, h2, h3, ne_eq, not_true_eq_false, Bool.not_true,
    Bool.or_self, Bool.false_eq_true, or_self, if_false]

/-- Settles O15. -/
theorem checkpointsAndRestoresStart : Obligations.CheckpointsAndRestoresStart := by
  unfold Obligations.CheckpointsAndRestoresStart
  refine ⟨fun s c h rest k => ?ckpt, fun s c h rest k hst hck hd => ?restore⟩
  case ckpt =>
    intro x b kind r promote all hck ha hd ht begun
    have hgood := State.ckStart_good (s := { s with sch := rest }) rfl hck ha hd ht
    refine ⟨fun hk => exec_of_takes k rfl ?_, fun hk => exec_of_takes k rfl ?_⟩
    · exact hgood.trans (if_neg hk)
    · exact hgood.trans (if_pos hk)
  case restore =>
    intro b n l t srcs hpad hroute hin
    exact exec_of_takes k rfl
      (State.restoreStart_good (s := { s with sch := rest }) rfl rfl rfl hst hck hd hpad hroute hin)

end Sys2Proof.Machine
end

section
/-! SUPPORT. Steps that are over, digests of peers, decisions, rollbacks and the orders after them (R321, R330, R331,
R339–R346). -/

namespace Sys2Proof.Machine

open Sys2Proof

variable {s : State} {c : Nat} {p : Packet} {d : Decision}

/-- A message for FAB is taken while FAB does not restart. -/
theorem exec_of_viaFab {i : Instr} {f : State → State} {t : State} (he : exec i s = .next (s.viaFab i f))
    (hf : .fab ∉ s.err.restarting) (ht : f s = t) : exec i s = .next t :=
  he.trans (congrArg Host.Outcome.next ((State.viaFab_runs hf i f).trans ht))

/-! ### Completion (R321, R330) -/

theorem State.stepCompleteRow_over {n : Nat} (he : (s.ctx c).executing = true) (hc : (s.ctx c).step.complete = false)
    (hn : s.stepOver c = some n) : s.stepCompleteRow c = s.completeStep c n := by
  simp only [State.stepCompleteRow, he, hc, hn, Bool.not_true, Bool.or_self, Bool.false_eq_true, if_false]

section Complete

variable {n : Nat} (hd : ((s.touchParts c n).ctx c).step.diagRunning = false)
include hd

theorem State.completeStep_with_digests (hs : ((s.touchParts c n).ctx c).stEn = true) : s.completeStep c n =
    ((State.writeSlot ((s.touchParts c n).modStep c fun st => { st with
      complete := true, digestOwn := BitVec.ofNat 128 ((s.touchParts c n).xorParts c n 0x1200)
      digestMir := BitVec.ofNat 128 ((s.touchParts c n).xorParts c n 0x1210) }) c n 1).sendDigests c).useHeld c := by
  simp only [State.completeStep, hd, hs, Bool.not_true, Bool.false_eq_true, if_false]

theorem State.completeStep_without_digests (hs : ((s.touchParts c n).ctx c).stEn = false) :
    s.completeStep c n = (s.touchParts c n).commitStep c n := by
  simp only [State.completeStep, hd, hs, Bool.not_false, Bool.false_eq_true, if_false, if_true]

end Complete

/-! ### Digests of peers (R331) -/

/-- A digest of the current attempt is compared with the own one, or kept until there is one. -/
theorem State.recvDigest_current (h : s.hears p msgDigest c) (hn : fieldAt p.data 0 8 = (s.ctx c).step.current)
    (ha : fieldAt p.data 8 2 = (s.ctx c).step.attempt) :
    s.recvDigest p =
      if (s.ctx c).step.complete then
        s.compareDigest c (BitVec.ofNat 32 (fieldAt p.data 0x0C 4)) (BitVec.ofNat 128 (fieldAt p.data 0x10 16))
      else s.modStep c fun t => { t with digestsHeld := t.digestsHeld ++ [((s.ctx c).step.current, (s.ctx c).step.attempt,
        BitVec.ofNat 32 (fieldAt p.data 0x0C 4), BitVec.ofNat 128 (fieldAt p.data 0x10 16))] } := by
  obtain ⟨-, hhere, hctx⟩ := h
  simp only [State.recvDigest, hhere, hctx, hn, ha, Bool.not_true, Bool.false_eq_true, if_false, and_self, if_true]

section Compare

variable {shard : Word} {g : BitVec 128} (hown : (s.ctx c).regs.stShardOwn = shard)
include hown

theorem State.compareDigest_equal (hg : (s.ctx c).step.digestOwn = g) : s.compareDigest c shard g =
    s.modStep c fun st => { st with digestsIn := st.digestsIn + 1 } := by
  simp only [State.compareDigest, hown, hg, beq_self_eq_true, if_true]

theorem State.compareDigest_differs (hg : (s.ctx c).step.digestOwn ≠ g) : s.compareDigest c shard g =
    (((s.modStep c fun st => { st with digestsIn := st.digestsIn + 1 }).modRegs c fun r => { r with
      stDigestBad := true }).modStep c fun st => { st with
        digestBad := true
        failCode := if st.failCode = 0 then codeAt Code.stDigestMismatch c else st.failCode }).report
          (codeAt Code.stDigestMismatch c) { ctx := some c, step := some (s.ctx c).step.current } := by
  simp only [State.compareDigest, hown, beq_self_eq_true, beq_eq_false_iff_ne.2 hg, Bool.false_eq_true, if_true,
    if_false]

end Compare

/-- Settles O34: the row of the step that is over, and the row of a peer's digest. -/
theorem stepsComplete : Obligations.StepsComplete := by
  unfold Obligations.StepsComplete
  refine fun s c hc => ⟨fun n he hco hn => ?complete, fun p hp hn ha => ?digest⟩
  case complete =>
    intro u hd
    have hrow := State.stepCompleteRow_over he hco hn
    exact ⟨fun hs => exec_of_unit rfl hc (hrow.trans (State.completeStep_with_digests hd hs)),
      fun hs => exec_of_unit rfl hc (hrow.trans (State.completeStep_without_digests hd hs))⟩
  case digest =>
    intro shard d counted
    have hrow := State.recvDigest_current hp hn ha
    refine ⟨fun hco hown hd => exec_of_viaFab rfl hp.1 (hrow.trans ?_), fun hco hown hd =>
      exec_of_viaFab rfl hp.1 (hrow.trans ?_), fun hco => exec_of_viaFab rfl hp.1 (hrow.trans ?_)⟩
    · rw [hco, if_pos rfl, State.compareDigest_equal hown hd]
    · rw [hco, if_pos rfl, State.compareDigest_differs hown hd]
    · rw [hco, if_neg Bool.false_ne_true]

/-! ### Decisions (R339–R346) -/

/-- A decision for the current attempt is forwarded and acted on, whatever its row is. -/
theorem exec_of_decides {i : Instr} {kind : Nat} {f : Nat → Decision → State → State} {t : State}
    (h : s.decides p kind c d) (he : exec i s = .next (s.viaFab i fun t => t.withDecision p kind f))
    (ht : f c d (s.toChildren c msgDecide d.step p.data) = t) : exec i s = .next t :=
  exec_of_viaFab he h.1.1 ((State.withDecision_acts h f).trans ht)

/-- Settles O37: each kind of decision by its row. -/
theorem decisionsAreActedOn : Obligations.DecisionsAreActedOn := by
  unfold Obligations.DecisionsAreActedOn
  intro s p c d u
  refine ⟨fun h => exec_of_decides h rfl rfl, fun h => exec_of_decides h rfl rfl, fun h => exec_of_decides h rfl rfl,
    fun h hst => ⟨fun hw => exec_of_decides h rfl ?_, fun hw => exec_of_decides h rfl ?_⟩,
    fun h => exec_of_decides h rfl rfl⟩
  · exact (if_neg (not_not.2 hst)).trans (if_pos hw)
  · exact (if_neg (not_not.2 hst)).trans (if_neg (Bool.eq_false_iff.1 hw))

/-! ### Rollback (R341, R345) -/

/-- What a module does for a decision to go back: nothing if its context is gone, the window's deltas for DIAG, and the
raw records for REPLAY and PAUSE. -/
def State.goBack (s : State) (c : Nat) (d : Decision) : State :=
  if (s.ctx c).gone then s.modStep c fun st => { st with rolledSelf := true, lostAny := true }
  else if d.kind = 4 then s.diagBack c d.step
  else s.rollback c d.step (d.kind == 2 && d.reason == 8)

/-- A stopped module goes back once, and a diagnosis only when no message of the context is left in the hubs. -/
theorem State.restoreRow_goes_back (hd : (s.ctx c).step.decision = some d) (hr : (s.ctx c).step.rolledSelf = false)
    (hk : d.kind = 2 ∨ d.kind = 3 ∨ (d.kind = 4 ∧ (s.hub.any fun m => m.ctx == c) = false)) :
    s.restoreRow c = (s.goBack c d).rolledCheck c := by
  have hgo : (d.kind == 1 || d.kind == 5 || (d.kind == 4 && s.hub.any fun m => m.ctx == c)) = false := by
    rcases hk with hk | hk | ⟨hk, hh⟩
    · rw [hk]; rfl
    · rw [hk]; rfl
    · rw [hk, hh]; rfl
  rw [Bool.or_assoc] at hgo
  simp only [State.restoreRow, hd, hr, Bool.or_assoc, Bool.false_or, hgo, Bool.false_eq_true, if_false]
  rfl

theorem State.restoreRow_waits (hd : (s.ctx c).step.decision = some d) (hk : d.kind = 4)
    (hh : (s.hub.any fun m => m.ctx == c) = true) : s.restoreRow c = s := by
  simp only [State.restoreRow, hd, hk, hh, beq_self_eq_true, Bool.and_self, Bool.or_true, if_true]

/-- A child's report for the decision in hand is merged once (R341, R342). -/
theorem State.recvRolled_merges (h : s.hears p msgRolled c) (hd : (s.ctx c).step.decision = some d)
    (hn : fieldAt p.data 0 8 = d.step) (ha : fieldAt p.data 8 2 = d.attempt)
    (hr : (s.ctx c).step.rolledFrom.contains p.src = false) :
    s.recvRolled p = State.rolledCheck (s.modStep c fun t => { t with
      children := keyInsert p.src t.children, rolledFrom := keyInsert p.src t.rolledFrom
      rolledCovered := t.rolledCovered + fieldAt p.data 0x0A 2
      lostAny := t.lostAny || bitAt (fieldAt p.data 0x0C 1) 0
      diagRefusedAny := t.diagRefusedAny || bitAt (fieldAt p.data 0x0C 1) 1 }) c := by
  obtain ⟨-, hhere, hctx⟩ := h
  simp only [State.recvRolled, hhere, hctx, hd, hn, ha, hr, ne_eq, not_true_eq_false, Bool.not_true, Bool.false_eq_true,
    or_self, if_false]

/-! ### The order after it (R341–R345) -/

theorem State.withGo_acts {action : Nat} (h : s.goes p action c d) (f : Nat → Decision → State → State) :
    s.withGo p action f = f c d (s.toChildren c msgGo d.step p.data) := by
  obtain ⟨⟨-, hhere, hctx⟩, hd, hn, ha, hact, hk⟩ := h
  have hk' : (action == 3) = (d.kind == 4) := Bool.eq_iff_iff.2 (by simpa only [beq_iff_eq] using hk)
  simp only [State.withGo, hhere, hctx, hd, Bool.not_true, Bool.false_eq_true, if_false]
  exact if_pos ⟨hn, ha, hact, hk'⟩

/-- An order for the decision in hand is forwarded and acted on, whatever its row is. -/
theorem exec_of_goes {i : Instr} {action : Nat} {f : Nat → Decision → State → State} {t : State}
    (h : s.goes p action c d) (he : exec i s = .next (s.viaFab i fun t => t.withGo p action f))
    (ht : f c d (s.toChildren c msgGo d.step p.data) = t) : exec i s = .next t :=
  exec_of_viaFab he h.1.1 ((State.withGo_acts h f).trans ht)

/-- Settles O38. That the hubs run empty before a diagnosis is log 152, and that a recovery after a PAUSE takes the
decision's step as R is log 157. -/
theorem rollbackAndGo : Obligations.RollbackAndGo := by
  unfold Obligations.RollbackAndGo
  refine ⟨fun s c d hc hd hr => ⟨fun hk hg => ?replay, fun hk hh => ?hubs, fun hk hh hg => ?diag, fun hk hg => ?gone⟩,
    fun s p c d hp hd hn ha hr => ?rolled, fun s p c d => ?go⟩
  case replay =>
    have h4 : d.kind ≠ 4 := by omega
    have hback : s.goBack c d = s.rollback c d.step (d.kind == 2 && d.reason == 8) := by
      rw [State.goBack, hg, if_neg Bool.false_ne_true, if_neg h4]
    exact exec_of_unit rfl hc ((State.restoreRow_goes_back hd hr (hk.imp_right .inl)).trans (by rw [hback]))
  case hubs => exact exec_of_unit rfl hc (State.restoreRow_waits hd hk hh)
  case diag =>
    have hback : s.goBack c d = s.diagBack c d.step := by
      rw [State.goBack, hg, if_neg Bool.false_ne_true, if_pos hk]
    exact exec_of_unit rfl hc ((State.restoreRow_goes_back hd hr (.inr (.inr ⟨hk, hh⟩))).trans (by rw [hback]))
  case gone =>
    have hback : s.goBack c d = s.modStep c fun st => { st with rolledSelf := true, lostAny := true } := if_pos hg
    exact exec_of_unit rfl hc ((State.restoreRow_goes_back hd hr hk).trans (by rw [hback]))
  case rolled => exact exec_of_viaFab rfl hp.1 (State.recvRolled_merges hp hd hn ha hr)
  case go =>
    intro u
    refine ⟨fun h hg => exec_of_goes h rfl ?_, fun h => ⟨fun hk => exec_of_goes h rfl ?_, fun h3 h1 hpair hst =>
      exec_of_goes h rfl ?_⟩, fun h => exec_of_goes h rfl rfl⟩
    · exact if_neg (Bool.eq_false_iff.1 hg)
    · exact if_neg fun ⟨h3, h1, _⟩ => hk.elim (absurd h3) (absurd h1)
    · exact if_pos ⟨h3, h1, hpair, hst⟩

end Sys2Proof.Machine
end

section
/-! SUPPORT. Where a packet goes, newer link-state records, and routing tables rebuilt (R277, R291, R297–R300, R303, R304,
R309, R371). -/

namespace Sys2Proof.Machine

open Sys2Proof

variable {s : State} {arrival : Option Nat} {p : Packet}

/-! ### Forwarding (R277, R291, R297–R300) -/

/-- Where the packet goes: a class-3 packet of this module keeps to its path (R277). -/
def State.way (s : State) (arrival : Option Nat) (p : Packet) : Route :=
  if confined arrival p then s.route3 p else s.route arrival p

/-- The port a packet came by, if any, is one of the module's. -/
theorem exec_packetForward {t : State} (hl : ∀ l, arrival = some l → l < 40) (ht : s.forward arrival p = t) :
    exec (.packetForward arrival p) s = .next t := by
  subst ht
  cases arrival with
  | none => rfl
  | some l => exact exec_of_unit rfl (hl l rfl) rfl

/-- A packet that no error in a receive buffer has destroyed is routed. -/
theorem State.forward_clean (h : ∀ l, arrival = some l → s.parity.contains (.linkBuffer l) = false) :
    s.forward arrival p = s.routePacket arrival p := by
  cases arrival with
  | none => rfl
  | some l => exact if_neg (Bool.eq_false_iff.1 (h l rfl))

theorem State.routePacket_deliver (h : s.way arrival p = .deliver) :
    s.routePacket arrival p = (s.freeFlits arrival p).deliver arrival p := by
  rw [State.way] at h
  simp only [State.routePacket, h]

theorem State.routePacket_wait (h : s.way arrival p = .wait) : s.routePacket arrival p = s := by
  rw [State.way] at h
  simp only [State.routePacket, h]

theorem State.routePacket_discard (h : s.way arrival p = .discard) :
    s.routePacket arrival p = (s.freeFlits arrival p).discard arrival := by
  rw [State.way] at h
  simp only [State.routePacket, h]

theorem State.routePacket_out {l : Nat} (h : s.way arrival p = .out l) :
    s.routePacket arrival p =
      (let t := (s.freeFlits arrival p).sendOn l (if (s.link l).foundDevice = 1 then hopped p l else p)
      if confined arrival p then t.noteClass3 p l else t) := by
  rw [State.way] at h
  simp only [State.routePacket, h]

/-! ### Link-state records (R303, R309) -/

section LinkState

variable {s1 : State} {l : Nat} (hhere : s.ctlHere p msgLinkState = true)
  (hstore : s.storeRec (LinkRec.parse p.data) = some s1)
include hhere hstore

/-- A newer record of the own group goes over the global links. -/
theorem State.recvLinkState_ownGroup (hg : (LinkRec.parse p.data).fromGroup = s.ownGroup) :
    s.recvLinkState l p = State.rebuildTables (s1.overGlobals (s1.mgmtPacket 0 msgLinkState p.data)) := by
  simp only [State.recvLinkState, hhere, hstore, hg, Bool.not_true, Bool.false_eq_true, if_false, if_true]

/-- One of another group that comes over a global port goes to the own group. -/
theorem State.recvLinkState_otherGroup (hg : (LinkRec.parse p.data).fromGroup ≠ s.ownGroup) (hl : isGlobal l = true) :
    s.recvLinkState l p =
      State.rebuildTables (s1.groupChips.foldl (fun t c => t.sendMgmt c msgLinkState p.data) s1) := by
  simp only [State.recvLinkState, hhere, hstore, if_neg hg, hl, Bool.not_true, Bool.false_eq_true, if_false, if_true]

end LinkState

/-! ### Parity errors of the tables (R304) -/

theorem exec_tableRebuild {table index : Nat} (hf : .fab ∉ s.err.restarting) (ht : table < 3)
    (hi : index < if table = 0 then 16384 else 257) :
    exec (.tableRebuild table index) s = .next (s.tableRebuild table index) :=
  exec_of_two_units rfl ht hi (State.whenFab_runs hf _ _)

/-- Settles O33: the ways of a packet, the records that are passed on, and the tables. -/
theorem packetsAreRouted : Obligations.PacketsAreRouted := by
  unfold Obligations.PacketsAreRouted
  refine ⟨fun s arrival p hl => ⟨fun l ha hpar => ?bufferError, fun hpar => ?ways⟩,
    fun s s1 l p hl hf hhere hstore => ⟨fun hg => ?own, fun hg hgl => ?other⟩,
    fun s index hf => ⟨fun hi => exec_tableRebuild hf (by decide) hi, fun hi => ⟨exec_tableRebuild hf (by decide) hi,
      exec_tableRebuild hf (by decide) hi⟩⟩⟩
  case bufferError =>
    subst ha
    exact exec_packetForward hl (if_pos hpar)
  case ways =>
    intro own3 way
    have hrow {t : State} (h : s.routePacket arrival p = t) : exec (.packetForward arrival p) s = .next t :=
      exec_packetForward hl ((State.forward_clean hpar).trans h)
    exact ⟨fun h => hrow (State.routePacket_deliver h), fun h => hrow (State.routePacket_wait h),
      fun h => hrow (State.routePacket_discard h), fun l h => hrow (State.routePacket_out h)⟩
  case own =>
    exact exec_of_unit rfl hl ((State.viaFab_runs hf _ _).trans (State.recvLinkState_ownGroup hhere hstore hg))
  case other =>
    exact exec_of_unit rfl hl
      ((State.viaFab_runs hf _ _).trans (State.recvLinkState_otherGroup hhere hstore hg hgl))

end Sys2Proof.Machine
end

section
/-! SUPPORT. The failure detector: heartbeats, suspicions, fence requests and fences (R363–R367, R369, R371). -/

namespace Sys2Proof.Machine

open Sys2Proof

variable {s : State} {p : Packet}

/-! ### Fields of a chip-table entry (R301) -/

section ChipWord

variable (kind group slot port : Nat)

theorem chipWord_toNat : (chipWord kind group slot port).toNat =
    kind % 8 * 2 ^ 29 + group % 512 * 2 ^ 20 + slot % 32 * 2 ^ 15 + port % 64 * 2 ^ 9 := by
  rw [chipWord, BitVec.toNat_ofNat, Nat.mod_eq_of_lt]
  omega

theorem chipKind_chipWord : chipKind (chipWord kind group slot port) = kind % 8 := by
  rw [chipKind, fld, bits, chipWord_toNat]
  omega

theorem chipGroup_chipWord : chipGroup (chipWord kind group slot port) = group % 512 := by
  rw [chipGroup, fld, bits, chipWord_toNat]
  omega

theorem chipSlot_chipWord : chipSlot (chipWord kind group slot port) = slot % 32 := by
  rw [chipSlot, fld, bits, chipWord_toNat]
  omega

end ChipWord

/-! ### The entry of a fenced chip (R365) -/

/-- What the ports send to a position is no concern of the tables. -/
theorem State.markFenced_fab (s : State) (pos : Nat) (b : Bool) : (s.markFenced pos b).fab = s.fab := by
  unfold State.markFenced
  generalize List.range 40 = l
  induction l generalizing s with
  | nil => rfl
  | cons x l ih =>
    rw [List.foldl_cons, ih]
    split <;> rfl

theorem State.fenceEntry_chipEntry (hw : Tbl.wf 0 s.fab.chipTable = true) {c : Nat}
    (hk : chipKind (s.chipEntry c) = 1 ∨ chipKind (s.chipEntry c) = 2) (d : Nat) :
    (s.fenceEntry c).chipEntry d =
      if d = c then chipWord 3 (chipGroup (s.chipEntry c)) (chipSlot (s.chipEntry c)) 0 else s.chipEntry d := by
  rw [State.fenceEntry, if_pos hk, State.chipEntry, State.markFenced_fab]
  exact Tbl.get_set hw ..

theorem State.fenceEntry_keeps_position (hw : Tbl.wf 0 s.fab.chipTable = true) {c : Nat}
    (hk : chipKind (s.chipEntry c) = 1 ∨ chipKind (s.chipEntry c) = 2) :
    let w := (s.fenceEntry c).chipEntry c
    chipKind w = 3 ∧ chipGroup w = chipGroup (s.chipEntry c) ∧ chipSlot w = chipSlot (s.chipEntry c) := by
  have hgroup : chipGroup (s.chipEntry c) < 512 := Nat.mod_lt _ (by decide)
  have hslot : chipSlot (s.chipEntry c) < 32 := Nat.mod_lt _ (by decide)
  rw [State.fenceEntry_chipEntry hw hk, if_pos rfl]
  exact ⟨chipKind_chipWord .., (chipGroup_chipWord ..).trans (Nat.mod_eq_of_lt hgroup),
    (chipSlot_chipWord ..).trans (Nat.mod_eq_of_lt hslot)⟩

/-! ### Messages of the detector (R364, R369) -/

section Suspect

variable (hhere : s.ctlHere p msgSuspect = true)
  (ha : chipGroup (s.chipEntry (RcMsg.parse p.data).chipA) = s.ownGroup) (hp : chipGroup (s.chipEntry p.src) = s.ownGroup)
include hhere ha hp

/-- A suspicion of the group is kept, and the verdict follows from it. -/
theorem State.recvSuspect_begins (h1 : (RcMsg.parse p.data).action = 1) :
    s.recvSuspect p =
      (let key := (chipSlot (s.chipEntry (RcMsg.parse p.data).chipA), chipSlot (s.chipEntry p.src))
      State.judge { s with fab := { s.fab with
        suspicions := pageInsert key s.fab.suspicions
        requested := if bitAt (RcMsg.parse p.data).flags 0 then pageInsert key s.fab.requested else s.fab.requested } }
          key.1) := by
  simp only [State.recvSuspect, hhere, ha, hp, h1, ne_eq, not_true_eq_false, Bool.not_true, Bool.false_eq_true,
    or_self, if_false, if_true]

/-- A suspicion that no request holds is withdrawn. -/
theorem State.recvSuspect_ends (h1 : (RcMsg.parse p.data).action ≠ 1)
    (hr : (chipSlot (s.chipEntry (RcMsg.parse p.data).chipA), chipSlot (s.chipEntry p.src)) ∉ s.fab.requested) :
    s.recvSuspect p = { s with fab := { s.fab with suspicions := s.fab.suspicions.filter fun k =>
      k != (chipSlot (s.chipEntry (RcMsg.parse p.data).chipA), chipSlot (s.chipEntry p.src)) } } := by
  simp only [State.recvSuspect, hhere, ha, hp, if_neg h1, List.contains_iff_mem, if_neg hr, ne_eq, not_true_eq_false,
    Bool.not_true, Bool.false_eq_true, or_self, if_false]

end Suspect

/-- A request names a chip of the group that is not fenced: its cause is kept, and the chip suspected (R369). -/
theorem State.recvFenceReq_good (hhere : s.ctlHere p msgFenceReq = true)
    (hg : chipGroup (s.chipEntry (RcMsg.parse p.data).chipA) = s.ownGroup)
    (hs : chipSlot (s.chipEntry (RcMsg.parse p.data).chipA) ≠ s.ownSlot)
    (hk : chipKind (s.chipEntry (RcMsg.parse p.data).chipA) = 1 ∨ chipKind (s.chipEntry (RcMsg.parse p.data).chipA) = 2) :
    s.recvFenceReq p = State.suspect { s with fab := { s.fab with
      causes := Tbl.set 0 s.fab.causes (chipSlot (s.chipEntry (RcMsg.parse p.data).chipA)) (RcMsg.parse p.data).code } }
        (chipSlot (s.chipEntry (RcMsg.parse p.data).chipA)) true := by
  have h0 : chipKind (s.chipEntry (RcMsg.parse p.data).chipA) ≠ 0 := by omega
  have h3 : (!s.fencedChip (RcMsg.parse p.data).chipA) = true := by
    rw [State.fencedChip, beq_eq_false_iff_ne.2 (by omega)]
    rfl
  simp only [State.recvFenceReq, hhere, Bool.not_true, Bool.false_eq_true, if_false]
  exact if_pos ⟨hg, hs, h0, h3⟩

/-- A fence is acted on once: entry, suspicions of the fenced chip, and the jobs it was a member of (R365, R372). -/
theorem State.recvFence_first {s0 : State} {chip : Nat} (hchip : (RcMsg.parse p.data).chipA = chip)
    (hhere : s.ctlHere p msgFence = true) (hfirst : s.firstOf p = some s0) :
    s.recvFence p = ctxNums.foldl (fun t c => ((t.memberFenced c chip).childFenced c chip).leaderCheck c)
      (if chipGroup (s0.chipEntry chip) = s0.ownGroup then { s0.fenceEntry chip with fab := { (s0.fenceEntry chip).fab with
        suspicions := (s0.fenceEntry chip).fab.suspicions.filter fun k => k.2 != chipSlot (s0.chipEntry chip) } }
      else s0.fenceEntry chip) := by
  simp only [State.recvFence, hhere, hfirst, hchip, ne_eq, ite_not, Bool.not_true, Bool.false_eq_true, if_false]

/-- Settles O40: the detector's rows, and the chip table after a fence. -/
theorem suspicionsAndFences : Obligations.SuspicionsAndFences := by
  unfold Obligations.SuspicionsAndFences
  refine ⟨fun s hr => ?tick, fun s t ht hr ho hm => ?silent, fun s p hf => ?messages, fun s c hw hk => ?entry⟩
  case tick => exact congrArg Host.Outcome.next (if_pos hr)
  case silent =>
    have hgo : (!s.fabRuns || t == s.ownSlot || s.fab.mySuspects.contains t) = false := by
      simp [hr, ho, hm]
    exact exec_of_unit rfl ht (if_neg (Bool.eq_false_iff.1 hgo))
  case messages =>
    intro m slot key
    refine ⟨fun hhere ha hp => ⟨fun h1 => ?_, fun h1 hk => ?_⟩, fun hhere hg hs hk => ?_, fun s0 hhere hfirst => ?_⟩
    · exact exec_of_viaFab rfl hf (State.recvSuspect_begins hhere ha hp h1)
    · exact exec_of_viaFab rfl hf (State.recvSuspect_ends hhere ha hp h1 hk)
    · exact exec_of_viaFab rfl hf (State.recvFenceReq_good hhere hg hs hk)
    · exact exec_of_viaFab rfl hf (State.recvFence_first rfl hhere hfirst)
  case entry =>
    obtain ⟨hkind, hgroup, hslot⟩ := State.fenceEntry_keeps_position hw hk
    exact ⟨hkind, hgroup, hslot, fun d hd => (State.fenceEntry_chipEntry hw hk d).trans (if_neg hd)⟩

end Sys2Proof.Machine
end

section
/-! SUPPORT. Step timeouts, probes and their answers (R368, R369, R397). -/

namespace Sys2Proof.Machine

open Sys2Proof

variable {s : State} {c : Nat} {p : Packet}

/-! ### Probes -/

/-- The answer to a probe. -/
def State.probeAnswered (s : State) (c : Nat) (p : Packet) : State :=
  let n := fieldAt p.data 0 8
  let a := (s.ctx c).probeState n
  s.sendRc c p.src msgProbeReply { step := n, action := a, code := if a = 4 then (s.ctx c).faultCode else 0 }

/-- A child that has not voted only answers. -/
theorem State.recvProbe_answers (h : s.hears p msgProbe c) (ha : (s.ctx c).probeState (fieldAt p.data 0 8) ≠ 3) :
    s.recvProbe p = s.probeAnswered c p := by
  obtain ⟨-, hhere, hctx⟩ := h
  simp only [State.recvProbe, hhere, hctx, ha, false_and, if_false, Bool.not_true, Bool.false_eq_true]
  split <;> rfl

/-- A child that has voted in the step sends its vote again. -/
theorem State.recvProbe_votes (h : s.hears p msgProbe c) (ha : (s.ctx c).probeState (fieldAt p.data 0 8) = 3) {v : Vote}
    (hv : (s.ctx c).step.merged = some v) (hvo : (s.ctx c).step.voted = true)
    (hn : fieldAt p.data 0 8 = (s.ctx c).step.voteStep) :
    s.recvProbe p = (s.probeAnswered c p).sendCtl c (s.ctx c).parent msgVote (some (fieldAt p.data 0 8))
      (v.bytes (fieldAt p.data 0 8) (s.ctx c).step.attempt) := by
  obtain ⟨-, hhere, hctx⟩ := h
  simp only [State.recvProbe, hhere, hctx, hv, Bool.not_true, Bool.false_eq_true, if_false]
  exact if_pos ⟨ha, hvo, hn⟩

/-! ### Answers -/

section Reply

variable (h : s.hears p msgProbeReply c) (hprobed : p.src ∈ (s.ctx c).recov.probed) (hsilent : p.src ∈ (s.ctx c).silent)
  (hstep : (RcMsg.parse p.data).step = (s.ctx c).step.waitStep)
include h hprobed hsilent hstep

/-- A child that still runs on the attempt that timed out is given up. -/
theorem State.recvProbeReply_runs (h1 : (RcMsg.parse p.data).action = 1)
    (hall : ∀ a, (p.src, (RcMsg.parse p.data).step, a) ∈ (s.ctx c).recov.timeouts → a = (s.ctx c).step.attempt) :
    s.recvProbeReply p = State.substituteChild (s.report (codeAt Code.rcStepTimeout c)
      { ctx := some c, step := some (RcMsg.parse p.data).step }) c p.src (codeAt Code.rcStepTimeout c) := by
  obtain ⟨-, hhere, hctx⟩ := h
  have hany : ((s.ctx c).recov.timeouts.any fun e => e.1 == p.src && e.2.1 == (s.ctx c).step.waitStep &&
      e.2.2 != (s.ctx c).step.attempt) = false := by
    refine List.any_eq_false.2 fun e he hbad => ?_
    simp only [Bool.and_eq_true, beq_iff_eq, bne_iff_ne] at hbad
    obtain ⟨⟨hsrc, hs⟩, hne⟩ := hbad
    exact hne (hall e.2.2 (by rw [← hsrc, hstep, ← hs]; exact he))
  simp only [State.recvProbeReply, hhere, hctx, List.contains_iff_mem.2 hprobed, List.contains_iff_mem.2 hsilent, hstep, h1,
    hany, ne_eq, not_true_eq_false, Bool.not_true, Bool.false_eq_true, or_self, if_false]

/-- One that still runs after an earlier attempt timed out is given up, and a fence is requested. -/
theorem State.recvProbeReply_no_progress (h1 : (RcMsg.parse p.data).action = 1)
    (hex : ∃ a, (p.src, (RcMsg.parse p.data).step, a) ∈ (s.ctx c).recov.timeouts ∧ a ≠ (s.ctx c).step.attempt) :
    s.recvProbeReply p = State.substituteChild (State.sendFenceReq (s.report (codeAt Code.rcNoProgress c)
      { ctx := some c, step := some (RcMsg.parse p.data).step }) c p.src (codeAt Code.rcNoProgress c)) c p.src
        (codeAt Code.rcNoProgress c) := by
  obtain ⟨-, hhere, hctx⟩ := h
  obtain ⟨a, hmem, hne⟩ := hex
  have hany : ((s.ctx c).recov.timeouts.any fun e => e.1 == p.src && e.2.1 == (s.ctx c).step.waitStep &&
      e.2.2 != (s.ctx c).step.attempt) = true :=
    List.any_eq_true.2 ⟨_, hmem, by simp [hstep, hne]⟩
  simp only [State.recvProbeReply, hhere, hctx, List.contains_iff_mem.2 hprobed, List.contains_iff_mem.2 hsilent, hstep, h1,
    hany, ne_eq, not_true_eq_false, Bool.not_true, Bool.false_eq_true, or_self, if_false, if_true]

/-- A paused or faulted child is replaced by its parent. -/
theorem State.recvProbeReply_paused (h4 : (RcMsg.parse p.data).action = 4) :
    s.recvProbeReply p = s.substituteChild c p.src (RcMsg.parse p.data).code := by
  obtain ⟨-, hhere, hctx⟩ := h
  simp only [State.recvProbeReply, hhere, hctx, List.contains_iff_mem.2 hprobed, List.contains_iff_mem.2 hsilent, hstep, h4,
    ne_eq, not_true_eq_false, Bool.not_true, Bool.false_eq_true, or_self, if_false]

/-- A child that is complete, or has voted, is waited for. -/
theorem State.recvProbeReply_waits (h23 : (RcMsg.parse p.data).action = 2 ∨ (RcMsg.parse p.data).action = 3) :
    s.recvProbeReply p = s.modCtx c fun y => { y with recov := { y.recov with
      probed := y.recov.probed.filter (· != p.src) } } := by
  obtain ⟨-, hhere, hctx⟩ := h
  rcases h23 with h | h <;>
    simp only [State.recvProbeReply, hhere, hctx, List.contains_iff_mem.2 hprobed, List.contains_iff_mem.2 hsilent, hstep,
      h, ne_eq, not_true_eq_false, Bool.not_true, Bool.false_eq_true, or_self, if_false]

end Reply

/-- A child that does not answer is lost: it is reported, a fence is requested, and the node acts in its place. -/
theorem State.probeOver_silent {ch : Nat} (hp : ch ∈ (s.ctx c).recov.probed) (hs : ch ∈ (s.ctx c).silent) :
    s.probeOver c ch = State.substituteChild (State.sendFenceReq (s.report (codeAt Code.rcChildLost c)
      { ctx := some c, step := some (s.ctx c).step.waitStep }) c ch (codeAt Code.rcChildLost c)) c ch
        (codeAt Code.rcChildLost c) := by
  simp only [State.probeOver, List.contains_iff_mem.2 hp, List.contains_iff_mem.2 hs, Bool.not_true, Bool.false_eq_true,
    or_self, if_false]

/-- Settles O41. That RC_NO_PROGRESS, RC_CHILD_LOST and RC_FENCED do not fault the context that reports them is log 91. -/
theorem probesAreAnswered : Obligations.ProbesAreAnswered := by
  unfold Obligations.ProbesAreAnswered
  intro s c hc x
  refine ⟨fun hr => ?timeout, fun p hp => ?probe, fun p hp hprobed hsilent => ?reply, fun ch hr hp hs => ?lost⟩
  case timeout => exact exec_of_unit rfl hc (if_pos hr)
  case probe =>
    intro n a code t
    exact ⟨fun ha => exec_of_viaFab rfl hp.1 (State.recvProbe_answers hp ha), fun v ha hv hvo hn =>
      exec_of_viaFab rfl hp.1 (State.recvProbe_votes hp ha hv hvo hn)⟩
  case reply =>
    intro m w hstep
    exact ⟨fun h1 hall => exec_of_viaFab rfl hp.1 (State.recvProbeReply_runs hp hprobed hsilent hstep h1 hall),
      fun h1 hex => exec_of_viaFab rfl hp.1 (State.recvProbeReply_no_progress hp hprobed hsilent hstep h1 hex),
      fun h4 => exec_of_viaFab rfl hp.1 (State.recvProbeReply_paused hp hprobed hsilent hstep h4),
      fun h23 => exec_of_viaFab rfl hp.1 (State.recvProbeReply_waits hp hprobed hsilent hstep h23)⟩
  case lost => exact exec_of_unit rfl hc ((if_pos hr).trans (State.probeOver_silent hp hs))

end Sys2Proof.Machine
end

section
/-! SUPPORT. Orders of recovery, the statuses of members and the readiness of targets (R310, R365, R371–R382, R384,
R441). -/

namespace Sys2Proof.Machine

open Sys2Proof

variable {s t u : State} {p : Packet} {m : RcMsg} {k : Nat}

/-! ### An order is acted on once (R371) -/

theorem State.withOrder_acts {action : Nat} (h : s.ordered p action m t) (f : RcMsg → Option Nat → State → State) :
    s.withOrder p action f = f m (t.jobCtx p.jobTag.toNat) t := by
  obtain ⟨-, hhere, rfl, ha, hfirst⟩ := h
  simp only [State.withOrder, hhere, ha, hfirst, ne_eq, not_true_eq_false, Bool.not_true, Bool.false_eq_true, or_self,
    if_false]

/-- An order that reaches FAB is acted on, whatever its row is. -/
theorem exec_of_ordered {i : Instr} {action : Nat} {f : RcMsg → Option Nat → State → State} (h : s.ordered p action m t)
    (he : exec i s = .next (s.viaFab i fun t => t.withOrder p action f)) (ht : f m (t.jobCtx p.jobTag.toNat) t = u) :
    exec i s = .next u :=
  exec_of_viaFab he h.1 ((State.withOrder_acts h f).trans ht)

/-! ### Waiting for SEC and HLT (R441) -/

theorem State.whenFree_runs (hs : .sec ∉ s.err.restarting) (hh : .hlt ∉ s.err.restarting) (i : Instr)
    (f : State → State) : s.whenFree i f = f s := by
  refine if_neg fun h => ?_
  rcases Bool.or_eq_true_iff.1 h with h | h
  · exact hs (List.contains_iff_mem.1 h)
  · exact hh (List.contains_iff_mem.1 h)

theorem State.whenFree_held (h : .sec ∈ s.err.restarting ∨ .hlt ∈ s.err.restarting) (i : Instr) (f : State → State) :
    s.whenFree i f = { s with err := { s.err with heldOrders := s.err.heldOrders ++ [i] } } :=
  if_pos (Bool.or_eq_true_iff.2 (h.imp List.contains_iff_mem.2 List.contains_iff_mem.2))

/-- A load whose parts exist is tested, and then taken as a message for FAB. -/
theorem exec_rcOrderLoad {d : LoadData} (hd : kakInRange d.kernels = true) (hf : .fab ∉ s.err.restarting)
    (ht : (s.whenFree (.rcOrderLoad p d) fun v => v.withOrder p 4 fun m c u => u.orderLoad' p m c d) = t) :
    exec (.rcOrderLoad p d) s = .next t := by
  have hrow : exec (.rcOrderLoad p d) s = inRange (kakInRange d.kernels) (s.viaFab (.rcOrderLoad p d) fun t =>
      t.whenFree (.rcOrderLoad p d) fun v => v.withOrder p 4 fun m c u => u.orderLoad' p m c d) := rfl
  rw [hrow, hd, inRange_true, State.viaFab_runs hf, ht]

/-! ### ROLLBACK, RESUME, HOLD, REBUILD (R373, R374, R379, R380) -/

section Member

variable (hk : t.jobCtx p.jobTag.toNat = some k)
include hk

theorem exec_rcOrderRollback (h : s.ordered p 1 m t) (hr : (t.ctx k).recov.rstate ≠ 0) :
    exec (.rcOrderRollback p) s = .next (t.orderRollback k m.step) := by
  refine exec_of_ordered h rfl ?_
  simp only [hk, if_neg hr]

theorem exec_rcOrderRebuild {b : List Byte} (h : s.ordered p 3 m t) (hs : .sec ∉ s.err.restarting)
    (hh : .hlt ∉ s.err.restarting) (hm : m.chipA = t.ownChip) :
    exec (.rcOrderRebuild p b) s = .next (t.rebuild k b) := by
  refine exec_of_viaFab rfl h.1 ((State.whenFree_runs hs hh _ _).trans ((State.withOrder_acts h _).trans ?_))
  simp only [hk, if_pos hm]

theorem exec_rcOrderResume (h : s.ordered p 5 m t) :
    exec (.rcOrderResume p) s = .next (t.orderResume k m.attempt) := by
  refine exec_of_ordered h rfl ?_
  simp only [hk]

theorem exec_rcOrderHold {b : List Byte} (h : s.ordered p 6 m t) (hr : (t.ctx k).recov.rstate ≠ 0) :
    exec (.rcOrderHold ⟨p, b⟩) s = .next (t.orderHoldHere k m.code b) := by
  refine exec_of_ordered h rfl ?_
  simp only [hk, if_neg hr]

end Member

/-- A member that recovers reruns R; a target's first attempt does not count as a rerun (R378, R379). -/
theorem State.orderResume_paused {attempt : Nat} (hst : (t.ctx k).st = .paused) (hr : (t.ctx k).recov.rstate ≠ 0) :
    t.orderResume k attempt =
      (let r := (t.setCtx k { t.ctx k with st := .running, recov := Recov.reset }).rerunStep k attempt
      if (t.ctx k).recov.loaded then r.modStep k fun st => { st with rerun := false } else r) := by
  simp only [State.orderResume, hst, hr, ne_eq, not_true_eq_false, or_self, if_false]

/-! ### ADOPT and LOAD (R310, R376, R377) -/

/-- The lost chip's entry takes the stake's position, and its fence ends. -/
theorem State.adopt_good {a b : Nat} (ha : chipKind (t.chipEntry a) = 1 ∨ chipKind (t.chipEntry a) = 3)
    (hb : chipKind (t.chipEntry b) = 2) (hg : chipGroup (t.chipEntry a) = chipGroup (t.chipEntry b)) :
    t.adopt p a b = State.markFenced { t with fab := { t.fab with
      chipTable := Tbl.set 0 (Tbl.set 0 t.fab.chipTable a
        (chipWord 1 (chipGroup (t.chipEntry b)) (chipSlot (t.chipEntry b)) 0)) b 0 } }
      (chipGroup (t.chipEntry a) * 32 + chipSlot (t.chipEntry a)) false :=
  if_pos ⟨ha, hb, hg⟩

section Load

variable {c : Option Nat} {d : LoadData}

/-- The target's context waits for its state. -/
theorem State.orderLoad'_target (hm : m.chipA = t.ownChip) (ht : (t.kakFailed d.kernels).targetCtx c d = some (k, u))
    (hsize : (u.ctx k).sizesMatch d = true) (hb : d.bytes ≠ 0) :
    t.orderLoad' p m c d = u.modCtx k fun y => { y with
      recov := { y.recov with rstate := 3, leader := p.src, load := some d, landed := [] }
      step := { y.step with discardFrom := some d.stepR } } := by
  simp only [State.orderLoad', if_pos hm, State.loadHere, ht, hsize, hb, Bool.not_true, Bool.false_eq_true, if_false]

/-- A source of the own or of the mirror shard sends its part. -/
theorem State.orderLoad'_source (hm : m.chipA ≠ t.ownChip) (hsrc : m.chipB = t.ownChip ∨ bits m.value 0 14 = t.ownChip) :
    t.orderLoad' p m (some k) d =
      t.sendLoad k m.chipA (m.chipB == t.ownChip) (bits m.value 0 14 == t.ownChip) d :=
  (if_neg hm).trans (if_pos hsrc)

/-- A module of a source's group relays. -/
theorem State.orderLoad'_relay (hm : m.chipA ≠ t.ownChip) (hb : m.chipB ≠ t.ownChip) (hv : bits m.value 0 14 ≠ t.ownChip)
    (hg : chipGroup (t.chipEntry m.chipB) = t.ownGroup ∨ chipGroup (t.chipEntry (bits m.value 0 14)) = t.ownGroup) :
    t.orderLoad' p m (some k) d = t.beginRelay k m.chipA d :=
  (if_neg hm).trans ((if_neg (not_or.2 ⟨hb, hv⟩)).trans (if_pos hg))

end Load

/-! ### STAKE_ADD, statuses and readiness (R372, R379, R381, R382) -/

theorem State.recvStakeAdd_acts (h : s.ordered p 7 m t) : s.recvStakeAdd p = t.stakeAt m.chipB m.value := by
  obtain ⟨-, hhere, rfl, ha, hfirst⟩ := h
  simp only [State.recvStakeAdd, hhere, ha, hfirst, ne_eq, not_true_eq_false, Bool.true_or, Bool.not_true,
    Bool.false_eq_true, or_self, if_false]

section Leader

variable {c : Nat} (hc : s.jobCtx p.jobTag.toNat = some c)
include hc

/-- What a status says of its member. -/
def RcMsg.member (m : RcMsg) : Member :=
  { chip := m.chipA, lastCommitted := m.step, rstate := m.action, rebuildOk := bitAt m.flags 0, code := m.code
    shardOwn := BitVec.ofNat 32 m.value, shardMir := BitVec.ofNat 32 (m.value / 2 ^ 32), attempt := m.attempt }

theorem State.recvStatus_taken (hhere : s.ctlHere p msgStatus = true) (hm : RcMsg.parse p.data = m) :
    s.recvStatus p = State.leaderCheck (s.modCtx c fun x => { x with recov := { x.recov with
      statuses := (x.recov.statuses.filter fun q => q.chip != m.chipA) ++ [m.member]
      known := (x.recov.known.filter fun q => q.chip != m.chipA) ++ [m.member]
      awaiting := if m.member.rstate = 3 then keyInsert m.member.chip x.recov.awaiting else x.recov.awaiting } }) c := by
  subst hm
  simp only [State.recvStatus, hhere, hc, Bool.not_true, Bool.false_eq_true, if_false]
  rfl

variable (hhere : s.ctlHere p msgReady = true) (hw : (RcMsg.parse p.data).chipA ∈ (s.ctx c).recov.awaiting)
include hhere hw

/-- A target that is ready counts as such, and the leader goes on. -/
theorem State.recvReady_ready (h1 : (RcMsg.parse p.data).action = 1) :
    s.recvReady p = State.leaderCheck (s.modCtx c fun x => { x with recov := { x.recov with
      awaiting := x.recov.awaiting.filter (· != (RcMsg.parse p.data).chipA)
      ready := keyInsert (RcMsg.parse p.data).chipA x.recov.ready } }) c := by
  simp only [State.recvReady, hhere, hc, List.contains_iff_mem.2 hw, h1, Bool.not_true, Bool.false_eq_true, if_false,
    if_true]

/-- A target that failed: for a cause of the fabric another stake is ordered, else a fence is requested. -/
theorem State.recvReady_failed (h1 : (RcMsg.parse p.data).action ≠ 1) :
    s.recvReady p =
      (let gone := s.modCtx c fun x => { x with recov := { x.recov with
        awaiting := x.recov.awaiting.filter (· != (RcMsg.parse p.data).chipA) } }
      if unitOf (RcMsg.parse p.data).code = 0x0E then (gone.orderLost c (RcMsg.parse p.data).chipA).2
      else gone.sendFenceReq c (RcMsg.parse p.data).chipA (RcMsg.parse p.data).code) := by
  simp only [State.recvReady, hhere, hc, List.contains_iff_mem.2 hw, if_neg h1, Bool.not_true, Bool.false_eq_true,
    if_false]

end Leader

/-! ### The obligation -/

/-- Settles O42. That a REBUILD or a LOAD waits for SEC and for HLT on every module it passes is the model's choice, wider
than R441 (nearest log 75). -/
theorem ordersAreFollowed : Obligations.OrdersAreFollowed := by
  unfold Obligations.OrdersAreFollowed
  refine ⟨fun s t p m k hk => ⟨fun h hr => exec_rcOrderRollback hk h hr, fun b h hs hh hm =>
      exec_rcOrderRebuild hk h hs hh hm, fun h hst hr => ?resume, fun b h hr => exec_rcOrderHold hk h hr⟩,
    fun s t p m h ha hb hg => exec_of_ordered h rfl (State.adopt_good ha hb hg), fun s t u p m d k h hs hh hd => ?load,
    fun s p b d hf hr hd => ⟨?heldRebuild, ?heldLoad⟩,
    fun s t p m h => exec_of_viaFab rfl h.1 (State.recvStakeAdd_acts h), fun s p c hf hc => ?leader⟩
  case resume =>
    intro r
    have hrow := (exec_rcOrderResume hk h).trans (congrArg Host.Outcome.next (State.orderResume_paused hst hr))
    exact ⟨fun hl => hrow.trans (by rw [hl]; rfl), fun hl => hrow.trans (by rw [hl]; rfl)⟩
  case load =>
    have hrow {v : State} (hv : t.orderLoad' p m (t.jobCtx p.jobTag.toNat) d = v) :
        exec (.rcOrderLoad p d) s = .next v :=
      exec_rcOrderLoad hd h.1 ((State.whenFree_runs hs hh _ _).trans ((State.withOrder_acts h _).trans hv))
    refine ⟨fun hm ht hsize hb => hrow (State.orderLoad'_target hm ht hsize hb), fun hm hk => ⟨fun hsrc => hrow ?_,
      fun hb hv hg => hrow ?_⟩⟩
    · rw [hk, State.orderLoad'_source hm hsrc]
    · rw [hk, State.orderLoad'_relay hm hb hv hg]
  case heldRebuild => exact exec_of_viaFab rfl hf (State.whenFree_held hr _ _)
  case heldLoad => exact exec_rcOrderLoad hd hf (State.whenFree_held hr _ _)
  case leader =>
    intro m e
    refine ⟨fun hhere => exec_of_viaFab rfl hf (State.recvStatus_taken hc hhere rfl), fun hhere hw => ?_⟩
    intro gone readied
    refine ⟨fun h1 => exec_of_viaFab rfl hf (State.recvReady_ready hc hhere hw h1), fun h1 hu =>
      exec_of_viaFab rfl hf ((State.recvReady_failed hc hhere hw h1).trans (if_pos hu)), fun h1 hu =>
      exec_of_viaFab rfl hf ((State.recvReady_failed hc hhere hw h1).trans (if_neg hu))⟩

end Sys2Proof.Machine
end

section
/-! SUPPORT. A checkpoint on its way to the pool (R402–R412). -/

namespace Sys2Proof.Machine

open Sys2Proof

variable {s u : State} {c : Nat}

/-- The page that a mover takes next: the oldest in a snapshot slot, else the next page left (R404). -/
def Ckpt.nextPage (k : Ckpt) : Option (Nat × Nat) :=
  match k.saved with
  | q :: _ => some (q.1, q.2.1)
  | [] => k.left.head?

/-- A mover takes the next page, and sends the shards once none is left. -/
theorem State.moverStep_takes {e : Nat × Nat} (hst : (s.ctx c).ck.state = 2) (hsent : (s.ctx c).ck.shardsSent = false)
    (he : (s.ctx c).ck.nextPage = some e) (hu : s.moverTake c e = u) :
    s.moverStep c = if (u.ctx c).ck.state = 2 ∧ (u.ctx c).ck.left.isEmpty then u.sendShards c else u := by
  subst hu
  cases hq : (s.ctx c).ck.saved with
  | nil =>
    have hleft : (s.ctx c).ck.left.head? = some e := by rwa [Ckpt.nextPage, hq] at he
    simp only [State.moverStep, hst, hsent, hq, hleft, ne_eq, not_true_eq_false, Bool.false_eq_true, or_self, if_false]
  | cons q r =>
    have hslot : (q.1, q.2.1) = e := Option.some.inj (by rwa [Ckpt.nextPage, hq] at he)
    simp only [State.moverStep, hst, hsent, hq, hslot, ne_eq, not_true_eq_false, Bool.false_eq_true, or_self, if_false]

theorem State.manifestStep_acked (hst : (s.ctx c).ck.state = 2) (hsent : (s.ctx c).ck.shardsSent = true)
    (ha : (s.ctx c).ck.sent ≤ (s.ctx c).ck.acked) (hm : (s.ctx c).ck.manifestSent = false) :
    s.manifestStep c = State.modCtx (s.poolWrite c 0 (s.manifest c)) c fun y => { y with
      ck := { y.ck with state := 3, manifestSent := true } } :=
  if_pos ⟨hst, hsent, ha, by rw [hm]; rfl⟩

section Acknowledged

variable {p : Packet} (hhere : s.ctlHere p msgCkAck = true)
  (hc : s.ckptOf p.jobTag.toNat (fieldAt p.data 0 8) = some c)
include hhere hc

/-- The pool node has the checkpoint: it exists, and its command completes (R410, R411). -/
theorem State.recvCkAck_good (h0 : fieldAt p.data 8 4 = 0) : s.recvCkAck p =
    (let t := State.report (s.modCtx c fun y => { y with ck := y.ck.done (s.ctx c).baseEn }) (codeAt Code.ckDone c)
      { ctx := some c }
    match (s.ctx c).ck.cmd with
    | some h => t.complete h 0 (codeAt Code.ckDone c) c 0 []
    | none => t) := by
  simp only [State.recvCkAck, hhere, hc, h0, Bool.not_true, Bool.false_eq_true, if_false, ne_eq,
    not_true_eq_false] <;> rfl

theorem State.recvCkAck_refused (h0 : fieldAt p.data 8 4 ≠ 0) : s.recvCkAck p = s.ckFail c Code.ckPoolRefused := by
  simp only [State.recvCkAck, hhere, hc, if_pos h0, Bool.not_true, Bool.false_eq_true, if_false]

end Acknowledged

/-- Settles O43. That the shards go to the pool together, once no page is left, is the model's choice (log 34); the bytes
counted are those of logs 36 and 159. -/
theorem checkpointsReachThePool : Obligations.CheckpointsReachThePool := by
  unfold Obligations.CheckpointsReachThePool
  intro s c hc x
  refine ⟨fun u e hst hsent he hu => ⟨fun hl => ?more, fun hst' hl => ?last⟩, fun hst hsent ha hm => ?manifest,
    fun p hf hhere hck => ?ack, fun h => exec_of_unit rfl hc (if_pos h)⟩
  case more =>
    refine exec_of_unit rfl hc ((State.moverStep_takes hst hsent he hu).trans (if_neg fun h => ?_))
    exact hl (List.isEmpty_iff.1 h.2)
  case last =>
    exact exec_of_unit rfl hc ((State.moverStep_takes hst hsent he hu).trans
      (if_pos ⟨hst', List.isEmpty_iff.2 hl⟩))
  case manifest => exact exec_of_unit rfl hc (State.manifestStep_acked hst hsent ha hm)
  case ack =>
    intro t
    exact ⟨fun h0 => exec_of_viaFab rfl hf (State.recvCkAck_good hhere hck h0),
      fun h0 => exec_of_viaFab rfl hf (State.recvCkAck_refused hhere hck h0)⟩

end Sys2Proof.Machine
end

section
/-! SUPPORT. What records, reports and FAULTED contexts leave: the cause of a reset, ALERT, and the contexts (R424, R427,
R436, R495, R498, R546). -/

namespace Sys2Proof.Machine

open Sys2Proof

/-! ### Records and interrupts -/

/-- Nothing but the host ports and the module's output differs. -/
def RecordsOnly (s t : State) : Prop := ∃ ports out, t = { s with ports := ports, out := out }

theorem RecordsOnly.refl (s : State) : RecordsOnly s s := ⟨s.ports, s.out, rfl⟩

theorem RecordsOnly.trans {s t u : State} (h : RecordsOnly s t) (k : RecordsOnly t u) : RecordsOnly s u := by
  obtain ⟨_, _, rfl⟩ := h
  obtain ⟨ports, out, rfl⟩ := k
  exact ⟨ports, out, rfl⟩

theorem RecordsOnly.ite {s t u : State} {c : Prop} [Decidable c] (ht : RecordsOnly s t) (hu : RecordsOnly s u) :
    RecordsOnly s (if c then t else u) := by
  split
  · exact ht
  · exact hu

theorem State.emit_recordsOnly (s : State) (o : Out) : RecordsOnly s (s.emit o) := ⟨s.ports, _, rfl⟩

theorem State.setPort_recordsOnly (s : State) (port : Nat) (x : Port) : RecordsOnly s (s.setPort port x) :=
  ⟨_, s.out, rfl⟩

theorem State.raiseVector_recordsOnly (s : State) (port vec : Nat) : RecordsOnly s (s.raiseVector port vec) :=
  RecordsOnly.ite (State.emit_recordsOnly ..)
    (RecordsOnly.ite ((State.setPort_recordsOnly ..).trans (State.emit_recordsOnly ..)) (State.setPort_recordsOnly ..))

theorem State.signalPort_recordsOnly (s : State) (sevs : List Nat) (port : Nat) :
    RecordsOnly s (s.signalPort sevs port) := by
  unfold State.signalPort
  extract_lets p lim el fatal s1 s2
  have h1 : RecordsOnly s s1 := State.setPort_recordsOnly ..
  have h2 : RecordsOnly s s2 := RecordsOnly.ite (h1.trans (State.raiseVector_recordsOnly ..)) h1
  exact RecordsOnly.ite (h2.trans (State.emit_recordsOnly ..)) h2

theorem State.storeRecord_recordsOnly (s : State) (port : Nat) (r : List Byte) (irq : Bool) :
    RecordsOnly s (s.storeRecord port r irq) := by
  unfold State.storeRecord
  extract_lets p ctx p' s'
  have h : RecordsOnly s s' := State.setPort_recordsOnly ..
  exact RecordsOnly.ite (h.trans (State.raiseVector_recordsOnly ..)) h

theorem State.postRecord_recordsOnly (s : State) (port : Nat) (r : List Byte) (irq : Bool) :
    RecordsOnly s (s.postRecord port r irq) :=
  RecordsOnly.ite (State.setPort_recordsOnly ..) (State.storeRecord_recordsOnly ..)

theorem State.event_recordsOnly (s : State) (c op : Nat) (code : Word) : RecordsOnly s (s.event c op code) :=
  State.postRecord_recordsOnly ..

theorem State.complete_recordsOnly (s : State) (h : HostCmd) (status : Nat) (code : Word) (ctx aux : Nat)
    (result : List Byte) : RecordsOnly s (s.complete h status code ctx aux result) :=
  State.postRecord_recordsOnly ..

theorem State.tell_recordsOnly (s : State) (old : Nat) : RecordsOnly s (s.tell old) := by
  refine RecordsOnly.ite (RecordsOnly.refl s) ?_
  unfold State.platformEvent
  split
  · exact State.emit_recordsOnly ..
  · exact RecordsOnly.refl s

theorem RecordsOnly.ctx {s t : State} (h : RecordsOnly s t) (c : Nat) : t.ctx c = s.ctx c := by
  obtain ⟨_, _, rfl⟩ := h
  rfl

theorem RecordsOnly.err {s t : State} (h : RecordsOnly s t) : t.err = s.err := by
  obtain ⟨_, _, rfl⟩ := h
  rfl

theorem RecordsOnly.board {s t : State} (h : RecordsOnly s t) : t.board = s.board := by
  obtain ⟨_, _, rfl⟩ := h
  rfl

/-! ### The contexts -/

@[simp] theorem State.report_ctxs (s : State) (code : Word) (w : Where) : (s.report code w).ctxs = s.ctxs := by
  obtain ⟨_, _, _, _, h⟩ := State.report_reportsOnly s code w
  rw [h]

@[simp] theorem State.report_ctx (s : State) (code : Word) (w : Where) (c : Nat) : (s.report code w).ctx c = s.ctx c := by
  rw [State.ctx, State.ctx, State.report_ctxs]

/-! ### The cause of a reset -/

/-- What decides on the next fatal report is as it was, and ALERT has not fallen. -/
structure SameCause (s t : State) : Prop where
  fatalCode : t.err.fatalCode = s.err.fatalCode
  fatalAction : t.err.fatalAction = s.err.fatalAction
  resetCause : t.err.resetCause = s.err.resetCause
  causeWritten : t.err.causeWritten = s.err.causeWritten
  alert : s.board.alert = true → t.board.alert = true

theorem SameCause.refl (s : State) : SameCause s s := ⟨rfl, rfl, rfl, rfl, id⟩

theorem SameCause.trans {s t u : State} (h : SameCause s t) (k : SameCause t u) : SameCause s u :=
  ⟨k.fatalCode.trans h.fatalCode, k.fatalAction.trans h.fatalAction, k.resetCause.trans h.resetCause,
    k.causeWritten.trans h.causeWritten, fun a => k.alert (h.alert a)⟩

theorem RecordsOnly.sameCause {s t : State} (h : RecordsOnly s t) : SameCause s t := by
  obtain ⟨_, _, rfl⟩ := h
  exact ⟨rfl, rfl, rfl, rfl, id⟩

/-- The log has no say in what decides on a reset (R428). -/
theorem Errors.logFrom_cause (fuel : Nat) (er : Errors) (l : LogEntry) :
    ∃ classes seen, (er.logFrom fuel l).1 = { er with classes := classes, seen := seen } := by
  induction fuel generalizing er l with
  | zero =>
    rw [Errors.logFrom]
    generalize ErrClass.enter _ _ = q
    obtain ⟨k, rose⟩ := q
    cases rose <;> exact ⟨_, _, rfl⟩
  | succ fuel ih =>
    rw [Errors.logFrom]
    generalize ErrClass.enter _ _ = q
    obtain ⟨k, rose⟩ := q
    cases rose with
    | false => exact ⟨_, _, rfl⟩
    | true =>
      obtain ⟨classes, seen, h⟩ := ih { er with
        classes := Tbl.set ErrClass.reset er.classes (unitOf l.code) k
        seen := er.seen ||| BitVec.ofNat 4 (2 ^ (severityOf l.code - 1)) }
        ⟨codeAt Code.elLogOvf (unitOf l.code), 0xFF, 0, l.time, 0, 0⟩
      exact ⟨classes, seen, h⟩

theorem State.report_sameCause (s : State) (code : Word) (w : Where) : SameCause s (s.report code w) := by
  unfold State.report
  extract_lets secure l
  have hlog : ∃ classes seen, (Errors.logFrom 2 s.err l).1 = { s.err with classes := classes, seen := seen } :=
    Errors.logFrom_cause ..
  generalize Errors.logFrom 2 s.err l = r at hlog
  obtain ⟨er, sevs⟩ := r
  obtain ⟨classes, seen, rfl⟩ := hlog
  refine SameCause.trans ?_
    ((State.signalPort_recordsOnly _ sevs 0).trans (State.signalPort_recordsOnly _ sevs 1)).sameCause
  exact ⟨rfl, rfl, rfl, rfl, fun h => by rw [h, Bool.true_or]⟩

theorem SameCause.foldl {α : Type} {f : State → α → State} (hf : ∀ t x, SameCause t (f t x)) (l : List α) (s : State) :
    SameCause s (l.foldl f s) := by
  induction l generalizing s with
  | nil => exact SameCause.refl s
  | cons x l ih => exact (hf s x).trans (ih _)

theorem State.setCtx_sameCause (s : State) (c : Nat) (x : Ctx) : SameCause s (s.setCtx c x) := ⟨rfl, rfl, rfl, rfl, id⟩

theorem State.modCore_sameCause (s : State) (p : Nat) (f : Core → Core) : SameCause s (s.modCore p f) :=
  ⟨rfl, rfl, rfl, rfl, id⟩

theorem State.ckFail_sameCause (s : State) (c code : Nat) : SameCause s (s.ckFail c code) := by
  unfold State.ckFail
  extract_lets k idle s1 s2
  have h2 : SameCause s s2 := (State.setCtx_sameCause s c _).trans (State.report_sameCause s1 _ _)
  split
  · exact h2.trans (State.complete_recordsOnly ..).sameCause
  · exact h2

theorem State.faultCtx_sameCause (s : State) (c : Nat) (code : Word) : SameCause s (s.faultCtx c code) := by
  unfold State.faultCtx
  extract_lets x s1 s2
  have h1 : SameCause s s1 := State.setCtx_sameCause ..
  have h2 : SameCause s s2 := h1.trans
    ((SameCause.foldl (fun t p => State.modCore_sameCause t p _) x.cores s1).trans
      (State.event_recordsOnly ..).sameCause)
  split
  · split
    · exact h2.trans (State.ckFail_sameCause ..)
    · exact h2
  · exact SameCause.refl s

end Sys2Proof.Machine
end

section
/-! SUPPORT. Severity-4 reports (R424–R426, R434, R436, R464, R479, R540, R550). -/

namespace Sys2Proof.Machine

open Sys2Proof

variable {s : State} {code : Word}

/-- A report after the first, before the reset, is only logged. -/
theorem State.fatal_again (h : s.err.fatalCode.isSome = true) : s.fatal code = s.report code := if_pos h

/-- The first report: its cause is kept, and ALERT is raised. -/
def State.fatalNoted (s : State) (code : Word) : State :=
  { (s.report code).keep code with board := { (s.report code).board with alert := true } }

/-- Every context is FAULTED. -/
def State.fatalFaulted (s : State) (code : Word) : State :=
  ctxNums.foldl (fun t c => t.faultCtx c code) (s.fatalNoted code)

/-- The code is the reason, and with fatal_action 0 the module is held. -/
def State.heldFor (s : State) (code : Word) : State :=
  { s with err := { s.err with fatalCode := some code, fatalHold := s.err.fatalAction == 0 } }

theorem State.fatal_first (h : s.err.fatalCode = none) :
    s.fatal code = (((s.fatalFaulted code).heldFor code).tell s.stat).fatalReset := by
  unfold State.fatal State.heldFor State.fatalFaulted State.fatalNoted
  simp only [h, Option.isSome_none, Bool.false_eq_true, if_false]

theorem State.fatalReset_none (h : s.err.fatalAction = 0) : s.fatalReset = s := by
  unfold State.fatalReset
  split
  · rfl
  · exact if_pos (.inl h)

/-- The cause of the first report since the last reset is kept (R439). -/
theorem State.keep_resetCause : (s.keep code).err.resetCause = if s.err.causeWritten then s.err.resetCause else code := by
  unfold State.keep
  split <;> rfl

theorem State.keep_fatalAction : (s.keep code).err.fatalAction = s.err.fatalAction := by
  unfold State.keep
  split <;> rfl

/-- The contexts' faults change nothing of what is kept for the reset. -/
theorem State.fatalFaulted_cause :
    (s.fatalFaulted code).err.fatalAction = s.err.fatalAction ∧ (s.fatalFaulted code).board.alert = true ∧
      (s.fatalFaulted code).err.resetCause = if s.err.causeWritten then s.err.resetCause else code := by
  have hreport := State.report_sameCause s code {}
  have hfaults : SameCause (s.fatalNoted code) (s.fatalFaulted code) :=
    SameCause.foldl (fun t c => State.faultCtx_sameCause t c code) ctxNums _
  rw [hfaults.fatalAction, hfaults.resetCause]
  refine ⟨State.keep_fatalAction.trans hreport.fatalAction, hfaults.alert rfl, State.keep_resetCause.trans ?_⟩
  rw [hreport.causeWritten, hreport.resetCause]

/-- Settles O44: what the first report leaves, what a later one does, and the rows that raise one. -/
theorem fatalReportsStopTheModule : Obligations.FatalReportsStopTheModule := by
  unfold Obligations.FatalReportsStopTheModule
  refine ⟨fun s code h0 => ⟨fun ha => ?first, fun hf => congrArg _ (if_pos hf)⟩,
    fun s code => ⟨fun hf => congrArg _ (if_neg (Bool.eq_false_iff.1 hf)), fun k hk => State.fatal_again (by rw [hk]; rfl)⟩,
    fun s n => ⟨fun hn => exec_of_unit rfl hn rfl, fun hp hn => ?regulator, fun hp => congrArg _ (if_pos hp),
      fun hn hc => exec_of_unit rfl hn (if_pos hc)⟩,
    fun s hp => congrArg _ (if_pos hp), fun s cl hcl hp => ⟨exec_of_unit rfl hcl (if_pos hp), rfl⟩⟩
  case first =>
    obtain ⟨haction, halert, hcause⟩ := State.fatalFaulted_cause (s := s) (code := code)
    have hfatal := State.fatal_first (code := code) h0
    generalize s.fatalFaulted code = u at haction halert hcause hfatal
    have htell := State.tell_recordsOnly (u.heldFor code) s.stat
    rw [State.fatalReset_none (htell.err ▸ haction.trans ha)] at hfatal
    intro t
    have herr : t.err = (u.heldFor code).err := (congrArg State.err hfatal).trans htell.err
    have hboard : t.board = u.board := (congrArg State.board hfatal).trans htell.board
    rw [herr, hboard]
    exact ⟨rfl, beq_iff_eq.2 (haction.trans ha), halert, hcause⟩
  case regulator =>
    have hok : (decide (n < 16) || n == 0xFF) = true := by simpa using hn
    have hrow : exec (.pwRegFault n) s = inRange (decide (n < 16) || n == 0xFF)
      (if s.board.powered then s.fatal (codeAt Code.pwRegFault n) else s) := rfl
    rw [hrow, hok, inRange_true, if_pos hp]

end Sys2Proof.Machine
end

section
/-! SUPPORT. Resets and starts (R437–R440, R513, R515, R545, R548, R549, R554). -/

namespace Sys2Proof.Machine

open Sys2Proof

/-! ### Folds over the contexts -/

/-- What no step of a fold changes, the fold does not change. -/
theorem State.foldl_frame {α β : Type} {f : State → α → State} (g : State → β) (hf : ∀ t x, g (f t x) = g t) (l : List α)
    (s : State) : g (l.foldl f s) = g s := by
  induction l generalizing s with
  | nil => rfl
  | cons x l ih => exact (ih _).trans (hf s x)

section EachContext

variable {s : State} {c : Nat} {f : State → Nat → State} (hf : ∀ t d, t.canonical = true → (f t d).canonical = true)
  (ho : ∀ t d, t.canonical = true → d ≠ c → (f t d).ctx c = t.ctx c)
include hf ho

/-- Steps of other contexts leave this one alone. -/
theorem State.foldl_ctx_other {l : List Nat} (hc : s.canonical = true) (hl : c ∉ l) :
    (l.foldl f s).canonical = true ∧ (l.foldl f s).ctx c = s.ctx c := by
  induction l generalizing s with
  | nil => exact ⟨hc, rfl⟩
  | cons d l ih =>
    obtain ⟨hd, hl⟩ := not_or.1 (mt List.mem_cons.2 hl)
    have h := ih (hf s d hc) hl
    exact ⟨h.1, h.2.trans (ho s d hc (Ne.symm hd))⟩

/-- Of a fold over all contexts, one's own step alone says what becomes of it. -/
theorem State.foldl_ctx_own (hc : s.canonical = true) (h8 : c < 8) :
    ∃ u, u.canonical = true ∧ u.ctx c = s.ctx c ∧ (ctxNums.foldl f s).canonical = true ∧
      (ctxNums.foldl f s).ctx c = (f u c).ctx c := by
  obtain ⟨before, after, h⟩ := List.append_of_mem (List.mem_range.2 h8)
  obtain ⟨hb, ha⟩ : c ∉ before ∧ c ∉ after := by
    have hn : (before ++ c :: after).Nodup := h ▸ List.nodup_range
    rw [List.nodup_middle, List.nodup_cons, List.mem_append] at hn
    exact not_or.1 hn.1
  obtain ⟨hu, hsame⟩ := State.foldl_ctx_other hf ho hc hb
  obtain ⟨hw, hown⟩ := State.foldl_ctx_other hf ho (hf _ c hu) ha
  refine ⟨before.foldl f s, hu, hsame, ?_⟩
  rw [ctxNums, h, List.foldl_append, List.foldl_cons]
  exact ⟨hw, hown⟩

end EachContext

/-! ### The end of a context's resources -/

/-- The contexts, what SCH holds, and what the start left. -/
def State.ctxParts (s : State) : Tbl Ctx × List HostCmd × Boot := (s.ctxs, s.sch, s.boot)

theorem State.releaseCore_ctxParts (s : State) (p : Nat) : (s.releaseCore p).ctxParts = s.ctxParts := by
  simp only [State.ctxParts, State.releaseCore, State.modCore, State.setCore]

theorem State.releaseLid_ctxParts (s : State) (u : Nat) : (s.releaseLid u).ctxParts = s.ctxParts := by
  simp only [State.ctxParts, State.releaseLid, State.setLidUnit]

theorem State.foldl_releaseLid_ctxParts (l : List (Nat × Bool)) (s : State) :
    (l.foldl (fun t u => t.releaseLid u.1) s).ctxParts = s.ctxParts := by
  induction l generalizing s with
  | nil => rfl
  | cons u l ih => rw [List.foldl_cons, ih, State.releaseLid_ctxParts]

theorem State.freeGranule_ctxParts (s : State) (g : Nat) : (s.freeGranule g).ctxParts = s.ctxParts := by
  simp only [State.ctxParts, State.freeGranule, State.setGran, State.setGranOwner]

/-- Returning a context's resources touches no other context, nothing that SCH holds, and nothing of the start (R30). -/
theorem State.freeCtx_frame (s : State) (d : Nat) :
    (s.freeCtx d).sch = s.sch ∧ (s.freeCtx d).boot = s.boot ∧
      ∀ c, s.canonical = true → d ≠ c → (s.freeCtx d).ctx c = s.ctx c := by
  unfold State.freeCtx
  extract_lets x s1 s2 gs gone s3 s4
  have h1 : s1.ctxParts = s.ctxParts := State.foldl_frame _ State.releaseCore_ctxParts x.cores s
  have h2 : s2.ctxParts = s1.ctxParts := State.foldl_releaseLid_ctxParts x.lid s1
  have h3 : s3.ctxParts = s2.ctxParts := State.foldl_frame _ State.freeGranule_ctxParts gs s2
  have h : s3.ctxParts = s.ctxParts := h3.trans (h2.trans h1)
  obtain ⟨hctxs, hsch, hboot⟩ : s4.ctxs = s.ctxs ∧ s4.sch = s.sch ∧ s4.boot = s.boot := by
    simpa only [State.ctxParts, Prod.mk.injEq] using h
  refine ⟨hsch, hboot, fun c hc hd => ?_⟩
  have hw : Tbl.wf Ctx.reset s4.ctxs = true := hctxs ▸ State.ctxs_wf hc
  rw [State.ctx_setCtx_ne hw (Ne.symm hd), State.ctx, State.ctx, hctxs]

/-- A failed checkpoint is its own context's (R412). -/
theorem State.ckFail_ctx_ne {s : State} {c d code : Nat} (hw : Tbl.wf Ctx.reset s.ctxs = true) (hd : d ≠ c) :
    (s.ckFail d code).ctx c = s.ctx c := by
  unfold State.ckFail
  extract_lets k idle s1 s2
  have h2 : s2.ctx c = s.ctx c := (State.report_ctx ..).trans (State.ctx_setCtx_ne hw (Ne.symm hd) _)
  split
  · exact ((State.complete_recordsOnly ..).ctx c).trans h2
  · exact h2

/-- Destroying a context leaves the others alone (R30). -/
theorem State.destroyCtx_ctx_ne {s : State} {c d : Nat} (hc : s.canonical = true) (hd : d ≠ c) :
    (s.destroyCtx d).ctx c = s.ctx c := by
  unfold State.destroyCtx
  extract_lets x s1 s2 s3 s4
  have hctxs : s1.ctxs = s.ctxs := State.foldl_modCore_ctxs x.cores Core.stop s
  have h1 : s1.ctx c = s.ctx c := congrArg (Tbl.get Ctx.reset · c) hctxs
  have k1 : Keeps s s1 := keeps_foldl (Keeps.refl s) fun u p hu => State.modCore_keeps hu _ _
  have h2 : s2.ctx c = s.ctx c := by
    unfold s2
    split
    · exact (State.ckFail_ctx_ne (hctxs ▸ State.ctxs_wf hc) hd).trans h1
    · exact h1
  have k2 : Keeps s s2 := keeps_ite (State.ckFail_keeps k1 ..) k1
  have h3 : s3.ctx c = s.ctx c := by
    unfold s3
    split
    · exact (State.report_ctx ..).trans h2
    · exact h2
  have k3 : Keeps s s3 := keeps_ite (State.report_keeps k2 ..) k2
  exact (State.ctx_setCtx_ne (State.ctxs_wf (k3.form hc)) (Ne.symm hd) _).trans h3

/-! ### Warm resets -/

theorem State.tell_self (s : State) : s.tell s.stat = s := if_pos rfl

/-- A step register's change leaves whether a context is being zeroed. -/
theorem State.modStep_zeroing {s : State} (hc : s.canonical = true) (d : Nat) (f : StepSt → StepSt) (c : Nat) :
    ((s.modStep d f).ctx c).zeroing = (s.ctx c).zeroing := by
  rw [State.modStep, State.modCtx, State.ctx_setCtx (State.ctxs_wf hc)]
  split
  · next h => rw [h]
  · rfl

/-- A warm reset has begun; SCH holds no command (R440). -/
def State.warmBegun (s : State) : State :=
  State.tell { s with err := { s.err with warmReset := true, fatalCode := none }, sch := [] } s.stat

/-- A warm reset's destruction of one context. -/
def State.warmDestroy (s : State) (c : Nat) : State := if (s.ctx c).st = .free ∨ (s.ctx c).zeroing then s else s.destroyCtx c

/-- A warm reset's answer to the step messages of one context. -/
def State.warmGone (s : State) (c : Nat) : State :=
  if (s.ctx c).st != .free && (s.ctx c).stEn then s.modStep c fun st => { st with failCode := codeAt Code.stCtxGone c } else s

theorem State.warmStart_eq (s : State) :
    s.warmStart = ctxNums.foldl State.warmGone (ctxNums.foldl State.warmDestroy s.warmBegun) := rfl

theorem State.warmGone_zeroing {s : State} (hc : s.canonical = true) (d c : Nat) :
    ((s.warmGone d).ctx c).zeroing = (s.ctx c).zeroing := by
  unfold State.warmGone
  split
  · exact State.modStep_zeroing hc d _ c
  · rfl

theorem State.foldl_warmGone_zeroing {s : State} (hc : s.canonical = true) (l : List Nat) (c : Nat) :
    ((l.foldl State.warmGone s).ctx c).zeroing = (s.ctx c).zeroing := by
  induction l generalizing s with
  | nil => rfl
  | cons d l ih =>
    have hd : Keeps s (s.warmGone d) := keeps_ite (State.modStep_keeps (Keeps.refl s) d _) (Keeps.refl s)
    exact (ih (hd.form hc)).trans (State.warmGone_zeroing hc d c)

/-- Warm reset destroys every context that is not FREE (R440). -/
theorem State.warmStart_zeroing {s : State} {c : Nat} (hc : s.canonical = true) (h8 : c < 8) (hst : (s.ctx c).st ≠ .free) :
    (s.warmStart.ctx c).zeroing = true := by
  have hb : s.warmBegun.canonical = true := (State.tell_keeps (keeps_mk.2 (Keeps.refl s)) _).form hc
  have hctx : s.warmBegun.ctx c = s.ctx c := (State.tell_recordsOnly _ _).ctx c
  obtain ⟨u, hu, hsame, hd, hown⟩ := State.foldl_ctx_own (f := State.warmDestroy)
    (fun t d ht => (keeps_ite (Keeps.refl t) (State.destroyCtx_keeps (Keeps.refl t) d)).form ht)
    (fun t d ht hd => by
      unfold State.warmDestroy
      split
      · rfl
      · exact State.destroyCtx_ctx_ne ht hd) hb h8
  rw [State.warmStart_eq, State.foldl_warmGone_zeroing hd, hown, State.warmDestroy]
  split
  case isTrue h => exact h.resolve_left (by rwa [hsame, hctx])
  case isFalse => exact (State.destroyCtx_ctx hu c).1

/-- The contexts that the end of a warm reset frees. -/
def State.warmFreed (s : State) : State := ctxNums.foldl (fun t c => if (t.ctx c).zeroing then t.freeCtx c else t) s

theorem State.warmFreed_frame (s : State) : s.warmFreed.sch = s.sch ∧ s.warmFreed.boot = s.boot := by
  have h : (s.warmFreed.sch, s.warmFreed.boot) = (s.sch, s.boot) := State.foldl_frame (fun t => (t.sch, t.boot))
    (fun t c => by
      obtain ⟨hsch, hboot, _⟩ := State.freeCtx_frame t c
      split
      · simp only [hsch, hboot]
      · rfl) ctxNums s
  exact Prod.mk.inj h

theorem State.warmFreed_ctx {s : State} {c : Nat} (hc : s.canonical = true) (h8 : c < 8) (hz : (s.ctx c).zeroing = true) :
    (s.warmFreed.ctx c).st = .free ∧ (s.warmFreed.ctx c).cores = [] ∧ (s.warmFreed.ctx c).regions = [] ∧
      (s.warmFreed.ctx c).zeroing = false := by
  obtain ⟨u, hu, hsame, _, hown⟩ := State.foldl_ctx_own (f := fun t d => if (t.ctx d).zeroing then t.freeCtx d else t)
    (fun t d ht => (keeps_ite (State.freeCtx_keeps (Keeps.refl t) d) (Keeps.refl t)).form ht)
    (fun t d ht hd => by
      split
      · exact (State.freeCtx_frame t d).2.2 c ht hd
      · rfl) hc h8
  obtain ⟨hst, hcores, _, hregions, _, _, hzeroing⟩ := State.freeCtx_ctx hu c
  rw [State.warmFreed, hown, if_pos (hsame ▸ hz)]
  exact ⟨hst, hcores, hregions, hzeroing⟩

theorem State.warmDone_frame {s : State} (h : s.err.warmReset = true) :
    s.warmDone.err.warmReset = false ∧ s.warmDone.sch = s.warmFreed.sch ∧ s.warmDone.fences = [] ∧
      s.warmDone.boot = s.warmFreed.boot ∧ ∀ c, s.warmDone.ctx c = s.warmFreed.ctx c := by
  unfold State.warmDone State.warmFreed
  simp only [h, Bool.not_true, Bool.false_eq_true, if_false]
  generalize ctxNums.foldl _ s = t
  obtain ⟨ports, out, ht⟩ := State.tell_recordsOnly (State.railsUp _) s.stat
  rw [ht]
  exact ⟨rfl, rfl, rfl, rfl, fun _ => rfl⟩

end Sys2Proof.Machine
end

section
/-! SUPPORT. O47: power, the reset pin, start attempts, and the end of a warm reset. -/

namespace Sys2Proof.Machine

open Sys2Proof

variable {s : State}

/-! ### Power and the reset pin -/

/-- What power loss keeps, besides fuses and flash (R438, R439). -/
theorem State.losePower_kept (s : State) :
    s.losePower.boot.keptCode = s.boot.keptCode ∧ s.losePower.boot.repairs = s.boot.repairs ∧
      s.losePower.err.resetCause = s.boot.keptCode.getD 0 := ⟨rfl, rfl, rfl⟩

/-- A lifecycle change that is due is all that power loss takes into the fuses (R512). -/
theorem State.losePower_fuses (h : s.boot.nextLifecycle = none) : s.losePower.fuses = s.fuses := by
  simp only [State.losePower, State.coldCore, h, Option.getD_none]

theorem State.losePower_flash (h : s.boot.updState ≠ 3) : s.losePower.boot.flash = s.boot.flash := by
  simp only [State.losePower, h, if_false]

/-- A pulse that leaves RESET_L as it was, with no EXTEST in force, changes nothing (R548). -/
theorem State.resetHigh_idle (hl : s.board.resetLow = false) (ht : isExtest s.board.tap = false) : s.resetHigh = s := by
  have hboard : ({ s.board with resetLow := false, tap := if isExtest s.board.tap then .bypass else s.board.tap } : Board) =
      s.board := by
    simp only [ht, Bool.false_eq_true, if_false]
    rw [← hl]
  rw [State.resetHigh, hboard]
  exact State.tell_self s

theorem State.resetHigh_board (s : State) :
    s.resetHigh.board.tap = (if isExtest s.board.tap then .bypass else s.board.tap) ∧ s.resetHigh.board.resetLow = false := by
  rw [State.resetHigh, (State.tell_recordsOnly _ _).board]
  exact ⟨rfl, rfl⟩

/-- Low for 10 ms, whatever the pin does next (R548). -/
theorem State.resetPin_long {us : Nat} (b released : Bool) (hus : 10000 ≤ us) :
    s.resetPin us b released = if released then s.resetLow.resetHigh else s.resetLow := by
  simp only [State.resetPin, hus, true_or, if_true]

/-- Low for less than 1 ms (R548). -/
theorem State.resetPin_short {us : Nat} (b released : Bool) (hus : us < 1000) :
    s.resetPin us b released = if released then s.resetHigh else s := by
  have hno : ¬(10000 ≤ us ∨ 1000 ≤ us ∧ b = true) := by omega
  simp only [State.resetPin, hno, if_false]

/-- A start that is due runs, unless the module is off or held in reset (R513). -/
theorem execBootStart_due {env : BootEnv}
    (hk : kakInRange ⟨env.badArrays, env.badCores, env.badChannels, env.badLidUnits⟩ = true) (hp : s.board.powered = true)
    (hl : s.board.resetLow = false) (hd : s.boot.startDue = true) :
    exec (.bootStart env) s = .next ((s.bootRun env).tell s.stat) := by
  have hgo : (s.board.powered && !s.board.resetLow && s.boot.startDue) = true := by rw [hp, hl, hd]; rfl
  have hrow : execBootStart env s = .next ((s.bootRun env).tell s.stat) := by
    rw [execBootStart, hk, inRange_true, if_pos hgo]
  exact hrow

/-- Settles O47: the branch of each row that its conditions name, and the contexts through a warm reset. -/
theorem resetsAndStarts : Obligations.ResetsAndStarts := by
  unfold Obligations.ResetsAndStarts
  refine ⟨fun s hp => ?loss, fun s b hp => ?on, fun s us b hp hl => ?pin, fun s => ?high, fun s env hk hp hl hd => ?start,
    fun s hp he hd => ⟨fun ho => ?retry, fun ho => ?waits⟩, fun s hr hs hp => ?copy, fun s => ⟨rfl, fun hw => ?warm⟩,
    fun s port hport hp hl hb => ?perst⟩
  case loss =>
    obtain ⟨hcode, hrepairs, hcause⟩ := State.losePower_kept s
    exact ⟨congrArg Host.Outcome.next (if_pos hp), rfl, rfl, rfl, hcode, hrepairs, hcause, rfl, rfl, rfl, rfl, rfl, rfl, rfl,
      rfl, State.losePower_fuses, State.losePower_flash⟩
  case on => exact congrArg Host.Outcome.next (if_neg (Bool.eq_false_iff.1 hp))
  case pin =>
    intro code cold low
    have hlow : s.resetLow = low := by
      simp only [State.resetLow, hp, hl, Bool.not_false, Bool.and_self, if_true]
      rfl
    refine ⟨fun hus => ⟨?_, ?_⟩, fun hus => ⟨?_, fun ht => ?_⟩⟩
    · exact congrArg Host.Outcome.next ((State.resetPin_long b false hus).trans hlow)
    · exact congrArg Host.Outcome.next ((State.resetPin_long b true hus).trans (congrArg State.resetHigh hlow))
    · exact congrArg Host.Outcome.next (State.resetPin_short b false hus)
    · exact congrArg Host.Outcome.next ((State.resetPin_short b true hus).trans (State.resetHigh_idle hl ht))
  case high =>
    obtain ⟨htap, hlow⟩ := State.resetHigh_board s
    exact ⟨fun h => htap.trans (if_pos h), fun h => htap.trans (if_neg (Bool.eq_false_iff.1 h)), hlow⟩
  case start => exact execBootStart_due hk hp hl hd
  case retry => exact congrArg Host.Outcome.next (by simp [hp, he, hd, ho])
  case waits => exact congrArg Host.Outcome.next (by simp [hp, he, hd, ho])
  case copy => exact congrArg Host.Outcome.next (if_neg (not_or.2 ⟨hr, by simp [hs, hp]⟩))
  case warm =>
    obtain ⟨hoff, hsch, hfences, hboot, hctx⟩ := State.warmDone_frame hw
    obtain ⟨hsch', hboot'⟩ := State.warmFreed_frame s
    refine ⟨hoff, hsch.trans hsch', hfences, hboot.trans hboot', fun c hc h8 => ⟨fun hz => ?_, ?_⟩⟩
    · rw [hctx]
      exact State.warmFreed_ctx hc h8 hz
    · exact State.warmStart_zeroing hc h8
  case perst =>
    refine exec_of_unit rfl hport ?_
    have hup : ((s.port port).linkUp || (s.board.powered && !s.board.resetLow && s.boot.stage != 0)) = true := by
      simp [hp, hl, hb]
    exact congrArg (fun up => State.setPort _ port { s.port port with linkUp := up }) hup

end Sys2Proof.Machine
end

section
/-! SUPPORT. A BAR0 write of MS_HBM_CFG that sends blocks to a faulted channel (R220, R235, R252). -/

namespace Sys2Proof.Machine

open Sys2Proof

/-- A started module with eight blocks in the write buffer of channel 0, which has faulted since; the first of them wrote a
7 over a zero. -/
def eightStranded : State := { eightBuffered with
  hbm := { Memory.reset with bytes := [(0, 7)] }
  chans := [(0, { Chan.reset with buffered := (List.range 8).map fun b => (b, ⟨15, zeros 256⟩), faulted := true })] }

/-- Defaults written over an empty table leave it empty. -/
theorem Tbl.setRun_replicate_nil {α : Type} [DecidableEq α] (d : α) (k n : Nat) :
    Tbl.setRun d [] k (List.replicate n d) = [] := by
  induction n generalizing k with
  | zero => rfl
  | succ n ih => rw [List.replicate_succ, Tbl.setRun, Tbl.set, if_pos rfl, ih]

/-- Defaults written over a table whose one entry is the first of them leave it empty. -/
theorem Tbl.setRun_replicate_one {α : Type} [DecidableEq α] (d : α) (k n : Nat) (v : α) :
    Tbl.setRun d [(k, v)] k (List.replicate (n + 1) d) = [] := by
  rw [List.replicate_succ, Tbl.setRun, Tbl.set, if_neg (Nat.lt_irrefl k), if_pos rfl, if_pos rfl,
    Tbl.setRun_replicate_nil]

/-- Of a faulted channel's buffered blocks every one gets back the bytes it had (R220). -/
theorem State.foldl_sendBlock_faulted {s : State} {ch : Nat} (hf : (s.chan ch).faulted = true) (l : Tbl Buffered) :
    (l.foldl (fun t e => t.sendBlock ch e.1 e.2) s).hbm.bytes =
      l.foldl (fun t e => Tbl.setRun 0 t (e.1 * 256) e.2.old) s.hbm.bytes := by
  induction l generalizing s with
  | nil => rfl
  | cons e l ih =>
    have hsend : s.sendBlock ch e.1 e.2 = s.discardBlock e.1 e.2 := if_pos hf
    rw [List.foldl_cons, hsend, ih (s := s.discardBlock e.1 e.2) hf]
    rfl

/-- Blocks that were all zero are written back to an empty memory. -/
theorem foldl_zeroBlocks (l : List Nat) :
    (l.map fun b => (b, (⟨15, zeros 256⟩ : Buffered))).foldl (fun t e => Tbl.setRun 0 t (e.1 * 256) e.2.old) ([] : Tbl Byte) =
      [] := by
  induction l with
  | nil => rfl
  | cons b l ih => rw [List.map_cons, List.foldl_cons, zeros, Tbl.setRun_replicate_nil, ← zeros, ih]

/-- Where one channel alone holds blocks, and no fewer than the new burst has, its bus turns (R235). -/
theorem State.hbmCfgWrite_turns {s : State} {ch : Nat} {k : Chan} {v : Word} (h : s.chans = [(ch, k)])
    (hn : State.wrBurst { s with hbmCfg := putHbmCfg s.hbmCfg v } ≤ (s.chan ch).buffered.length) :
    s.hbmCfgWrite v = State.turnBus { s with hbmCfg := putHbmCfg s.hbmCfg v } ch :=
  (congrArg (List.foldl _ _) h).trans (if_pos hn)

/-- A burst of 8 is stored, so the bus turns; the base die writes nothing of the blocks. -/
theorem eightStranded_discards : (eightStranded.hbmCfgWrite 0x800).hbm.bytes = [] := by
  have hturn : eightStranded.hbmCfgWrite 0x800 =
      State.turnBus { eightStranded with hbmCfg := putHbmCfg eightStranded.hbmCfg 0x800 } 0 :=
    State.hbmCfgWrite_turns (s := eightStranded) rfl (by decide)
  have hblocks : (eightStranded.chan 0).buffered =
      (0, ⟨15, zeros 256⟩) :: [1, 2, 3, 4, 5, 6, 7].map fun b => (b, ⟨15, zeros 256⟩) :=
    rfl
  have hfirst : Tbl.setRun 0 [(0, (7 : Byte))] (0 * 256) (zeros 256) = [] :=
    Tbl.setRun_replicate_one 0 0 255 7
  rw [hturn, State.turnBus, State.foldl_sendBlock_faulted rfl]
  calc (eightStranded.chan 0).buffered.foldl (fun t e => Tbl.setRun 0 t (e.1 * 256) e.2.old) [(0, (7 : Byte))]
    _ = List.foldl (fun t e => Tbl.setRun 0 t (e.1 * 256) e.2.old) (Tbl.setRun 0 [(0, (7 : Byte))] (0 * 256) (zeros 256))
        ([1, 2, 3, 4, 5, 6, 7].map fun b => (b, (⟨15, zeros 256⟩ : Buffered))) := by rw [hblocks, List.foldl_cons]
    _ = [] := by rw [hfirst, foldl_zeroBlocks]

/-- Refutes O60: a write of MS_HBM_CFG that makes the burst as short as what a channel has buffered turns its bus by R235,
and a block of a faulted channel leaves the bytes that HBM had before it (R220, R237). -/
theorem not_controlCommandsLeaveMemory : ¬ Obligations.ControlCommandsLeaveMemory := by
  unfold Obligations.ControlCommandsLeaveMemory
  intro h
  obtain ⟨hframe, -, -⟩ := h 0 0 0 0x800 (eightStranded.packet 9 0 0 0 0 0 0 none 0 0 0 []) 0 []
    ⟨0, 0, 0, 0, 0, 0⟩ .portA ⟨0, 0, 0, 0, 0, []⟩ (.msHbmCfgWrite 0 0x800) (by simp)
  have haccepts : eightStranded.acceptsWrites = true := by decide
  have hrow : exec (.msHbmCfgWrite 0 0x800) eightStranded = .next (eightStranded.hbmCfgWrite 0x800) :=
    exec_of_unit rfl Nat.two_pos (State.bar0_accepts haccepts _ _)
  obtain ⟨hhbm, -⟩ := hframe eightStranded _ hrow
  exact absurd ((congrArg Memory.bytes hhbm).symm.trans eightStranded_discards) (by decide)

end Sys2Proof.Machine
end

section
/-! SUPPORT. Monitors, watchdogs and shared buffers (R431–R433, R435). -/

namespace Sys2Proof.Machine

open Sys2Proof

variable {s : State}

/-! ### Monitors -/

/-- The bin that a sample is counted in. -/
def monBin (m : Monitor) (v : Int) : Nat :=
  let d := (v - s32 m.base) / (2 ^ fld m.cfg 20 4 : Int)
  if d < 0 then 0 else min 15 d.toNat

theorem monSample_bins (m : Monitor) (v : Int) :
    (monSample m v).1.bins = Tbl.set 0 m.bins (monBin m v) (satInc (Tbl.get 0 m.bins (monBin m v))) := rfl

/-- A sample at or above a bin's lower bound and below its upper one is counted there; the first bin has no lower bound and
the last no upper one (R432). -/
theorem monBin_eq {m : Monitor} {v : Int} {k : Nat} (hk : k ≤ 15)
    (hlo : k = 0 ∨ s32 m.base + k * 2 ^ fld m.cfg 20 4 ≤ v) (hhi : k = 15 ∨ v < s32 m.base + (k + 1) * 2 ^ fld m.cfg 20 4) :
    monBin m v = k := by
  have hpos : (0 : Int) < 2 ^ fld m.cfg 20 4 := by positivity
  have hlo' : k = 0 ∨ (k : Int) ≤ (v - s32 m.base) / 2 ^ fld m.cfg 20 4 :=
    hlo.imp_right fun h => (Int.le_ediv_iff_mul_le hpos).2 (by omega)
  have hhi' : k = 15 ∨ (v - s32 m.base) / 2 ^ fld m.cfg 20 4 < (k : Int) + 1 :=
    hhi.imp_right fun h => (Int.ediv_lt_iff_lt_mul hpos).2 (by omega)
  unfold monBin
  generalize (v - s32 m.base) / 2 ^ fld m.cfg 20 4 = d at hlo' hhi'
  dsimp only
  split <;> omega

/-- What a monitor reads, source by source (R431). -/
theorem State.sampled_sources {m : Monitor} {src n : Nat} (hs : fld m.cfg 0 8 = src) (hn : fld m.cfg 8 8 = n) (v : Int)
    (hok : monParamOk src n = true) :
      (src = 1 → s.sampled m v = (s.cluster n).temp) ∧ (src = 2 → s.sampled m v = (s.cluster n).lidTemp) ∧
      (src = 3 → s.sampled m v = Tbl.get 0 s.pw.stackTemps n) ∧ (src = 5 → s.sampled m v = ((s.link n).rtt * 10 : Nat)) ∧
      (src = 7 → s.sampled m v = ((s.core n).ce.length : Nat)) ∧ (src = 9 → s.sampled m v = (m.stretches : Nat)) ∧
      (src ∉ [1, 2, 3, 5, 7, 9] → s.sampled m v = v) := by
  unfold State.sampled
  rw [hs, hn]
  dsimp only
  rw [if_neg (by rw [hok]; decide)]
  refine ⟨?_, ?_, ?_, ?_, ?_, ?_, fun hother => ?_⟩
  any_goals
    rintro rfl
    rfl
  split
  case h_7 => rfl
  all_goals exact absurd hother (by decide)

/-- A sample of a monitor that is enabled and has a source, by what it crossed (R432). -/
theorem State.takeSample_enabled {i : Nat} {v : Int} {high low : Bool} (hen : flag (s.monitor i).cfg 31 = true)
    (hsrc : fld (s.monitor i).cfg 0 8 ≠ 0)
    (h : (monSample (s.monitor i) (s.sampled (s.monitor i) v)).2 = (high, low)) :
    let t := s.setMonitor i (monSample (s.monitor i) (s.sampled (s.monitor i) v)).1
    let told := if high then t.report (codeAt Code.elMonHigh i) else t
    s.takeSample i v = if low then told.report (codeAt Code.elMonLow i) else told := by
  obtain ⟨rfl, rfl⟩ : (monSample (s.monitor i) (s.sampled (s.monitor i) v)).2.1 = high ∧
      (monSample (s.monitor i) (s.sampled (s.monitor i) v)).2.2 = low := Prod.mk.inj h
  exact if_neg (by simp [hen, hsrc])

/-! ### Watchdogs -/

section Watchdogs

variable {p c l : Nat} {e : Eng} (hown : s.coreOwner p = some (c, l)) (hwatched : (s.ctx c).watched = true)
include hown hwatched

/-- A wait stall that was not reported for the held command before (R433). -/
theorem State.wdWait_reports {n a : Nat} (hheld : s.heldAt p e = some (n, a)) (hcfg : fld s.err.wdCfg 16 16 ≠ 0)
    (hnew : (p, e, n) ∉ s.err.wdWaited) :
    let t := s.report (codeAt Code.elWdWait p) ((s.core p).whereOf (some c) a)
    s.wdWait p e = { t with err := { t.err with wdWaited := t.err.wdWaited ++ [(p, e, n)] } } := by
  have hgo : ¬(fld s.err.wdCfg 16 16 = 0 ∨ (!(s.ctx c).watched) = true ∨ s.err.wdWaited.contains (p, e, n) = true) := by
    simp [hcfg, hwatched, hnew]
  simp only [State.wdWait, hown, hheld]
  exact if_neg hgo

/-- A stalled execution faults the core's context (R433). -/
theorem State.wdExec_faults (hbusy : s.engBusy p e = true) :
    s.wdExec p e = (s.modCore p fun k => { k with needsKernels := true }).raise (codeAt Code.elWdExec p)
      ((s.core p).whereOf (some c) 0) := by
  simp only [State.wdExec, hown]
  exact if_neg (by simp [hwatched, hbusy])

end Watchdogs

/-! ### Shared buffers -/

/-- An error in a shared buffer while none is being resolved (R435). -/
theorem State.sharedUe_begins {b : SharedBuf} {recent : List Nat} (h : s.err.suspects = none) :
    s.sharedUe b recent = (s.report (codeAt Code.elSharedUe (bufLoc b))).startResolve b (ctxNums.filter fun c =>
      recent.contains c && ((s.ctx c).st == .running || (s.ctx c).st == .paused) && (match b with
        | .clusterHub k => (s.ctx c).cores.any fun p => p / 12 == k
        | _ => true)) [] := by
  unfold State.sharedUe
  generalize s.err.suspects = resolving at h
  subst h
  rfl

/-- Settles O45: a sample by its source and its bin, a stall by its command, and a shared buffer's error. (Which
quantities stay an operand of the sample, as those of sources 4, 6 and 8, is log 163.) -/
theorem monitorsAndWatchdogsReport : Obligations.MonitorsAndWatchdogsReport := by
  unfold Obligations.MonitorsAndWatchdogsReport
  refine ⟨fun s i v hi hen hsrc => ?sample, fun s p c l e hp hown hwatched => ⟨fun n a hheld hcfg hnew => ?wait, fun hbusy => ?exec⟩,
    fun s b recent hb hnone => ?shared⟩
  case sample =>
    intro src n v' r
    refine ⟨fun h => if_pos (by rw [show monParamOk (fld (s.monitor i).cfg 0 8) (fld (s.monitor i).cfg 8 8) = false from h]; rfl),
      State.sampled_sources rfl rfl v, fun k hw hk hlo hhi => ?_, ?_⟩
    · have hbin := monBin_eq (v := v') hk hlo hhi
      refine ⟨?_, fun j hj => ?_⟩
      · rw [monSample_bins, hbin, Tbl.get_set_self _ _ _ hw]
      · rw [monSample_bins, hbin, Tbl.get_set_ne _ hj _ hw]
    · intro t
      have htake : exec (.monitorSample i v) s = .next (s.takeSample i v) := exec_of_unit rfl hi rfl
      have hrow {high low : Bool} (h : r.2 = (high, low)) :=
        htake.trans (congrArg Host.Outcome.next (State.takeSample_enabled hen hsrc h))
      exact ⟨rfl, rfl, rfl, rfl, by simp [r, monSample], by simp [r, monSample], hrow, hrow, hrow⟩
  case wait => exact exec_of_unit rfl hp (State.wdWait_reports hown hwatched hheld hcfg hnew)
  case exec => exact exec_of_unit rfl hp (State.wdExec_faults hown hwatched hbusy)
  case shared =>
    have hrow : execElSharedUe b recent s = .next (s.sharedUe b recent) := by rw [execElSharedUe, hb, inRange_true]
    exact hrow.trans (congrArg Host.Outcome.next (State.sharedUe_begins hnone))

end Sys2Proof.Machine
end

section
/-! SUPPORT. Management cores that crash and restart (R441, R442, R469). -/

namespace Sys2Proof.Machine

open Sys2Proof

variable {s : State} {mc : Mc}

/-- A crash is noted with those of the last 600 s (R442). -/
def State.crashNoted (s : State) (mc : Mc) : State :=
  { s with err := { s.err with
    crashes := (s.err.crashes.filter fun e => decide (s.suTime < e.2 + 600 * 10 ^ 9)) ++ [(mc, s.suTime)] } }

/-- How many of the last 600 s' crashes are the core's. -/
def State.crashCount (s : State) (mc : Mc) : Nat :=
  ((s.err.crashes.filter fun e => decide (s.suTime < e.2 + 600 * 10 ^ 9)).filter fun e => e.1 == mc).length

/-- A core that crashed is down until its restart is done. -/
def State.coreDown (s : State) (mc : Mc) : State :=
  { s with err := { s.err with
    restarting := if s.err.restarting.contains mc then s.err.restarting else s.err.restarting ++ [mc] } }

theorem execMcCrash_runs (hrun : s.mcRuns mc = true) (imageUe : Bool) :
    exec (.mcCrash mc imageUe) s = .next (s.crash mc imageUe) := congrArg Host.Outcome.next (if_pos hrun)

theorem State.crash_image : s.crash mc true = (s.crashNoted mc).fatal (codeAt Code.mcImageUe (mcLoc mc)) := by
  unfold State.crash
  exact if_pos rfl

theorem State.crash_limit (h : 2 ≤ s.crashCount mc) :
    s.crash mc false = (s.crashNoted mc).fatal (codeAt Code.mcRestartLimit (mcLoc mc)) := by
  unfold State.crash
  exact (if_neg Bool.false_ne_true).trans (if_pos h)

/-- A crash that is not the third restarts the core; PWC's clusters go to the lowest step (R441). -/
theorem State.crash_restarts (h : s.crashCount mc < 2) :
    let down := ((s.crashNoted mc).report (codeAt Code.mcCrash (mcLoc mc))).coreDown mc
    s.crash mc false = if mc = .pwc then down.clampAll else down := by
  unfold State.crash
  exact (if_neg Bool.false_ne_true).trans (if_neg (Nat.not_le.2 h))

/-- The core is no longer restarting. -/
def State.coreBack (s : State) (mc : Mc) : State :=
  { s with err := { s.err with restarting := s.err.restarting.filter (· != mc) } }

theorem execMcRestartDone_due (h : mc ∈ s.err.restarting) :
    exec (.mcRestartDone mc) s = .next ((s.coreBack mc).restarted mc).standbyDone :=
  congrArg Host.Outcome.next (if_pos (List.contains_iff_mem.2 h))

/-- Leaving standby waits for PWC, FAB and SCH (R469). -/
theorem State.standbyDone_completes (hs : s.pw.standby = 3) (hp : .pwc ∉ s.err.restarting) (hf : .fab ∉ s.err.restarting)
    (hc : .sch ∉ s.err.restarting) (hl : s.lid.errs = []) (hr : s.pw.enterReq = false) :
    s.standbyDone = State.tell { s with pw := { s.pw with standby := 0 } } s.stat := by
  have hback : ¬(s.pw.standby ≠ 3 ∨ (s.err.restarting.any fun m => m == .pwc || m == .fab || m == .sch) = true) := by
    refine not_or.2 ⟨not_not.2 hs, fun h => ?_⟩
    obtain ⟨m, hm, heq⟩ := List.any_eq_true.1 h
    cases m with
    | sec | hlt => exact absurd heq (by decide)
    | pwc => exact hp hm
    | fab => exact hf hm
    | sch => exact hc hm
  rw [State.standbyDone, if_neg hback, hl, List.foldl_nil]
  simp only [hr, Bool.false_eq_true, if_false]

/-- A message that FAB handles is held while FAB restarts, as long as there is room (R441). -/
theorem State.viaFab_holds (h : .fab ∈ s.err.restarting)
    (hroom : (s.err.heldControl.filter fun i => !fabOwn i).length < 256) (i : Instr) (f : State → State) :
    s.viaFab i f = { s with err := { s.err with heldControl := s.err.heldControl ++ [i] } } :=
  (if_pos (List.contains_iff_mem.2 h)).trans (if_pos hroom)

/-- A host write is held while SCH restarts (R441). -/
theorem State.bar0_holds (hp : s.board.powered = true) (hl : s.board.resetLow = false) (hb : s.boot.stage = stageReady)
    (hw : s.err.warmReset = false) (hs : s.pw.standby = 0) (h : .sch ∈ s.err.restarting) (i : Instr) (f : State → State) :
    s.bar0 i f = { s with err := { s.err with heldWrites := s.err.heldWrites ++ [i] } } := by
  unfold State.bar0
  exact (if_neg (by simp [hp, hl, hb, hw, hs])).trans (if_pos (List.contains_iff_mem.2 h))

/-- Settles O46: the crash by its cause and count, and the restart by its core. (That FAB tells of the ports after its
restart is log 87, and that the third crash reports the limit's code alone is log 75.) -/
theorem crashedCoresRestart : Obligations.CrashedCoresRestart := by
  unfold Obligations.CrashedCoresRestart
  refine ⟨fun s mc hrun => ?crash, fun s mc hmem => ?restart, fun s => ⟨fun h => if_pos (.inl h), State.standbyDone_completes⟩,
    fun s p hf hroom => congrArg Host.Outcome.next (State.viaFab_holds hf hroom _ _),
    fun s port hi hport hp hl hb hw hs hsch => exec_of_unit rfl hport (State.bar0_holds hp hl hb hw hs hsch _ _)⟩
  case crash =>
    intro recent noted t down
    refine ⟨(execMcCrash_runs hrun true).trans (congrArg _ State.crash_image), fun h =>
      (execMcCrash_runs hrun false).trans (congrArg _ (State.crash_limit h)), fun h => ⟨fun hne => ?_, fun heq => ?_⟩⟩
    · exact (execMcCrash_runs hrun false).trans (congrArg _ ((State.crash_restarts h).trans (if_neg hne)))
    · exact (execMcCrash_runs hrun false).trans (congrArg _ ((State.crash_restarts h).trans (if_pos heq)))
  case restart =>
    intro t
    have hrow := execMcRestartDone_due hmem
    refine ⟨?_, ?_, ?_, ?_⟩
    · rintro (rfl | rfl) <;> exact hrow
    · rintro rfl
      exact hrow
    · rintro rfl
      exact hrow
    · rintro rfl
      exact hrow

end Sys2Proof.Machine
end

section
/-! SUPPORT. The sideband, the test access port and the module's sensors (R437, R457, R469, R540, R541, R544, R549, R551,
R552). -/

namespace Sys2Proof.Machine

open Sys2Proof

variable {s : State}

/-- A row of the sideband, with input power. -/
theorem exec_of_sideband {i : Instr} {f : State → State} {t : State} (hp : s.board.powered = true)
    (he : exec i s = .next (s.sideband f)) (ht : f s = t) : exec i s = .next t := by
  rw [he, State.sideband_powered hp, ht]

/-- A report of the module's hardware, with input power (R540). -/
theorem State.mhReport_powered (hp : s.board.powered = true) (code loc : Nat) : s.mhReport code loc = s.report (codeAt code loc) :=
  if_pos hp

/-- The effecters are ready: the module has started, and neither a reset nor RESET_L stops it (R457, R469). -/
theorem State.effecterReady_iff : s.effecterReady = true ↔
    s.board.powered = true ∧ s.board.resetLow = false ∧ s.boot.stage = stageReady ∧ s.err.warmReset = false := by
  simp only [State.effecterReady, Bool.and_eq_true, Bool.not_eq_true', beq_iff_eq, and_assoc]

section Ready

variable (h : s.effecterReady = true)
include h

theorem exec_pldmStandby_enters : exec (.pldmStandbyEffecter 1) s =
    .next (s.enterStandby.emit (.pldm (if s.enterStandby.pw.standby = 0 then 4 else 0))) :=
  exec_of_sideband (State.powered_of_effecterReady h) rfl
    ((if_neg (by rw [h]; exact Bool.false_ne_true)).trans (if_pos rfl))

theorem exec_pldmStandby_leaves : exec (.pldmStandbyEffecter 2) s = .next (s.leaveStandby.emit (.pldm 0)) :=
  exec_of_sideband (State.powered_of_effecterReady h) rfl
    ((if_neg (by rw [h]; exact Bool.false_ne_true)).trans ((if_neg (by decide)).trans (if_pos rfl)))

/-- A module that is up takes a reset request (R437, R469). -/
theorem State.takesReset_of_ready : ¬(s.board.resetLow = true ∨ s.err.warmReset = true ∨
    (!decide (s.boot.stage = stageReady ∨ s.inWait = true)) = true) := by
  obtain ⟨-, hlow, hstage, hwarm⟩ := State.effecterReady_iff.1 h
  simp [hlow, hstage, hwarm]

theorem exec_pldmReset_warm : exec (.pldmResetEffecter 1) s = .next ((s.requestWarm 2).emit (.pldm 0)) := by
  obtain ⟨-, -, hstage, -⟩ := State.effecterReady_iff.1 h
  exact exec_of_sideband (State.powered_of_effecterReady h) rfl
    ((if_neg (State.takesReset_of_ready h)).trans ((if_pos rfl).trans (if_pos hstage)))

theorem exec_pldmReset_cold : exec (.pldmResetEffecter 2) s = .next ((s.requestCold 2).emit (.pldm 0)) :=
  exec_of_sideband (State.powered_of_effecterReady h) rfl
    ((if_neg (State.takesReset_of_ready h)).trans ((if_neg (by decide)).trans (if_pos rfl)))

end Ready

/-- The leak sensor dries while nothing else holds ALERT (R544). -/
theorem exec_leakSensorDry_clears (hp : s.board.powered = true) (hb : s.boot.stage = stageReady)
    (hf : s.err.fatalCode = none) (hw : s.err.warmReset = false) : exec .leakSensorDry s =
      .next (State.tell { s with board := { s.board with leakWet := false, alert := false } } s.stat) := by
  have halert : (s.err.fatalCode.isSome || s.err.warmReset || (s.board.alert && s.boot.stage != stageReady)) = false := by
    simp [hf, hw, hb]
  refine exec_of_sideband hp rfl ?_
  rw [halert]

/-- The EXTEST family acts as BYPASS unless RESET_L is low (R549). -/
theorem State.tapIn_extest {i : TapInstr} (h : isExtest i = true) :
    s.tapIn i = { s with board := { s.board with tap := if s.board.resetLow then i else .bypass } } := by
  have hother : (i == .other) = false := beq_eq_false_iff_ne.2 (by rintro rfl; exact absurd h (by decide))
  have hid : i ≠ .idcode := by rintro rfl; exact absurd h (by decide)
  unfold State.tapIn
  rw [h, hother]
  cases s.board.resetLow with
  | false => exact if_neg (show ¬TapInstr.bypass = .idcode by decide)
  | true => exact if_neg hid

/-- A blade's input voltage is reported once in an excursion (R540). -/
theorem exec_mhInputLow {b : Nat} (hp : s.board.powered = true) (hb : b = 1 ∨ b = 2) :
    exec (.mhInputLow b) s = .next (if s.board.lowTold.contains b then s
      else State.report { s with board := { s.board with lowTold := s.board.lowTold ++ [b] } } (codeAt Code.mhInputLow b)) := by
  rcases hb with rfl | rfl <;> exact congrArg Host.Outcome.next (State.sideband_powered hp _)

theorem exec_mhInputHigh {b : Nat} (hp : s.board.powered = true) (hb : b = 1 ∨ b = 2) :
    exec (.mhInputHigh b) s = .next (if s.board.highTold.contains b then s
      else State.report { s with board := { s.board with highTold := s.board.highTold ++ [b] } } (codeAt Code.mhInputHigh b)) := by
  rcases hb with rfl | rfl <;> exact congrArg Host.Outcome.next (State.sideband_powered hp _)

theorem exec_mhCableRemoved {c : Nat} (hp : s.board.powered = true) (h1 : 1 ≤ c) (h4 : c ≤ 4) :
    exec (.mhCableRemoved c) s = .next (s.report (codeAt Code.mhCableRemoved (0x10 + c))) := by
  have hrow : execMhCableRemoved c s = .next (s.mhReport Code.mhCableRemoved (0x10 + c)) := by
    rw [execMhCableRemoved, decide_eq_true h1, decide_eq_true h4]
    exact inRange_true _
  exact hrow.trans (congrArg _ (State.mhReport_powered hp _ _))

/-- Settles O54: each row of the sideband with input power, and a sensor's crossing. (The completion codes are log 70; the
end of an excursion, log 110, is not claimed.) -/
theorem sidebandAndSensors : Obligations.SidebandAndSensors := by
  unfold Obligations.SidebandAndSensors
  intro s hp
  refine ⟨fun e => exec_of_sideband hp rfl rfl, fun e => exec_of_sideband hp rfl rfl, fun a hnone ha => ?assign,
    fun hr => ⟨exec_pldmCapEffecter hr, exec_pldmStandby_enters hr, exec_pldmStandby_leaves hr, exec_pldmReset_warm hr,
      exec_pldmReset_cold hr⟩,
    fun hr w => exec_of_sideband hp rfl (if_neg (by rw [hr]; exact Bool.false_ne_true)),
    fun i hi => exec_of_sideband hp rfl (State.tapIn_extest hi), exec_leakSensorDry_clears hp,
    congrArg _ (State.mhReport_powered hp _ _), congrArg _ (State.mhReport_powered hp _ _), fun b hb => ?input,
    fun old id => ⟨fun h => if_neg (by rw [h]; exact Bool.false_ne_true), fun e h hreceiver => ?event⟩, fun c h1 h4 => ?cable⟩
  case assign =>
    have hfree (mine : Bool) (hm : mine = true) :
        ¬(s.board.i3cAddr.isSome = true ∨ 128 ≤ a ∨ (!mine) = true) := by simp [hnone, hm, ha]
    exact ⟨exec_of_sideband hp rfl (if_neg (hfree _ rfl)), exec_of_sideband hp rfl (if_neg (hfree _ rfl))⟩
  case input =>
    have hin {l : List Nat} (h : b ∈ l) : l.contains b = true := List.contains_iff_mem.2 h
    have hout {l : List Nat} (h : b ∉ l) : ¬l.contains b = true := mt List.contains_iff_mem.1 h
    exact ⟨fun h => (exec_mhInputLow hp hb).trans (congrArg _ (if_neg (hout h))),
      fun h => (exec_mhInputLow hp hb).trans (congrArg _ (if_pos (hin h))),
      fun h => (exec_mhInputHigh hp hb).trans (congrArg _ (if_neg (hout h))),
      fun h => (exec_mhInputHigh hp hb).trans (congrArg _ (if_pos (hin h)))⟩
  case event =>
    exact (if_pos h).trans (by rw [State.platformEvent, hreceiver])
  case cable => exact exec_mhCableRemoved hp h1 h4

end Sys2Proof.Machine
end

section
/-! SUPPORT. SPDM requests (R524, R525). -/

namespace Sys2Proof.Machine

open Sys2Proof

variable {s : State} {port : Nat}

section Keys

variable (hport : port < 2) (hserves : s.secServes = true) (hkeys : s.boot.identity ≠ [])
include hport hserves hkeys

/-- A request while SEC restarts is answered busy (R525). -/
theorem exec_of_spdm_busy {i : Instr} {f : State → State} (hr : .sec ∈ s.err.restarting)
    (he : exec i s = inRange (decide (port < 2)) (s.spdmRow port f)) :
    exec i s = .next (s.spdmSend port spdmError [0x03]) :=
  exec_of_unit he hport ((if_neg (by simp [hserves, hkeys])).trans (if_pos (List.contains_iff_mem.2 hr)))

/-- A request while SEC runs is answered by its row. -/
theorem exec_of_spdm {i : Instr} {f : State → State} {t : State} (hr : .sec ∉ s.err.restarting)
    (he : exec i s = inRange (decide (port < 2)) (s.spdmRow port f)) (ht : f s = t) : exec i s = .next t :=
  exec_of_unit he hport ((if_neg (by simp [hserves, hkeys])).trans
    ((if_neg (mt List.contains_iff_mem.1 hr)).trans ht))

end Keys

/-- Drawing bytes moves only the count of draws. -/
theorem State.drawBytes_state (s : State) (n : Nat) : ∃ k, (s.drawBytes n).2 = { s with freeCount := k } := by
  induction n generalizing s with
  | zero => exact ⟨s.freeCount, rfl⟩
  | succ n ih =>
    obtain ⟨k, hk⟩ := ih s.draw.2
    exact ⟨k, hk⟩

/-- The Alias key's signatures do not depend on what was drawn. -/
theorem State.signAlias_drawBytes (s : State) (n : Nat) (m : List Byte) : (s.drawBytes n).2.signAlias m = s.signAlias m := by
  obtain ⟨k, hk⟩ := s.drawBytes_state n
  rw [hk]
  rfl

/-- One block, unsigned (R525). -/
theorem State.measurements_unsigned {i : Nat} {nonce : List Byte} (h1 : 1 ≤ i) (h10 : i ≤ 10) :
    s.measurements port i false nonce = s.spdmSend port spdmMeasurements (leBytes 1 1 ++ s.blockOf i) := by
  have h0 : i ≠ 0 := by omega
  have hff : i ≠ 0xFF := by omega
  unfold State.measurements
  simp only [h0, hff, h10, if_false, or_true, decide_true, Bool.not_true, Bool.false_eq_true, Bool.not_false, if_true,
    List.flatMap_singleton, List.length_singleton]

/-- All blocks, signed with both keys (R525). -/
theorem State.measurements_report {q : Nat} {t : State} {nonce : List Byte} (hq : s.useIndex = (some q, t))
    (hok : Config.lmsTestOk q = true) :
    let blocks := ((List.range 10).map (· + 1)).flatMap s.blockOf
    let body := leBytes 1 11 ++ blocks ++ measureBlock 0x20 0x81 (Config.lmsSign s.fuses.secret q (sha384 (nonce ++ blocks)))
    s.measurements port 0xFF true nonce = t.spdmSend port spdmMeasurements (body ++ t.signAlias (nonce ++ body)) := by
  intro blocks body
  unfold State.measurements
  simp only [hq, hok, if_true, Nat.reduceEqDiff, if_false, true_or, decide_true, Bool.not_true, Bool.false_eq_true,
    ne_eq, not_true_eq_false]
  rfl

/-- Settles O53: each request by its row. (The framing is presumed: log 70.) -/
theorem spdmRequestsAreAnswered : Obligations.SpdmRequestsAreAnswered := by
  unfold Obligations.SpdmRequestsAreAnswered
  intro s port hport hserves hkeys
  refine ⟨fun hr => exec_of_spdm_busy hport hserves hkeys hr rfl, fun hr => ?_⟩
  have hrow {i : Instr} {f : State → State} {t : State} := exec_of_spdm (i := i) (f := f) (t := t) hport hserves hkeys hr
  refine ⟨hrow rfl rfl, hrow rfl rfl, hrow rfl rfl, hrow rfl rfl, fun off len hoff => ?certificate, fun nonce => ?challenge,
    fun i nonce h1 h10 => hrow rfl (State.measurements_unsigned h1 h10),
    fun q t nonce hq hok => hrow rfl (State.measurements_report hq hok)⟩
  case certificate => exact hrow rfl (if_neg (by omega))
  case challenge =>
    refine hrow rfl ((if_neg (by decide)).trans ?_)
    rw [State.signAlias_drawBytes]

end Sys2Proof.Machine
end

section
/-! SUPPORT. The service protocol, updates and provisioning (R507, R518–R521). -/

namespace Sys2Proof.Machine

open Sys2Proof

variable {s : State} {src : SvcSource} {r : SvcReq} {op : Nat} {guarded : Bool} {f : State → State}

/-- SEC's being up serves every source, the sideband included (R551). -/
theorem State.srcServed_of_secServes (h : s.secServes = true) (src : SvcSource) : s.srcServed src = true := by
  have hp : s.board.powered = true := by
    simp only [State.secServes, Bool.and_eq_true] at h
    exact h.1.1
  unfold State.srcServed
  split
  · exact hp
  · exact h

/-! ### What every request meets first -/

section Row

variable (hserves : s.secServes = true)
include hserves

/-- Another source than the owner is answered BUSY (R518). -/
theorem State.svcRow_busy (h : s.boot.stagingOwner ≠ none) (hne : s.boot.stagingOwner ≠ some src) :
    s.svcRow src r op guarded f = s.svcAnswer src r 1 (if op = 1 then s.statusCode else 0) := by
  have hother : (s.boot.stagingOwner.isSome && s.boot.stagingOwner != some src) = true :=
    Bool.and_eq_true_iff.2 ⟨Option.isSome_iff_ne_none.2 h, bne_iff_ne.2 hne⟩
  unfold State.svcRow
  exact (if_neg (by rw [State.srcServed_of_secServes hserves]; decide)).trans (if_pos (.inl hother))

variable (hsec : .sec ∉ s.err.restarting) (hown : s.boot.stagingOwner = none ∨ s.boot.stagingOwner = some src)
  (hok : svcFieldsOk r op = true)
include hsec hown hok

/-- A request with a good header that waits for nothing takes effect, if it is allowed or needs no permission (R518,
R520). -/
theorem State.svcRow_acts
    (hg : guarded = true → s.boot.updState ≠ 2 ∧ s.boot.updState ≠ 3 ∧ s.svcAllowed src = true) :
    s.svcRow src r op guarded f = f s := by
  have hmine : (s.boot.stagingOwner.isSome && s.boot.stagingOwner != some src) = false := by
    rcases hown with h | h <;> simp [h]
  have hfree : ¬((s.boot.stagingOwner.isSome && s.boot.stagingOwner != some src) = true ∨
      s.err.restarting.contains .sec = true ∨ (guarded = true ∧ (s.boot.updState = 2 ∨ s.boot.updState = 3))) := by
    rintro (h | h | ⟨h, h2 | h3⟩)
    · exact absurd (hmine.symm.trans h) Bool.false_ne_true
    · exact hsec (List.contains_iff_mem.1 h)
    · exact (hg h).1 h2
    · exact (hg h).2.1 h3
  have hallowed : ¬(guarded = true ∧ (!s.svcAllowed src) = true) := fun ⟨h, hn⟩ => by simp [(hg h).2.2] at hn
  unfold State.svcRow
  rw [if_neg (by rw [State.srcServed_of_secServes hserves]; decide), if_neg hfree, if_neg (by rw [hok]; decide),
    if_neg hallowed]

end Row

/-! ### Commits and lifecycle changes -/

/-- COMMIT answers by whether the transfer verifies (R519). -/
theorem svcCommit_answer {d : State × Bool} {ok : Bool} (h : d.2 = ok) (status : Nat) :
    (let (u, good) := d
     if good then u.svcAnswer src r 0 0 else u.svcRefuse src r status) =
      if ok then d.1.svcAnswer src r 0 0 else d.1.svcRefuse src r status := by
  subst h
  rfl

/-- A lifecycle change to value 1 from value 0, with a good token, is kept for the next cold reset (R519, R527). -/
theorem exec_svcLifecycle_takes {n : Nat}
    (hrow : ∀ f, s.svcRow src r 6 true f = f s) (hlen : r.data.length = 0xA0 + 0x570)
    (hsig : verifySig (slice r.data 0xA0 0x570) (slice r.data 0 0xA0) s.fuses.vendors = .ok n)
    (hpad : sigPadOk (slice r.data 0xA0 0x570) = true) (hmod : Config.tokenModule (slice r.data 0 0xA0) = s.fuses.moduleId)
    (hval : Config.tokenValue (slice r.data 0 0xA0) = 1) (hlife : s.fuses.lifecycle = 0) :
    exec (.svcLifecycle src r) s =
      .next ((State.updDone { s with boot := { s.boot with nextLifecycle := some 1 } } (srcNum src)).svcAnswer src r 0
        (codeAt Code.btUpdDone (srcNum src))) := by
  refine congrArg Host.Outcome.next ((hrow _).trans ?_)
  simp only [hlen, hsig, hpad, hmod, hval, hlife, ne_eq, not_true_eq_false, if_false, Bool.not_true, Bool.false_eq_true]
  exact if_neg (by decide)

/-- A flash write that ends outside WAIT: pending until the next cold reset (R507, R520). -/
theorem State.flashDone_pending (hsec : .sec ∉ s.err.restarting) (h3 : s.boot.updState = 3) (hw : s.inWait = false) :
    let area := if s.boot.stagingKind = 2 then recordArea else imageArea
    let len := if s.boot.stagingKind = 2 then recordBytesUsed else min s.boot.staged imageSize
    let b := (s.boot.eraseArea s.boot.stagingKind).flashWrite area (s.boot.staged' 0 len)
    s.flashDone = State.updDone
      { s with boot := { b with staging := [], staged := 0, updPending := true, updState := 0 } } s.boot.commitSource := by
  intro area len b
  unfold State.flashDone
  rw [if_neg (by simp [h3, hsec])]
  simp only [hw, Bool.not_false, Bool.false_eq_true, if_false]
  rfl

/-- Settles O52: what every request meets first, then each request's own row. (What a verdict of a signature is stays
opaque: log 62.) -/
theorem serviceRequestsAreAnswered : Obligations.ServiceRequestsAreAnswered := by
  unfold Obligations.ServiceRequestsAreAnswered
  intro s src r hserves hsec
  have hserved := State.srcServed_of_secServes hserves
  have hup : ¬(!s.srcServed .sideband) = true := by rw [hserved]; decide
  have hmay (h : s.svcAllowed .sideband = true) : ¬(!s.svcAllowed .sideband) = true := by rw [h]; decide
  have hnosec : ¬s.err.restarting.contains .sec = true := mt List.contains_iff_mem.1 hsec
  refine ⟨fun i o hmem hown hne => ?busy, fun hown => ⟨fun hf => ?status, fun hf hmine => ?abort, fun h2 h3 hallowed => ?guarded⟩,
    fun hown => congrArg _ (if_pos (Option.isSome_iff_ne_none.2 hown)), fun h3 hw => ?flash,
    fun hown h2 h3 hallowed off data hlen => ?part, fun part data hne => ?other, fun hown hkind hallowed hgood => ?activate⟩
  case busy =>
    simp only [List.mem_cons, Prod.mk.injEq, List.not_mem_nil, or_false] at hmem
    rcases hmem with ⟨rfl, rfl⟩ | ⟨rfl, rfl⟩ | ⟨rfl, rfl⟩ | ⟨rfl, rfl⟩ | ⟨rfl, rfl⟩ | ⟨rfl, rfl⟩
    all_goals exact congrArg Host.Outcome.next (State.svcRow_busy hserves hown hne)
  case status => exact congrArg Host.Outcome.next (State.svcRow_acts hserves hsec hown hf fun h => absurd h Bool.false_ne_true)
  case abort =>
    have hrow := State.svcRow_acts (op := 4) (guarded := false) hserves hsec hown hf
      (fun h => absurd h Bool.false_ne_true) (f := fun t =>
        if t.boot.stagingOwner = some src then t.releaseStaging.svcAnswer src r 0 0 else t.svcAnswer src r 0 0)
    exact congrArg Host.Outcome.next (hrow.trans (if_pos hmine))
  case guarded =>
    have hrow {op : Nat} (hf : svcFieldsOk r op = true) (f : State → State) : s.svcRow src r op true f = f s :=
      State.svcRow_acts hserves hsec hown hf fun _ => ⟨h2, h3, hallowed⟩
    refine ⟨fun hf => congrArg _ (hrow hf _), fun hf hgood => ?_, fun hf hbad => ?_, fun f hf hprov => ?_,
      fun hf hlen ⟨n, hsig⟩ hpad hmod hval hlife => exec_svcLifecycle_takes (hrow hf) hlen hsig hpad hmod hval hlife⟩
    · exact congrArg Host.Outcome.next ((hrow hf _).trans (svcCommit_answer hgood _))
    · exact congrArg Host.Outcome.next ((hrow hf _).trans (svcCommit_answer hbad _))
    · refine congrArg Host.Outcome.next ((hrow hf _).trans ?_)
      rw [hprov]
      rfl
  case flash => exact congrArg Host.Outcome.next (State.flashDone_pending hsec h3 hw)
  case part =>
    have hmine : ¬((s.boot.stagingOwner.isSome && s.boot.stagingOwner != some .sideband) = true ∨ s.boot.updState = 2 ∨
        s.boot.updState = 3 ∨ s.err.restarting.contains .sec = true) := by
      rcases hown with h | h <;> simp [h, h2, h3, hsec]
    exact congrArg Host.Outcome.next ((if_neg hup).trans ((if_neg (not_not.2 rfl)).trans ((if_neg hmine).trans
      ((if_neg (Nat.not_lt.2 hlen)).trans (if_neg (hmay hallowed))))))
  case other => exact congrArg Host.Outcome.next ((if_neg hup).trans (if_pos hne))
  case activate =>
    refine congrArg Host.Outcome.next ((if_neg hup).trans ((if_neg hnosec).trans ((if_pos ⟨hown, hkind⟩).trans
      ((if_neg (hmay hallowed)).trans ?_))))
    rw [State.commit, if_pos ⟨hown, hgood⟩]
    rfl

end Sys2Proof.Machine
end

section
/-! SUPPORT. Loss of a port's host (R437, R438, R497–R501, R550). -/

namespace Sys2Proof.Machine

open Sys2Proof

variable {s : State} {c port : Nat}

/-! ### What the loss takes -/

/-- Every window of a table that is mapped entry by entry. -/
theorem Tbl.get_map_some {α : Type} (g : α → α) (t : Tbl (Option α)) {n : Nat} {w : α} (h : Tbl.get none t n = some w) :
    Tbl.get none (t.map fun e => (e.1, e.2.map g)) n = some (g w) := by
  induction t with
  | nil => exact nomatch h
  | cons e t ih =>
    obtain ⟨k, v⟩ := e
    simp only [List.map_cons, Tbl.get] at h ⊢
    split
    · next hk =>
      rw [if_pos hk] at h
      rw [h, Option.map_some]
    · next hk =>
      rw [if_neg hk] at h
      split
      · next hlt =>
        rw [if_pos hlt] at h
        exact nomatch h
      · next hlt =>
        rw [if_neg hlt] at h
        exact ih h

/-- The windows of a lost host are revoked (R497). -/
theorem Ctx.revokeAll_window {x : Ctx} {n : Nat} {w : Window} (h : x.window n = some w) :
    x.revokeAll.window n = some { w with revoked := true } :=
  Tbl.get_map_some (fun v : Window => { v with revoked := true }) x.windows h

/-- A port with neither posts nor commands has nothing to discard. -/
theorem State.discardPosts_none (hq : (s.port port).queue = []) (hs : ∀ h ∈ s.sch, h.port ≠ port) :
    s.discardPosts port = s := by
  have hsch : (s.sch.filter fun h => h.port != port) = s.sch := List.filter_eq_self.2 fun h hm => bne_iff_ne.2 (hs h hm)
  have hany : (s.sch.any fun h => h.port == port) = false :=
    List.any_eq_false.2 fun h hm => by simpa using hs h hm
  unfold State.discardPosts
  rw [hsch]
  exact if_pos ⟨by rw [hq]; rfl, by rw [hany]; rfl⟩

/-- Posts and commands that have not started are discarded, and the port is told (R498, R499). -/
theorem State.discardPosts_some (h : (s.port port).queue ≠ [] ∨ ∃ h ∈ s.sch, h.port = port) :
    s.discardPosts port = State.setPort { s with sch := s.sch.filter fun h => h.port != port } port { s.port port with
      queue := [], discarded := true, irqStatus := (s.port port).irqStatus ||| 8 } := by
  refine if_neg ?_
  rintro ⟨hq, hs⟩
  rcases h with h | ⟨h, hm, hp⟩
  · exact h (List.isEmpty_iff.1 hq)
  · simp only [Bool.not_eq_true', List.any_eq_false] at hs
    exact hs h hm (beq_iff_eq.2 hp)

/-! ### The contexts' policies -/

section Policies

/-- A context that runs on (R500). -/
theorem State.lossPolicy_continue (h : (s.ctx c).desc.lossPolicy = 0) : s.lossPolicy c port = s := by
  simp only [State.lossPolicy, h]

theorem State.lossPolicy_pause (h : (s.ctx c).desc.lossPolicy = 1) :
    s.lossPolicy c port = s.lossPause c (codeAt Code.hxHostLost port) := by
  simp only [State.lossPolicy, h]

/-- A pause of the memory service becomes the loss's (R500). -/
theorem State.lossPause_paused {code : Word} (hst : (s.ctx c).st = .paused) (hm : (s.ctx c).step.pausedByMemory = true) :
    s.lossPause c code = (s.modStep c fun st => { st with pausedByMemory := false }).event c 2 code := if_pos ⟨hst, hm⟩

section Running

variable {code : Word} (hst : (s.ctx c).st = .running)
include hst

theorem State.lossPause_running : s.lossPause c code = if (s.ctx c).noStep then s.enterPaused c code
    else s.modStep c fun st => { st with
      pausePending := some (if st.pausedByMemory then code else st.pausePending.getD code), pausedByMemory := false } := by
  unfold State.lossPause
  simp only [hst, reduceCtorEq, false_and, if_false, ne_eq, not_true_eq_false]
  split
  · rfl
  · refine congrArg (s.modStep c) (funext fun st => ?_)
    generalize st.pausePending = pending
    cases pending with
    | none => exact congrArg (fun k => { st with pausePending := some k, pausedByMemory := false }) (ite_self code).symm
    | some k => rfl

end Running

/-- A context of port A whose command is in progress waits for it; else it moves to port B (R501). -/
theorem State.lossPolicy_handover (h : (s.ctx c).desc.lossPolicy = 2) (hsel : (s.port 1).selected ≠ 0)
    (hlost : (s.port 1).hostLost = false) :
    s.lossPolicy c 0 = if s.cmdRuns c then s.modCtx c fun y => { y with handoverDue := true } else s.handOver c := by
  simp only [State.lossPolicy, h]
  exact if_pos ⟨trivial, hsel, by rw [hlost]; rfl⟩

/-- What makes a command of the context be in progress (R29, R501). -/
theorem State.cmdRuns_iff : s.cmdRuns c = true ↔
    (s.ctx c).busy ≠ none ∨ (s.ctx c).ck.cmd ≠ none ∨ ∃ e ∈ s.resumeWaits, e.2.1 = c := by
  simp only [State.cmdRuns, Bool.or_eq_true, Option.isSome_iff_ne_none, List.any_eq_true, beq_iff_eq, or_assoc]

end Policies

/-- Two port resets, and the reference clock's stop (R437, R438, R550). -/
theorem exec_portReset_perst (hp : port < 2) : exec (.portReset ⟨port, true⟩) s = .next ((s.resetPort port).assertPerst port) :=
  exec_of_unit rfl hp (if_pos rfl)

theorem exec_portReset_hot (hp : port < 2) : exec (.portReset ⟨port, false⟩) s =
    .next ((s.resetPort port).modPort port fun p => { p with linkUp := (s.port port).linkUp }) :=
  exec_of_unit rfl hp (if_neg Bool.false_ne_true)

theorem exec_mhRefclkLost (hp : port < 2) (hpow : s.board.powered = true) : exec (.mhRefclkLost port) s =
    .next ((s.report (codeAt Code.mhRefclkLost (0x30 + port))).resetPort port) :=
  exec_of_unit rfl hp (if_pos hpow)

/-- Settles O48: the loss by its cause, and a context by its policy. (That a pause of the memory service becomes the
loss's is log 166, that commands which have not started are discarded log 72, and the list of selections that a port reset
clears log 71. HANDOVER while port B is not available, which R500 makes a PAUSE, has no clause.) -/
theorem hostLossIsActedOn : Obligations.HostLossIsActedOn := by
  unfold Obligations.HostLossIsActedOn
  refine ⟨fun s port hp => ⟨fun hrun hcfg hlost => ?beat, ?reset, fun v h1 h9 hpend => ?vector, rfl, State.discardPosts_none,
    State.discardPosts_some⟩, fun s c port => ?policy, fun x n w => Ctx.revokeAll_window⟩
  case beat => exact exec_of_unit rfl hp (if_neg (by simp [hrun, hcfg, hlost]))
  case reset =>
    intro cleared
    have hreset (u : State) : u.resetPort port = (cleared u).hostLoss port := rfl
    have hperst := exec_portReset_perst (s := s) hp
    have hhot := exec_portReset_hot (s := s) hp
    rw [hreset] at hperst hhot
    exact ⟨exec_of_unit rfl hp rfl, hperst, hhot, exec_mhRefclkLost hp⟩
  case vector =>
    have hin : (decide (port < 2) && decide (1 ≤ v) && decide (v ≤ 9)) = true := by simp [hp, h1, h9]
    have hrow : execIrqHoldoffExpiry port v s = .next (State.emit (s.setPort port { s.port port with
        irqPending := Tbl.set 0 (s.port port).irqPending v 0 }) (.msix port v)) := by
      unfold execIrqHoldoffExpiry
      rw [hin]
      exact (inRange_true _).trans (congrArg _ (if_neg hpend))
    exact hrow
  case policy =>
    intro x code
    refine ⟨State.lossPolicy_continue, fun h hst hn => ?_, fun h hst hn => ?_, fun h hst hm => ?_, fun h hsel hlost =>
      ⟨fun hb hc hw => ?_, fun hor => ?_⟩⟩
    · rw [State.lossPolicy_pause h, State.lossPause_running hst, if_pos hn]
    · rw [State.lossPolicy_pause h, State.lossPause_running hst, if_neg (Bool.eq_false_iff.1 hn)]
    · rw [State.lossPolicy_pause h, State.lossPause_paused hst hm]
    · rw [State.lossPolicy_handover h hsel hlost, if_neg (mt State.cmdRuns_iff.1 ?_)]
      rintro (h | h | ⟨e, hm, he⟩)
      · exact h hb
      · exact h hc
      · exact hw e hm he
    · rw [State.lossPolicy_handover h hsel hlost, if_pos (State.cmdRuns_iff.2 hor)]

end Sys2Proof.Machine
end

section
/-! SUPPORT. Sensors that nobody asked events of, and reports (R552). -/

namespace Sys2Proof.Machine

open Sys2Proof

variable {s : State}

theorem State.report_pw (s : State) (code : Word) (w : Where) : (s.report code w).pw = s.pw := by
  obtain ⟨_, _, _, _, h⟩ := State.report_reportsOnly s code w
  rw [h]

/-- A report moves ALERT alone of what the board holds. -/
theorem State.report_eventReceiver (s : State) (code : Word) (w : Where) :
    (s.report code w).board.eventReceiver = s.board.eventReceiver := by
  unfold State.report
  extract_lets secure l
  generalize Errors.logFrom 2 s.err l = r
  obtain ⟨er, sevs⟩ := r
  dsimp only
  rw [((State.signalPort_recordsOnly _ sevs 0).trans (State.signalPort_recordsOnly _ sevs 1)).board]

/-- Without an event receiver a crossing sends nothing (R552). -/
theorem State.sensed_silent (h : s.board.eventReceiver = none) (old : State) (id : Nat) : s.sensed old id = s := by
  unfold State.sensed State.platformEvent
  rw [h]
  exact ite_self s

theorem State.foldl_sensed_silent (h : s.board.eventReceiver = none) (old : State) (l : List Nat) :
    l.foldl (fun t i => t.sensed old i) s = s := by
  induction l with
  | nil => rfl
  | cons i l ih => rw [List.foldl_cons, State.sensed_silent h, ih]

theorem State.sensed_pw (s old : State) (id : Nat) : (s.sensed old id).pw = s.pw := by
  unfold State.sensed State.platformEvent
  split
  · split <;> rfl
  · rfl

theorem State.readTemp_tripped (s : State) (cl : Nat) (temp : Int) : (s.readTemp cl temp).pw.tripped = s.pw.tripped :=
  (congrArg Power.tripped (State.sensed_pw (s.setCluster cl { s.cluster cl with temp := temp }) s 6)).trans rfl

end Sys2Proof.Machine
end

section
/-! SUPPORT. Operating points and their ramps (R454, R455, R465). -/

namespace Sys2Proof.Machine

open Sys2Proof

variable {s : State} {cl v : Nat}

/-! ### Changes -/

/-- What a change to step `w`, whose rail voltage is `target`, makes of a cluster that switches (R455). -/
def Cluster.switched (k : Cluster) (w target : Nat) : Cluster :=
  { k with step := w, pending := none, due := false, rampTo := if k.volt = target then none else some target }

section Due

variable (hdue : (s.cluster cl).due = true) (hpend : (s.cluster cl).pending = some v)
include hdue hpend

/-- To a higher step the rail ramps first (R455). -/
theorem State.advance_ramps (h : (s.cluster cl).step < min v (s.cluster cl).limit ∧
    (s.cluster cl).volt < s.stepVolt (min v (s.cluster cl).limit)) :
    s.advance cl = s.setCluster cl { s.cluster cl with rampTo := some (s.stepVolt (min v (s.cluster cl).limit)) } := by
  simp only [State.advance, hdue, hpend]
  exact if_pos h

section Switch

variable (h : min v (s.cluster cl).limit ≤ (s.cluster cl).step ∨
  s.stepVolt (min v (s.cluster cl).limit) ≤ (s.cluster cl).volt)
include h

/-- To a lower step, or with the rail there, the frequency switches (R455). -/
theorem State.advance_switches (hs : (s.cluster cl).stretched = false) : s.advance cl =
    s.setCluster cl ((s.cluster cl).switched (min v (s.cluster cl).limit) (s.stepVolt (min v (s.cluster cl).limit))) := by
  simp only [State.advance, hdue, hpend]
  exact (if_neg (by omega)).trans (if_neg (Bool.eq_false_iff.1 hs))

/-- A switch waits while the clock is stretched (R465). -/
theorem State.advance_waits (hs : (s.cluster cl).stretched = true) : s.advance cl = s := by
  simp only [State.advance, hdue, hpend]
  exact (if_neg (by omega)).trans (if_pos hs)

end Switch

end Due

section Begins

variable (hw : Tbl.wf Cluster.reset s.pw.clusters = true) (hpend : (s.cluster cl).pending = some v)
include hw hpend

/-- A pending change becomes due, and goes on at once. -/
theorem State.beginChange_eq :
    s.beginChange cl = (s.setCluster cl { s.cluster cl with due := true }).advance cl ∧
      (s.setCluster cl { s.cluster cl with due := true }).cluster cl = { s.cluster cl with due := true } := by
  refine ⟨if_neg ?_, State.cluster_setCluster_self hw cl _⟩
  rw [hpend]
  exact Bool.false_ne_true

theorem State.beginChange_ramps (h : (s.cluster cl).step < min v (s.cluster cl).limit ∧
    (s.cluster cl).volt < s.stepVolt (min v (s.cluster cl).limit)) :
    s.beginChange cl = s.setCluster cl { s.cluster cl with
      due := true, rampTo := some (s.stepVolt (min v (s.cluster cl).limit)) } := by
  obtain ⟨heq, hk⟩ := State.beginChange_eq hw hpend
  rw [heq, State.advance_ramps (v := v) (by rw [hk]) (by rw [hk, hpend]) (by rw [hk]; exact h), hk,
    State.setCluster_setCluster hw]
  rfl

variable (h : min v (s.cluster cl).limit ≤ (s.cluster cl).step ∨
  s.stepVolt (min v (s.cluster cl).limit) ≤ (s.cluster cl).volt)
include h

theorem State.beginChange_switches (hs : (s.cluster cl).stretched = false) : s.beginChange cl =
    s.setCluster cl ((s.cluster cl).switched (min v (s.cluster cl).limit) (s.stepVolt (min v (s.cluster cl).limit))) := by
  obtain ⟨heq, hk⟩ := State.beginChange_eq hw hpend
  rw [heq, State.advance_switches (v := v) (by rw [hk]) (by rw [hk, hpend]) (by rw [hk]; exact h) (by rw [hk, hs]), hk,
    State.setCluster_setCluster hw]
  rfl

theorem State.beginChange_waits (hs : (s.cluster cl).stretched = true) :
    s.beginChange cl = s.setCluster cl { s.cluster cl with due := true } := by
  obtain ⟨heq, hk⟩ := State.beginChange_eq hw hpend
  rw [heq, State.advance_waits (v := v) (by rw [hk]) (by rw [hk, hpend]) (by rw [hk]; exact h) (by rw [hk, hs])]

end Begins

/-! ### The rail's voltage -/

/-- The ramp's rail moves a millivolt, up or, unless the clock is stretched, down (R455, R465). -/
theorem Cluster.ramp_moves {k : Cluster} {t : Nat} (h : k.rampTo = some t) :
    (k.volt < t → k.ramp.volt = k.volt + 1) ∧ (t < k.volt → k.stretched = false → k.ramp.volt = k.volt - 1) ∧
      (t < k.volt → k.stretched = true → k.ramp = k) := by
  simp only [Cluster.ramp, h]
  refine ⟨fun hlt => by rw [if_pos hlt], fun hlt hs => ?_, fun hlt hs => ?_⟩
  · rw [if_neg (by omega), if_neg (Bool.eq_false_iff.1 hs)]
  · rw [if_neg (by omega), if_pos hs]

/-- The steps' frequencies and nominal voltages (R454). -/
theorem stepTable : ∀ n, n ≤ 15 → [stepMHz n, stepNominal n] ∈ [[400, 620], [436, 632], [472, 644], [508, 656], [544, 668],
    [580, 680], [616, 692], [652, 704], [688, 716], [724, 728], [760, 740], [796, 752], [832, 764], [868, 776], [904, 788],
    [940, 800]] := by decide

/-- No voltage exceeds the clamp, and none is further from nominal than a trim may be (R454, R456). -/
theorem Fuses.stepVolt_bounds (f : Fuses) (uni : Bool) (n : Nat) : f.stepVolt uni n ≤ 840 ∧
    (n ≤ 15 → f.stepVolt true n = stepNominal n) ∧ f.stepVolt uni n ≤ stepNominal n + 40 ∧
      (n ≤ 15 → stepNominal n ≤ f.stepVolt uni n + 40) := by
  simp only [Fuses.stepVolt, clampVolt, stepNominal, if_true]
  cases uni with
  | true =>
    simp only [if_true]
    omega
  | false =>
    simp only [Bool.false_eq_true, if_false]
    omega

end Sys2Proof.Machine
end

section
/-! SUPPORT. The meter, droop, heat, and O51 (R454, R455, R458–R465). -/

namespace Sys2Proof.Machine

open Sys2Proof

variable {s : State}

/-! ### The meter (R458) -/

/-- What PWC keeps of a sample besides the limiter's gate. -/
def Power.taken (p : Power) (cap watts : Nat) : Power :=
  let q := { p with
    samples := (watts :: p.samples).take 2000
    diffs := ((((watts * 1000 : Nat) : Int) - (p.predicted : Int)) :: p.diffs).take 2000 }
  { q with okSamples := if q.exceeds cap then 0 else p.okSamples + 1 }

section Meter

variable {r : MeterReading} (hquiet : s.board.eventReceiver = none)
include hquiet

/-- A sample within 2,150 W, or while the limiter's gate is held, only enters the mean. -/
theorem State.meter_calm (h : r.watts ≤ 2150 ∨ s.pw.excursion = true) :
    s.meter r = { s with board := s.board.take r, pw := s.pw.taken s.effCap r.watts } := by
  have hgate : (s.pw.excursion || decide (2150 < r.watts)) = s.pw.excursion := by
    rcases h with h | h
    · rw [decide_eq_false (Nat.not_lt.2 h), Bool.or_false]
    · rw [h, Bool.true_or]
  have hno : ¬(2150 < r.watts ∧ (!s.pw.excursion) = true) := by
    rintro ⟨hlt, hex⟩
    rcases h with h | h
    · omega
    · simp [h] at hex
  unfold State.meter
  simp only [hgate, hno, if_false]
  rw [State.foldl_sensed_silent]
  · rfl
  · exact hquiet

/-- A sample above 2,150 W is reported, and the limiter's gate is held. -/
theorem State.meter_excursion (h : 2150 < r.watts) (hex : s.pw.excursion = false) :
    s.meter r = State.report { s with
      board := s.board.take r, pw := { s.pw.taken s.effCap r.watts with excursion := true } } (codeAt Code.pwExcursion 0xFF) := by
  unfold State.meter
  simp only [hex, h, Bool.not_false, Bool.false_or, decide_true, true_and, if_true]
  rw [State.foldl_sensed_silent]
  · rfl
  · exact (State.report_eventReceiver ..).trans hquiet

end Meter

/-! ### Droop (R463) -/

/-- What a monitor makes of a clock stretch of a cluster. -/
def Monitor.stretch (m : Monitor) (cl : Nat) : Monitor :=
  if flag m.cfg 31 = true ∧ fld m.cfg 0 8 = 9 ∧ fld m.cfg 8 8 = cl then { m with stretches := m.stretches + 1 } else m

/-- One monitor's part of a clock stretch. -/
def State.noteAt (cl : Nat) (s : State) (i : Nat) : State :=
  if flag (s.monitor i).cfg 31 = true ∧ fld (s.monitor i).cfg 0 8 = 9 ∧ fld (s.monitor i).cfg 8 8 = cl then
    s.setMonitor i { s.monitor i with stretches := (s.monitor i).stretches + 1 }
  else s

theorem State.noteStretch_eq (s : State) (cl : Nat) : s.noteStretch cl = (List.range 16).foldl (State.noteAt cl) s := rfl

theorem State.noteAt_wf (hw : Tbl.wf Monitor.reset s.err.monitors = true) (cl i : Nat) :
    Tbl.wf Monitor.reset (s.noteAt cl i).err.monitors = true := by
  unfold State.noteAt
  split
  · exact Tbl.set_wf hw i _
  · exact hw

theorem State.noteAt_monitor (hw : Tbl.wf Monitor.reset s.err.monitors = true) (cl i j : Nat) :
    (s.noteAt cl i).monitor j = if j = i then (s.monitor j).stretch cl else s.monitor j := by
  unfold State.noteAt Monitor.stretch
  split
  · next h =>
    refine (Tbl.get_set hw i _ j).trans ?_
    by_cases hj : j = i
    · rw [hj, if_pos rfl, if_pos rfl, if_pos h]
    · rw [if_neg hj, if_neg hj]
      rfl
  · next h =>
    by_cases hj : j = i
    · rw [hj, if_pos rfl, if_neg h]
    · rw [if_neg hj]

/-- Each monitor is asked once. -/
theorem State.foldl_noteAt_monitor (hw : Tbl.wf Monitor.reset s.err.monitors = true) (cl j : Nat) {l : List Nat}
    (hl : l.Nodup) : (l.foldl (State.noteAt cl) s).monitor j = if j ∈ l then (s.monitor j).stretch cl else s.monitor j := by
  induction l generalizing s with
  | nil => rfl
  | cons i l ih =>
    obtain ⟨hi, hl⟩ := List.nodup_cons.1 hl
    rw [List.foldl_cons, ih (State.noteAt_wf hw cl i) hl, State.noteAt_monitor hw]
    by_cases hj : j = i
    · rw [hj, if_neg hi, if_pos rfl, if_pos List.mem_cons_self]
    · simp only [hj, if_false, List.mem_cons, false_or]

theorem State.noteStretch_monitor {cl i : Nat} (hi : i < 16) (hw : Tbl.wf Monitor.reset s.err.monitors = true) :
    (s.noteStretch cl).monitor i = (s.monitor i).stretch cl := by
  rw [State.noteStretch_eq, State.foldl_noteAt_monitor hw cl i List.nodup_range, if_pos (List.mem_range.2 hi)]

/-! ### Heat (R464) -/

theorem le_junction (r : Readings) : ∀ x ∈ [r.die0, r.die1, r.die2, r.die3, r.lid], x ≤ junction r := by
  simp only [List.mem_cons, List.not_mem_nil, or_false, forall_eq_or_imp, forall_eq, junction]
  omega

section Throttle

variable {cl : Nat} {temp : Int} (htrip : s.pw.tripped = false)
include htrip

theorem State.throttleTick_trips (h : 115 * 16 ≤ temp) : s.throttleTick cl temp = (s.readTemp cl temp).thermTrip cl :=
  if_pos ⟨h, by rw [htrip]; rfl⟩

/-- Below 115 °C the thermal limits go one tick on, and a throttle that begins is reported. -/
theorem State.throttleTick_goes (h : temp < 115 * 16) :
    let t := s.readTemp cl temp
    let k := (t.cluster cl).throttle temp
    s.throttleTick cl temp = if k.throttled && !(t.cluster cl).throttled then
      (t.setCluster cl k).report (codeAt Code.pwThrottle cl) else t.setCluster cl k := by
  intro t k
  have htrip' : t.pw.tripped = false := (State.readTemp_tripped ..).trans htrip
  have hlow : ¬(115 * 16 ≤ temp ∧ (!s.pw.tripped) = true) := fun hh => by omega
  unfold State.throttleTick
  rw [if_neg hlow]
  dsimp only
  split
  · exact if_neg (by rw [State.report_pw]; exact Bool.eq_false_iff.1 htrip')
  · exact if_neg (Bool.eq_false_iff.1 htrip')

end Throttle

theorem Cluster.throttle_hot {k : Cluster} {temp : Int} (h : 100 * 16 ≤ temp) :
    (k.throttle temp).limit = k.limit - 1 ∧ (k.throttle temp).throttled = true := by
  unfold Cluster.throttle
  rw [if_pos h]
  refine ⟨?_, rfl⟩
  by_cases hk : 0 < k.limit
  · simp only [hk, if_true]
  · simp only [hk, if_false]
    omega

theorem Cluster.throttle_cool {k : Cluster} {temp : Int} (h : temp < 97 * 16) (hg : k.gate = 16) :
    (k.throttle temp).limit = min 15 (k.limit + 1) := by
  unfold Cluster.throttle
  rw [if_neg (by omega), if_pos h]
  simp only [hg, Nat.lt_irrefl, if_false]

theorem Cluster.throttle_between {k : Cluster} {temp : Int} (h97 : 97 * 16 ≤ temp) (h100 : temp < 100 * 16) :
    k.throttle temp = k :=
  (if_neg (by omega)).trans (if_neg (by omega))

/-! ### Hot stacks (R464) -/

theorem keyRemoveRun_one (k : Nat) (l : List Nat) : keyRemoveRun k 1 l = l.filter (· != k) := by
  refine List.filter_congr fun a _ => ?_
  rw [Bool.eq_iff_iff]
  simp only [Bool.not_eq_true', Bool.and_eq_false_iff, decide_eq_false_iff_not, bne_iff_ne]
  omega

section Stacks

variable {n : Nat} {temp : Int} (hquiet : s.board.eventReceiver = none) (htrip : s.pw.tripped = false)
include hquiet htrip

/-- A stack that becomes hot is reported (R464). -/
theorem State.stackTemp_enters (h : 95 * 16 ≤ temp) (hn : n ∉ s.pw.hotStacks) :
    s.stackTemp n temp = State.report { s with pw := { s.pw with
      hotStacks := keyInsert n s.pw.hotStacks, stackTemps := Tbl.set 0 s.pw.stackTemps n temp } }
        (codeAt Code.pwHbmHot (0x20 + n)) := by
  have henter : (decide (95 * 16 ≤ temp) && !s.pw.hotStacks.contains n) = true :=
    Bool.and_eq_true_iff.2 ⟨decide_eq_true h, by simp [hn]⟩
  unfold State.stackTemp
  simp only [henter, if_true]
  rw [State.sensed_silent, State.report_pw]
  · exact if_neg (Bool.eq_false_iff.1 htrip)
  · exact hquiet

/-- One that does not enter only has its temperature kept, and leaves below 90 °C. -/
theorem State.stackTemp_stays (h : temp < 95 * 16 ∨ n ∈ s.pw.hotStacks) :
    s.stackTemp n temp = { s with pw := { s.pw with
      hotStacks := if temp < 90 * 16 then s.pw.hotStacks.filter (· != n) else s.pw.hotStacks
      stackTemps := Tbl.set 0 s.pw.stackTemps n temp } } := by
  have henter : (decide (95 * 16 ≤ temp) && !s.pw.hotStacks.contains n) = false := by
    rcases h with h | h
    · rw [decide_eq_false (not_le.2 h), Bool.false_and]
    · simp [h]
  unfold State.stackTemp
  simp only [henter, Bool.false_eq_true, if_false, keyRemoveRun_one]
  rw [State.sensed_silent]
  · exact if_neg (Bool.eq_false_iff.1 htrip)
  · exact hquiet

end Stacks

/-! ### The obligation -/

/-- PWC takes the oldest phase id that a core has sent, and chooses (R459). -/
theorem exec_phaseReceived_chooses {p : Nat} {b : Byte} (hrun : s.pwcRuns = true) (hp : p < 192)
    (hsent : (s.core p).phaseSent.head? = some b.toNat) :
    let t := s.modCore p fun k => { k with phaseSent := k.phaseSent.drop 1 }
    exec (.phaseReceived p b) s = .next (State.chooseAll { t with
      pw := { t.pw with phases := Tbl.set 255 t.pw.phases p b.toNat } } false) :=
  exec_of_unit rfl hp (if_neg (by simp [hrun, hsent]))

/-- A cluster's change waits for PWC's clamp, and for its rail (R441, R455). -/
theorem State.pointChange_waits {cl : Nat} (h : s.pw.clamp = true ∨ s.pw.clustersOn = false) : s.pointChange cl = s :=
  if_pos (h.imp_right fun h => by rw [h]; rfl)

theorem State.pointChange_begins {cl : Nat} (hclamp : s.pw.clamp = false) (hon : s.pw.clustersOn = true) :
    s.pointChange cl = s.beginChange cl := if_neg (by simp [hclamp, hon])

/-- A cluster's throttle tick with power: its lid slice's reading is kept, and the junction's is acted on. -/
theorem exec_throttleTick {cl : Nat} (r : Readings) (hcl : cl < 16) (hp : s.board.powered = true) :
    exec (.throttleTick cl r) s =
      .next ((s.setCluster cl { s.cluster cl with lidTemp := r.lid }).throttleTick cl (junction r)) :=
  exec_of_unit rfl hcl (if_pos hp)

theorem exec_pwHbmHot {n : Nat} (temp : Int) (hn : n < 8) (hp : s.board.powered = true) :
    exec (.pwHbmHot n temp) s = .next (s.stackTemp n temp) := exec_of_unit rfl hn (if_pos hp)

/-- Settles O51: the choices, a change by its direction, the table, the meter, droop, throttle, and hot stacks. (The end
of an excursion's report is log 110, the choice's predictions log 61, and the ramps' ticks log 164.) -/
theorem powerIsControlled : Obligations.PowerIsControlled := by
  unfold Obligations.PowerIsControlled
  refine ⟨fun s p b hrun => ⟨exec_phaseReceived_chooses hrun, congrArg _ (if_pos hrun)⟩, fun s cl v hcl hw hpend => ?change,
    fun k t => Cluster.ramp_moves, stepTable, Fuses.stepVolt_bounds, fun s r hp hquiet => ?meter, fun s => rfl,
    fun s cl hcl => ?droop, fun s cl r hcl hp htrip => ?tick,
    fun k temp => ⟨Cluster.throttle_hot, Cluster.throttle_cool, Cluster.throttle_between⟩,
    fun s n temp hn hp hquiet htrip => ?stack⟩
  case change =>
    intro k w target switched
    refine ⟨fun hclamp hon => ?_, fun hdue hs h => State.advance_switches hdue hpend h hs,
      fun h => exec_of_unit rfl hcl (State.pointChange_waits h)⟩
    have hrow {t : State} (h : s.beginChange cl = t) : exec (.operatingPointChange cl) s = .next t :=
      exec_of_unit rfl hcl ((State.pointChange_begins hclamp hon).trans h)
    exact ⟨fun hstep hvolt => hrow (State.beginChange_ramps hw hpend ⟨hstep, hvolt⟩),
      fun h hs => hrow (State.beginChange_switches hw hpend h hs), fun h hs => hrow (State.beginChange_waits hw hpend h hs)⟩
  case meter =>
    intro p ok
    exact ⟨fun h => congrArg Host.Outcome.next ((if_pos hp).trans (State.meter_calm hquiet h)),
      fun h hex => congrArg Host.Outcome.next ((if_pos hp).trans (State.meter_excursion hquiet h hex))⟩
  case droop =>
    exact ⟨fun hs hon => exec_of_unit rfl hcl (if_neg (by simp [hs, hon])), fun hs => exec_of_unit rfl hcl (if_pos (.inl hs)),
      exec_of_unit rfl hcl rfl, fun i hi hw => State.noteStretch_monitor hi hw⟩
  case tick =>
    have hrow := exec_throttleTick r hcl hp
    have htrip' : (s.setCluster cl { s.cluster cl with lidTemp := r.lid }).pw.tripped = false := htrip
    generalize s.setCluster cl { s.cluster cl with lidTemp := r.lid } = u at hrow htrip' ⊢
    intro temp t k
    have hgo (h : temp < 115 * 16) {v : State} (hv : (if k.throttled && !(t.cluster cl).throttled then
        (t.setCluster cl k).report (codeAt Code.pwThrottle cl) else t.setCluster cl k) = v) :
        exec (.throttleTick cl r) s = .next v := hrow.trans (congrArg _ ((State.throttleTick_goes htrip' h).trans hv))
    refine ⟨le_junction r, fun h => hrow.trans (congrArg _ (State.throttleTick_trips htrip' h)), fun h hk => ?_, fun h hk ht => ?_⟩
    · exact hgo h (if_neg (by rcases hk with hk | hk <;> simp [hk]))
    · exact hgo h (if_pos (Bool.and_eq_true_iff.2 ⟨hk, by rw [ht]; rfl⟩))
  case stack =>
    intro hot temps
    have hrow := exec_pwHbmHot temp hn hp
    refine ⟨fun h hm => hrow.trans (congrArg _ (State.stackTemp_enters hquiet htrip h hm)), fun h hm => ?_, fun h90 h95 => ?_,
      fun h => ?_⟩
    · rw [hrow, State.stackTemp_stays hquiet htrip (.inr hm), if_neg (by omega)]
    · rw [hrow, State.stackTemp_stays hquiet htrip (.inl h95), if_neg (by omega)]
    · rw [hrow, State.stackTemp_stays hquiet htrip (.inl (by omega)), if_pos h]

end Sys2Proof.Machine
end
